-- ==== Sys2Proof/Word.lean ====
section
/-!
DEFINITION. The word types of the LK1024: a register of BAR0 is 32 bits wide (R456), a bundle and a sequencer word are 64 bits wide
(R81, R106), a ring descriptor is 64 bytes (R283).
-/
namespace Sys2Proof

/-- A BAR0 register (R456). -/
abbrev Word := BitVec 32

/-- One byte of a memory, little-endian in every wider item (R10). -/
abbrev Byte := BitVec 8

/-- A Phitex bundle (R81) or a sequencer word (R106). -/
abbrev Bundle := BitVec 64

/-- A 64-byte ring descriptor (R283). -/
abbrev Desc := BitVec 512

end Sys2Proof
end

