-- ==== Sys2Proof/Syntax.lean ====
section
/-!
DEFINITION. The commands of the LK1024 block: one constructor of `Instr` for each row of spec/opcode_table.json, with its operands.
An operand is what comes from outside: a value the host writes, data read from host memory, the level of a pin, an analog reading,
an outcome of a self-test. Whatever the block itself holds is read from the state.
-/
namespace Sys2Proof

/-- The parts covered (R1, R3). -/
inductive Part where
  | lk1024
  | lk0512
  deriving DecidableEq, Repr

/-- The strap balls of R481, sampled at reset release (R482). -/
structure Straps where
  syncDly : BitVec 3
  szlEn   : BitVec 4
  smbAddr : BitVec 2
  jtagEn  : Bool
  deriving DecidableEq, Repr

/-- The four VALUE words of an almanac entry (R405). -/
structure AlmVal where
  v0 : Word
  v1 : Word
  v2 : Word
  v3 : Word
  deriving DecidableEq, Repr

/-- What FUSE_LOAD reads from the fuses (R463, R407). `factory` gives the FACTORY values of almanac entries by entry number. -/
structure FuseSet where
  part    : Part
  minor   : BitVec 4
  major   : BitVec 4
  fuseVer : BitVec 8
  serial  : BitVec 64
  factory : List (Nat × AlmVal)
  deriving DecidableEq, Repr

/-- A unit that self-test judges (R443, R444). `core` stands for the units whose failure alone fails bring-up. -/
inductive TestUnit where
  | core
  | timePort
  | region (r : Nat)
  | block (r b : Nat)
  | cell (r b c : Nat)
  | dac (r i : Nat)
  | adc (r j : Nat)
  | bb (r b m : Nat)
  deriving DecidableEq, Repr

/-- A calibration result: an almanac entry's number, the measured values, whether the checks that need an analog judgement passed, and for an ADC macro the values of its 16 slices
(R403). -/
structure CalMeas where
  entry  : Nat
  val    : AlmVal
  ok     : Bool
  slices : List AlmVal
  deriving DecidableEq, Repr

/-- What a receiver hears while a port trains (R363). `locked`: physical lanes with CDR lock; `ts1` and `ts2`: the training sets TS1 and TS2 by physical lane, as received;
`ams`: the line bits of the first alignment marker by physical lane; `link`: the line bits of the six units of the first flit. -/
structure PortTrain where
  heard  : Bool
  locked : BitVec 6
  ts1    : List (BitVec 192)
  ts2    : List (BitVec 192)
  ams    : List (List Bool)
  link   : List (List Bool)
  deriving DecidableEq, Repr

/-- The answer of the host to a descriptor read (R268, R274). -/
inductive Fetch where
  | entry (d : Desc)
  | failed
  deriving DecidableEq, Repr

/-- An output that owns timed-release queues (R40): an RF DAC of a region, a baseband DAC of a block, a vector pin of a region. -/
inductive OutUnit where
  | dac (r i : Nat)
  | bb (r b m : Nat)
  | vec (r w : Nat)
  deriving DecidableEq, Repr

/-- The arbiters of R331. -/
inductive Arb where
  | block (r b : Nat)
  | region (r : Nat)
  | chip (lane : Nat)
  deriving DecidableEq, Repr

/-- An arbiter in one of its clock cycles, counted from tick 0 (R331). -/
structure ArbCycle where
  arb   : Arb
  cycle : Nat
  deriving DecidableEq, Repr

/-- The requesters of the HBM controller (R313). -/
inductive HbmReq where
  | refill (r b : Nat)
  | acq (ch : Nat)
  | gatherer (r : Nat)
  | resultDma
  | root
  | bar4
  | scrubber
  deriving DecidableEq, Repr

/-- One ADC sample: a 12-bit code and its OVR flag (R155). -/
structure AdcCode where
  code : BitVec 12
  ovr  : Bool
  deriving DecidableEq, Repr

/-- The pins that the boundary-scan register covers, one level each (R484): VEC, TRIG_IN, PPS_IN, TRIG_OUT, PPS_OUT, VID and VR_ACK of R479, the 15 pins of R481, SYNC_IN and SYNC_OUT.
(log 122 DEDUCED) -/
def bsrLen : Nat := 64 + 4 + 1 + 4 + 1 + 24 + 4 + 15 + 2

/-- The commands, in the order of the table. -/
inductive Instr where
  -- reset, bring-up and power (R431, R437-R445)
  | powerOn (st : Straps)
  | pwrOkLow (st : Straps)
  | perst (st : Straps)
  | chipReset (be : BitVec 4) (val : Word) (st : Straps)
  | flr
  | powerGood (railsOk inTime : Bool)
  | refLock (pllOk inTime : Bool)
  | syncListenEnd (allLow : Bool)
  | syncFrameRx (e : BitVec 64) (crc : BitVec 8) (marker : Bool)
  | syncFrameTx
  | fuseLoad (fuses : FuseSet) (ok inTime : Bool)
  | selfTest (failed : List TestUnit) (inTime : Bool)
  | jtagEnRelease
  | analogCal (therm : List (Nat × Nat × Int)) (res : List CalMeas) (inTime : Bool)
  | hbmTrain (ok inTime : Bool) (res : List CalMeas)
  | laneTrain (ports : List PortTrain) (inTime : Bool)
  | service (ms : Nat) (inTime : Bool)
  | d3hotEntry
  | d0Return
  -- host commands (R284-R291, R411)
  | loadSegment (n : Nat) (data : Option (List Byte))
  | loadConfig (n : Nat) (data : Option (List Byte))
  | loadConfigProfile (n : Nat) (data : Option (List Byte))
  | commit (n : Nat)
  | commitCheckOnly (n : Nat)
  | commitComplete
  | run (n : Nat)
  | stop (n : Nat)
  | stopCut (n : Nat)
  | armCapture (n : Nat)
  | postSpool (n : Nat) (entries : List Fetch)
  | calibrateMon (n : Nat)
  | calibrateHbm (n : Nat)
  | calibrateColl (n : Nat)
  | calibrateMis (n : Nat)
  | adcFull (n : Nat)
  | dacFull (n : Nat)
  | bbFull (n : Nat)
  | foregroundCalEnd (n : Nat) (res : List CalMeas)
  | almWrite (n : Nat) (data : Option (List Byte))
  | almBackup (n : Nat)
  | query (n : Nat)
  | queryDrainSnapshot (n : Nat)
  | fence (n : Nat)
  | fenceTimeout (n : Nat)
  | lockRelease (n : Nat)
  -- rings (R272-R303)
  | descriptorFetch (n : Nat) (e : Fetch)
  | phaseRetry (n : Nat) (e : Fetch)
  | doorbell (n off len : Nat) (val : Option (BitVec 64))
  | ringEnable (n : Nat) (be : BitVec 4) (val : Word)
  | resume (n : Nat)
  | completionWrite (n : Nat)
  | writeBack (n : Nat)
  | ringInterrupt (n : Nat)
  | eventWrite
  | resultDelivery
  | streamRecord (n : Nat) (rec : Option (List Byte))
  | bar4Access (addr : Nat) (write : Bool) (data : List Byte)
  -- registers (R454-R464)
  | registerWrite (off len : Nat) (be : BitVec 8) (val : BitVec 64)
  | registerReadClear (off len : Nat)
  | captureRead (off len : Nat)
  | unoccupiedAccess (off : Nat) (write : Bool)
  | quarReq (g : Nat)
  | hostEv (g : Nat)
  | celFrameWrite (g : Nat) (x z : Bool)
  | park (r : Nat)
  | unpark (r : Nat)
  | reinitDone (r : Nat) (failed : List TestUnit)
  | chipUnpark
  | chipFault (cause : Nat)
  -- shots, drains, swap (R256-R264)
  | shotBegin
  | shotFirstStamp (r : Nat)
  | drainStart (r : Nat)
  | ledgerCheck (r : Option Nat)
  | drainGather (r : Nat)
  | frameDrainApply (r : Nat)
  | swap (r : Option Nat)
  | drainPostSwap (r : Nat)
  | copybackEnd
  | drainEnd (r : Nat)
  -- lead loop, regulators, handshakes (R46-R54, R428, R429)
  | leadLoopUpdate (r : Nat)
  | vrAck (p : Nat)
  | vrTimeout (p : Nat)
  | handshakeRequest (book unit : Nat)
  | handshakeAck (book unit : Nat)
  -- sequencer instructions of cell g (R109, R132, R174, R191, R195)
  | seqNop (g : Nat)
  | seqPlay (g : Nat)
  | seqGap (g : Nat)
  | seqMeasure (g : Nat)
  | seqWait (g : Nat)
  | seqJmp (g : Nat)
  | seqLoop (g : Nat)
  | seqEndl (g : Nat)
  | seqSignal (g : Nat)
  | seqPrefetch (g : Nat)
  | seqEnd (g : Nat)
  | seqSetf (g : Nat)
  | seqSetp (g : Nat)
  | seqAddp (g : Nat)
  | seqSeta (g : Nat)
  | seqLock (g : Nat)
  | seqUnlock (g : Nat)
  | seqMtag (g : Nat)
  | seqSround (g : Nat)
  | seqFrame (g : Nat)
  -- rendering, release, branching (R40-R45, R100-R123, R495)
  | stageLineArrival (g segid line : Nat)
  | underrun (g : Nat)
  | queueEntryArrival (g : Nat)
  | markerArrival (g : Nat)
  | laneRelease (u : OutUnit)
  | exitSelect (g : Nat)
  | waitHolds (g : Nat)
  | waitExpiry (g : Nat)
  | signalPost (g : Nat)
  | discriminatorLatch (g : Nat)
  | watchSlotFill (g x : Nat)
  | compareRunPost (v : Nat)
  | trigInEdge (x : Nat) (level : Bool) (k : Nat)
  | trigOutStart (x : Nat)
  | trigOutEnd (x : Nat)
  | decisionFlitSend (p : Nat)
  | decisionFlitDeliver (p : Nat)
  | frameWriteTick (g : Nat)
  -- syndrome engine (R195-R204)
  | roundOpen (r : Nat)
  | roundClose (r : Nat)
  | defectForm (r : Nat)
  | defectImport (p r : Nat)
  | importDeadline (r : Nat)
  | groupLookup (r : Nat)
  | toggleSend (r : Nat)
  -- acquisition and monitor (R210-R234)
  | arm (ch : Nat)
  | disarm (ch : Nat)
  | softTrig (ch : Nat)
  | rateReset (ch : Nat)
  | acqTrigger (ch : Nat)
  | autoTimeout (ch : Nat)
  | plateClose (ch : Nat)
  | acqReady (ch : Nat)
  | rateCheck (ch : Nat)
  | loss (ch : Nat)
  | plateSpooled (ch : Nat)
  | monEntryConvert (codes : List (BitVec 12))
  | monSelfCal (offset gain : Int)
  -- HBM controller (R306-R329)
  | hbmRequest (q : HbmReq) (addr len : Nat) (write : Bool) (data : List Byte)
  | hbmAccessIssue (pc : Nat) (corr ue : Bool)
  | hbmRefresh (pc bank : Nat)
  | scrub (corr ue : Bool)
  | retrainPause (pc : Nat)
  | retrainApply (val : AlmVal) (eye : Nat)
  | hbmRateChange (rate : Bool)
  | rateChangeDone (okNew okOld : Bool) (res : List CalMeas)
  | hbmMappingWrite (off : Nat) (be : BitVec 4) (val : Word)
  | standby (be : BitVec 4) (val : Word)
  | autoSrEntry
  | srHeldRequest (q : HbmReq) (addr len : Nat) (write : Bool) (data : List Byte)
  | srExitDone
  -- arbiters (R331-R341)
  | arbGrant (a : Arb) (n : Nat) (reqs : List (Nat × Option Nat))
  | burstExpiry (q : ArbCycle)
  | starve (a : Arb) (x n : Nat)
  | arbWatchdog (q : ArbCycle)
  | priorityWrite (r b : Nat) (reg : Nat) (be : BitVec 4) (val : Word)
  -- Sorzil link (R348-R373)
  | flitSend (p : Nat)
  | sendLate (p v : Nat)
  | flitAccept (p : Nat) (units : List (List Bool))
  | replay (p : Nat)
  | linkFlitRx (p : Nat) (units : List (List Bool))
  | timeFlitRx (p : Nat) (units : List (List Bool)) (arrival : Nat)
  | alignmentMarker (p l : Nat) (bits : List Bool)
  | portTraining (p : Nat) (tr : PortTrain)
  | laneFail (p l : Nat) (cause : Nat)
  | recoveryEnd (p : Nat) (tr : PortTrain)
  | portRetry (p : Nat)
  | retrain (p : Nat)
  | down (p : Nat)
  | eqUpdate (p l : Nat) (est : List Int) (eyeH eyeW : Nat)
  -- time port (R377-R390)
  | tptCorr (be : BitVec 4) (e : Word)
  | accept
  | set
  | driftTick
  | txFrame (frame : Option (List Byte)) (quarter : Nat)
  | rxFrame (frame : List Byte) (fcsOk : Bool) (quarter : Nat)
  | ppsIn (ns : Nat)
  -- calibration loops and almanac (R394-R410)
  | collMeasure (r k : Nat) (track : Int)
  | collStep (r : Nat)
  | misUpdate (r j : Nat)
  -- thermal (R416-R427)
  | sensorWindow (counts : List Nat)
  | graceExpiry (z : Nat)
  | thmMaskWrite (i : Nat) (be : BitVec 4) (val : Word)
  | thermalRestart (railsPresent : Bool) (st : Straps)
  -- Phitex engine of cell g (R82-R87)
  | eventTake (g : Nat)
  | phxNopa (g : Nat)
  | phxVmov (g : Nat)
  | phxVadd (g : Nat)
  | phxVsub (g : Nat)
  | phxVcmul (g : Nat)
  | phxVconj (g : Nat)
  | phxValn (g : Nat)
  | phxVbcst (g : Nat)
  | phxMacz (g : Nat)
  | phxMac (g : Nat)
  | phxMacc (g : Nat)
  | phxMsub (g : Nat)
  | phxMova (g : Nat)
  | phxNop (g : Nat)
  | phxAdd (g : Nat)
  | phxSub (g : Nat)
  | phxAnd (g : Nat)
  | phxOr (g : Nat)
  | phxXor (g : Nat)
  | phxShl (g : Nat)
  | phxShr (g : Nat)
  | phxSar (g : Nat)
  | phxMul (g : Nat)
  | phxLi (g : Nat)
  | phxLui (g : Nat)
  | phxAddi (g : Nat)
  | phxLd (g : Nat)
  | phxSt (g : Nat)
  | phxLdv (g : Nat)
  | phxStv (g : Nat)
  | phxMovp (g : Nat)
  | phxMovm (g : Nat)
  | phxSetl (g : Nat)
  | phxVget (g : Nat)
  | phxVput (g : Nat)
  | phxIn (g : Nat)
  | phxOut (g : Nat)
  | phxOuta (g : Nat)
  | phxJmp (g : Nat)
  | phxBr (g : Nat)
  | phxLoop (g : Nat)
  | phxWaite (g : Nat)
  | phxRete (g : Nat)
  | phxHalt (g : Nat)
  | phxMovxRead (g : Nat)
  | phxMovxWrite (g : Nat)
  -- JTAG and SMBus, the commands with operands (R484-R486)
  | jtagSamplePreload (pins load : List Bool)
  | smbSensorTemp (s : Nat)
  -- sampling and further rows of the table
  | adcSample (r j : Nat) (a b : List AdcCode)
  | vectorStrobe (v : Nat) (mv : Nat)
  | timeLinkChange (up : Bool)
  | blockFault (r b : Nat)
  | regionFault (r : Nat)
  -- commands without operands stand last
  | almanacBackup
  | txtsPop
  | ppsOut
  | srEntryDone
  | standbyRetry
  | retrainPauseEnd
  | ppsPulseEnd
  | jtagBypass (code : BitVec 8)
  | jtagIdcode
  | jtagExtest (pins : List Bool) (load : Option (List Bool))
  | jtagClamp
  | jtagHighz
  | smbStatus
  | smbMaxTemp
  | smbMaxSensor
  | smbShutdowns
  | smbResetCause
  | smbPart
  deriving DecidableEq, Repr

end Sys2Proof
end

