-- ==== Sys2Proof/Decode.lean ====
section
/-!
DEFINITION. The words of the opcode table: no row of spec/opcode_table.json gives bits, so no word spells a command.
-/
namespace Sys2Proof

/-- The command that a word of `nbits` bits spells. The rows of the table have no bits (a command is an operation of the host, of a pin or of the block
itself), so no word spells one. (log 1 DESIGN CHOICE) -/
def decodeTableWord (_nbits _w : Nat) : Option Instr := none

end Sys2Proof
end

