-- ==== Sys2Proof/Config.lean ====
section
/-!
DEFINITION. What an implementation fixes and the spec leaves open: constants without a body, so that no proof can see a value.
Each is named in the assumption log.
-/
namespace Sys2Proof

/-- R497: the ×8 interpolator of an RF DAC. Its coefficients are left open; it is deterministic, so its output is a function of the
combined stream (newest sample first). The answer lists the exact I and Q values, in Q1.15, of the 24 DAC samples of one tick before they are narrowed. (log 12 DESIGN CHOICE) -/
opaque Config.rfInterp : List (Int × Int) → List (Int × Int)

/-- R497: the HALFBAND stage of a baseband DAC, as `Config.rfInterp`; six values a tick. (log 12 DESIGN CHOICE) -/
opaque Config.bbInterp : List Int → List Int

/-- R159: the low-pass filter and decimator of the band DDC. The spec gives its passband and its stopband and no coefficients. Its output is
a function of the mode (0 INTERLEAVED, 1 DUAL) and of the mixed samples (newest tick first); the answer lists the exact band samples of one tick. (log 14 DESIGN CHOICE) -/
opaque Config.bandFilter : Nat → List (Int × Int) → List (Int × Int)

/-- R304, R308, R325, R437: a byte of the HBM stack that nothing has written since the stack's contents were lost (`gen` counts the losses). (log 4 DESIGN CHOICE) -/
opaque Config.freeHbm : (gen : Nat) → (addr : Nat) → Byte

/-- R348: the scrambler seed a transmit lane takes from the free-running generator. (log 15 DESIGN CHOICE) -/
opaque Config.freeSeed : Nat → BitVec 31

/-- R234: do an offset and a gain of the monitor lie within its plausibility limits, which are left open? (log 102 DESIGN CHOICE) -/
opaque Config.monPlausible : Int → Int → Bool

/-- A fresh value for a number the spec leaves open; the argument is a counter of the state. (log 2 DESIGN CHOICE) -/
opaque Config.freeNat : Nat → Nat

end Sys2Proof
end

