-- ==== Sys2Proof/Machine/Bits.lean ====
section
/-!
DEFINITION. Bit fields, sign extension, saturation, byte order, and the one table type in which the state holds everything that is
indexed: memories, registers, cells, lanes, queues' owners.
-/
namespace Sys2Proof.Machine

/-- Bits `[lo + w - 1 : lo]` of `x`. -/
def bitsOf (x lo w : Nat) : Nat := x / 2 ^ lo % 2 ^ w

/-- `x` with bits `[lo + w - 1 : lo]` replaced by `v` (low `w` bits). -/
def putBits (x lo w v : Nat) : Nat := x - bitsOf x lo w * 2 ^ lo + v % 2 ^ w * 2 ^ lo

/-- Bit `i` of `x`. -/
def bitAt (x i : Nat) : Bool := x / 2 ^ i % 2 == 1

/-- A flag as a number. -/
def b2n (b : Bool) : Nat := if b then 1 else 0

/-- The signed value of the low `w` bits of `x`. -/
def sx (w x : Nat) : Int := if bitAt x (w - 1) then ((x % 2 ^ w : Nat) : Int) - ((2 ^ w : Nat) : Int) else ((x % 2 ^ w : Nat) : Int)

/-- The `w`-bit two's-complement pattern of `x`. -/
def twos (w : Nat) (x : Int) : Nat := (x % ((2 ^ w : Nat) : Int)).toNat

/-- `x` limited to `[lo, hi]`. -/
def clampI (lo hi x : Int) : Int := if x < lo then lo else if hi < x then hi else x

/-- `x` limited to `[lo, hi]`. -/
def clampN (lo hi x : Nat) : Nat := if x < lo then lo else if hi < x then hi else x

/-- Saturation to `w` bits, signed (R77). -/
def satS (w : Nat) (x : Int) : Int := clampI (-((2 ^ (w - 1) : Nat) : Int)) (((2 ^ (w - 1) : Nat) : Int) - 1) x

/-- Does saturation to `w` bits change `x`? -/
def satHits (w : Nat) (x : Int) : Bool := satS w x != x

/-- Truncation toward minus infinity by `s` low bits (R77). -/
def floorShr (x : Int) (s : Nat) : Int := x / ((2 ^ s : Nat) : Int)

/-- A saturating counter: `x + n`, at most `top`. -/
def satAdd (top x n : Nat) : Nat := min top (x + n)

/-- `ceil (a / b)` for `b > 0`. -/
def ceilDiv (a b : Nat) : Nat := (a + b - 1) / b

/-- The value of little-endian bytes (R10). -/
def fromLE : List Byte → Nat
  | [] => 0
  | b :: bs => b.toNat + 256 * fromLE bs

/-- The `n` low bytes of `x`, little-endian (R10). -/
def toLE : Nat → Nat → List Byte
  | 0, _ => []
  | n + 1, x => BitVec.ofNat 8 x :: toLE n (x / 256)

/-- `d` as a number in a `desc` field: bits `[hi:lo]` of a 64-byte descriptor. -/
def descBits (d : Desc) (lo w : Nat) : Nat := bitsOf d.toNat lo w

/-- The value a table holds at key `k`: the listed one, or the default `d k`. -/
def Tbl.get {α : Type} (d : Nat → α) : List (Nat × α) → Nat → α
  | [], k => d k
  | (j, v) :: rest, k => if j = k then v else Tbl.get d rest k

/-- The table without an entry at `k`. -/
def Tbl.erase {α : Type} : List (Nat × α) → Nat → List (Nat × α)
  | [], _ => []
  | (j, v) :: rest, k => if j = k then rest else (j, v) :: Tbl.erase rest k

/-- The table with `v` listed at `k`, keys strictly rising. -/
def Tbl.insert {α : Type} : List (Nat × α) → Nat → α → List (Nat × α)
  | [], k, v => [(k, v)]
  | (j, w) :: rest, k, v =>
    if k < j then (k, v) :: (j, w) :: rest
    else if j = k then (k, v) :: rest
    else (j, w) :: Tbl.insert rest k v

/-- The table with value `v` at key `k`, in the canonical form: keys strictly rising, no entry equal to the default of its key. -/
def Tbl.set {α : Type} [DecidableEq α] (d : Nat → α) (m : List (Nat × α)) (k : Nat) (v : α) : List (Nat × α) :=
  if v = d k then Tbl.erase m k else Tbl.insert m k v

/-- The canonical form of a table. -/
def Tbl.wf {α : Type} [DecidableEq α] (d : Nat → α) : List (Nat × α) → Bool
  | [] => true
  | (k, v) :: rest =>
    decide (v ≠ d k) && rest.all (fun e => decide (k < e.1)) && Tbl.wf d rest

/-- Numbers `a, a + 1, …, a + n - 1`. -/
def upFrom (a : Nat) : Nat → List Nat
  | 0 => []
  | n + 1 => a :: upFrom (a + 1) n

/-- `n` copies of one step. -/
def iter {α : Type} (f : α → α) : Nat → α → α
  | 0, x => x
  | n + 1, x => iter f n (f x)

/-- The least number of a list, or `d` for the empty list. -/
def minList (d : Nat) : List Nat → Nat
  | [] => d
  | [a] => a
  | a :: rest => min a (minList d rest)

/-- The largest number of a list, or `d` for the empty list. -/
def maxList (d : Nat) : List Nat → Nat
  | [] => d
  | [a] => a
  | a :: rest => max a (maxList d rest)

/-- The sum of a list of integers. -/
def sumI : List Int → Int
  | [] => 0
  | a :: rest => a + sumI rest

/-- Insertion of a number into a rising list. -/
def insertUp (a : Nat) : List Nat → List Nat
  | [] => [a]
  | b :: rest => if a ≤ b then a :: b :: rest else b :: insertUp a rest

/-- The exclusive or of a list of flags. -/
def xorAll : List Bool → Bool
  | [] => false
  | b :: rest => Bool.xor b (xorAll rest)

/-- The CRC of a list of bits, first bit first, with a `w`-bit polynomial (its low `w` bits) and a given start value, most significant bit leading. -/
def crcBits (w poly : Nat) : Nat → List Bool → Nat
  | crc, [] => crc
  | crc, b :: rest =>
    let top := Bool.xor (bitAt crc (w - 1)) b
    let sh := crc * 2 % 2 ^ w
    crcBits w poly (if top then Nat.xor sh poly % 2 ^ w else sh) rest

/-- The low `n` bits of `x`, bit 0 first. -/
def bitsUp (x : Nat) : Nat → List Bool
  | 0 => []
  | n + 1 => bitAt x 0 :: bitsUp (x / 2) n

/-- The number whose bits are these, bit 0 first. -/
def ofBits : List Bool → Nat
  | [] => 0
  | b :: rest => b2n b + 2 * ofBits rest

/-- The low `n` bits of `x`, bit `n - 1` first. -/
def bitsDown (x n : Nat) : List Bool := (bitsUp x n).reverse

/-- Bits of a byte string in the order of transmission. (log 92 PRESUMED) -/
def wireBits (f : List Byte) : List Bool := f.flatMap (fun b => bitsUp b.toNat 8)

/-- CRC-32 of IEEE 802.3 over bytes, as the number whose little-endian bytes follow the frame. (log 92 PRESUMED) -/
def crc32 (f : List Byte) : Nat :=
  let x := crcBits 32 0x04C11DB7 0xFFFFFFFF (wireBits f)
  (bitsUp (0xFFFFFFFF - x) 32).foldl (fun a b => a * 2 + b2n b) 0

end Sys2Proof.Machine
end

