-- ==== Sys2Proof/Machine/RegMap.lean ====
section
/-!
DEFINITION. The register map of BAR0 (R454, R455, R465-R468) and the fields of every register (the register tables of the chapters):
where a register lies, which fields it has, their access codes (R13) and their reset values (R14). Offsets are normal offsets (below the
shadow alias of R461).
-/
namespace Sys2Proof.Machine

/-- The access codes of R13. -/
inductive Acc where
  | rw | ro | wo | w1c | w1s | rc | sh
  deriving DecidableEq, Repr

/-- One field of one register: the register's normal offset, the field's lowest bit, its width and its access code. -/
structure Fld where
  off : Nat
  lo  : Nat
  w   : Nat
  acc : Acc
  deriving DecidableEq, Repr

/-- A field in the map: lowest bit, width, access code, reset value. -/
structure FSpec where
  lo    : Nat
  w     : Nat
  acc   : Acc
  reset : Nat
  deriving DecidableEq, Repr

/-- A register, or an array of one or two indices of it: base offset within its level, counts and strides. -/
structure RegRow where
  base   : Nat
  n1     : Nat
  s1     : Nat
  n2     : Nat
  s2     : Nat
  fields : List FSpec
  deriving DecidableEq, Repr

/-- Base of the window of region `r` (R455). -/
def rgnBase (r : Nat) : Nat := 0x1000000 + r * 0x200000
/-- Base of the window of block `b` of region `r` (R455). -/
def blkBase (r b : Nat) : Nat := rgnBase r + 0x10000 + b * 0x1000
/-- Base of the window of cell `c` of a block (R8, R455). -/
def celBaseRbc (r b c : Nat) : Nat := blkBase r b + 0x100 + c * 0x40
/-- Region of the cell with global number `g` (R6). -/
def cellR (g : Nat) : Nat := g / 288
/-- Block within its region of the cell with global number `g` (R6). -/
def cellB (g : Nat) : Nat := g % 288 / 18
/-- Number within its block of the cell with global number `g` (R6). -/
def cellC (g : Nat) : Nat := g % 18
/-- Base of the register window of cell `g` (R8). -/
def celBase (g : Nat) : Nat := celBaseRbc (cellR g) (cellB g) (cellC g)

namespace Fd

/-- `CHP_ID` (R463). -/
def CHP_ID : Nat := 0x0
def CHP_ID_PART : Fld := ⟨CHP_ID, 0, 16, .ro⟩
def CHP_ID_FAMILY : Fld := ⟨CHP_ID, 16, 16, .ro⟩
/-- `CHP_REV` (R463). -/
def CHP_REV : Nat := 0x4
def CHP_REV_MINOR : Fld := ⟨CHP_REV, 0, 4, .ro⟩
def CHP_REV_MAJOR : Fld := ⟨CHP_REV, 4, 4, .ro⟩
def CHP_REV_FUSE_VER : Fld := ⟨CHP_REV, 8, 8, .ro⟩
def CHP_REV_MAP_VER : Fld := ⟨CHP_REV, 16, 16, .ro⟩
/-- `CHP_SERIAL_LO` (R463). -/
def CHP_SERIAL_LO : Nat := 0x8
def CHP_SERIAL_LO_SERIAL_LO : Fld := ⟨CHP_SERIAL_LO, 0, 32, .ro⟩
/-- `CHP_SERIAL_HI` (R463). -/
def CHP_SERIAL_HI : Nat := 0xc
def CHP_SERIAL_HI_SERIAL_HI : Fld := ⟨CHP_SERIAL_HI, 0, 32, .ro⟩
/-- `CHP_CAPS` (R463). -/
def CHP_CAPS : Nat := 0x10
def CHP_CAPS_REGIONS : Fld := ⟨CHP_CAPS, 0, 8, .ro⟩
def CHP_CAPS_SZL_PORTS : Fld := ⟨CHP_CAPS, 8, 4, .ro⟩
def CHP_CAPS_HBM : Fld := ⟨CHP_CAPS, 12, 1, .ro⟩
def CHP_CAPS_TIME_PORT : Fld := ⟨CHP_CAPS, 13, 1, .ro⟩
/-- `CHP_SCRATCH` (R463). -/
def CHP_SCRATCH : Nat := 0x14
def CHP_SCRATCH_SCRATCH : Fld := ⟨CHP_SCRATCH, 0, 32, .rw⟩
/-- `CHP_REGERR_ADDR` (R464). -/
def CHP_REGERR_ADDR : Nat := 0x18
def CHP_REGERR_ADDR_OFFSET : Fld := ⟨CHP_REGERR_ADDR, 0, 26, .ro⟩
def CHP_REGERR_ADDR_WRITE : Fld := ⟨CHP_REGERR_ADDR, 26, 1, .ro⟩
def CHP_REGERR_ADDR_ALIAS : Fld := ⟨CHP_REGERR_ADDR, 27, 1, .ro⟩
/-- `CHP_REGERR_CNT` (R464). -/
def CHP_REGERR_CNT : Nat := 0x1c
def CHP_REGERR_CNT_COUNT : Fld := ⟨CHP_REGERR_CNT, 0, 16, .rc⟩
/-- `CHP_MERIDIAN_LO` (R34). -/
def CHP_MERIDIAN_LO : Nat := 0x20
def CHP_MERIDIAN_LO_COUNT_LO : Fld := ⟨CHP_MERIDIAN_LO, 0, 32, .ro⟩
/-- `CHP_MERIDIAN_HI` (R34). -/
def CHP_MERIDIAN_HI : Nat := 0x24
def CHP_MERIDIAN_HI_COUNT_HI : Fld := ⟨CHP_MERIDIAN_HI, 0, 32, .ro⟩
/-- `CHP_SYNC_CTL` (R62). -/
def CHP_SYNC_CTL : Nat := 0x30
def CHP_SYNC_CTL_OUT_EN : Fld := ⟨CHP_SYNC_CTL, 0, 1, .rw⟩
def CHP_SYNC_CTL_MON_EN : Fld := ⟨CHP_SYNC_CTL, 1, 1, .rw⟩
/-- `CHP_SYNC_STS` (R62). -/
def CHP_SYNC_STS : Nat := 0x34
def CHP_SYNC_STS_ROLE : Fld := ⟨CHP_SYNC_STS, 0, 2, .ro⟩
def CHP_SYNC_STS_DLY : Fld := ⟨CHP_SYNC_STS, 2, 3, .ro⟩
def CHP_SYNC_STS_ALIGNED : Fld := ⟨CHP_SYNC_STS, 5, 1, .ro⟩
def CHP_SYNC_STS_MISMATCH : Fld := ⟨CHP_SYNC_STS, 6, 1, .w1c⟩
def CHP_SYNC_STS_FRAME_ERR : Fld := ⟨CHP_SYNC_STS, 7, 1, .w1c⟩
def CHP_SYNC_STS_MISMATCH_CNT : Fld := ⟨CHP_SYNC_STS, 16, 16, .rc⟩
/-- `CHP_SYNC_OFFSET` (R62). -/
def CHP_SYNC_OFFSET : Nat := 0x38
def CHP_SYNC_OFFSET_OFFSET : Fld := ⟨CHP_SYNC_OFFSET, 0, 32, .ro⟩
/-- `CHP_LEDGER_STS` (R57). -/
def CHP_LEDGER_STS : Nat := 0x40
def CHP_LEDGER_STS_BOOK : Fld := ⟨CHP_LEDGER_STS, 0, 4, .ro⟩
def CHP_LEDGER_STS_UNIT : Fld := ⟨CHP_LEDGER_STS, 5, 9, .ro⟩
def CHP_LEDGER_STS_MISMATCH : Fld := ⟨CHP_LEDGER_STS, 31, 1, .w1c⟩
/-- `CHP_LEDGER_ISSUED` (R57). -/
def CHP_LEDGER_ISSUED : Nat := 0x44
def CHP_LEDGER_ISSUED_ISSUED : Fld := ⟨CHP_LEDGER_ISSUED, 0, 32, .ro⟩
/-- `CHP_LEDGER_RETURNED` (R57). -/
def CHP_LEDGER_RETURNED : Nat := 0x48
def CHP_LEDGER_RETURNED_RETURNED : Fld := ⟨CHP_LEDGER_RETURNED, 0, 32, .ro⟩
/-- `CHP_LEDGER_INFLIGHT` (R57). -/
def CHP_LEDGER_INFLIGHT : Nat := 0x4c
def CHP_LEDGER_INFLIGHT_IN_FLIGHT : Fld := ⟨CHP_LEDGER_INFLIGHT, 0, 32, .ro⟩
/-- `CHP_CFG_STS` (R255). -/
def CHP_CFG_STS : Nat := 0x50
def CHP_CFG_STS_SET_STATE : Fld := ⟨CHP_CFG_STS, 0, 2, .ro⟩
def CHP_CFG_STS_WR_DROP : Fld := ⟨CHP_CFG_STS, 2, 1, .w1c⟩
def CHP_CFG_STS_CHK_FAIL : Fld := ⟨CHP_CFG_STS, 3, 1, .w1c⟩
def CHP_CFG_STS_GEN : Fld := ⟨CHP_CFG_STS, 16, 16, .ro⟩
/-- `CHP_CFG_CHK` (R255). -/
def CHP_CFG_CHK : Nat := 0x54
def CHP_CFG_CHK_CODE : Fld := ⟨CHP_CFG_CHK, 0, 4, .ro⟩
def CHP_CFG_CHK_LEVEL : Fld := ⟨CHP_CFG_CHK, 4, 2, .ro⟩
def CHP_CFG_CHK_INDEX : Fld := ⟨CHP_CFG_CHK, 6, 12, .ro⟩
def CHP_CFG_CHK_WORD : Fld := ⟨CHP_CFG_CHK, 18, 12, .ro⟩
/-- `CHP_SWAP_EPOCH` (R255). -/
def CHP_SWAP_EPOCH : Nat := 0x58
def CHP_SWAP_EPOCH_EPOCH : Fld := ⟨CHP_SWAP_EPOCH, 0, 32, .ro⟩
/-- `CHP_RUN_STS` (R265). -/
def CHP_RUN_STS : Nat := 0x60
def CHP_RUN_STS_STATE : Fld := ⟨CHP_RUN_STS, 0, 3, .ro⟩
def CHP_RUN_STS_RGN_PARKED : Fld := ⟨CHP_RUN_STS, 3, 8, .ro⟩
def CHP_RUN_STS_CUT : Fld := ⟨CHP_RUN_STS, 11, 1, .w1c⟩
/-- `CHP_RUN_EPOCH` (R265). -/
def CHP_RUN_EPOCH : Nat := 0x64
def CHP_RUN_EPOCH_EPOCH : Fld := ⟨CHP_RUN_EPOCH, 0, 32, .ro⟩
/-- `CHP_RUN_TS_LO` (R265). -/
def CHP_RUN_TS_LO : Nat := 0x68
def CHP_RUN_TS_LO_TS_LO : Fld := ⟨CHP_RUN_TS_LO, 0, 32, .ro⟩
/-- `CHP_RUN_TS_HI` (R265). -/
def CHP_RUN_TS_HI : Nat := 0x6c
def CHP_RUN_TS_HI_TS_HI : Fld := ⟨CHP_RUN_TS_HI, 0, 32, .ro⟩
/-- `CHP_RUN_CNT` (R265). -/
def CHP_RUN_CNT : Nat := 0x70
def CHP_RUN_CNT_STAGE_WAIT : Fld := ⟨CHP_RUN_CNT, 0, 16, .rc⟩
def CHP_RUN_CNT_DRAIN_LONG : Fld := ⟨CHP_RUN_CNT, 16, 16, .rc⟩
/-- `CHP_RST_CTL` (R452). -/
def CHP_RST_CTL : Nat := 0x80
def CHP_RST_CTL_KEY : Fld := ⟨CHP_RST_CTL, 0, 8, .wo⟩
def CHP_RST_CTL_CHIP_RESET : Fld := ⟨CHP_RST_CTL, 8, 1, .wo⟩
def CHP_RST_CTL_UNPARK : Fld := ⟨CHP_RST_CTL, 9, 1, .w1s⟩
/-- `CHP_RST_STS` (R452). -/
def CHP_RST_STS : Nat := 0x84
def CHP_RST_STS_CAUSE : Fld := ⟨CHP_RST_STS, 0, 4, .ro⟩
def CHP_RST_STS_FLR : Fld := ⟨CHP_RST_STS, 4, 1, .w1c⟩
def CHP_RST_STS_WARM_CNT : Fld := ⟨CHP_RST_STS, 16, 16, .ro⟩
/-- `CHP_BOOT_STS` (R452). -/
def CHP_BOOT_STS : Nat := 0x88
def CHP_BOOT_STS_STAGE : Fld := ⟨CHP_BOOT_STS, 0, 4, .ro⟩
def CHP_BOOT_STS_FAILED : Fld := ⟨CHP_BOOT_STS, 4, 1, .ro⟩
def CHP_BOOT_STS_FAIL_STAGE : Fld := ⟨CHP_BOOT_STS, 5, 4, .ro⟩
def CHP_BOOT_STS_FAIL_CODE : Fld := ⟨CHP_BOOT_STS, 9, 7, .ro⟩
def CHP_BOOT_STS_NO_HBM : Fld := ⟨CHP_BOOT_STS, 16, 1, .ro⟩
def CHP_BOOT_STS_NO_MESH : Fld := ⟨CHP_BOOT_STS, 17, 1, .ro⟩
def CHP_BOOT_STS_NO_TIME : Fld := ⟨CHP_BOOT_STS, 18, 1, .ro⟩
def CHP_BOOT_STS_HBM_KEPT : Fld := ⟨CHP_BOOT_STS, 19, 1, .ro⟩
def CHP_BOOT_STS_TIME_MS : Fld := ⟨CHP_BOOT_STS, 20, 12, .ro⟩
/-- `CHP_FAULT_STS` (R452). -/
def CHP_FAULT_STS : Nat := 0x8c
def CHP_FAULT_STS_CAUSE : Fld := ⟨CHP_FAULT_STS, 0, 4, .ro⟩
def CHP_FAULT_STS_FAULT : Fld := ⟨CHP_FAULT_STS, 4, 1, .ro⟩
/-- `CHP_UNIT_STS` (R452). -/
def CHP_UNIT_STS : Nat := 0x90
def CHP_UNIT_STS_REGION_OK : Fld := ⟨CHP_UNIT_STS, 0, 8, .ro⟩
/-- `CHP_EVT_CFG` (R294). -/
def CHP_EVT_CFG : Nat := 0xa0
def CHP_EVT_CFG_RING : Fld := ⟨CHP_EVT_CFG, 0, 6, .rw⟩
def CHP_EVT_CFG_EN : Fld := ⟨CHP_EVT_CFG, 6, 1, .rw⟩
/-- `CHP_EVT_STS` (R294). -/
def CHP_EVT_STS : Nat := 0xa4
def CHP_EVT_STS_DROPPED : Fld := ⟨CHP_EVT_STS, 0, 32, .rc⟩
/-- `CHP_RESULT_CFG` (R296). -/
def CHP_RESULT_CFG : Nat := 0xa8
def CHP_RESULT_CFG_RING : Fld := ⟨CHP_RESULT_CFG, 0, 6, .rw⟩
def CHP_RESULT_CFG_SPOOL : Fld := ⟨CHP_RESULT_CFG, 6, 6, .rw⟩
def CHP_RESULT_CFG_EN : Fld := ⟨CHP_RESULT_CFG, 12, 1, .rw⟩
/-- `PCI_BAR4_STS` (R270). -/
def PCI_BAR4_STS : Nat := 0xb0
def PCI_BAR4_STS_WR_DROP : Fld := ⟨PCI_BAR4_STS, 0, 16, .rc⟩
def PCI_BAR4_STS_RD_UE : Fld := ⟨PCI_BAR4_STS, 16, 16, .rc⟩
/-- `CHP_TRIG_IN_CFG` (R247). -/
def CHP_TRIG_IN_CFG (x : Nat) : Nat := 0xc0 + x * 0x4
def CHP_TRIG_IN_CFG_EDGE (x : Nat) : Fld := ⟨CHP_TRIG_IN_CFG x, 0, 2, .sh⟩
def CHP_TRIG_IN_CFG_WIDTH (x : Nat) : Fld := ⟨CHP_TRIG_IN_CFG x, 2, 4, .sh⟩
/-- `CHP_TRIG_IN_STS` (R247). -/
def CHP_TRIG_IN_STS : Nat := 0xd0
def CHP_TRIG_IN_STS_LEVEL : Fld := ⟨CHP_TRIG_IN_STS, 0, 4, .ro⟩
def CHP_TRIG_IN_STS_SEEN : Fld := ⟨CHP_TRIG_IN_STS, 4, 4, .w1c⟩
/-- `CHP_TRIG_IN_CNT` (R247). -/
def CHP_TRIG_IN_CNT (x : Nat) : Nat := 0xe0 + x * 0x4
def CHP_TRIG_IN_CNT_EDGES (x : Nat) : Fld := ⟨CHP_TRIG_IN_CNT x, 0, 16, .rc⟩
def CHP_TRIG_IN_CNT_GLITCH (x : Nat) : Fld := ⟨CHP_TRIG_IN_CNT x, 16, 16, .rc⟩
/-- `CHP_TRIG_OUT_CFG` (R248). -/
def CHP_TRIG_OUT_CFG (x : Nat) : Nat := 0xf0 + x * 0x4
def CHP_TRIG_OUT_CFG_SRC (x : Nat) : Fld := ⟨CHP_TRIG_OUT_CFG x, 0, 3, .sh⟩
def CHP_TRIG_OUT_CFG_SEL (x : Nat) : Fld := ⟨CHP_TRIG_OUT_CFG x, 3, 12, .sh⟩
def CHP_TRIG_OUT_CFG_CLASSMASK (x : Nat) : Fld := ⟨CHP_TRIG_OUT_CFG x, 15, 3, .sh⟩
def CHP_TRIG_OUT_CFG_POL (x : Nat) : Fld := ⟨CHP_TRIG_OUT_CFG x, 18, 1, .sh⟩
def CHP_TRIG_OUT_CFG_WIDTH (x : Nat) : Fld := ⟨CHP_TRIG_OUT_CFG x, 19, 8, .sh⟩
/-- `CHP_DEC_EXPORT` (R188). -/
def CHP_DEC_EXPORT (p e : Nat) : Nat := 0x1000 + p * 0x200 + e * 0x4
def CHP_DEC_EXPORT_CELL (p e : Nat) : Fld := ⟨CHP_DEC_EXPORT p e, 0, 12, .sh⟩
def CHP_DEC_EXPORT_EN (p e : Nat) : Fld := ⟨CHP_DEC_EXPORT p e, 15, 1, .sh⟩
/-- `CHP_DEC_IMPORT` (R188). -/
def CHP_DEC_IMPORT (p e : Nat) : Nat := 0x1800 + p * 0x200 + e * 0x4
def CHP_DEC_IMPORT_CELL (p e : Nat) : Fld := ⟨CHP_DEC_IMPORT p e, 0, 12, .sh⟩
def CHP_DEC_IMPORT_EN (p e : Nat) : Fld := ⟨CHP_DEC_IMPORT p e, 15, 1, .sh⟩
/-- `CHP_DEC_STS` (R188). -/
def CHP_DEC_STS (p : Nat) : Nat := 0x1f80 + p * 0x4
def CHP_DEC_STS_FLITS_RX (p : Nat) : Fld := ⟨CHP_DEC_STS p, 0, 16, .rc⟩
def CHP_DEC_STS_REMOTE_LATE (p : Nat) : Fld := ⟨CHP_DEC_STS p, 16, 16, .rc⟩
/-- `CHP_RING_BASE_LO` (R272). -/
def CHP_RING_BASE_LO (n : Nat) : Nat := 0x2000 + n * 0x20
def CHP_RING_BASE_LO_BASE_LO (n : Nat) : Fld := ⟨CHP_RING_BASE_LO n, 0, 32, .rw⟩
/-- `CHP_RING_BASE_HI` (R272). -/
def CHP_RING_BASE_HI (n : Nat) : Nat := 0x2004 + n * 0x20
def CHP_RING_BASE_HI_BASE_HI (n : Nat) : Fld := ⟨CHP_RING_BASE_HI n, 0, 32, .rw⟩
/-- `CHP_RING_WB_LO` (R272). -/
def CHP_RING_WB_LO (n : Nat) : Nat := 0x2008 + n * 0x20
def CHP_RING_WB_LO_WB_LO (n : Nat) : Fld := ⟨CHP_RING_WB_LO n, 0, 32, .rw⟩
/-- `CHP_RING_WB_HI` (R272). -/
def CHP_RING_WB_HI (n : Nat) : Nat := 0x200c + n * 0x20
def CHP_RING_WB_HI_WB_HI (n : Nat) : Fld := ⟨CHP_RING_WB_HI n, 0, 32, .rw⟩
/-- `CHP_RING_CFG` (R272). -/
def CHP_RING_CFG (n : Nat) : Nat := 0x2010 + n * 0x20
def CHP_RING_CFG_EN (n : Nat) : Fld := ⟨CHP_RING_CFG n, 0, 1, .rw⟩
def CHP_RING_CFG_KIND (n : Nat) : Fld := ⟨CHP_RING_CFG n, 1, 3, .rw⟩
def CHP_RING_CFG_SIZE_EXP (n : Nat) : Fld := ⟨CHP_RING_CFG n, 4, 5, .rw⟩
def CHP_RING_CFG_DIR (n : Nat) : Fld := ⟨CHP_RING_CFG n, 9, 1, .rw⟩
def CHP_RING_CFG_COMPL (n : Nat) : Fld := ⟨CHP_RING_CFG n, 10, 6, .rw⟩
def CHP_RING_CFG_VECTOR (n : Nat) : Fld := ⟨CHP_RING_CFG n, 16, 8, .rw⟩
def CHP_RING_CFG_IRQ_EN (n : Nat) : Fld := ⟨CHP_RING_CFG n, 24, 1, .rw⟩
/-- `CHP_RING_IRQ` (R272). -/
def CHP_RING_IRQ (n : Nat) : Nat := 0x2014 + n * 0x20
def CHP_RING_IRQ_COUNT (n : Nat) : Fld := ⟨CHP_RING_IRQ n, 0, 16, .rw⟩
def CHP_RING_IRQ_TIME (n : Nat) : Fld := ⟨CHP_RING_IRQ n, 16, 16, .rw⟩
/-- `CHP_RING_CTL` (R272). -/
def CHP_RING_CTL (n : Nat) : Nat := 0x2018 + n * 0x20
def CHP_RING_CTL_RESUME (n : Nat) : Fld := ⟨CHP_RING_CTL n, 0, 1, .w1s⟩
/-- `CHP_RING_STS` (R272). -/
def CHP_RING_STS (n : Nat) : Nat := 0x201c + n * 0x20
def CHP_RING_STS_DEV_INDEX (n : Nat) : Fld := ⟨CHP_RING_STS n, 0, 16, .ro⟩
def CHP_RING_STS_DEV_PHASE (n : Nat) : Fld := ⟨CHP_RING_STS n, 16, 1, .ro⟩
def CHP_RING_STS_HALTED (n : Nat) : Fld := ⟨CHP_RING_STS n, 17, 1, .ro⟩
def CHP_RING_STS_ERROR (n : Nat) : Fld := ⟨CHP_RING_STS n, 18, 1, .w1c⟩
def CHP_RING_STS_ERR_CAUSE (n : Nat) : Fld := ⟨CHP_RING_STS n, 19, 3, .ro⟩
def CHP_RING_STS_CFG_ERR (n : Nat) : Fld := ⟨CHP_RING_STS n, 22, 1, .w1c⟩
/-- `CHP_ARB_CFG` (R343). -/
def CHP_ARB_CFG : Nat := 0x3000
def CHP_ARB_CFG_STARVE_LIMIT : Fld := ⟨CHP_ARB_CFG, 0, 16, .rw⟩
/-- `CHP_ARB_WDOG` (R343). -/
def CHP_ARB_WDOG : Nat := 0x3004
def CHP_ARB_WDOG_LIMIT : Fld := ⟨CHP_ARB_WDOG, 0, 16, .rw⟩
def CHP_ARB_WDOG_EN : Fld := ⟨CHP_ARB_WDOG, 16, 1, .rw⟩
def CHP_ARB_WDOG_LAST_X : Fld := ⟨CHP_ARB_WDOG, 17, 5, .ro⟩
/-- `CHP_ARB_STS` (R343). -/
def CHP_ARB_STS : Nat := 0x3008
def CHP_ARB_STS_STARVE : Fld := ⟨CHP_ARB_STS, 0, 12, .w1c⟩
/-- `CHP_ARB_REQ` (R343). -/
def CHP_ARB_REQ (x : Nat) : Nat := 0x3100 + x * 0x10
def CHP_ARB_REQ_BURST (x : Nat) : Fld := ⟨CHP_ARB_REQ x, 0, 8, .rw⟩
/-- `CHP_ARB_GRANTS` (R343). -/
def CHP_ARB_GRANTS (x : Nat) : Nat := 0x3104 + x * 0x10
def CHP_ARB_GRANTS_GRANTS (x : Nat) : Fld := ⟨CHP_ARB_GRANTS x, 0, 32, .rc⟩
/-- `CHP_ARB_WAIT` (R343). -/
def CHP_ARB_WAIT (x : Nat) : Nat := 0x3108 + x * 0x10
def CHP_ARB_WAIT_WAIT (x : Nat) : Fld := ⟨CHP_ARB_WAIT x, 0, 32, .rc⟩
/-- `CHP_ARB_LONGEST` (R343). -/
def CHP_ARB_LONGEST (x : Nat) : Nat := 0x310c + x * 0x10
def CHP_ARB_LONGEST_LONGEST (x : Nat) : Fld := ⟨CHP_ARB_LONGEST x, 0, 24, .rc⟩
/-- `HBM_CFG` (R327). -/
def HBM_CFG : Nat := 0x4000
def HBM_CFG_RATE : Fld := ⟨HBM_CFG, 0, 1, .rw⟩
def HBM_CFG_PC_MODE : Fld := ⟨HBM_CFG, 1, 1, .rw⟩
def HBM_CFG_SCRUB_EN : Fld := ⟨HBM_CFG, 2, 1, .rw⟩
def HBM_CFG_SCRUB_PERIOD : Fld := ⟨HBM_CFG, 3, 8, .rw⟩
def HBM_CFG_NEIGHBOR_EN : Fld := ⟨HBM_CFG, 11, 1, .rw⟩
def HBM_CFG_ACT_THRESHOLD : Fld := ⟨HBM_CFG, 12, 16, .rw⟩
/-- `HBM_SCHED` (R327). -/
def HBM_SCHED : Nat := 0x4004
def HBM_SCHED_AGE_LIMIT : Fld := ⟨HBM_SCHED, 0, 10, .rw⟩
def HBM_SCHED_WR_HIGH : Fld := ⟨HBM_SCHED, 10, 6, .rw⟩
def HBM_SCHED_WR_LOW : Fld := ⟨HBM_SCHED, 16, 6, .rw⟩
/-- `HBM_TRAIN_CTL` (R327). -/
def HBM_TRAIN_CTL : Nat := 0x4008
def HBM_TRAIN_CTL_EN : Fld := ⟨HBM_TRAIN_CTL, 0, 1, .rw⟩
def HBM_TRAIN_CTL_FREEZE : Fld := ⟨HBM_TRAIN_CTL, 1, 1, .rw⟩
def HBM_TRAIN_CTL_RETRAIN_PERIOD : Fld := ⟨HBM_TRAIN_CTL, 2, 10, .rw⟩
def HBM_TRAIN_CTL_PAUSE_GAP : Fld := ⟨HBM_TRAIN_CTL, 12, 8, .rw⟩
def HBM_TRAIN_CTL_MAX_STEP : Fld := ⟨HBM_TRAIN_CTL, 20, 4, .rw⟩
def HBM_TRAIN_CTL_MIN_EYE : Fld := ⟨HBM_TRAIN_CTL, 24, 6, .rw⟩
/-- `HBM_PWR_CTL` (R327). -/
def HBM_PWR_CTL : Nat := 0x400c
def HBM_PWR_CTL_STANDBY : Fld := ⟨HBM_PWR_CTL, 0, 1, .rw⟩
def HBM_PWR_CTL_AUTO_SR : Fld := ⟨HBM_PWR_CTL, 1, 1, .rw⟩
def HBM_PWR_CTL_IDLE_TIME : Fld := ⟨HBM_PWR_CTL, 2, 10, .rw⟩
def HBM_PWR_CTL_KEEP_MASK : Fld := ⟨HBM_PWR_CTL, 16, 16, .rw⟩
/-- `HBM_STS` (R328). -/
def HBM_STS : Nat := 0x4010
def HBM_STS_STATE : Fld := ⟨HBM_STS, 0, 3, .ro⟩
def HBM_STS_RATE_NOW : Fld := ⟨HBM_STS, 3, 1, .ro⟩
def HBM_STS_HOT : Fld := ⟨HBM_STS, 4, 1, .ro⟩
def HBM_STS_TRAIN_PC : Fld := ⟨HBM_STS, 5, 4, .ro⟩
def HBM_STS_GATHERING : Fld := ⟨HBM_STS, 9, 1, .ro⟩
def HBM_STS_CFG_ERR : Fld := ⟨HBM_STS, 10, 1, .w1c⟩
def HBM_STS_STBY_REFUSED : Fld := ⟨HBM_STS, 11, 1, .w1c⟩
def HBM_STS_UE : Fld := ⟨HBM_STS, 12, 1, .w1c⟩
def HBM_STS_TRAIN_FAIL : Fld := ⟨HBM_STS, 13, 1, .w1c⟩
def HBM_STS_LOST_MASK : Fld := ⟨HBM_STS, 16, 16, .ro⟩
/-- `HBM_ERR_ADDR_LO` (R328). -/
def HBM_ERR_ADDR_LO : Nat := 0x4014
def HBM_ERR_ADDR_LO_ADDR_LO : Fld := ⟨HBM_ERR_ADDR_LO, 0, 32, .ro⟩
/-- `HBM_ERR_ADDR_HI` (R328). -/
def HBM_ERR_ADDR_HI : Nat := 0x4018
def HBM_ERR_ADDR_HI_ADDR_HI : Fld := ⟨HBM_ERR_ADDR_HI, 0, 2, .ro⟩
/-- `HBM_SR_CNT` (R328). -/
def HBM_SR_CNT : Nat := 0x401c
def HBM_SR_CNT_SR_CANCEL : Fld := ⟨HBM_SR_CNT, 0, 16, .rc⟩
def HBM_SR_CNT_SR_HELD : Fld := ⟨HBM_SR_CNT, 16, 16, .rc⟩
/-- `HBM_BANK_XOR` (R327). -/
def HBM_BANK_XOR (k : Nat) : Nat := 0x4020 + k * 0x4
def HBM_BANK_XOR_ROWMASK (k : Nat) : Fld := ⟨HBM_BANK_XOR k, 0, 15, .rw⟩
/-- `HBM_PART` (R327). -/
def HBM_PART (p : Nat) : Nat := 0x4040 + p * 0x4
def HBM_PART_BASE (p : Nat) : Fld := ⟨HBM_PART p, 0, 8, .rw⟩
def HBM_PART_SIZE (p : Nat) : Fld := ⟨HBM_PART p, 8, 9, .rw⟩
/-- `HBM_PC_CNT0` (R328). -/
def HBM_PC_CNT0 (p : Nat) : Nat := 0x4100 + p * 0x4
def HBM_PC_CNT0_CORR (p : Nat) : Fld := ⟨HBM_PC_CNT0 p, 0, 16, .rc⟩
def HBM_PC_CNT0_UE (p : Nat) : Fld := ⟨HBM_PC_CNT0 p, 16, 16, .rc⟩
/-- `HBM_PC_CNT1` (R328). -/
def HBM_PC_CNT1 (p : Nat) : Nat := 0x4140 + p * 0x4
def HBM_PC_CNT1_IN_ORDER (p : Nat) : Fld := ⟨HBM_PC_CNT1 p, 0, 16, .rc⟩
def HBM_PC_CNT1_NEIGHBOR_REF (p : Nat) : Fld := ⟨HBM_PC_CNT1 p, 16, 16, .rc⟩
/-- `SZL_NODE` (R371). -/
def SZL_NODE : Nat := 0x5000
def SZL_NODE_ID : Fld := ⟨SZL_NODE, 0, 16, .rw⟩
/-- `SZL_PORT_CFG` (R371). -/
def SZL_PORT_CFG (p : Nat) : Nat := 0x5100 + p * 0x40
def SZL_PORT_CFG_EN (p : Nat) : Fld := ⟨SZL_PORT_CFG p, 0, 1, .rw⟩
def SZL_PORT_CFG_MIN_LANES (p : Nat) : Fld := ⟨SZL_PORT_CFG p, 1, 3, .rw⟩
def SZL_PORT_CFG_TIME_EXP (p : Nat) : Fld := ⟨SZL_PORT_CFG p, 4, 5, .rw⟩
def SZL_PORT_CFG_RETRY (p : Nat) : Fld := ⟨SZL_PORT_CFG p, 9, 8, .rw⟩
/-- `SZL_PORT_CTL` (R371). -/
def SZL_PORT_CTL (p : Nat) : Nat := 0x5104 + p * 0x40
def SZL_PORT_CTL_RETRAIN (p : Nat) : Fld := ⟨SZL_PORT_CTL p, 0, 1, .w1s⟩
def SZL_PORT_CTL_DOWN (p : Nat) : Fld := ⟨SZL_PORT_CTL p, 1, 1, .w1s⟩
/-- `SZL_PORT_STS` (R371). -/
def SZL_PORT_STS (p : Nat) : Nat := 0x5108 + p * 0x40
def SZL_PORT_STS_STATE (p : Nat) : Fld := ⟨SZL_PORT_STS p, 0, 2, .ro⟩
def SZL_PORT_STS_TX_MASK (p : Nat) : Fld := ⟨SZL_PORT_STS p, 2, 6, .ro⟩
def SZL_PORT_STS_RX_MASK (p : Nat) : Fld := ⟨SZL_PORT_STS p, 8, 6, .ro⟩
def SZL_PORT_STS_REVERSED (p : Nat) : Fld := ⟨SZL_PORT_STS p, 14, 1, .ro⟩
def SZL_PORT_STS_PEER_PORT (p : Nat) : Fld := ⟨SZL_PORT_STS p, 15, 2, .ro⟩
def SZL_PORT_STS_ORIENT_ERR (p : Nat) : Fld := ⟨SZL_PORT_STS p, 17, 1, .w1c⟩
def SZL_PORT_STS_FLIGHT_ERR (p : Nat) : Fld := ⟨SZL_PORT_STS p, 18, 1, .w1c⟩
def SZL_PORT_STS_OFFSET_ERR (p : Nat) : Fld := ⟨SZL_PORT_STS p, 19, 1, .w1c⟩
/-- `SZL_PORT_PEER` (R371). -/
def SZL_PORT_PEER (p : Nat) : Nat := 0x510c + p * 0x40
def SZL_PORT_PEER_PEER_ID (p : Nat) : Fld := ⟨SZL_PORT_PEER p, 0, 16, .ro⟩
/-- `SZL_PORT_CNT0` (R371). -/
def SZL_PORT_CNT0 (p : Nat) : Nat := 0x5110 + p * 0x40
def SZL_PORT_CNT0_CRC_ERR (p : Nat) : Fld := ⟨SZL_PORT_CNT0 p, 0, 16, .rc⟩
def SZL_PORT_CNT0_REPLAYS (p : Nat) : Fld := ⟨SZL_PORT_CNT0 p, 16, 16, .rc⟩
/-- `SZL_PORT_CNT1` (R371). -/
def SZL_PORT_CNT1 (p : Nat) : Nat := 0x5114 + p * 0x40
def SZL_PORT_CNT1_SEND_LATE (p : Nat) : Fld := ⟨SZL_PORT_CNT1 p, 0, 16, .rc⟩
def SZL_PORT_CNT1_SEND_DROP (p : Nat) : Fld := ⟨SZL_PORT_CNT1 p, 16, 16, .rc⟩
/-- `SZL_TIME` (R371). -/
def SZL_TIME (p : Nat) : Nat := 0x5118 + p * 0x40
def SZL_TIME_OFFSET (p : Nat) : Fld := ⟨SZL_TIME p, 0, 16, .ro⟩
def SZL_TIME_FLIGHT (p : Nat) : Fld := ⟨SZL_TIME p, 16, 16, .ro⟩
/-- `SZL_EQ_CTL` (R371). -/
def SZL_EQ_CTL (p : Nat) : Nat := 0x511c + p * 0x40
def SZL_EQ_CTL_EN (p : Nat) : Fld := ⟨SZL_EQ_CTL p, 0, 1, .rw⟩
def SZL_EQ_CTL_RATE (p : Nat) : Fld := ⟨SZL_EQ_CTL p, 1, 3, .rw⟩
def SZL_EQ_CTL_FREEZE (p : Nat) : Fld := ⟨SZL_EQ_CTL p, 4, 1, .rw⟩
/-- `SZL_EQ_LIM` (R371). -/
def SZL_EQ_LIM (p : Nat) : Nat := 0x5120 + p * 0x40
def SZL_EQ_LIM_CTLE_MIN (p : Nat) : Fld := ⟨SZL_EQ_LIM p, 0, 4, .rw⟩
def SZL_EQ_LIM_CTLE_MAX (p : Nat) : Fld := ⟨SZL_EQ_LIM p, 4, 4, .rw⟩
def SZL_EQ_LIM_DFE1_LIM (p : Nat) : Fld := ⟨SZL_EQ_LIM p, 8, 6, .rw⟩
def SZL_EQ_LIM_SEE_MIN (p : Nat) : Fld := ⟨SZL_EQ_LIM p, 14, 6, .rw⟩
def SZL_EQ_LIM_BIP_MAX (p : Nat) : Fld := ⟨SZL_EQ_LIM p, 20, 12, .rw⟩
/-- `SZL_LANE_EQ` (R372). -/
def SZL_LANE_EQ (p l : Nat) : Nat := 0x5400 + p * 0x100 + l * 0x10
def SZL_LANE_EQ_CTLE (p l : Nat) : Fld := ⟨SZL_LANE_EQ p l, 0, 4, .rw⟩
def SZL_LANE_EQ_DFE1 (p l : Nat) : Fld := ⟨SZL_LANE_EQ p l, 4, 7, .rw⟩
def SZL_LANE_EQ_DFE2 (p l : Nat) : Fld := ⟨SZL_LANE_EQ p l, 11, 6, .rw⟩
def SZL_LANE_EQ_DFE3 (p l : Nat) : Fld := ⟨SZL_LANE_EQ p l, 17, 6, .rw⟩
def SZL_LANE_EQ_DFE4 (p l : Nat) : Fld := ⟨SZL_LANE_EQ p l, 23, 6, .rw⟩
def SZL_LANE_EQ_MAN (p l : Nat) : Fld := ⟨SZL_LANE_EQ p l, 31, 1, .rw⟩
/-- `SZL_LANE_STS` (R372). -/
def SZL_LANE_STS (p l : Nat) : Nat := 0x5404 + p * 0x100 + l * 0x10
def SZL_LANE_STS_EYE_H (p l : Nat) : Fld := ⟨SZL_LANE_STS p l, 0, 8, .ro⟩
def SZL_LANE_STS_EYE_W (p l : Nat) : Fld := ⟨SZL_LANE_STS p l, 8, 6, .ro⟩
def SZL_LANE_STS_POL_INV (p l : Nat) : Fld := ⟨SZL_LANE_STS p l, 14, 1, .ro⟩
def SZL_LANE_STS_LOGICAL (p l : Nat) : Fld := ⟨SZL_LANE_STS p l, 15, 3, .ro⟩
def SZL_LANE_STS_ACTIVE (p l : Nat) : Fld := ⟨SZL_LANE_STS p l, 18, 1, .ro⟩
def SZL_LANE_STS_DROP_CAUSE (p l : Nat) : Fld := ⟨SZL_LANE_STS p l, 19, 3, .ro⟩
/-- `SZL_LANE_CNT` (R372). -/
def SZL_LANE_CNT (p l : Nat) : Nat := 0x5408 + p * 0x100 + l * 0x10
def SZL_LANE_CNT_BIP_ERR (p l : Nat) : Fld := ⟨SZL_LANE_CNT p l, 0, 16, .rc⟩
def SZL_LANE_CNT_STUFF_ERR (p l : Nat) : Fld := ⟨SZL_LANE_CNT p l, 16, 16, .rc⟩
/-- `SZL_LANE_EQ2` (R372). -/
def SZL_LANE_EQ2 (p l : Nat) : Nat := 0x540c + p * 0x100 + l * 0x10
def SZL_LANE_EQ2_DFE5 (p l : Nat) : Fld := ⟨SZL_LANE_EQ2 p l, 0, 6, .rw⟩
/-- `TPT_CFG` (R389). -/
def TPT_CFG : Nat := 0x6000
def TPT_CFG_EN : Fld := ⟨TPT_CFG, 0, 1, .rw⟩
def TPT_CFG_TX_RING : Fld := ⟨TPT_CFG, 1, 6, .rw⟩
def TPT_CFG_RX_RING : Fld := ⟨TPT_CFG, 7, 6, .rw⟩
def TPT_CFG_RX_SPOOL : Fld := ⟨TPT_CFG, 13, 6, .rw⟩
def TPT_CFG_PTP_ONLY : Fld := ⟨TPT_CFG, 19, 1, .rw⟩
def TPT_CFG_TXTS_EV : Fld := ⟨TPT_CFG, 20, 1, .rw⟩
def TPT_CFG_PPS_EV : Fld := ⟨TPT_CFG, 21, 1, .rw⟩
/-- `TPT_LAT` (R389). -/
def TPT_LAT : Nat := 0x6004
def TPT_LAT_RX_LAT : Fld := ⟨TPT_LAT, 0, 16, .rw⟩
def TPT_LAT_TX_LAT : Fld := ⟨TPT_LAT, 16, 16, .rw⟩
/-- `TPT_SERVO_CTL` (R389). -/
def TPT_SERVO_CTL : Nat := 0x6008
def TPT_SERVO_CTL_EN : Fld := ⟨TPT_SERVO_CTL, 0, 1, .rw⟩
def TPT_SERVO_CTL_KP_SHIFT : Fld := ⟨TPT_SERVO_CTL, 1, 5, .rw⟩
def TPT_SERVO_CTL_KI_SHIFT : Fld := ⟨TPT_SERVO_CTL, 6, 5, .rw⟩
def TPT_SERVO_CTL_ACCEPT : Fld := ⟨TPT_SERVO_CTL, 11, 1, .w1s⟩
def TPT_SERVO_CTL_SET : Fld := ⟨TPT_SERVO_CTL, 12, 1, .w1s⟩
/-- `TPT_JUMP` (R389). -/
def TPT_JUMP : Nat := 0x600c
def TPT_JUMP_LIMIT : Fld := ⟨TPT_JUMP, 0, 32, .rw⟩
/-- `TPT_CORR` (R389). -/
def TPT_CORR : Nat := 0x6010
def TPT_CORR_E : Fld := ⟨TPT_CORR, 0, 32, .wo⟩
/-- `TPT_HELD` (R389). -/
def TPT_HELD : Nat := 0x6014
def TPT_HELD_HELD : Fld := ⟨TPT_HELD, 0, 32, .ro⟩
/-- `TPT_SET_LO` (R389). -/
def TPT_SET_LO : Nat := 0x6018
def TPT_SET_LO_SET : Fld := ⟨TPT_SET_LO, 0, 32, .rw⟩
/-- `TPT_SET_HI` (R389). -/
def TPT_SET_HI : Nat := 0x601c
def TPT_SET_HI_SET : Fld := ⟨TPT_SET_HI, 0, 32, .rw⟩
/-- `TPT_OFF_LO` (R389). -/
def TPT_OFF_LO : Nat := 0x6020
def TPT_OFF_LO_OFF : Fld := ⟨TPT_OFF_LO, 0, 32, .ro⟩
/-- `TPT_OFF_HI` (R389). -/
def TPT_OFF_HI : Nat := 0x6024
def TPT_OFF_HI_OFF : Fld := ⟨TPT_OFF_HI, 0, 32, .ro⟩
/-- `TPT_OFF_FRAC` (R389). -/
def TPT_OFF_FRAC : Nat := 0x6028
def TPT_OFF_FRAC_FRAC : Fld := ⟨TPT_OFF_FRAC, 0, 32, .ro⟩
/-- `TPT_DRIFT` (R389). -/
def TPT_DRIFT : Nat := 0x602c
def TPT_DRIFT_DRIFT : Fld := ⟨TPT_DRIFT, 0, 32, .rw⟩
/-- `TPT_CAP_M_LO` (R389). -/
def TPT_CAP_M_LO : Nat := 0x6030
def TPT_CAP_M_LO_CAP : Fld := ⟨TPT_CAP_M_LO, 0, 32, .ro⟩
/-- `TPT_CAP_M_HI` (R389). -/
def TPT_CAP_M_HI : Nat := 0x6034
def TPT_CAP_M_HI_CAP : Fld := ⟨TPT_CAP_M_HI, 0, 32, .ro⟩
/-- `TPT_CAP_NT_LO` (R389). -/
def TPT_CAP_NT_LO : Nat := 0x6038
def TPT_CAP_NT_LO_CAP : Fld := ⟨TPT_CAP_NT_LO, 0, 32, .ro⟩
/-- `TPT_CAP_NT_HI` (R389). -/
def TPT_CAP_NT_HI : Nat := 0x603c
def TPT_CAP_NT_HI_CAP : Fld := ⟨TPT_CAP_NT_HI, 0, 32, .ro⟩
/-- `TPT_STS` (R389). -/
def TPT_STS : Nat := 0x6040
def TPT_STS_LINK_UP : Fld := ⟨TPT_STS, 0, 1, .ro⟩
def TPT_STS_NT_VALID : Fld := ⟨TPT_STS, 1, 1, .ro⟩
def TPT_STS_HOLD : Fld := ⟨TPT_STS, 2, 1, .ro⟩
def TPT_STS_TX_STAMP_OVF : Fld := ⟨TPT_STS, 3, 1, .w1c⟩
def TPT_STS_TXTS_LEVEL : Fld := ⟨TPT_STS, 4, 5, .ro⟩
def TPT_STS_IN_SEEN : Fld := ⟨TPT_STS, 9, 1, .w1c⟩
def TPT_STS_PPS_STEP : Fld := ⟨TPT_STS, 10, 1, .w1c⟩
/-- `TPT_TXTS_LO` (R389). -/
def TPT_TXTS_LO : Nat := 0x6044
def TPT_TXTS_LO_NS : Fld := ⟨TPT_TXTS_LO, 0, 32, .ro⟩
/-- `TPT_TXTS_HI` (R389). -/
def TPT_TXTS_HI : Nat := 0x6048
def TPT_TXTS_HI_SEQ_ID : Fld := ⟨TPT_TXTS_HI, 0, 16, .ro⟩
def TPT_TXTS_HI_TAG : Fld := ⟨TPT_TXTS_HI, 16, 16, .ro⟩
/-- `TPT_TXTS_FLG` (R389). -/
def TPT_TXTS_FLG : Nat := 0x604c
def TPT_TXTS_FLG_MSGTYPE : Fld := ⟨TPT_TXTS_FLG, 0, 4, .ro⟩
def TPT_TXTS_FLG_PTP : Fld := ⟨TPT_TXTS_FLG, 4, 1, .ro⟩
def TPT_TXTS_FLG_VALID : Fld := ⟨TPT_TXTS_FLG, 5, 1, .ro⟩
/-- `TPT_PPS_CFG` (R389). -/
def TPT_PPS_CFG : Nat := 0x6050
def TPT_PPS_CFG_OUT_EN : Fld := ⟨TPT_PPS_CFG, 0, 1, .rw⟩
def TPT_PPS_CFG_OUT_SRC : Fld := ⟨TPT_PPS_CFG, 1, 1, .rw⟩
def TPT_PPS_CFG_WIDTH : Fld := ⟨TPT_PPS_CFG, 2, 10, .rw⟩
def TPT_PPS_CFG_IN_EN : Fld := ⟨TPT_PPS_CFG, 12, 1, .rw⟩
/-- `TPT_PPS_DLY` (R389). -/
def TPT_PPS_DLY : Nat := 0x6054
def TPT_PPS_DLY_DELAY : Fld := ⟨TPT_PPS_DLY, 0, 32, .rw⟩
/-- `TPT_PPS_IN_NS` (R389). -/
def TPT_PPS_IN_NS : Nat := 0x6058
def TPT_PPS_IN_NS_NS : Fld := ⟨TPT_PPS_IN_NS, 0, 32, .ro⟩
/-- `TPT_PPS_IN_CNT` (R389). -/
def TPT_PPS_IN_CNT : Nat := 0x605c
def TPT_PPS_IN_CNT_EDGES : Fld := ⟨TPT_PPS_IN_CNT, 0, 32, .rc⟩
/-- `TPT_CNT0` (R389). -/
def TPT_CNT0 : Nat := 0x6060
def TPT_CNT0_RX_FRAMES : Fld := ⟨TPT_CNT0, 0, 16, .rc⟩
def TPT_CNT0_RX_DROP : Fld := ⟨TPT_CNT0, 16, 16, .rc⟩
/-- `TPT_CNT1` (R389). -/
def TPT_CNT1 : Nat := 0x6064
def TPT_CNT1_TX_FRAMES : Fld := ⟨TPT_CNT1, 0, 16, .rc⟩
def TPT_CNT1_TX_DROP : Fld := ⟨TPT_CNT1, 16, 16, .rc⟩
/-- `TPT_CNT2` (R389). -/
def TPT_CNT2 : Nat := 0x6068
def TPT_CNT2_FCS_ERR : Fld := ⟨TPT_CNT2, 0, 16, .rc⟩
def TPT_CNT2_REFUSED : Fld := ⟨TPT_CNT2, 16, 8, .rc⟩
def TPT_CNT2_TXTS_DROP : Fld := ⟨TPT_CNT2, 24, 8, .rc⟩
/-- `THM_CTL` (R434). -/
def THM_CTL : Nat := 0x7000
def THM_CTL_THROT_EN : Fld := ⟨THM_CTL, 0, 1, .rw⟩
def THM_CTL_PARK_EN : Fld := ⟨THM_CTL, 1, 1, .rw⟩
def THM_CTL_SHUT : Fld := ⟨THM_CTL, 2, 8, .rw⟩
/-- `THM_CAP` (R434). -/
def THM_CAP : Nat := 0x7004
def THM_CAP_CAP_PERIOD : Fld := ⟨THM_CAP, 0, 16, .rw⟩
def THM_CAP_FCAP : Fld := ⟨THM_CAP, 16, 11, .rw⟩
/-- `THM_MASK0` (R434). -/
def THM_MASK0 : Nat := 0x7008
def THM_MASK0_MASK : Fld := ⟨THM_MASK0, 0, 32, .rw⟩
/-- `THM_MASK1` (R434). -/
def THM_MASK1 : Nat := 0x700c
def THM_MASK1_MASK : Fld := ⟨THM_MASK1, 0, 32, .rw⟩
/-- `THM_MASK2` (R434). -/
def THM_MASK2 : Nat := 0x7010
def THM_MASK2_MASK : Fld := ⟨THM_MASK2, 0, 8, .rw⟩
/-- `THM_STS` (R434). -/
def THM_STS : Nat := 0x7014
def THM_STS_CAPPED : Fld := ⟨THM_STS, 0, 1, .ro⟩
def THM_STS_RESTARTED : Fld := ⟨THM_STS, 1, 1, .w1c⟩
def THM_STS_PARKED : Fld := ⟨THM_STS, 2, 8, .ro⟩
/-- `THM_CNT` (R434). -/
def THM_CNT : Nat := 0x7018
def THM_CNT_CAPPED_SHOTS : Fld := ⟨THM_CNT, 0, 16, .rc⟩
def THM_CNT_SHUTDOWNS : Fld := ⟨THM_CNT, 16, 16, .ro⟩
/-- `THM_CHIP_CTL` (R434). -/
def THM_CHIP_CTL : Nat := 0x7020
def THM_CHIP_CTL_WARN : Fld := ⟨THM_CHIP_CTL, 0, 8, .rw⟩
def THM_CHIP_CTL_THROT : Fld := ⟨THM_CHIP_CTL, 8, 8, .rw⟩
def THM_CHIP_CTL_HYST : Fld := ⟨THM_CHIP_CTL, 16, 4, .rw⟩
def THM_CHIP_CTL_GRACE : Fld := ⟨THM_CHIP_CTL, 20, 10, .rw⟩
/-- `THM_CHIP_STS` (R434). -/
def THM_CHIP_STS : Nat := 0x7024
def THM_CHIP_STS_STEP : Fld := ⟨THM_CHIP_STS, 0, 2, .ro⟩
def THM_CHIP_STS_HELD : Fld := ⟨THM_CHIP_STS, 2, 1, .ro⟩
def THM_CHIP_STS_WARN : Fld := ⟨THM_CHIP_STS, 3, 1, .ro⟩
def THM_CHIP_STS_REQUEST : Fld := ⟨THM_CHIP_STS, 4, 1, .ro⟩
def THM_CHIP_STS_HOT_S : Fld := ⟨THM_CHIP_STS, 5, 7, .ro⟩
def THM_CHIP_STS_HOT_T : Fld := ⟨THM_CHIP_STS, 12, 12, .ro⟩
/-- `THM_VR` (R434). -/
def THM_VR (p : Nat) : Nat := 0x7030 + p * 0x4
def THM_VR_VID (p : Nat) : Fld := ⟨THM_VR p, 0, 6, .ro⟩
def THM_VR_ACK (p : Nat) : Fld := ⟨THM_VR p, 6, 1, .ro⟩
def THM_VR_TIMEOUT (p : Nat) : Fld := ⟨THM_VR p, 7, 1, .w1c⟩
/-- `THM_TEMP` (R434). -/
def THM_TEMP (s : Nat) : Nat := 0x7100 + s * 0x4
def THM_TEMP_TEMP (s : Nat) : Fld := ⟨THM_TEMP s, 0, 12, .ro⟩
def THM_TEMP_VALID (s : Nat) : Fld := ⟨THM_TEMP s, 12, 1, .ro⟩
def THM_TEMP_FAILED (s : Nat) : Fld := ⟨THM_TEMP s, 13, 1, .ro⟩
def THM_TEMP_MASKED (s : Nat) : Fld := ⟨THM_TEMP s, 14, 1, .ro⟩
def THM_TEMP_COUNT (s : Nat) : Fld := ⟨THM_TEMP s, 16, 16, .ro⟩
/-- `CAL_CTL` (R413). -/
def CAL_CTL : Nat := 0x8000
def CAL_CTL_BACKUP_EN : Fld := ⟨CAL_CTL, 0, 1, .rw⟩
def CAL_CTL_BACKUP_PERIOD : Fld := ⟨CAL_CTL, 1, 10, .rw⟩
/-- `CAL_STS` (R413). -/
def CAL_STS : Nat := 0x8004
def CAL_STS_BUSY : Fld := ⟨CAL_STS, 0, 1, .ro⟩
def CAL_STS_BACKUP_VALID : Fld := ⟨CAL_STS, 1, 1, .ro⟩
def CAL_STS_RESTORED : Fld := ⟨CAL_STS, 2, 1, .ro⟩
def CAL_STS_FAILED : Fld := ⟨CAL_STS, 3, 1, .w1c⟩
def CAL_STS_BACKUP_GEN : Fld := ⟨CAL_STS, 16, 16, .ro⟩
/-- `CAL_COLL_CHIP` (R399). -/
def CAL_COLL_CHIP : Nat := 0x8008
def CAL_COLL_CHIP_CHIP : Fld := ⟨CAL_COLL_CHIP, 0, 12, .rw⟩
/-- `MON_CTL` (R234). -/
def MON_CTL : Nat := 0x9000
def MON_CTL_EN : Fld := ⟨MON_CTL, 0, 1, .rw⟩
def MON_CTL_LAST : Fld := ⟨MON_CTL, 1, 5, .rw⟩
def MON_CTL_CAL_PERIOD : Fld := ⟨MON_CTL, 6, 8, .rw⟩
/-- `MON_ALM` (R234). -/
def MON_ALM : Nat := 0x9004
def MON_ALM_ALM : Fld := ⟨MON_ALM, 0, 32, .w1c⟩
/-- `MON_STS` (R234). -/
def MON_STS : Nat := 0x9008
def MON_STS_CAL : Fld := ⟨MON_STS, 0, 1, .ro⟩
def MON_STS_CFG_ERR : Fld := ⟨MON_STS, 1, 1, .w1c⟩
/-- `MON_SEQ` (R234). -/
def MON_SEQ (e : Nat) : Nat := 0x9100 + e * 0x4
def MON_SEQ_INPUT (e : Nat) : Fld := ⟨MON_SEQ e, 0, 6, .rw⟩
def MON_SEQ_AVG (e : Nat) : Fld := ⟨MON_SEQ e, 6, 3, .rw⟩
def MON_SEQ_ALM_EN (e : Nat) : Fld := ⟨MON_SEQ e, 9, 1, .rw⟩
/-- `MON_LIM` (R234). -/
def MON_LIM (e : Nat) : Nat := 0x9180 + e * 0x4
def MON_LIM_LO (e : Nat) : Fld := ⟨MON_LIM e, 0, 12, .rw⟩
def MON_LIM_HI (e : Nat) : Fld := ⟨MON_LIM e, 16, 12, .rw⟩
/-- `MON_RES` (R234). -/
def MON_RES (e : Nat) : Nat := 0x9200 + e * 0x4
def MON_RES_VALUE (e : Nat) : Fld := ⟨MON_RES e, 0, 12, .ro⟩
def MON_RES_VALID (e : Nat) : Fld := ⟨MON_RES e, 12, 1, .ro⟩
def MON_RES_STALE (e : Nat) : Fld := ⟨MON_RES e, 13, 1, .ro⟩
def MON_RES_BELOW (e : Nat) : Fld := ⟨MON_RES e, 14, 1, .ro⟩
def MON_RES_ABOVE (e : Nat) : Fld := ⟨MON_RES e, 15, 1, .ro⟩
def MON_RES_UPDATES (e : Nat) : Fld := ⟨MON_RES e, 16, 12, .ro⟩
/-- `CHP_STREAM_MAP` (R302). -/
def CHP_STREAM_MAP (z : Nat) : Nat := 0xa000 + z * 0x4
def CHP_STREAM_MAP_RING (z : Nat) : Fld := ⟨CHP_STREAM_MAP z, 0, 6, .rw⟩
def CHP_STREAM_MAP_EN (z : Nat) : Fld := ⟨CHP_STREAM_MAP z, 6, 1, .rw⟩

end Fd

namespace Fd

/-- `RGN_CTL` (R452). -/
def RGN_CTL (r : Nat) : Nat := rgnBase r + 0x0
def RGN_CTL_PARK (r : Nat) : Fld := ⟨RGN_CTL r, 0, 1, .w1s⟩
def RGN_CTL_UNPARK (r : Nat) : Fld := ⟨RGN_CTL r, 1, 1, .w1s⟩
/-- `RGN_UNIT_STS` (R452). -/
def RGN_UNIT_STS (r : Nat) : Nat := rgnBase r + 0x4
def RGN_UNIT_STS_BLOCK_OK (r : Nat) : Fld := ⟨RGN_UNIT_STS r, 0, 16, .ro⟩
def RGN_UNIT_STS_DAC_OK (r : Nat) : Fld := ⟨RGN_UNIT_STS r, 16, 8, .ro⟩
def RGN_UNIT_STS_ADC_OK (r : Nat) : Fld := ⟨RGN_UNIT_STS r, 24, 4, .ro⟩
/-- `RGN_SUP_CFG` (R452). -/
def RGN_SUP_CFG (r : Nat) : Nat := rgnBase r + 0x8
def RGN_SUP_CFG_BLK_ESC (r : Nat) : Fld := ⟨RGN_SUP_CFG r, 0, 4, .rw⟩
def RGN_SUP_CFG_BLK_REPEAT (r : Nat) : Fld := ⟨RGN_SUP_CFG r, 4, 4, .rw⟩
/-- `RGN_SUP_STS` (R452). -/
def RGN_SUP_STS (r : Nat) : Nat := rgnBase r + 0xc
def RGN_SUP_STS_PARKED (r : Nat) : Fld := ⟨RGN_SUP_STS r, 0, 1, .ro⟩
def RGN_SUP_STS_CAUSE (r : Nat) : Fld := ⟨RGN_SUP_STS r, 1, 6, .ro⟩
def RGN_SUP_STS_REINIT (r : Nat) : Fld := ⟨RGN_SUP_STS r, 7, 1, .ro⟩
def RGN_SUP_STS_PARKS (r : Nat) : Fld := ⟨RGN_SUP_STS r, 16, 16, .rc⟩
/-- `RGN_LEAD_CTL` (R51). -/
def RGN_LEAD_CTL (r : Nat) : Nat := rgnBase r + 0x10
def RGN_LEAD_CTL_EN (r : Nat) : Fld := ⟨RGN_LEAD_CTL r, 0, 1, .rw⟩
def RGN_LEAD_CTL_FREEZE (r : Nat) : Fld := ⟨RGN_LEAD_CTL r, 1, 1, .rw⟩
def RGN_LEAD_CTL_RATE (r : Nat) : Fld := ⟨RGN_LEAD_CTL r, 2, 2, .rw⟩
def RGN_LEAD_CTL_LEAD_LO (r : Nat) : Fld := ⟨RGN_LEAD_CTL r, 4, 7, .rw⟩
def RGN_LEAD_CTL_LEAD_HI (r : Nat) : Fld := ⟨RGN_LEAD_CTL r, 11, 7, .rw⟩
def RGN_LEAD_CTL_FSTEP (r : Nat) : Fld := ⟨RGN_LEAD_CTL r, 18, 4, .rw⟩
def RGN_LEAD_CTL_HEADROOM (r : Nat) : Fld := ⟨RGN_LEAD_CTL r, 22, 3, .rw⟩
def RGN_LEAD_CTL_VSTEP (r : Nat) : Fld := ⟨RGN_LEAD_CTL r, 25, 4, .rw⟩
def RGN_LEAD_CTL_LOWER_HOLD (r : Nat) : Fld := ⟨RGN_LEAD_CTL r, 29, 3, .rw⟩
/-- `RGN_LEAD_OVR` (R51). -/
def RGN_LEAD_OVR (r : Nat) : Nat := rgnBase r + 0x14
def RGN_LEAD_OVR_MAN_EN (r : Nat) : Fld := ⟨RGN_LEAD_OVR r, 0, 1, .rw⟩
def RGN_LEAD_OVR_MAN_FREQ (r : Nat) : Fld := ⟨RGN_LEAD_OVR r, 1, 11, .rw⟩
def RGN_LEAD_OVR_MAN_VDD (r : Nat) : Fld := ⟨RGN_LEAD_OVR r, 12, 10, .rw⟩
/-- `RGN_LEAD_STS` (R51). -/
def RGN_LEAD_STS (r : Nat) : Nat := rgnBase r + 0x18
def RGN_LEAD_STS_VDD_REQ (r : Nat) : Fld := ⟨RGN_LEAD_STS r, 0, 10, .ro⟩
def RGN_LEAD_STS_VDD_NOW (r : Nat) : Fld := ⟨RGN_LEAD_STS r, 10, 10, .ro⟩
def RGN_LEAD_STS_AT_FMAX_CNT (r : Nat) : Fld := ⟨RGN_LEAD_STS r, 20, 9, .ro⟩
def RGN_LEAD_STS_AT_VMAX (r : Nat) : Fld := ⟨RGN_LEAD_STS r, 29, 1, .ro⟩
def RGN_LEAD_STS_CFG_ERR (r : Nat) : Fld := ⟨RGN_LEAD_STS r, 30, 1, .ro⟩
/-- `RGN_LEDGER_STS` (R57). -/
def RGN_LEDGER_STS (r : Nat) : Nat := rgnBase r + 0x20
def RGN_LEDGER_STS_BOOK (r : Nat) : Fld := ⟨RGN_LEDGER_STS r, 0, 4, .ro⟩
def RGN_LEDGER_STS_UNIT (r : Nat) : Fld := ⟨RGN_LEDGER_STS r, 5, 9, .ro⟩
def RGN_LEDGER_STS_MISMATCH (r : Nat) : Fld := ⟨RGN_LEDGER_STS r, 31, 1, .w1c⟩
/-- `RGN_LEDGER_ISSUED` (R57). -/
def RGN_LEDGER_ISSUED (r : Nat) : Nat := rgnBase r + 0x24
def RGN_LEDGER_ISSUED_ISSUED (r : Nat) : Fld := ⟨RGN_LEDGER_ISSUED r, 0, 32, .ro⟩
/-- `RGN_LEDGER_RETURNED` (R57). -/
def RGN_LEDGER_RETURNED (r : Nat) : Nat := rgnBase r + 0x28
def RGN_LEDGER_RETURNED_RETURNED (r : Nat) : Fld := ⟨RGN_LEDGER_RETURNED r, 0, 32, .ro⟩
/-- `RGN_LEDGER_INFLIGHT` (R57). -/
def RGN_LEDGER_INFLIGHT (r : Nat) : Nat := rgnBase r + 0x2c
def RGN_LEDGER_INFLIGHT_IN_FLIGHT (r : Nat) : Fld := ⟨RGN_LEDGER_INFLIGHT r, 0, 32, .ro⟩
/-- `RGN_THERM_CTL` (R434). -/
def RGN_THERM_CTL (r : Nat) : Nat := rgnBase r + 0x30
def RGN_THERM_CTL_WARN (r : Nat) : Fld := ⟨RGN_THERM_CTL r, 0, 8, .rw⟩
def RGN_THERM_CTL_THROT (r : Nat) : Fld := ⟨RGN_THERM_CTL r, 8, 8, .rw⟩
def RGN_THERM_CTL_HYST (r : Nat) : Fld := ⟨RGN_THERM_CTL r, 16, 4, .rw⟩
def RGN_THERM_CTL_GRACE (r : Nat) : Fld := ⟨RGN_THERM_CTL r, 20, 10, .rw⟩
/-- `RGN_THERM_STS` (R434). -/
def RGN_THERM_STS (r : Nat) : Nat := rgnBase r + 0x34
def RGN_THERM_STS_STEP (r : Nat) : Fld := ⟨RGN_THERM_STS r, 0, 2, .ro⟩
def RGN_THERM_STS_HELD (r : Nat) : Fld := ⟨RGN_THERM_STS r, 2, 1, .ro⟩
def RGN_THERM_STS_WARN (r : Nat) : Fld := ⟨RGN_THERM_STS r, 3, 1, .ro⟩
def RGN_THERM_STS_REQUEST (r : Nat) : Fld := ⟨RGN_THERM_STS r, 4, 1, .ro⟩
def RGN_THERM_STS_HOT_S (r : Nat) : Fld := ⟨RGN_THERM_STS r, 5, 7, .ro⟩
def RGN_THERM_STS_HOT_T (r : Nat) : Fld := ⟨RGN_THERM_STS r, 12, 12, .ro⟩
/-- `RGN_DISC_CTL` (R173). -/
def RGN_DISC_CTL (r : Nat) : Nat := rgnBase r + 0x40
def RGN_DISC_CTL_EN (r : Nat) : Fld := ⟨RGN_DISC_CTL r, 0, 1, .rw⟩
def RGN_DISC_CTL_FREEZE (r : Nat) : Fld := ⟨RGN_DISC_CTL r, 1, 1, .rw⟩
/-- `RGN_DEC_CNT` (R188). -/
def RGN_DEC_CNT (r : Nat) : Nat := rgnBase r + 0x44
def RGN_DEC_CNT_POSTED (r : Nat) : Fld := ⟨RGN_DEC_CNT r, 0, 16, .rc⟩
def RGN_DEC_CNT_INVALID (r : Nat) : Fld := ⟨RGN_DEC_CNT r, 16, 16, .rc⟩
/-- `RGN_SYND_CTL` (R206). -/
def RGN_SYND_CTL (r : Nat) : Nat := rgnBase r + 0x50
def RGN_SYND_CTL_EN (r : Nat) : Fld := ⟨RGN_SYND_CTL r, 0, 1, .rw⟩
def RGN_SYND_CTL_APPLY (r : Nat) : Fld := ⟨RGN_SYND_CTL r, 1, 1, .rw⟩
/-- `RGN_SYND_CFG` (R206). -/
def RGN_SYND_CFG (r : Nat) : Nat := rgnBase r + 0x54
def RGN_SYND_CFG_ERASE_MODE (r : Nat) : Fld := ⟨RGN_SYND_CFG r, 0, 2, .sh⟩
def RGN_SYND_CFG_EXP_PORT (r : Nat) : Fld := ⟨RGN_SYND_CFG r, 2, 2, .sh⟩
def RGN_SYND_CFG_EXP_EN (r : Nat) : Fld := ⟨RGN_SYND_CFG r, 4, 1, .sh⟩
def RGN_SYND_CFG_NREC (r : Nat) : Fld := ⟨RGN_SYND_CFG r, 5, 5, .sh⟩
def RGN_SYND_CFG_FRAME_CLR (r : Nat) : Fld := ⟨RGN_SYND_CFG r, 10, 2, .sh⟩
/-- `RGN_SYND_STS` (R206). -/
def RGN_SYND_STS (r : Nat) : Nat := rgnBase r + 0x58
def RGN_SYND_STS_ROUND (r : Nat) : Fld := ⟨RGN_SYND_STS r, 0, 8, .ro⟩
def RGN_SYND_STS_BUSY (r : Nat) : Fld := ⟨RGN_SYND_STS r, 8, 1, .ro⟩
def RGN_SYND_STS_ESC (r : Nat) : Fld := ⟨RGN_SYND_STS r, 9, 1, .w1c⟩
def RGN_SYND_STS_ERASURE (r : Nat) : Fld := ⟨RGN_SYND_STS r, 10, 1, .w1c⟩
def RGN_SYND_STS_CUT (r : Nat) : Fld := ⟨RGN_SYND_STS r, 11, 1, .w1c⟩
def RGN_SYND_STS_REC_OVF (r : Nat) : Fld := ⟨RGN_SYND_STS r, 12, 1, .w1c⟩
/-- `RGN_SYND_CNT0` (R206). -/
def RGN_SYND_CNT0 (r : Nat) : Nat := rgnBase r + 0x5c
def RGN_SYND_CNT0_ROUNDS (r : Nat) : Fld := ⟨RGN_SYND_CNT0 r, 0, 16, .rc⟩
def RGN_SYND_CNT0_ESC (r : Nat) : Fld := ⟨RGN_SYND_CNT0 r, 16, 16, .rc⟩
/-- `RGN_SYND_CNT1` (R206). -/
def RGN_SYND_CNT1 (r : Nat) : Nat := rgnBase r + 0x60
def RGN_SYND_CNT1_ERASED (r : Nat) : Fld := ⟨RGN_SYND_CNT1 r, 0, 16, .rc⟩
def RGN_SYND_CNT1_LUT_MISS (r : Nat) : Fld := ⟨RGN_SYND_CNT1 r, 16, 16, .rc⟩
/-- `RGN_SYND_CNT2` (R206). -/
def RGN_SYND_CNT2 (r : Nat) : Nat := rgnBase r + 0x64
def RGN_SYND_CNT2_LATE_IN (r : Nat) : Fld := ⟨RGN_SYND_CNT2 r, 0, 8, .rc⟩
def RGN_SYND_CNT2_IMPORT_LATE (r : Nat) : Fld := ⟨RGN_SYND_CNT2 r, 8, 8, .rc⟩
def RGN_SYND_CNT2_STALL (r : Nat) : Fld := ⟨RGN_SYND_CNT2 r, 16, 8, .rc⟩
def RGN_SYND_CNT2_IGNORED (r : Nat) : Fld := ⟨RGN_SYND_CNT2 r, 24, 8, .rc⟩
/-- `RGN_DAC_CTL` (R141). -/
def RGN_DAC_CTL (r : Nat) : Nat := rgnBase r + 0x1000
def RGN_DAC_CTL_OCCULT (r : Nat) : Fld := ⟨RGN_DAC_CTL r, 0, 8, .rw⟩
/-- `RGN_DAC_CFG` (R141). -/
def RGN_DAC_CFG (r i : Nat) : Nat := rgnBase r + 0x1100 + i * 0x20
def RGN_DAC_CFG_MODE (r i : Nat) : Fld := ⟨RGN_DAC_CFG r i, 0, 2, .sh⟩
def RGN_DAC_CFG_ZONE (r i : Nat) : Fld := ⟨RGN_DAC_CFG r i, 2, 1, .sh⟩
def RGN_DAC_CFG_COMB_SHIFT (r i : Nat) : Fld := ⟨RGN_DAC_CFG r i, 3, 3, .sh⟩
def RGN_DAC_CFG_LOCK_SHIFT (r i : Nat) : Fld := ⟨RGN_DAC_CFG r i, 6, 3, .sh⟩
def RGN_DAC_CFG_EN (r i : Nat) : Fld := ⟨RGN_DAC_CFG r i, 9, 1, .sh⟩
/-- `RGN_DAC_FTW_LO` (R141). -/
def RGN_DAC_FTW_LO (r i : Nat) : Nat := rgnBase r + 0x1104 + i * 0x20
def RGN_DAC_FTW_LO_FTW_LO (r i : Nat) : Fld := ⟨RGN_DAC_FTW_LO r i, 0, 32, .sh⟩
/-- `RGN_DAC_FTW_HI` (R141). -/
def RGN_DAC_FTW_HI (r i : Nat) : Nat := rgnBase r + 0x1108 + i * 0x20
def RGN_DAC_FTW_HI_FTW_HI (r i : Nat) : Fld := ⟨RGN_DAC_FTW_HI r i, 0, 16, .sh⟩
def RGN_DAC_FTW_HI_POFF (r i : Nat) : Fld := ⟨RGN_DAC_FTW_HI r i, 16, 16, .sh⟩
/-- `RGN_DAC_STS` (R141). -/
def RGN_DAC_STS (r i : Nat) : Nat := rgnBase r + 0x110c + i * 0x20
def RGN_DAC_STS_LOCK_STATE (r i : Nat) : Fld := ⟨RGN_DAC_STS r i, 0, 2, .ro⟩
def RGN_DAC_STS_OWNER (r i : Nat) : Fld := ⟨RGN_DAC_STS r i, 2, 9, .ro⟩
def RGN_DAC_STS_OCCULTED (r i : Nat) : Fld := ⟨RGN_DAC_STS r i, 11, 1, .ro⟩
def RGN_DAC_STS_LOCK_BROKEN (r i : Nat) : Fld := ⟨RGN_DAC_STS r i, 12, 1, .w1c⟩
/-- `RGN_DAC_EPOCH` (R141). -/
def RGN_DAC_EPOCH (r i : Nat) : Nat := rgnBase r + 0x1110 + i * 0x20
def RGN_DAC_EPOCH_EPOCH (r i : Nat) : Fld := ⟨RGN_DAC_EPOCH r i, 0, 32, .ro⟩
/-- `RGN_DAC_CNT` (R141). -/
def RGN_DAC_CNT (r i : Nat) : Nat := rgnBase r + 0x1114 + i * 0x20
def RGN_DAC_CNT_COMB_SAT (r i : Nat) : Fld := ⟨RGN_DAC_CNT r i, 0, 16, .rc⟩
def RGN_DAC_CNT_OUT_SAT (r i : Nat) : Fld := ⟨RGN_DAC_CNT r i, 16, 16, .rc⟩
/-- `RGN_ADC_CFG` (R157). -/
def RGN_ADC_CFG (r j : Nat) : Nat := rgnBase r + 0x2000 + j * 0x40
def RGN_ADC_CFG_MODE (r j : Nat) : Fld := ⟨RGN_ADC_CFG r j, 0, 1, .sh⟩
def RGN_ADC_CFG_EN (r j : Nat) : Fld := ⟨RGN_ADC_CFG r j, 1, 1, .sh⟩
def RGN_ADC_CFG_FS (r j : Nat) : Fld := ⟨RGN_ADC_CFG r j, 2, 1, .sh⟩
def RGN_ADC_CFG_GAIN_A (r j : Nat) : Fld := ⟨RGN_ADC_CFG r j, 3, 2, .sh⟩
def RGN_ADC_CFG_GAIN_B (r j : Nat) : Fld := ⟨RGN_ADC_CFG r j, 5, 2, .sh⟩
/-- `RGN_ADC_STS` (R157). -/
def RGN_ADC_STS (r j : Nat) : Nat := rgnBase r + 0x2004 + j * 0x40
def RGN_ADC_STS_CAL (r j : Nat) : Fld := ⟨RGN_ADC_STS r j, 0, 1, .ro⟩
def RGN_ADC_STS_OVR_A (r j : Nat) : Fld := ⟨RGN_ADC_STS r j, 1, 1, .w1c⟩
def RGN_ADC_STS_OVR_B (r j : Nat) : Fld := ⟨RGN_ADC_STS r j, 2, 1, .w1c⟩
def RGN_ADC_STS_BAND_SAT (r j : Nat) : Fld := ⟨RGN_ADC_STS r j, 3, 1, .w1c⟩
/-- `RGN_ADC_CNT` (R157). -/
def RGN_ADC_CNT (r j : Nat) : Nat := rgnBase r + 0x2008 + j * 0x40
def RGN_ADC_CNT_OVR_A (r j : Nat) : Fld := ⟨RGN_ADC_CNT r j, 0, 16, .rc⟩
def RGN_ADC_CNT_OVR_B (r j : Nat) : Fld := ⟨RGN_ADC_CNT r j, 16, 16, .rc⟩
/-- `RGN_ADC_FTW_LO` (R157). -/
def RGN_ADC_FTW_LO (r j x : Nat) : Nat := rgnBase r + 0x2010 + j * 0x40 + x * 0x8
def RGN_ADC_FTW_LO_FTW_LO (r j x : Nat) : Fld := ⟨RGN_ADC_FTW_LO r j x, 0, 32, .sh⟩
/-- `RGN_ADC_FTW_HI` (R157). -/
def RGN_ADC_FTW_HI (r j x : Nat) : Nat := rgnBase r + 0x2014 + j * 0x40 + x * 0x8
def RGN_ADC_FTW_HI_FTW_HI (r j x : Nat) : Fld := ⟨RGN_ADC_FTW_HI r j x, 0, 16, .sh⟩
def RGN_ADC_FTW_HI_POFF (r j x : Nat) : Fld := ⟨RGN_ADC_FTW_HI r j x, 16, 16, .sh⟩
/-- `RGN_MIS_CTL` (R402). -/
def RGN_MIS_CTL (r : Nat) : Nat := rgnBase r + 0x2100
def RGN_MIS_CTL_EN (r : Nat) : Fld := ⟨RGN_MIS_CTL r, 0, 1, .rw⟩
def RGN_MIS_CTL_RATE (r : Nat) : Fld := ⟨RGN_MIS_CTL r, 1, 2, .rw⟩
def RGN_MIS_CTL_FREEZE (r : Nat) : Fld := ⟨RGN_MIS_CTL r, 3, 1, .rw⟩
def RGN_MIS_CTL_CNT_EXP (r : Nat) : Fld := ⟨RGN_MIS_CTL r, 4, 5, .rw⟩
def RGN_MIS_CTL_POW_MIN (r : Nat) : Fld := ⟨RGN_MIS_CTL r, 16, 12, .rw⟩
/-- `RGN_MIS_STS` (R402). -/
def RGN_MIS_STS (r j : Nat) : Nat := rgnBase r + 0x2110 + j * 0x4
def RGN_MIS_STS_POW_LOW (r j : Nat) : Fld := ⟨RGN_MIS_STS r j, 0, 1, .w1c⟩
def RGN_MIS_STS_REJ (r j : Nat) : Fld := ⟨RGN_MIS_STS r j, 1, 1, .w1c⟩
def RGN_MIS_STS_UPDATES (r j : Nat) : Fld := ⟨RGN_MIS_STS r j, 16, 16, .rc⟩
/-- `ACQ_CH_CFG` (R229). -/
def ACQ_CH_CFG (r h : Nat) : Nat := rgnBase r + 0x3000 + h * 0x40
def ACQ_CH_CFG_SRC (r h : Nat) : Fld := ⟨ACQ_CH_CFG r h, 0, 4, .rw⟩
def ACQ_CH_CFG_UNIT (r h : Nat) : Fld := ⟨ACQ_CH_CFG r h, 4, 3, .rw⟩
def ACQ_CH_CFG_INPUT (r h : Nat) : Fld := ⟨ACQ_CH_CFG r h, 7, 1, .rw⟩
def ACQ_CH_CFG_MODE (r h : Nat) : Fld := ⟨ACQ_CH_CFG r h, 8, 2, .rw⟩
def ACQ_CH_CFG_SPOOL (r h : Nat) : Fld := ⟨ACQ_CH_CFG r h, 10, 1, .rw⟩
def ACQ_CH_CFG_DECIM (r h : Nat) : Fld := ⟨ACQ_CH_CFG r h, 11, 4, .rw⟩
def ACQ_CH_CFG_KMAX (r h : Nat) : Fld := ⟨ACQ_CH_CFG r h, 15, 4, .rw⟩
def ACQ_CH_CFG_STAGE_HIGH (r h : Nat) : Fld := ⟨ACQ_CH_CFG r h, 19, 4, .rw⟩
def ACQ_CH_CFG_EV_PLATE (r h : Nat) : Fld := ⟨ACQ_CH_CFG r h, 23, 1, .rw⟩
/-- `ACQ_CH_RING` (R229). -/
def ACQ_CH_RING (r h : Nat) : Nat := rgnBase r + 0x3004 + h * 0x40
def ACQ_CH_RING_RING (r h : Nat) : Fld := ⟨ACQ_CH_RING r h, 0, 6, .rw⟩
/-- `ACQ_PRE` (R229). -/
def ACQ_PRE (r h : Nat) : Nat := rgnBase r + 0x3008 + h * 0x40
def ACQ_PRE_PRE (r h : Nat) : Fld := ⟨ACQ_PRE r h, 0, 32, .rw⟩
/-- `ACQ_POST` (R229). -/
def ACQ_POST (r h : Nat) : Nat := rgnBase r + 0x300c + h * 0x40
def ACQ_POST_POST (r h : Nat) : Fld := ⟨ACQ_POST r h, 0, 32, .rw⟩
/-- `ACQ_COUNT` (R229). -/
def ACQ_COUNT (r h : Nat) : Nat := rgnBase r + 0x3010 + h * 0x40
def ACQ_COUNT_COUNT (r h : Nat) : Fld := ⟨ACQ_COUNT r h, 0, 32, .rw⟩
/-- `ACQ_AUTO` (R229). -/
def ACQ_AUTO (r h : Nat) : Nat := rgnBase r + 0x3014 + h * 0x40
def ACQ_AUTO_TIMEOUT (r h : Nat) : Fld := ⟨ACQ_AUTO r h, 0, 24, .rw⟩
/-- `ACQ_TRIG` (R229). -/
def ACQ_TRIG (r h : Nat) : Nat := rgnBase r + 0x3018 + h * 0x40
def ACQ_TRIG_SRC (r h : Nat) : Fld := ⟨ACQ_TRIG r h, 0, 4, .rw⟩
def ACQ_TRIG_SEL (r h : Nat) : Fld := ⟨ACQ_TRIG r h, 4, 12, .rw⟩
def ACQ_TRIG_SLOPE (r h : Nat) : Fld := ⟨ACQ_TRIG r h, 16, 2, .rw⟩
def ACQ_TRIG_CLASSMASK (r h : Nat) : Fld := ⟨ACQ_TRIG r h, 18, 3, .rw⟩
def ACQ_TRIG_INV (r h : Nat) : Fld := ⟨ACQ_TRIG r h, 21, 1, .rw⟩
/-- `ACQ_LEVEL` (R229). -/
def ACQ_LEVEL (r h : Nat) : Nat := rgnBase r + 0x301c + h * 0x40
def ACQ_LEVEL_LEVEL (r h : Nat) : Fld := ⟨ACQ_LEVEL r h, 0, 16, .rw⟩
def ACQ_LEVEL_HYST (r h : Nat) : Fld := ⟨ACQ_LEVEL r h, 16, 16, .rw⟩
/-- `ACQ_MFTW_LO` (R229). -/
def ACQ_MFTW_LO (r h : Nat) : Nat := rgnBase r + 0x3020 + h * 0x40
def ACQ_MFTW_LO_FTW_LO (r h : Nat) : Fld := ⟨ACQ_MFTW_LO r h, 0, 32, .rw⟩
/-- `ACQ_MFTW_HI` (R229). -/
def ACQ_MFTW_HI (r h : Nat) : Nat := rgnBase r + 0x3024 + h * 0x40
def ACQ_MFTW_HI_FTW_HI (r h : Nat) : Fld := ⟨ACQ_MFTW_HI r h, 0, 16, .rw⟩
def ACQ_MFTW_HI_POFF (r h : Nat) : Fld := ⟨ACQ_MFTW_HI r h, 16, 16, .rw⟩
/-- `ACQ_CH_CTL` (R229). -/
def ACQ_CH_CTL (r h : Nat) : Nat := rgnBase r + 0x3028 + h * 0x40
def ACQ_CH_CTL_ARM (r h : Nat) : Fld := ⟨ACQ_CH_CTL r h, 0, 1, .w1s⟩
def ACQ_CH_CTL_DISARM (r h : Nat) : Fld := ⟨ACQ_CH_CTL r h, 1, 1, .w1s⟩
def ACQ_CH_CTL_SOFT_TRIG (r h : Nat) : Fld := ⟨ACQ_CH_CTL r h, 2, 1, .w1s⟩
def ACQ_CH_CTL_RATE_RESET (r h : Nat) : Fld := ⟨ACQ_CH_CTL r h, 3, 1, .w1s⟩
/-- `ACQ_CH_STS` (R229). -/
def ACQ_CH_STS (r h : Nat) : Nat := rgnBase r + 0x302c + h * 0x40
def ACQ_CH_STS_STATE (r h : Nat) : Fld := ⟨ACQ_CH_STS r h, 0, 3, .ro⟩
def ACQ_CH_STS_K (r h : Nat) : Fld := ⟨ACQ_CH_STS r h, 3, 4, .ro⟩
def ACQ_CH_STS_RATE_REDUCED (r h : Nat) : Fld := ⟨ACQ_CH_STS r h, 7, 1, .w1c⟩
def ACQ_CH_STS_LOSS (r h : Nat) : Fld := ⟨ACQ_CH_STS r h, 8, 1, .w1c⟩
def ACQ_CH_STS_TRUNC (r h : Nat) : Fld := ⟨ACQ_CH_STS r h, 9, 1, .w1c⟩
def ACQ_CH_STS_CFG_ERR (r h : Nat) : Fld := ⟨ACQ_CH_STS r h, 10, 1, .w1c⟩
/-- `ACQ_CH_CNT` (R229). -/
def ACQ_CH_CNT (r h : Nat) : Nat := rgnBase r + 0x3030 + h * 0x40
def ACQ_CH_CNT_MISSED_TRIG (r h : Nat) : Fld := ⟨ACQ_CH_CNT r h, 0, 16, .rc⟩
def ACQ_CH_CNT_PLATES (r h : Nat) : Fld := ⟨ACQ_CH_CNT r h, 16, 16, .rc⟩
/-- `ACQ_CH_CNT2` (R229). -/
def ACQ_CH_CNT2 (r h : Nat) : Nat := rgnBase r + 0x3034 + h * 0x40
def ACQ_CH_CNT2_LOSS_PLATES (r h : Nat) : Fld := ⟨ACQ_CH_CNT2 r h, 0, 16, .rc⟩
/-- `VIO_CTL` (R244). -/
def VIO_CTL (r : Nat) : Nat := rgnBase r + 0x4000
def VIO_CTL_OCCULT (r : Nat) : Fld := ⟨VIO_CTL r, 0, 8, .rw⟩
/-- `VIO_PIN_CFG` (R244). -/
def VIO_PIN_CFG (r w : Nat) : Nat := rgnBase r + 0x4100 + w * 0x20
def VIO_PIN_CFG_SRC (r w : Nat) : Fld := ⟨VIO_PIN_CFG r w, 0, 9, .sh⟩
def VIO_PIN_CFG_LANE (r w : Nat) : Fld := ⟨VIO_PIN_CFG r w, 9, 3, .sh⟩
def VIO_PIN_CFG_EN (r w : Nat) : Fld := ⟨VIO_PIN_CFG r w, 12, 1, .sh⟩
def VIO_PIN_CFG_REST (r w : Nat) : Fld := ⟨VIO_PIN_CFG r w, 13, 2, .sh⟩
def VIO_PIN_CFG_STROBE (r w : Nat) : Fld := ⟨VIO_PIN_CFG r w, 15, 4, .sh⟩
def VIO_PIN_CFG_OCC_DRIVE (r w : Nat) : Fld := ⟨VIO_PIN_CFG r w, 19, 1, .sh⟩
def VIO_PIN_CFG_PULL (r w : Nat) : Fld := ⟨VIO_PIN_CFG r w, 20, 1, .sh⟩
/-- `VIO_PIN_THR` (R244). -/
def VIO_PIN_THR (r w : Nat) : Nat := rgnBase r + 0x4104 + w * 0x20
def VIO_PIN_THR_VTL (r w : Nat) : Fld := ⟨VIO_PIN_THR r w, 0, 8, .sh⟩
def VIO_PIN_THR_VTH (r w : Nat) : Fld := ⟨VIO_PIN_THR r w, 8, 8, .sh⟩
/-- `VIO_STS` (R244). -/
def VIO_STS (r w : Nat) : Nat := rgnBase r + 0x4108 + w * 0x20
def VIO_STS_LEVEL (r w : Nat) : Fld := ⟨VIO_STS r w, 0, 2, .ro⟩
def VIO_STS_FAIL (r w : Nat) : Fld := ⟨VIO_STS r w, 2, 1, .w1c⟩
def VIO_STS_BAD_CODE (r w : Nat) : Fld := ⟨VIO_STS r w, 3, 1, .w1c⟩
def VIO_STS_OCCULTED (r w : Nat) : Fld := ⟨VIO_STS r w, 4, 1, .ro⟩
/-- `VIO_CNT` (R244). -/
def VIO_CNT (r w : Nat) : Nat := rgnBase r + 0x410c + w * 0x20
def VIO_CNT_FAIL_TICKS (r w : Nat) : Fld := ⟨VIO_CNT r w, 0, 16, .rc⟩
def VIO_CNT_RUNS_FAILED (r w : Nat) : Fld := ⟨VIO_CNT r w, 16, 16, .rc⟩
/-- `VIO_FIRST` (R244). -/
def VIO_FIRST (r w : Nat) : Nat := rgnBase r + 0x4110 + w * 0x20
def VIO_FIRST_LATCH (r w : Nat) : Fld := ⟨VIO_FIRST r w, 0, 18, .ro⟩
def VIO_FIRST_LEVEL (r w : Nat) : Fld := ⟨VIO_FIRST r w, 18, 2, .ro⟩
def VIO_FIRST_CODE (r w : Nat) : Fld := ⟨VIO_FIRST r w, 20, 4, .ro⟩
def VIO_FIRST_VALID (r w : Nat) : Fld := ⟨VIO_FIRST r w, 24, 1, .ro⟩
/-- `RGN_ARB_CFG` (R343). -/
def RGN_ARB_CFG (r : Nat) : Nat := rgnBase r + 0x5000
def RGN_ARB_CFG_STARVE_LIMIT (r : Nat) : Fld := ⟨RGN_ARB_CFG r, 0, 16, .rw⟩
/-- `RGN_ARB_WDOG` (R343). -/
def RGN_ARB_WDOG (r : Nat) : Nat := rgnBase r + 0x5004
def RGN_ARB_WDOG_LIMIT (r : Nat) : Fld := ⟨RGN_ARB_WDOG r, 0, 16, .rw⟩
def RGN_ARB_WDOG_EN (r : Nat) : Fld := ⟨RGN_ARB_WDOG r, 16, 1, .rw⟩
def RGN_ARB_WDOG_LAST_X (r : Nat) : Fld := ⟨RGN_ARB_WDOG r, 17, 5, .ro⟩
/-- `RGN_ARB_STS` (R343). -/
def RGN_ARB_STS (r : Nat) : Nat := rgnBase r + 0x5008
def RGN_ARB_STS_STARVE (r : Nat) : Fld := ⟨RGN_ARB_STS r, 0, 22, .w1c⟩
/-- `RGN_ARB_REQ` (R343). -/
def RGN_ARB_REQ (r x : Nat) : Nat := rgnBase r + 0x5100 + x * 0x10
def RGN_ARB_REQ_BURST (r x : Nat) : Fld := ⟨RGN_ARB_REQ r x, 0, 8, .rw⟩
/-- `RGN_ARB_GRANTS` (R343). -/
def RGN_ARB_GRANTS (r x : Nat) : Nat := rgnBase r + 0x5104 + x * 0x10
def RGN_ARB_GRANTS_GRANTS (r x : Nat) : Fld := ⟨RGN_ARB_GRANTS r x, 0, 32, .rc⟩
/-- `RGN_ARB_WAIT` (R343). -/
def RGN_ARB_WAIT (r x : Nat) : Nat := rgnBase r + 0x5108 + x * 0x10
def RGN_ARB_WAIT_WAIT (r x : Nat) : Fld := ⟨RGN_ARB_WAIT r x, 0, 32, .rc⟩
/-- `RGN_ARB_LONGEST` (R343). -/
def RGN_ARB_LONGEST (r x : Nat) : Nat := rgnBase r + 0x510c + x * 0x10
def RGN_ARB_LONGEST_LONGEST (r x : Nat) : Fld := ⟨RGN_ARB_LONGEST r x, 0, 24, .rc⟩
/-- `RGN_COLL_CTL` (R399). -/
def RGN_COLL_CTL (r : Nat) : Nat := rgnBase r + 0x6000
def RGN_COLL_CTL_EN (r : Nat) : Fld := ⟨RGN_COLL_CTL r, 0, 1, .rw⟩
def RGN_COLL_CTL_RATE (r : Nat) : Fld := ⟨RGN_COLL_CTL r, 1, 2, .rw⟩
def RGN_COLL_CTL_FREEZE (r : Nat) : Fld := ⟨RGN_COLL_CTL r, 3, 1, .rw⟩
def RGN_COLL_CTL_MEAS_EXP (r : Nat) : Fld := ⟨RGN_COLL_CTL r, 4, 4, .rw⟩
def RGN_COLL_CTL_JUMP (r : Nat) : Fld := ⟨RGN_COLL_CTL r, 8, 6, .rw⟩
/-- `RGN_COLL_TRIM` (R399). -/
def RGN_COLL_TRIM (r k : Nat) : Nat := rgnBase r + 0x6100 + k * 0x4
def RGN_COLL_TRIM_USER (r k : Nat) : Fld := ⟨RGN_COLL_TRIM r k, 0, 12, .rw⟩
def RGN_COLL_TRIM_MAN (r k : Nat) : Fld := ⟨RGN_COLL_TRIM r k, 12, 1, .rw⟩
/-- `RGN_COLL_STS` (R399). -/
def RGN_COLL_STS (r k : Nat) : Nat := rgnBase r + 0x6200 + k * 0x4
def RGN_COLL_STS_APPLIED (r k : Nat) : Fld := ⟨RGN_COLL_STS r k, 0, 12, .ro⟩
def RGN_COLL_STS_TRACK (r k : Nat) : Fld := ⟨RGN_COLL_STS r k, 12, 12, .ro⟩
def RGN_COLL_STS_CLAMP (r k : Nat) : Fld := ⟨RGN_COLL_STS r k, 24, 1, .w1c⟩
def RGN_COLL_STS_MOVING (r k : Nat) : Fld := ⟨RGN_COLL_STS r k, 25, 1, .ro⟩

end Fd

namespace Fd

/-- `BLK_SEG_CFG` (R101). -/
def BLK_SEG_CFG (r b : Nat) : Nat := blkBase r b + 0x0
def BLK_SEG_CFG_STAGE_LINES (r b : Nat) : Fld := ⟨BLK_SEG_CFG r b, 0, 13, .sh⟩
/-- `BLK_SEG_STS` (R101). -/
def BLK_SEG_STS (r b : Nat) : Nat := blkBase r b + 0x4
def BLK_SEG_STS_STAGE_USED (r b : Nat) : Fld := ⟨BLK_SEG_STS r b, 0, 13, .ro⟩
def BLK_SEG_STS_LIB_MISS (r b : Nat) : Fld := ⟨BLK_SEG_STS r b, 16, 16, .rc⟩
/-- `BLK_BB_CTL` (R143). -/
def BLK_BB_CTL (r b : Nat) : Nat := blkBase r b + 0x8
def BLK_BB_CTL_OCCULT (r b : Nat) : Fld := ⟨BLK_BB_CTL r b, 0, 2, .rw⟩
/-- `BLK_BB_CFG` (R143). -/
def BLK_BB_CFG (r b m : Nat) : Nat := blkBase r b + 0x10 + m * 0x4
def BLK_BB_CFG_DC_OFFSET (r b m : Nat) : Fld := ⟨BLK_BB_CFG r b m, 0, 16, .sh⟩
def BLK_BB_CFG_INTERP (r b m : Nat) : Fld := ⟨BLK_BB_CFG r b m, 16, 1, .sh⟩
def BLK_BB_CFG_EN (r b m : Nat) : Fld := ⟨BLK_BB_CFG r b m, 17, 1, .sh⟩
/-- `BLK_BB_CNT` (R143). -/
def BLK_BB_CNT (r b m : Nat) : Nat := blkBase r b + 0x18 + m * 0x4
def BLK_BB_CNT_SAT (r b m : Nat) : Fld := ⟨BLK_BB_CNT r b m, 0, 16, .rc⟩
/-- `BLK_ARB_PRI0` (R342). -/
def BLK_ARB_PRI0 (r b : Nat) : Nat := blkBase r b + 0x20
def BLK_ARB_PRI0_PRI_C (r b : Nat) : Fld := ⟨BLK_ARB_PRI0 r b, 0, 32, .rw⟩
/-- `BLK_ARB_PRI1` (R342). -/
def BLK_ARB_PRI1 (r b : Nat) : Nat := blkBase r b + 0x24
def BLK_ARB_PRI1_PRI_C (r b : Nat) : Fld := ⟨BLK_ARB_PRI1 r b, 0, 4, .rw⟩
def BLK_ARB_PRI1_PRI_REFILL (r b : Nat) : Fld := ⟨BLK_ARB_PRI1 r b, 4, 2, .rw⟩
/-- `BLK_ARB_CFG` (R342). -/
def BLK_ARB_CFG (r b : Nat) : Nat := blkBase r b + 0x28
def BLK_ARB_CFG_BURST (r b : Nat) : Fld := ⟨BLK_ARB_CFG r b, 0, 8, .rw⟩
def BLK_ARB_CFG_STARVE_LIMIT (r b : Nat) : Fld := ⟨BLK_ARB_CFG r b, 8, 16, .rw⟩
/-- `BLK_ARB_WDOG` (R342). -/
def BLK_ARB_WDOG (r b : Nat) : Nat := blkBase r b + 0x2c
def BLK_ARB_WDOG_LIMIT (r b : Nat) : Fld := ⟨BLK_ARB_WDOG r b, 0, 16, .rw⟩
def BLK_ARB_WDOG_EN (r b : Nat) : Fld := ⟨BLK_ARB_WDOG r b, 16, 1, .rw⟩
/-- `BLK_ARB_STS` (R342). -/
def BLK_ARB_STS (r b : Nat) : Nat := blkBase r b + 0x30
def BLK_ARB_STS_STARVE (r b : Nat) : Fld := ⟨BLK_ARB_STS r b, 0, 19, .w1c⟩
/-- `BLK_ARB_CNT` (R342). -/
def BLK_ARB_CNT (r b : Nat) : Nat := blkBase r b + 0x34
def BLK_ARB_CNT_BITES (r b : Nat) : Fld := ⟨BLK_ARB_CNT r b, 0, 16, .rc⟩
def BLK_ARB_CNT_LAST_X (r b : Nat) : Fld := ⟨BLK_ARB_CNT r b, 16, 5, .ro⟩
/-- `BLK_UNIT_STS` (R452). -/
def BLK_UNIT_STS (r b : Nat) : Nat := blkBase r b + 0x40
def BLK_UNIT_STS_CELL_OK (r b : Nat) : Fld := ⟨BLK_UNIT_STS r b, 0, 18, .ro⟩
def BLK_UNIT_STS_BB_OK (r b : Nat) : Fld := ⟨BLK_UNIT_STS r b, 18, 2, .ro⟩
/-- `BLK_SUP_CFG` (R452). -/
def BLK_SUP_CFG (r b : Nat) : Nat := blkBase r b + 0x44
def BLK_SUP_CFG_CELL_ESC (r b : Nat) : Fld := ⟨BLK_SUP_CFG r b, 0, 5, .rw⟩
def BLK_SUP_CFG_REPEAT (r b : Nat) : Fld := ⟨BLK_SUP_CFG r b, 5, 5, .rw⟩
/-- `BLK_SUP_STS` (R452). -/
def BLK_SUP_STS (r b : Nat) : Nat := blkBase r b + 0x48
def BLK_SUP_STS_QUARANTINED (r b : Nat) : Fld := ⟨BLK_SUP_STS r b, 0, 1, .ro⟩
def BLK_SUP_STS_CAUSE (r b : Nat) : Fld := ⟨BLK_SUP_STS r b, 1, 2, .ro⟩
def BLK_SUP_STS_CELLS_Q (r b : Nat) : Fld := ⟨BLK_SUP_STS r b, 3, 5, .ro⟩
def BLK_SUP_STS_QUAR_RUN (r b : Nat) : Fld := ⟨BLK_SUP_STS r b, 8, 8, .ro⟩
def BLK_SUP_STS_QUAR_SHOTS (r b : Nat) : Fld := ⟨BLK_SUP_STS r b, 16, 16, .rc⟩
/-- `BLK_TONE_ROUTE` (R135). -/
def BLK_TONE_ROUTE (r b c : Nat) : Nat := blkBase r b + 0x600 + c * 0x4
def BLK_TONE_ROUTE_DAC (r b c : Nat) : Fld := ⟨BLK_TONE_ROUTE r b c, 0, 3, .sh⟩
def BLK_TONE_ROUTE_TONE (r b c : Nat) : Fld := ⟨BLK_TONE_ROUTE r b c, 3, 4, .sh⟩
def BLK_TONE_ROUTE_BB (r b c : Nat) : Fld := ⟨BLK_TONE_ROUTE r b c, 7, 1, .sh⟩
/-- `BLK_CHAN_ROUTE` (R162). -/
def BLK_CHAN_ROUTE (r b c : Nat) : Nat := blkBase r b + 0x680 + c * 0x4
def BLK_CHAN_ROUTE_ADC (r b c : Nat) : Fld := ⟨BLK_CHAN_ROUTE r b c, 0, 2, .sh⟩
def BLK_CHAN_ROUTE_INPUT (r b c : Nat) : Fld := ⟨BLK_CHAN_ROUTE r b c, 2, 1, .sh⟩

end Fd

namespace Fd

/-- `CEL_CFG` (R68). -/
def CEL_CFG (g : Nat) : Nat := celBase g + 0x0
def CEL_CFG_ROLE (g : Nat) : Fld := ⟨CEL_CFG g, 0, 2, .sh⟩
def CEL_CFG_PHX_EN (g : Nat) : Fld := ⟨CEL_CFG g, 2, 1, .sh⟩
def CEL_CFG_PHX_INLINE (g : Nat) : Fld := ⟨CEL_CFG g, 3, 1, .sh⟩
def CEL_CFG_PM_SPLIT (g : Nat) : Fld := ⟨CEL_CFG g, 4, 5, .sh⟩
def CEL_CFG_WORK_MODE (g : Nat) : Fld := ⟨CEL_CFG g, 9, 2, .sh⟩
def CEL_CFG_EV_EN (g : Nat) : Fld := ⟨CEL_CFG g, 11, 8, .sh⟩
def CEL_CFG_START (g : Nat) : Fld := ⟨CEL_CFG g, 19, 12, .sh⟩
/-- `CEL_CTL` (R69). -/
def CEL_CTL (g : Nat) : Nat := celBase g + 0x4
def CEL_CTL_QUAR_REQ (g : Nat) : Fld := ⟨CEL_CTL g, 0, 1, .w1s⟩
def CEL_CTL_HOLD (g : Nat) : Fld := ⟨CEL_CTL g, 1, 1, .rw⟩
def CEL_CTL_HOST_EV (g : Nat) : Fld := ⟨CEL_CTL g, 2, 1, .w1s⟩
/-- `CEL_STS` (R70). -/
def CEL_STS (g : Nat) : Nat := celBase g + 0x8
def CEL_STS_STATE (g : Nat) : Fld := ⟨CEL_STS g, 0, 2, .ro⟩
def CEL_STS_PHX_PC (g : Nat) : Fld := ⟨CEL_STS g, 2, 12, .ro⟩
def CEL_STS_IN_HANDLER (g : Nat) : Fld := ⟨CEL_STS g, 14, 1, .ro⟩
def CEL_STS_WAITING (g : Nat) : Fld := ⟨CEL_STS g, 15, 1, .ro⟩
def CEL_STS_HALTED (g : Nat) : Fld := ⟨CEL_STS g, 16, 1, .ro⟩
def CEL_STS_EV_PEND (g : Nat) : Fld := ⟨CEL_STS g, 17, 8, .ro⟩
def CEL_STS_SAT (g : Nat) : Fld := ⟨CEL_STS g, 25, 1, .w1c⟩
def CEL_STS_AOV (g : Nat) : Fld := ⟨CEL_STS g, 26, 1, .w1c⟩
/-- `CEL_FAULT` (R89). -/
def CEL_FAULT (g : Nat) : Nat := celBase g + 0xc
def CEL_FAULT_FIRST (g : Nat) : Fld := ⟨CEL_FAULT g, 0, 4, .ro⟩
def CEL_FAULT_CAUSE (g : Nat) : Fld := ⟨CEL_FAULT g, 4, 8, .w1c⟩
def CEL_FAULT_QUAR_SHOTS (g : Nat) : Fld := ⟨CEL_FAULT g, 16, 8, .rc⟩
/-- `CEL_LEAD_STS` (R51). -/
def CEL_LEAD_STS (g : Nat) : Nat := celBase g + 0x10
def CEL_LEAD_STS_LEAD_NOW (g : Nat) : Fld := ⟨CEL_LEAD_STS g, 0, 8, .ro⟩
def CEL_LEAD_STS_LEAD_MIN (g : Nat) : Fld := ⟨CEL_LEAD_STS g, 8, 8, .ro⟩
def CEL_LEAD_STS_FREQ (g : Nat) : Fld := ⟨CEL_LEAD_STS g, 16, 11, .ro⟩
def CEL_LEAD_STS_AT_FMAX (g : Nat) : Fld := ⟨CEL_LEAD_STS g, 27, 1, .ro⟩
def CEL_LEAD_STS_LATE (g : Nat) : Fld := ⟨CEL_LEAD_STS g, 28, 1, .w1c⟩
def CEL_LEAD_STS_LEAD_LOST (g : Nat) : Fld := ⟨CEL_LEAD_STS g, 29, 1, .w1c⟩
/-- `CEL_LATE_CNT` (R51). -/
def CEL_LATE_CNT (g : Nat) : Nat := celBase g + 0x14
def CEL_LATE_CNT_LATE_MISS (g : Nat) : Fld := ⟨CEL_LATE_CNT g, 0, 16, .rc⟩
def CEL_LATE_CNT_LATE_DISCARD (g : Nat) : Fld := ⟨CEL_LATE_CNT g, 16, 16, .rc⟩
/-- `CEL_ECC` (R70). -/
def CEL_ECC (g : Nat) : Nat := celBase g + 0x18
def CEL_ECC_CORR_CNT (g : Nat) : Fld := ⟨CEL_ECC g, 0, 16, .rc⟩
def CEL_ECC_LAST_MEM (g : Nat) : Fld := ⟨CEL_ECC g, 16, 3, .ro⟩
/-- `CEL_SEQ_CFG` (R101). -/
def CEL_SEQ_CFG (g : Nat) : Nat := celBase g + 0x1c
def CEL_SEQ_CFG_STAGE_LINES (g : Nat) : Fld := ⟨CEL_SEQ_CFG g, 0, 8, .sh⟩
def CEL_SEQ_CFG_UNDERRUN_LEAD (g : Nat) : Fld := ⟨CEL_SEQ_CFG g, 8, 4, .sh⟩
/-- `CEL_SEQ_STS` (R126). -/
def CEL_SEQ_STS (g : Nat) : Nat := celBase g + 0x20
def CEL_SEQ_STS_PC (g : Nat) : Fld := ⟨CEL_SEQ_STS g, 0, 12, .ro⟩
def CEL_SEQ_STS_HOLD (g : Nat) : Fld := ⟨CEL_SEQ_STS g, 12, 2, .ro⟩
def CEL_SEQ_STS_SLOT_FULL (g : Nat) : Fld := ⟨CEL_SEQ_STS g, 14, 8, .ro⟩
def CEL_SEQ_STS_UNDERRUN (g : Nat) : Fld := ⟨CEL_SEQ_STS g, 22, 1, .w1c⟩
def CEL_SEQ_STS_WAIT_EXP (g : Nat) : Fld := ⟨CEL_SEQ_STS g, 23, 1, .w1c⟩
def CEL_SEQ_STS_DEC_LATE (g : Nat) : Fld := ⟨CEL_SEQ_STS g, 24, 1, .w1c⟩
def CEL_SEQ_STS_SLOT_OVW (g : Nat) : Fld := ⟨CEL_SEQ_STS g, 25, 1, .w1c⟩
def CEL_SEQ_STS_SEQ_CAUSE (g : Nat) : Fld := ⟨CEL_SEQ_STS g, 26, 2, .ro⟩
/-- `CEL_SEQ_CNT0` (R126). -/
def CEL_SEQ_CNT0 (g : Nat) : Nat := celBase g + 0x24
def CEL_SEQ_CNT0_DECISION_LATE (g : Nat) : Fld := ⟨CEL_SEQ_CNT0 g, 0, 16, .rc⟩
def CEL_SEQ_CNT0_DECISION_INVALID (g : Nat) : Fld := ⟨CEL_SEQ_CNT0 g, 16, 16, .rc⟩
/-- `CEL_SEQ_CNT1` (R126). -/
def CEL_SEQ_CNT1 (g : Nat) : Nat := celBase g + 0x28
def CEL_SEQ_CNT1_WAIT_EXPIRED (g : Nat) : Fld := ⟨CEL_SEQ_CNT1 g, 0, 16, .rc⟩
def CEL_SEQ_CNT1_UNDERRUN (g : Nat) : Fld := ⟨CEL_SEQ_CNT1 g, 16, 16, .rc⟩
/-- `CEL_DRV_STS` (R151). -/
def CEL_DRV_STS (g : Nat) : Nat := celBase g + 0x2c
def CEL_DRV_STS_LOCKED (g : Nat) : Fld := ⟨CEL_DRV_STS g, 0, 1, .ro⟩
def CEL_DRV_STS_LOCK_DENIED (g : Nat) : Fld := ⟨CEL_DRV_STS g, 1, 1, .w1c⟩
def CEL_DRV_STS_LOCK_IMPLICIT (g : Nat) : Fld := ⟨CEL_DRV_STS g, 2, 1, .w1c⟩
def CEL_DRV_STS_MIX_SAT (g : Nat) : Fld := ⟨CEL_DRV_STS g, 3, 1, .w1c⟩
def CEL_DRV_STS_SAT_CNT (g : Nat) : Fld := ⟨CEL_DRV_STS g, 16, 16, .rc⟩
/-- `CEL_RO_CFG` (R180). -/
def CEL_RO_CFG (g : Nat) : Nat := celBase g + 0x30
def CEL_RO_CFG_NSLOT (g : Nat) : Fld := ⟨CEL_RO_CFG g, 0, 6, .sh⟩
def CEL_RO_CFG_PHX_DELAY (g : Nat) : Fld := ⟨CEL_RO_CFG g, 6, 4, .sh⟩
/-- `CEL_RO_STS` (R180). -/
def CEL_RO_STS (g : Nat) : Nat := celBase g + 0x34
def CEL_RO_STS_SLOTS_USED (g : Nat) : Fld := ⟨CEL_RO_STS g, 0, 6, .ro⟩
def CEL_RO_STS_MIX_SAT (g : Nat) : Fld := ⟨CEL_RO_STS g, 6, 1, .w1c⟩
def CEL_RO_STS_RSAT (g : Nat) : Fld := ⟨CEL_RO_STS g, 7, 1, .w1c⟩
def CEL_RO_STS_SLOT_OVF (g : Nat) : Fld := ⟨CEL_RO_STS g, 8, 1, .w1c⟩
def CEL_RO_STS_ADAPT_REJ (g : Nat) : Fld := ⟨CEL_RO_STS g, 9, 1, .w1c⟩
def CEL_RO_STS_PHX_LATE (g : Nat) : Fld := ⟨CEL_RO_STS g, 10, 1, .w1c⟩
def CEL_RO_STS_LAST_MT (g : Nat) : Fld := ⟨CEL_RO_STS g, 11, 3, .ro⟩
/-- `CEL_RO_CNT` (R180). -/
def CEL_RO_CNT (g : Nat) : Nat := celBase g + 0x38
def CEL_RO_CNT_MEAS (g : Nat) : Fld := ⟨CEL_RO_CNT g, 0, 16, .rc⟩
def CEL_RO_CNT_INVALID (g : Nat) : Fld := ⟨CEL_RO_CNT g, 16, 16, .rc⟩
/-- `CEL_FRAME` (R193). -/
def CEL_FRAME (g : Nat) : Nat := celBase g + 0x3c
def CEL_FRAME_X (g : Nat) : Fld := ⟨CEL_FRAME g, 0, 1, .rw⟩
def CEL_FRAME_Z (g : Nat) : Fld := ⟨CEL_FRAME g, 1, 1, .rw⟩
def CEL_FRAME_WR_HELD (g : Nat) : Fld := ⟨CEL_FRAME g, 2, 1, .ro⟩
def CEL_FRAME_TOGGLES (g : Nat) : Fld := ⟨CEL_FRAME g, 16, 16, .rc⟩

end Fd

def chipRows0 : List RegRow := [
  ⟨0x0, 1, 0x4, 1, 0x4, [⟨0, 16, .ro, 0⟩, ⟨16, 16, .ro, 0⟩]⟩,
  ⟨0x4, 1, 0x4, 1, 0x4, [⟨0, 4, .ro, 0⟩, ⟨4, 4, .ro, 0⟩, ⟨8, 8, .ro, 0⟩, ⟨16, 16, .ro, 1⟩]⟩,
  ⟨0x8, 1, 0x4, 1, 0x4, [⟨0, 32, .ro, 0⟩]⟩,
  ⟨0xc, 1, 0x4, 1, 0x4, [⟨0, 32, .ro, 0⟩]⟩,
  ⟨0x10, 1, 0x4, 1, 0x4, [⟨0, 8, .ro, 0⟩, ⟨8, 4, .ro, 0⟩, ⟨12, 1, .ro, 0⟩, ⟨13, 1, .ro, 0⟩]⟩,
  ⟨0x14, 1, 0x4, 1, 0x4, [⟨0, 32, .rw, 0⟩]⟩,
  ⟨0x18, 1, 0x4, 1, 0x4, [⟨0, 26, .ro, 0⟩, ⟨26, 1, .ro, 0⟩, ⟨27, 1, .ro, 0⟩]⟩,
  ⟨0x1c, 1, 0x4, 1, 0x4, [⟨0, 16, .rc, 0⟩]⟩,
  ⟨0x20, 1, 0x4, 1, 0x4, [⟨0, 32, .ro, 0⟩]⟩,
  ⟨0x24, 1, 0x4, 1, 0x4, [⟨0, 32, .ro, 0⟩]⟩,
  ⟨0x30, 1, 0x4, 1, 0x4, [⟨0, 1, .rw, 1⟩, ⟨1, 1, .rw, 1⟩]⟩,
  ⟨0x34, 1, 0x4, 1, 0x4, [⟨0, 2, .ro, 0⟩, ⟨2, 3, .ro, 0⟩, ⟨5, 1, .ro, 0⟩, ⟨6, 1, .w1c, 0⟩, ⟨7, 1, .w1c, 0⟩, ⟨16, 16, .rc, 0⟩]⟩,
  ⟨0x38, 1, 0x4, 1, 0x4, [⟨0, 32, .ro, 0⟩]⟩,
  ⟨0x40, 1, 0x4, 1, 0x4, [⟨0, 4, .ro, 0⟩, ⟨5, 9, .ro, 0⟩, ⟨31, 1, .w1c, 0⟩]⟩,
  ⟨0x44, 1, 0x4, 1, 0x4, [⟨0, 32, .ro, 0⟩]⟩,
  ⟨0x48, 1, 0x4, 1, 0x4, [⟨0, 32, .ro, 0⟩]⟩]

def chipRows1 : List RegRow := [
  ⟨0x4c, 1, 0x4, 1, 0x4, [⟨0, 32, .ro, 0⟩]⟩,
  ⟨0x50, 1, 0x4, 1, 0x4, [⟨0, 2, .ro, 0⟩, ⟨2, 1, .w1c, 0⟩, ⟨3, 1, .w1c, 0⟩, ⟨16, 16, .ro, 0⟩]⟩,
  ⟨0x54, 1, 0x4, 1, 0x4, [⟨0, 4, .ro, 0⟩, ⟨4, 2, .ro, 0⟩, ⟨6, 12, .ro, 0⟩, ⟨18, 12, .ro, 0⟩]⟩,
  ⟨0x58, 1, 0x4, 1, 0x4, [⟨0, 32, .ro, 0⟩]⟩,
  ⟨0x60, 1, 0x4, 1, 0x4, [⟨0, 3, .ro, 0⟩, ⟨3, 8, .ro, 0⟩, ⟨11, 1, .w1c, 0⟩]⟩,
  ⟨0x64, 1, 0x4, 1, 0x4, [⟨0, 32, .ro, 0⟩]⟩,
  ⟨0x68, 1, 0x4, 1, 0x4, [⟨0, 32, .ro, 0⟩]⟩,
  ⟨0x6c, 1, 0x4, 1, 0x4, [⟨0, 32, .ro, 0⟩]⟩,
  ⟨0x70, 1, 0x4, 1, 0x4, [⟨0, 16, .rc, 0⟩, ⟨16, 16, .rc, 0⟩]⟩,
  ⟨0x80, 1, 0x4, 1, 0x4, [⟨0, 8, .wo, 0⟩, ⟨8, 1, .wo, 0⟩, ⟨9, 1, .w1s, 0⟩]⟩,
  ⟨0x84, 1, 0x4, 1, 0x4, [⟨0, 4, .ro, 0⟩, ⟨4, 1, .w1c, 0⟩, ⟨16, 16, .ro, 0⟩]⟩,
  ⟨0x88, 1, 0x4, 1, 0x4, [⟨0, 4, .ro, 1⟩, ⟨4, 1, .ro, 0⟩, ⟨5, 4, .ro, 0⟩, ⟨9, 7, .ro, 0⟩, ⟨16, 1, .ro, 0⟩, ⟨17, 1, .ro, 0⟩, ⟨18, 1, .ro, 0⟩, ⟨19, 1, .ro, 0⟩, ⟨20, 12, .ro, 0⟩]⟩,
  ⟨0x8c, 1, 0x4, 1, 0x4, [⟨0, 4, .ro, 0⟩, ⟨4, 1, .ro, 0⟩]⟩,
  ⟨0x90, 1, 0x4, 1, 0x4, [⟨0, 8, .ro, 0⟩]⟩,
  ⟨0xa0, 1, 0x4, 1, 0x4, [⟨0, 6, .rw, 0⟩, ⟨6, 1, .rw, 0⟩]⟩,
  ⟨0xa4, 1, 0x4, 1, 0x4, [⟨0, 32, .rc, 0⟩]⟩]

def chipRows2 : List RegRow := [
  ⟨0xa8, 1, 0x4, 1, 0x4, [⟨0, 6, .rw, 0⟩, ⟨6, 6, .rw, 0⟩, ⟨12, 1, .rw, 0⟩]⟩,
  ⟨0xb0, 1, 0x4, 1, 0x4, [⟨0, 16, .rc, 0⟩, ⟨16, 16, .rc, 0⟩]⟩,
  ⟨0xc0, 4, 0x4, 1, 0x4, [⟨0, 2, .sh, 1⟩, ⟨2, 4, .sh, 0⟩]⟩,
  ⟨0xd0, 1, 0x4, 1, 0x4, [⟨0, 4, .ro, 0⟩, ⟨4, 4, .w1c, 0⟩]⟩,
  ⟨0xe0, 4, 0x4, 1, 0x4, [⟨0, 16, .rc, 0⟩, ⟨16, 16, .rc, 0⟩]⟩,
  ⟨0xf0, 4, 0x4, 1, 0x4, [⟨0, 3, .sh, 0⟩, ⟨3, 12, .sh, 0⟩, ⟨15, 3, .sh, 2⟩, ⟨18, 1, .sh, 0⟩, ⟨19, 8, .sh, 1⟩]⟩,
  ⟨0x1000, 4, 0x200, 80, 0x4, [⟨0, 12, .sh, 0⟩, ⟨15, 1, .sh, 0⟩]⟩,
  ⟨0x1800, 4, 0x200, 80, 0x4, [⟨0, 12, .sh, 0⟩, ⟨15, 1, .sh, 0⟩]⟩,
  ⟨0x1f80, 4, 0x4, 1, 0x4, [⟨0, 16, .rc, 0⟩, ⟨16, 16, .rc, 0⟩]⟩,
  ⟨0x2000, 64, 0x20, 1, 0x4, [⟨0, 32, .rw, 0⟩]⟩,
  ⟨0x2004, 64, 0x20, 1, 0x4, [⟨0, 32, .rw, 0⟩]⟩,
  ⟨0x2008, 64, 0x20, 1, 0x4, [⟨0, 32, .rw, 0⟩]⟩,
  ⟨0x200c, 64, 0x20, 1, 0x4, [⟨0, 32, .rw, 0⟩]⟩,
  ⟨0x2010, 64, 0x20, 1, 0x4, [⟨0, 1, .rw, 0⟩, ⟨1, 3, .rw, 0⟩, ⟨4, 5, .rw, 8⟩, ⟨9, 1, .rw, 0⟩, ⟨10, 6, .rw, 0⟩, ⟨16, 8, .rw, 0⟩, ⟨24, 1, .rw, 0⟩]⟩,
  ⟨0x2014, 64, 0x20, 1, 0x4, [⟨0, 16, .rw, 1⟩, ⟨16, 16, .rw, 0⟩]⟩,
  ⟨0x2018, 64, 0x20, 1, 0x4, [⟨0, 1, .w1s, 0⟩]⟩]

def chipRows3 : List RegRow := [
  ⟨0x201c, 64, 0x20, 1, 0x4, [⟨0, 16, .ro, 0⟩, ⟨16, 1, .ro, 1⟩, ⟨17, 1, .ro, 0⟩, ⟨18, 1, .w1c, 0⟩, ⟨19, 3, .ro, 0⟩, ⟨22, 1, .w1c, 0⟩]⟩,
  ⟨0x3000, 1, 0x4, 1, 0x4, [⟨0, 16, .rw, 2048⟩]⟩,
  ⟨0x3004, 1, 0x4, 1, 0x4, [⟨0, 16, .rw, 4096⟩, ⟨16, 1, .rw, 1⟩, ⟨17, 5, .ro, 0⟩]⟩,
  ⟨0x3008, 1, 0x4, 1, 0x4, [⟨0, 12, .w1c, 0⟩]⟩,
  ⟨0x3100, 12, 0x10, 1, 0x4, [⟨0, 8, .rw, 16⟩]⟩,
  ⟨0x3104, 12, 0x10, 1, 0x4, [⟨0, 32, .rc, 0⟩]⟩,
  ⟨0x3108, 12, 0x10, 1, 0x4, [⟨0, 32, .rc, 0⟩]⟩,
  ⟨0x310c, 12, 0x10, 1, 0x4, [⟨0, 24, .rc, 0⟩]⟩,
  ⟨0x4000, 1, 0x4, 1, 0x4, [⟨0, 1, .rw, 0⟩, ⟨1, 1, .rw, 0⟩, ⟨2, 1, .rw, 1⟩, ⟨3, 8, .rw, 24⟩, ⟨11, 1, .rw, 1⟩, ⟨12, 16, .rw, 2048⟩]⟩,
  ⟨0x4004, 1, 0x4, 1, 0x4, [⟨0, 10, .rw, 256⟩, ⟨10, 6, .rw, 48⟩, ⟨16, 6, .rw, 16⟩]⟩,
  ⟨0x4008, 1, 0x4, 1, 0x4, [⟨0, 1, .rw, 1⟩, ⟨1, 1, .rw, 0⟩, ⟨2, 10, .rw, 100⟩, ⟨12, 8, .rw, 50⟩, ⟨20, 4, .rw, 4⟩, ⟨24, 6, .rw, 12⟩]⟩,
  ⟨0x400c, 1, 0x4, 1, 0x4, [⟨0, 1, .rw, 0⟩, ⟨1, 1, .rw, 0⟩, ⟨2, 10, .rw, 100⟩, ⟨16, 16, .rw, 65535⟩]⟩,
  ⟨0x4010, 1, 0x4, 1, 0x4, [⟨0, 3, .ro, 0⟩, ⟨3, 1, .ro, 0⟩, ⟨4, 1, .ro, 0⟩, ⟨5, 4, .ro, 0⟩, ⟨9, 1, .ro, 0⟩, ⟨10, 1, .w1c, 0⟩, ⟨11, 1, .w1c, 0⟩, ⟨12, 1, .w1c, 0⟩, ⟨13, 1, .w1c, 0⟩, ⟨16, 16, .ro, 0⟩]⟩,
  ⟨0x4014, 1, 0x4, 1, 0x4, [⟨0, 32, .ro, 0⟩]⟩,
  ⟨0x4018, 1, 0x4, 1, 0x4, [⟨0, 2, .ro, 0⟩]⟩,
  ⟨0x401c, 1, 0x4, 1, 0x4, [⟨0, 16, .rc, 0⟩, ⟨16, 16, .rc, 0⟩]⟩]

def chipRows4 : List RegRow := [
  ⟨0x4020, 5, 0x4, 1, 0x4, [⟨0, 15, .rw, 0⟩]⟩,
  ⟨0x4040, 4, 0x4, 1, 0x4, [⟨0, 8, .rw, 0⟩, ⟨8, 9, .rw, 0⟩]⟩,
  ⟨0x4100, 16, 0x4, 1, 0x4, [⟨0, 16, .rc, 0⟩, ⟨16, 16, .rc, 0⟩]⟩,
  ⟨0x4140, 16, 0x4, 1, 0x4, [⟨0, 16, .rc, 0⟩, ⟨16, 16, .rc, 0⟩]⟩,
  ⟨0x5000, 1, 0x4, 1, 0x4, [⟨0, 16, .rw, 0⟩]⟩,
  ⟨0x5100, 4, 0x40, 1, 0x4, [⟨0, 1, .rw, 0⟩, ⟨1, 3, .rw, 4⟩, ⟨4, 5, .rw, 16⟩, ⟨9, 8, .rw, 100⟩]⟩,
  ⟨0x5104, 4, 0x40, 1, 0x4, [⟨0, 1, .w1s, 0⟩, ⟨1, 1, .w1s, 0⟩]⟩,
  ⟨0x5108, 4, 0x40, 1, 0x4, [⟨0, 2, .ro, 0⟩, ⟨2, 6, .ro, 0⟩, ⟨8, 6, .ro, 0⟩, ⟨14, 1, .ro, 0⟩, ⟨15, 2, .ro, 0⟩, ⟨17, 1, .w1c, 0⟩, ⟨18, 1, .w1c, 0⟩, ⟨19, 1, .w1c, 0⟩]⟩,
  ⟨0x510c, 4, 0x40, 1, 0x4, [⟨0, 16, .ro, 0⟩]⟩,
  ⟨0x5110, 4, 0x40, 1, 0x4, [⟨0, 16, .rc, 0⟩, ⟨16, 16, .rc, 0⟩]⟩,
  ⟨0x5114, 4, 0x40, 1, 0x4, [⟨0, 16, .rc, 0⟩, ⟨16, 16, .rc, 0⟩]⟩,
  ⟨0x5118, 4, 0x40, 1, 0x4, [⟨0, 16, .ro, 0⟩, ⟨16, 16, .ro, 0⟩]⟩,
  ⟨0x511c, 4, 0x40, 1, 0x4, [⟨0, 1, .rw, 1⟩, ⟨1, 3, .rw, 2⟩, ⟨4, 1, .rw, 0⟩]⟩,
  ⟨0x5120, 4, 0x40, 1, 0x4, [⟨0, 4, .rw, 2⟩, ⟨4, 4, .rw, 13⟩, ⟨8, 6, .rw, 48⟩, ⟨14, 6, .rw, 16⟩, ⟨20, 12, .rw, 64⟩]⟩,
  ⟨0x5400, 4, 0x100, 6, 0x10, [⟨0, 4, .rw, 8⟩, ⟨4, 7, .rw, 0⟩, ⟨11, 6, .rw, 0⟩, ⟨17, 6, .rw, 0⟩, ⟨23, 6, .rw, 0⟩, ⟨31, 1, .rw, 0⟩]⟩,
  ⟨0x5404, 4, 0x100, 6, 0x10, [⟨0, 8, .ro, 0⟩, ⟨8, 6, .ro, 0⟩, ⟨14, 1, .ro, 0⟩, ⟨15, 3, .ro, 0⟩, ⟨18, 1, .ro, 0⟩, ⟨19, 3, .ro, 0⟩]⟩]

def chipRows5 : List RegRow := [
  ⟨0x5408, 4, 0x100, 6, 0x10, [⟨0, 16, .rc, 0⟩, ⟨16, 16, .rc, 0⟩]⟩,
  ⟨0x540c, 4, 0x100, 6, 0x10, [⟨0, 6, .rw, 0⟩]⟩,
  ⟨0x6000, 1, 0x4, 1, 0x4, [⟨0, 1, .rw, 0⟩, ⟨1, 6, .rw, 0⟩, ⟨7, 6, .rw, 0⟩, ⟨13, 6, .rw, 0⟩, ⟨19, 1, .rw, 0⟩, ⟨20, 1, .rw, 0⟩, ⟨21, 1, .rw, 0⟩]⟩,
  ⟨0x6004, 1, 0x4, 1, 0x4, [⟨0, 16, .rw, 0⟩, ⟨16, 16, .rw, 0⟩]⟩,
  ⟨0x6008, 1, 0x4, 1, 0x4, [⟨0, 1, .rw, 1⟩, ⟨1, 5, .rw, 1⟩, ⟨6, 5, .rw, 31⟩, ⟨11, 1, .w1s, 0⟩, ⟨12, 1, .w1s, 0⟩]⟩,
  ⟨0x600c, 1, 0x4, 1, 0x4, [⟨0, 32, .rw, 1000⟩]⟩,
  ⟨0x6010, 1, 0x4, 1, 0x4, [⟨0, 32, .wo, 0⟩]⟩,
  ⟨0x6014, 1, 0x4, 1, 0x4, [⟨0, 32, .ro, 0⟩]⟩,
  ⟨0x6018, 1, 0x4, 1, 0x4, [⟨0, 32, .rw, 0⟩]⟩,
  ⟨0x601c, 1, 0x4, 1, 0x4, [⟨0, 32, .rw, 0⟩]⟩,
  ⟨0x6020, 1, 0x4, 1, 0x4, [⟨0, 32, .ro, 0⟩]⟩,
  ⟨0x6024, 1, 0x4, 1, 0x4, [⟨0, 32, .ro, 0⟩]⟩,
  ⟨0x6028, 1, 0x4, 1, 0x4, [⟨0, 32, .ro, 0⟩]⟩,
  ⟨0x602c, 1, 0x4, 1, 0x4, [⟨0, 32, .rw, 0⟩]⟩,
  ⟨0x6030, 1, 0x4, 1, 0x4, [⟨0, 32, .ro, 0⟩]⟩,
  ⟨0x6034, 1, 0x4, 1, 0x4, [⟨0, 32, .ro, 0⟩]⟩]

def chipRows6 : List RegRow := [
  ⟨0x6038, 1, 0x4, 1, 0x4, [⟨0, 32, .ro, 0⟩]⟩,
  ⟨0x603c, 1, 0x4, 1, 0x4, [⟨0, 32, .ro, 0⟩]⟩,
  ⟨0x6040, 1, 0x4, 1, 0x4, [⟨0, 1, .ro, 0⟩, ⟨1, 1, .ro, 0⟩, ⟨2, 1, .ro, 0⟩, ⟨3, 1, .w1c, 0⟩, ⟨4, 5, .ro, 0⟩, ⟨9, 1, .w1c, 0⟩, ⟨10, 1, .w1c, 0⟩]⟩,
  ⟨0x6044, 1, 0x4, 1, 0x4, [⟨0, 32, .ro, 0⟩]⟩,
  ⟨0x6048, 1, 0x4, 1, 0x4, [⟨0, 16, .ro, 0⟩, ⟨16, 16, .ro, 0⟩]⟩,
  ⟨0x604c, 1, 0x4, 1, 0x4, [⟨0, 4, .ro, 0⟩, ⟨4, 1, .ro, 0⟩, ⟨5, 1, .ro, 0⟩]⟩,
  ⟨0x6050, 1, 0x4, 1, 0x4, [⟨0, 1, .rw, 0⟩, ⟨1, 1, .rw, 0⟩, ⟨2, 10, .rw, 100⟩, ⟨12, 1, .rw, 0⟩]⟩,
  ⟨0x6054, 1, 0x4, 1, 0x4, [⟨0, 32, .rw, 0⟩]⟩,
  ⟨0x6058, 1, 0x4, 1, 0x4, [⟨0, 32, .ro, 0⟩]⟩,
  ⟨0x605c, 1, 0x4, 1, 0x4, [⟨0, 32, .rc, 0⟩]⟩,
  ⟨0x6060, 1, 0x4, 1, 0x4, [⟨0, 16, .rc, 0⟩, ⟨16, 16, .rc, 0⟩]⟩,
  ⟨0x6064, 1, 0x4, 1, 0x4, [⟨0, 16, .rc, 0⟩, ⟨16, 16, .rc, 0⟩]⟩,
  ⟨0x6068, 1, 0x4, 1, 0x4, [⟨0, 16, .rc, 0⟩, ⟨16, 8, .rc, 0⟩, ⟨24, 8, .rc, 0⟩]⟩,
  ⟨0x7000, 1, 0x4, 1, 0x4, [⟨0, 1, .rw, 1⟩, ⟨1, 1, .rw, 1⟩, ⟨2, 8, .rw, 115⟩]⟩,
  ⟨0x7004, 1, 0x4, 1, 0x4, [⟨0, 16, .rw, 1000⟩, ⟨16, 11, .rw, 1000⟩]⟩,
  ⟨0x7008, 1, 0x4, 1, 0x4, [⟨0, 32, .rw, 0⟩]⟩]

def chipRows7 : List RegRow := [
  ⟨0x700c, 1, 0x4, 1, 0x4, [⟨0, 32, .rw, 0⟩]⟩,
  ⟨0x7010, 1, 0x4, 1, 0x4, [⟨0, 8, .rw, 0⟩]⟩,
  ⟨0x7014, 1, 0x4, 1, 0x4, [⟨0, 1, .ro, 0⟩, ⟨1, 1, .w1c, 0⟩, ⟨2, 8, .ro, 0⟩]⟩,
  ⟨0x7018, 1, 0x4, 1, 0x4, [⟨0, 16, .rc, 0⟩, ⟨16, 16, .ro, 0⟩]⟩,
  ⟨0x7020, 1, 0x4, 1, 0x4, [⟨0, 8, .rw, 90⟩, ⟨8, 8, .rw, 95⟩, ⟨16, 4, .rw, 5⟩, ⟨20, 10, .rw, 20⟩]⟩,
  ⟨0x7024, 1, 0x4, 1, 0x4, [⟨0, 2, .ro, 0⟩, ⟨2, 1, .ro, 0⟩, ⟨3, 1, .ro, 0⟩, ⟨4, 1, .ro, 0⟩, ⟨5, 7, .ro, 0⟩, ⟨12, 12, .ro, 0⟩]⟩,
  ⟨0x7030, 4, 0x4, 1, 0x4, [⟨0, 6, .ro, 24⟩, ⟨6, 1, .ro, 0⟩, ⟨7, 1, .w1c, 0⟩]⟩,
  ⟨0x7100, 72, 0x4, 1, 0x4, [⟨0, 12, .ro, 0⟩, ⟨12, 1, .ro, 0⟩, ⟨13, 1, .ro, 0⟩, ⟨14, 1, .ro, 0⟩, ⟨16, 16, .ro, 0⟩]⟩,
  ⟨0x8000, 1, 0x4, 1, 0x4, [⟨0, 1, .rw, 1⟩, ⟨1, 10, .rw, 10⟩]⟩,
  ⟨0x8004, 1, 0x4, 1, 0x4, [⟨0, 1, .ro, 0⟩, ⟨1, 1, .ro, 0⟩, ⟨2, 1, .ro, 0⟩, ⟨3, 1, .w1c, 0⟩, ⟨16, 16, .ro, 0⟩]⟩,
  ⟨0x8008, 1, 0x4, 1, 0x4, [⟨0, 12, .rw, 0⟩]⟩,
  ⟨0x9000, 1, 0x4, 1, 0x4, [⟨0, 1, .rw, 1⟩, ⟨1, 5, .rw, 15⟩, ⟨6, 8, .rw, 100⟩]⟩,
  ⟨0x9004, 1, 0x4, 1, 0x4, [⟨0, 32, .w1c, 0⟩]⟩,
  ⟨0x9008, 1, 0x4, 1, 0x4, [⟨0, 1, .ro, 0⟩, ⟨1, 1, .w1c, 0⟩]⟩,
  ⟨0x9100, 32, 0x4, 1, 0x4, [⟨0, 6, .rw, 0⟩, ⟨6, 3, .rw, 2⟩, ⟨9, 1, .rw, 0⟩]⟩,
  ⟨0x9180, 32, 0x4, 1, 0x4, [⟨0, 12, .rw, 0⟩, ⟨16, 12, .rw, 4095⟩]⟩]

def chipRows8 : List RegRow := [
  ⟨0x9200, 32, 0x4, 1, 0x4, [⟨0, 12, .ro, 0⟩, ⟨12, 1, .ro, 0⟩, ⟨13, 1, .ro, 0⟩, ⟨14, 1, .ro, 0⟩, ⟨15, 1, .ro, 0⟩, ⟨16, 12, .ro, 0⟩]⟩,
  ⟨0xa000, 256, 0x4, 1, 0x4, [⟨0, 6, .rw, 0⟩, ⟨6, 1, .rw, 0⟩]⟩]

/-- The registers of the chip level. -/
def chipRows : List RegRow := chipRows0 ++ chipRows1 ++ chipRows2 ++ chipRows3 ++ chipRows4 ++ chipRows5 ++ chipRows6 ++ chipRows7 ++ chipRows8

def rgnRows0 : List RegRow := [
  ⟨0x0, 1, 0x4, 1, 0x4, [⟨0, 1, .w1s, 0⟩, ⟨1, 1, .w1s, 0⟩]⟩,
  ⟨0x4, 1, 0x4, 1, 0x4, [⟨0, 16, .ro, 0⟩, ⟨16, 8, .ro, 0⟩, ⟨24, 4, .ro, 0⟩]⟩,
  ⟨0x8, 1, 0x4, 1, 0x4, [⟨0, 4, .rw, 2⟩, ⟨4, 4, .rw, 4⟩]⟩,
  ⟨0xc, 1, 0x4, 1, 0x4, [⟨0, 1, .ro, 0⟩, ⟨1, 6, .ro, 0⟩, ⟨7, 1, .ro, 0⟩, ⟨16, 16, .rc, 0⟩]⟩,
  ⟨0x10, 1, 0x4, 1, 0x4, [⟨0, 1, .rw, 1⟩, ⟨1, 1, .rw, 0⟩, ⟨2, 2, .rw, 1⟩, ⟨4, 7, .rw, 24⟩, ⟨11, 7, .rw, 96⟩, ⟨18, 4, .rw, 1⟩, ⟨22, 3, .rw, 4⟩, ⟨25, 4, .rw, 1⟩, ⟨29, 3, .rw, 4⟩]⟩,
  ⟨0x14, 1, 0x4, 1, 0x4, [⟨0, 1, .rw, 0⟩, ⟨1, 11, .rw, 1250⟩, ⟨12, 10, .rw, 740⟩]⟩,
  ⟨0x18, 1, 0x4, 1, 0x4, [⟨0, 10, .ro, 0⟩, ⟨10, 10, .ro, 0⟩, ⟨20, 9, .ro, 0⟩, ⟨29, 1, .ro, 0⟩, ⟨30, 1, .ro, 0⟩]⟩,
  ⟨0x20, 1, 0x4, 1, 0x4, [⟨0, 4, .ro, 0⟩, ⟨5, 9, .ro, 0⟩, ⟨31, 1, .w1c, 0⟩]⟩,
  ⟨0x24, 1, 0x4, 1, 0x4, [⟨0, 32, .ro, 0⟩]⟩,
  ⟨0x28, 1, 0x4, 1, 0x4, [⟨0, 32, .ro, 0⟩]⟩,
  ⟨0x2c, 1, 0x4, 1, 0x4, [⟨0, 32, .ro, 0⟩]⟩,
  ⟨0x30, 1, 0x4, 1, 0x4, [⟨0, 8, .rw, 90⟩, ⟨8, 8, .rw, 95⟩, ⟨16, 4, .rw, 5⟩, ⟨20, 10, .rw, 20⟩]⟩,
  ⟨0x34, 1, 0x4, 1, 0x4, [⟨0, 2, .ro, 0⟩, ⟨2, 1, .ro, 0⟩, ⟨3, 1, .ro, 0⟩, ⟨4, 1, .ro, 0⟩, ⟨5, 7, .ro, 0⟩, ⟨12, 12, .ro, 0⟩]⟩,
  ⟨0x40, 1, 0x4, 1, 0x4, [⟨0, 1, .rw, 1⟩, ⟨1, 1, .rw, 0⟩]⟩,
  ⟨0x44, 1, 0x4, 1, 0x4, [⟨0, 16, .rc, 0⟩, ⟨16, 16, .rc, 0⟩]⟩,
  ⟨0x50, 1, 0x4, 1, 0x4, [⟨0, 1, .rw, 1⟩, ⟨1, 1, .rw, 1⟩]⟩]

def rgnRows1 : List RegRow := [
  ⟨0x54, 1, 0x4, 1, 0x4, [⟨0, 2, .sh, 1⟩, ⟨2, 2, .sh, 0⟩, ⟨4, 1, .sh, 0⟩, ⟨5, 5, .sh, 0⟩, ⟨10, 2, .sh, 0⟩]⟩,
  ⟨0x58, 1, 0x4, 1, 0x4, [⟨0, 8, .ro, 0⟩, ⟨8, 1, .ro, 0⟩, ⟨9, 1, .w1c, 0⟩, ⟨10, 1, .w1c, 0⟩, ⟨11, 1, .w1c, 0⟩, ⟨12, 1, .w1c, 0⟩]⟩,
  ⟨0x5c, 1, 0x4, 1, 0x4, [⟨0, 16, .rc, 0⟩, ⟨16, 16, .rc, 0⟩]⟩,
  ⟨0x60, 1, 0x4, 1, 0x4, [⟨0, 16, .rc, 0⟩, ⟨16, 16, .rc, 0⟩]⟩,
  ⟨0x64, 1, 0x4, 1, 0x4, [⟨0, 8, .rc, 0⟩, ⟨8, 8, .rc, 0⟩, ⟨16, 8, .rc, 0⟩, ⟨24, 8, .rc, 0⟩]⟩,
  ⟨0x1000, 1, 0x4, 1, 0x4, [⟨0, 8, .rw, 0⟩]⟩,
  ⟨0x1100, 8, 0x20, 1, 0x4, [⟨0, 2, .sh, 0⟩, ⟨2, 1, .sh, 0⟩, ⟨3, 3, .sh, 2⟩, ⟨6, 3, .sh, 0⟩, ⟨9, 1, .sh, 1⟩]⟩,
  ⟨0x1104, 8, 0x20, 1, 0x4, [⟨0, 32, .sh, 0⟩]⟩,
  ⟨0x1108, 8, 0x20, 1, 0x4, [⟨0, 16, .sh, 0⟩, ⟨16, 16, .sh, 0⟩]⟩,
  ⟨0x110c, 8, 0x20, 1, 0x4, [⟨0, 2, .ro, 0⟩, ⟨2, 9, .ro, 0⟩, ⟨11, 1, .ro, 0⟩, ⟨12, 1, .w1c, 0⟩]⟩,
  ⟨0x1110, 8, 0x20, 1, 0x4, [⟨0, 32, .ro, 0⟩]⟩,
  ⟨0x1114, 8, 0x20, 1, 0x4, [⟨0, 16, .rc, 0⟩, ⟨16, 16, .rc, 0⟩]⟩,
  ⟨0x2000, 4, 0x40, 1, 0x4, [⟨0, 1, .sh, 0⟩, ⟨1, 1, .sh, 1⟩, ⟨2, 1, .sh, 0⟩, ⟨3, 2, .sh, 0⟩, ⟨5, 2, .sh, 0⟩]⟩,
  ⟨0x2004, 4, 0x40, 1, 0x4, [⟨0, 1, .ro, 0⟩, ⟨1, 1, .w1c, 0⟩, ⟨2, 1, .w1c, 0⟩, ⟨3, 1, .w1c, 0⟩]⟩,
  ⟨0x2008, 4, 0x40, 1, 0x4, [⟨0, 16, .rc, 0⟩, ⟨16, 16, .rc, 0⟩]⟩,
  ⟨0x2010, 4, 0x40, 2, 0x8, [⟨0, 32, .sh, 0⟩]⟩]

def rgnRows2 : List RegRow := [
  ⟨0x2014, 4, 0x40, 2, 0x8, [⟨0, 16, .sh, 0⟩, ⟨16, 16, .sh, 0⟩]⟩,
  ⟨0x2100, 1, 0x4, 1, 0x4, [⟨0, 1, .rw, 1⟩, ⟨1, 2, .rw, 0⟩, ⟨3, 1, .rw, 0⟩, ⟨4, 5, .rw, 16⟩, ⟨16, 12, .rw, 64⟩]⟩,
  ⟨0x2110, 4, 0x4, 1, 0x4, [⟨0, 1, .w1c, 0⟩, ⟨1, 1, .w1c, 0⟩, ⟨16, 16, .rc, 0⟩]⟩,
  ⟨0x3000, 4, 0x40, 1, 0x4, [⟨0, 4, .rw, 0⟩, ⟨4, 3, .rw, 0⟩, ⟨7, 1, .rw, 0⟩, ⟨8, 2, .rw, 0⟩, ⟨10, 1, .rw, 0⟩, ⟨11, 4, .rw, 0⟩, ⟨15, 4, .rw, 12⟩, ⟨19, 4, .rw, 12⟩, ⟨23, 1, .rw, 0⟩]⟩,
  ⟨0x3004, 4, 0x40, 1, 0x4, [⟨0, 6, .rw, 0⟩]⟩,
  ⟨0x3008, 4, 0x40, 1, 0x4, [⟨0, 32, .rw, 0⟩]⟩,
  ⟨0x300c, 4, 0x40, 1, 0x4, [⟨0, 32, .rw, 4096⟩]⟩,
  ⟨0x3010, 4, 0x40, 1, 0x4, [⟨0, 32, .rw, 0⟩]⟩,
  ⟨0x3014, 4, 0x40, 1, 0x4, [⟨0, 24, .rw, 500000⟩]⟩,
  ⟨0x3018, 4, 0x40, 1, 0x4, [⟨0, 4, .rw, 0⟩, ⟨4, 12, .rw, 0⟩, ⟨16, 2, .rw, 1⟩, ⟨18, 3, .rw, 2⟩, ⟨21, 1, .rw, 0⟩]⟩,
  ⟨0x301c, 4, 0x40, 1, 0x4, [⟨0, 16, .rw, 0⟩, ⟨16, 16, .rw, 256⟩]⟩,
  ⟨0x3020, 4, 0x40, 1, 0x4, [⟨0, 32, .rw, 0⟩]⟩,
  ⟨0x3024, 4, 0x40, 1, 0x4, [⟨0, 16, .rw, 0⟩, ⟨16, 16, .rw, 0⟩]⟩,
  ⟨0x3028, 4, 0x40, 1, 0x4, [⟨0, 1, .w1s, 0⟩, ⟨1, 1, .w1s, 0⟩, ⟨2, 1, .w1s, 0⟩, ⟨3, 1, .w1s, 0⟩]⟩,
  ⟨0x302c, 4, 0x40, 1, 0x4, [⟨0, 3, .ro, 0⟩, ⟨3, 4, .ro, 0⟩, ⟨7, 1, .w1c, 0⟩, ⟨8, 1, .w1c, 0⟩, ⟨9, 1, .w1c, 0⟩, ⟨10, 1, .w1c, 0⟩]⟩,
  ⟨0x3030, 4, 0x40, 1, 0x4, [⟨0, 16, .rc, 0⟩, ⟨16, 16, .rc, 0⟩]⟩]

def rgnRows3 : List RegRow := [
  ⟨0x3034, 4, 0x40, 1, 0x4, [⟨0, 16, .rc, 0⟩]⟩,
  ⟨0x4000, 1, 0x4, 1, 0x4, [⟨0, 8, .rw, 0⟩]⟩,
  ⟨0x4100, 8, 0x20, 1, 0x4, [⟨0, 9, .sh, 0⟩, ⟨9, 3, .sh, 0⟩, ⟨12, 1, .sh, 0⟩, ⟨13, 2, .sh, 0⟩, ⟨15, 4, .sh, 8⟩, ⟨19, 1, .sh, 0⟩, ⟨20, 1, .sh, 1⟩]⟩,
  ⟨0x4104, 8, 0x20, 1, 0x4, [⟨0, 8, .sh, 75⟩, ⟨8, 8, .sh, 150⟩]⟩,
  ⟨0x4108, 8, 0x20, 1, 0x4, [⟨0, 2, .ro, 0⟩, ⟨2, 1, .w1c, 0⟩, ⟨3, 1, .w1c, 0⟩, ⟨4, 1, .ro, 0⟩]⟩,
  ⟨0x410c, 8, 0x20, 1, 0x4, [⟨0, 16, .rc, 0⟩, ⟨16, 16, .rc, 0⟩]⟩,
  ⟨0x4110, 8, 0x20, 1, 0x4, [⟨0, 18, .ro, 0⟩, ⟨18, 2, .ro, 0⟩, ⟨20, 4, .ro, 0⟩, ⟨24, 1, .ro, 0⟩]⟩,
  ⟨0x5000, 1, 0x4, 1, 0x4, [⟨0, 16, .rw, 2048⟩]⟩,
  ⟨0x5004, 1, 0x4, 1, 0x4, [⟨0, 16, .rw, 4096⟩, ⟨16, 1, .rw, 1⟩, ⟨17, 5, .ro, 0⟩]⟩,
  ⟨0x5008, 1, 0x4, 1, 0x4, [⟨0, 22, .w1c, 0⟩]⟩,
  ⟨0x5100, 22, 0x10, 1, 0x4, [⟨0, 8, .rw, 16⟩]⟩,
  ⟨0x5104, 22, 0x10, 1, 0x4, [⟨0, 32, .rc, 0⟩]⟩,
  ⟨0x5108, 22, 0x10, 1, 0x4, [⟨0, 32, .rc, 0⟩]⟩,
  ⟨0x510c, 22, 0x10, 1, 0x4, [⟨0, 24, .rc, 0⟩]⟩,
  ⟨0x6000, 1, 0x4, 1, 0x4, [⟨0, 1, .rw, 1⟩, ⟨1, 2, .rw, 0⟩, ⟨3, 1, .rw, 0⟩, ⟨4, 4, .rw, 6⟩, ⟨8, 6, .rw, 16⟩]⟩,
  ⟨0x6100, 52, 0x4, 1, 0x4, [⟨0, 12, .rw, 0⟩, ⟨12, 1, .rw, 0⟩]⟩]

def rgnRows4 : List RegRow := [
  ⟨0x6200, 52, 0x4, 1, 0x4, [⟨0, 12, .ro, 0⟩, ⟨12, 12, .ro, 0⟩, ⟨24, 1, .w1c, 0⟩, ⟨25, 1, .ro, 0⟩]⟩]

/-- The registers of the rgn level. -/
def rgnRows : List RegRow := rgnRows0 ++ rgnRows1 ++ rgnRows2 ++ rgnRows3 ++ rgnRows4

def blkRows : List RegRow := [
  ⟨0x0, 1, 0x4, 1, 0x4, [⟨0, 13, .sh, 1024⟩]⟩,
  ⟨0x4, 1, 0x4, 1, 0x4, [⟨0, 13, .ro, 0⟩, ⟨16, 16, .rc, 0⟩]⟩,
  ⟨0x8, 1, 0x4, 1, 0x4, [⟨0, 2, .rw, 0⟩]⟩,
  ⟨0x10, 2, 0x4, 1, 0x4, [⟨0, 16, .sh, 0⟩, ⟨16, 1, .sh, 0⟩, ⟨17, 1, .sh, 1⟩]⟩,
  ⟨0x18, 2, 0x4, 1, 0x4, [⟨0, 16, .rc, 0⟩]⟩,
  ⟨0x20, 1, 0x4, 1, 0x4, [⟨0, 32, .rw, 1431655765⟩]⟩,
  ⟨0x24, 1, 0x4, 1, 0x4, [⟨0, 4, .rw, 5⟩, ⟨4, 2, .rw, 3⟩]⟩,
  ⟨0x28, 1, 0x4, 1, 0x4, [⟨0, 8, .rw, 16⟩, ⟨8, 16, .rw, 2048⟩]⟩,
  ⟨0x2c, 1, 0x4, 1, 0x4, [⟨0, 16, .rw, 4096⟩, ⟨16, 1, .rw, 1⟩]⟩,
  ⟨0x30, 1, 0x4, 1, 0x4, [⟨0, 19, .w1c, 0⟩]⟩,
  ⟨0x34, 1, 0x4, 1, 0x4, [⟨0, 16, .rc, 0⟩, ⟨16, 5, .ro, 0⟩]⟩,
  ⟨0x40, 1, 0x4, 1, 0x4, [⟨0, 18, .ro, 0⟩, ⟨18, 2, .ro, 0⟩]⟩,
  ⟨0x44, 1, 0x4, 1, 0x4, [⟨0, 5, .rw, 4⟩, ⟨5, 5, .rw, 8⟩]⟩,
  ⟨0x48, 1, 0x4, 1, 0x4, [⟨0, 1, .ro, 0⟩, ⟨1, 2, .ro, 0⟩, ⟨3, 5, .ro, 0⟩, ⟨8, 8, .ro, 0⟩, ⟨16, 16, .rc, 0⟩]⟩,
  ⟨0x600, 18, 0x4, 1, 0x4, [⟨0, 3, .sh, 0⟩, ⟨3, 4, .sh, 0⟩, ⟨7, 1, .sh, 0⟩]⟩,
  ⟨0x680, 18, 0x4, 1, 0x4, [⟨0, 2, .sh, 0⟩, ⟨2, 1, .sh, 0⟩]⟩]

def celRows : List RegRow := [
  ⟨0x0, 1, 0x4, 1, 0x4, [⟨0, 2, .sh, 0⟩, ⟨2, 1, .sh, 0⟩, ⟨3, 1, .sh, 0⟩, ⟨4, 5, .sh, 8⟩, ⟨9, 2, .sh, 0⟩, ⟨11, 8, .sh, 0⟩, ⟨19, 12, .sh, 32⟩]⟩,
  ⟨0x4, 1, 0x4, 1, 0x4, [⟨0, 1, .w1s, 0⟩, ⟨1, 1, .rw, 0⟩, ⟨2, 1, .w1s, 0⟩]⟩,
  ⟨0x8, 1, 0x4, 1, 0x4, [⟨0, 2, .ro, 0⟩, ⟨2, 12, .ro, 0⟩, ⟨14, 1, .ro, 0⟩, ⟨15, 1, .ro, 0⟩, ⟨16, 1, .ro, 0⟩, ⟨17, 8, .ro, 0⟩, ⟨25, 1, .w1c, 0⟩, ⟨26, 1, .w1c, 0⟩]⟩,
  ⟨0xc, 1, 0x4, 1, 0x4, [⟨0, 4, .ro, 0⟩, ⟨4, 8, .w1c, 0⟩, ⟨16, 8, .rc, 0⟩]⟩,
  ⟨0x10, 1, 0x4, 1, 0x4, [⟨0, 8, .ro, 0⟩, ⟨8, 8, .ro, 0⟩, ⟨16, 11, .ro, 0⟩, ⟨27, 1, .ro, 0⟩, ⟨28, 1, .w1c, 0⟩, ⟨29, 1, .w1c, 0⟩]⟩,
  ⟨0x14, 1, 0x4, 1, 0x4, [⟨0, 16, .rc, 0⟩, ⟨16, 16, .rc, 0⟩]⟩,
  ⟨0x18, 1, 0x4, 1, 0x4, [⟨0, 16, .rc, 0⟩, ⟨16, 3, .ro, 0⟩]⟩,
  ⟨0x1c, 1, 0x4, 1, 0x4, [⟨0, 8, .sh, 32⟩, ⟨8, 4, .sh, 8⟩]⟩,
  ⟨0x20, 1, 0x4, 1, 0x4, [⟨0, 12, .ro, 0⟩, ⟨12, 2, .ro, 0⟩, ⟨14, 8, .ro, 0⟩, ⟨22, 1, .w1c, 0⟩, ⟨23, 1, .w1c, 0⟩, ⟨24, 1, .w1c, 0⟩, ⟨25, 1, .w1c, 0⟩, ⟨26, 2, .ro, 0⟩]⟩,
  ⟨0x24, 1, 0x4, 1, 0x4, [⟨0, 16, .rc, 0⟩, ⟨16, 16, .rc, 0⟩]⟩,
  ⟨0x28, 1, 0x4, 1, 0x4, [⟨0, 16, .rc, 0⟩, ⟨16, 16, .rc, 0⟩]⟩,
  ⟨0x2c, 1, 0x4, 1, 0x4, [⟨0, 1, .ro, 0⟩, ⟨1, 1, .w1c, 0⟩, ⟨2, 1, .w1c, 0⟩, ⟨3, 1, .w1c, 0⟩, ⟨16, 16, .rc, 0⟩]⟩,
  ⟨0x30, 1, 0x4, 1, 0x4, [⟨0, 6, .sh, 8⟩, ⟨6, 4, .sh, 0⟩]⟩,
  ⟨0x34, 1, 0x4, 1, 0x4, [⟨0, 6, .ro, 0⟩, ⟨6, 1, .w1c, 0⟩, ⟨7, 1, .w1c, 0⟩, ⟨8, 1, .w1c, 0⟩, ⟨9, 1, .w1c, 0⟩, ⟨10, 1, .w1c, 0⟩, ⟨11, 3, .ro, 0⟩]⟩,
  ⟨0x38, 1, 0x4, 1, 0x4, [⟨0, 16, .rc, 0⟩, ⟨16, 16, .rc, 0⟩]⟩,
  ⟨0x3c, 1, 0x4, 1, 0x4, [⟨0, 1, .rw, 0⟩, ⟨1, 1, .rw, 0⟩, ⟨2, 1, .ro, 0⟩, ⟨16, 16, .rc, 0⟩]⟩]

/-- Does this row hold the register at level offset `o`? -/
def RegRow.hit (row : RegRow) (o : Nat) : Bool :=
  let d := o - row.base
  decide (row.base ≤ o) && decide (d / row.s1 < row.n1) && decide (d % row.s1 / row.s2 < row.n2) && d % row.s1 % row.s2 == 0

/-- The first row that holds level offset `o`. -/
def findRow : List RegRow → Nat → Option RegRow
  | [], _ => none
  | row :: rest, o => if row.hit o then some row else findRow rest o

/-- The register at a normal BAR0 offset, by the address arithmetic of R454 and R455; `none` where no register lies. -/
def regAt (off : Nat) : Option RegRow :=
  if off < 0xF0000 then findRow chipRows off
  else if off < 0x1000000 then none
  else if 0x2000000 ≤ off then none
  else
    let o := (off - 0x1000000) % 0x200000
    if o < 0x10000 then findRow rgnRows o
    else if o < 0x20000 then
      let p := (o - 0x10000) % 0x1000
      if 0x100 ≤ p ∧ p < 0x580 then findRow celRows ((p - 0x100) % 0x40)
      else findRow blkRows p
    else none

/-- The word whose fields hold their reset values. -/
def resetFields : List FSpec → Nat
  | [] => 0
  | f :: rest => f.reset % 2 ^ f.w * 2 ^ f.lo + resetFields rest

/-- ROLE of cell `c` in the default role map of R25. -/
def defaultRole (c : Nat) : Nat := if c < 8 then 1 else if c < 16 then 2 else 3

/-- What the index of a register adds to its reset value, where the Reset column depends on the index: `CEL_CFG.ROLE` (R25),
`BLK_TONE_ROUTE` (R135), `BLK_CHAN_ROUTE` (R162), `CHP_RING_CFG.VECTOR` (R272), `HBM_BANK_XOR` (R327), `HBM_PART` (R309),
`MON_SEQ.INPUT` (R234), `VIO_PIN_CFG.SRC` (R244). -/
def resetIndex (off : Nat) : Nat :=
  if off < 0x1000000 then
    if 0x2000 ≤ off ∧ off < 0x2800 ∧ off % 0x20 = 0x10 then (off - 0x2000) / 0x20 * 2 ^ 16
    else if 0x4020 ≤ off ∧ off < 0x4034 then 2 ^ ((off - 0x4020) / 4)
    else if off = 0x4040 then 0 + 224 * 2 ^ 8
    else if off = 0x4044 then 224 + 16 * 2 ^ 8
    else if off = 0x4048 then 240 + 8 * 2 ^ 8
    else if off = 0x404C then 248 + 1 * 2 ^ 8
    else if 0x9100 ≤ off ∧ off < 0x9180 then
      let e := (off - 0x9100) / 4
      if e ≤ 0xE then e else 0x3F
    else 0
  else
    let o := (off - 0x1000000) % 0x200000
    if o < 0x10000 then
      if 0x4100 ≤ o ∧ o < 0x4200 ∧ o % 0x20 = 0 then 16 + (o - 0x4100) / 0x20 % 2 else 0
    else
      let b := (o - 0x10000) / 0x1000
      let p := (o - 0x10000) % 0x1000
      if 0x100 ≤ p ∧ p < 0x580 then
        if (p - 0x100) % 0x40 = 0 then defaultRole ((p - 0x100) / 0x40) else 0
      else if 0x600 ≤ p ∧ p < 0x648 then
        let c := (p - 0x600) / 4
        b / 2 + (b % 2 * 8 + c % 8) * 8 + (if c = 17 then 128 else 0)
      else if 0x680 ≤ p ∧ p < 0x6C8 then b / 4
      else 0

/-- The reset value of the register at a normal offset (R14). Fields loaded from straps, fuses or the almanac and the cause of a reset
are written by the commands that load them. -/
def regReset (off : Nat) : Nat :=
  match regAt off with
  | some row => resetFields row.fields + resetIndex off
  | none => 0

/-- Bits of a register that belong to a field with one of the given access codes. -/
def maskOf (p : Acc → Bool) : List FSpec → Nat
  | [] => 0
  | f :: rest => (if p f.acc then (2 ^ f.w - 1) * 2 ^ f.lo else 0) + maskOf p rest

/-- Is the register shadowed? Every register has only SH fields or none (R250). -/
def RegRow.isSh (row : RegRow) : Bool := row.fields.any (fun f => f.acc == Acc.sh)

end Sys2Proof.Machine
end

