-- ==== Sys2Proof/Machine/CellState.lean ====
section
/-!
DEFINITION. The state of one cell that is no register field: the Phitex engine (R74-R76), the sequencer and renderer (R107-R123), the
readout chain (R164-R178), the watch slots (R112), and of the release queues the cell feeds (R40).
-/
namespace Sys2Proof.Machine

/-- A complex value, I and Q. -/
abbrev Cx := Int × Int

/-- Where an envelope sample belongs: its stamp and sub-tick index (R36), its candidate tag (R119), and the NCO words and amplitude that
hold at its stamp (R129, R131). -/
structure SMeta where
  stamp : Nat
  sub   : Nat
  ct    : Nat
  xn    : Nat
  ftw   : Nat
  poff  : Nat
  amp   : Nat
  deriving DecidableEq, Repr

/-- One group of an engine port (R72): four lanes as in a V register, the valid mask, the IC and CSEL marks, and the samples' places. -/
structure PGroup where
  lanes : BitVec 128
  vm    : BitVec 4
  ic    : Nat
  csel  : Nat
  metas : List SMeta
  deriving DecidableEq, Repr

/-- A result on its way to an engine register (R74). `zncv`: the flag bits written (mask) and their values. -/
inductive PWrite where
  | s (d : Nat) (v : Word)
  | lui (d : Nat) (v : BitVec 14)
  | v (d : Nat) (x : BitVec 128)
  | vput (d lane c : Nat) (x : BitVec 16)
  | macz (d : Nat) (prod : List Cx)
  | mac (d : Nat) (prod : List Cx)
  | p (d : Nat) (x : BitVec 16)
  | m (d : Nat) (x : BitVec 16)
  | l (d : Nat) (x : BitVec 4)
  | zncv (mask val : BitVec 4)
  | port (ic csel : Nat) (vm : BitVec 4)
  | sreg (x : Nat) (v : Word)
  deriving DecidableEq, Repr

/-- A result in flight: it becomes visible when `left` more bundles have been issued. -/
structure PEntry where
  w    : PWrite
  left : Nat
  deriving DecidableEq, Repr

/-- The Phitex engine (R76) and its pipeline (R74, R75). Register tables are by number; an unlisted register is zero. `curA` holds the slot-A
results of the bundle being issued, `aDone` that its slot A has been issued. `dslots` counts delay slots still to issue, `dtarget` the branch
target after them (R83). -/
structure Phx where
  on      : Bool
  pc      : Nat
  sR      : List (Nat × Word)
  vR      : List (Nat × BitVec 128)
  acc     : List (Nat × BitVec 320)
  pR      : List (Nat × BitVec 16)
  mR      : List (Nat × BitVec 16)
  lR      : List (Nat × BitVec 4)
  flags   : BitVec 14
  eflags  : BitVec 14
  epc     : BitVec 12
  evcause : BitVec 3
  lc      : List (Nat × Word)
  ls      : List (Nat × BitVec 12)
  le      : List (Nat × BitVec 12)
  pf      : BitVec 4
  dec     : BitVec 8
  pend    : List PEntry
  curA    : List PEntry
  aDone   : Bool
  dslots  : Nat
  dtarget : Option Nat
  inPort  : List PGroup
  outPort : List PGroup
  taken   : List PGroup
  deriving DecidableEq, Repr

/-- The engine with every register cleared and its ports empty (R76, R92). -/
def Phx.clear : Phx :=
  { on := false, pc := 0, sR := [], vR := [], acc := [], pR := [], mR := [], lR := [], flags := 0, eflags := 0, epc := 0, evcause := 0,
    lc := [], ls := [], le := [], pf := 0, dec := 0, pend := [], curA := [], aDone := false, dslots := 0, dtarget := none,
    inPort := [], outPort := [], taken := [] }

/-- The kinds of timed instructions (R107). -/
inductive TKind where
  | play | gap | measure | wait
  deriving DecidableEq, Repr

/-- What follows a timed instruction (R114): a known word, the word that a render-time condition has chosen (R115; a candidate run stops there, R118), or a choice between the
next word and TGT on a meridian condition (R116). -/
inductive ExitRes where
  | goto (pc : Nat)
  | known (pc : Nat)
  | cond (cc : Nat) (dflt : Bool) (next tgt : Nat)
  deriving DecidableEq, Repr

/-- A timed instruction in progress: its word address, start stamp and length in granules; the ticks rendered (or posted) so far; for PLAY
the SEGID and the segment's length; for MEASURE the window; for WAIT its fields (R121, R122). `exit` is set when the exit is fixed (R115). `done` counts envelope samples in a DRIVE or BASEBAND cell and granules in a READOUT cell; `silent` is the
granule that UNDERRUN renders as zero (R105), `sbase` the stream granule at which a PLAY of a STREAM segment begins. -/
structure Timed where
  kind  : TKind
  word  : Nat
  s0    : Nat
  gran  : Nat
  done  : Nat
  segid : Nat
  segLen : Nat
  win   : Nat
  mask  : Nat
  all   : Bool
  fill  : Bool
  deft  : Nat
  dl    : Nat
  silent : Option Nat
  sbase : Nat
  exit  : Option ExitRes
  deriving DecidableEq, Repr

/-- An effect outside the cell that waits for a select (R118): from SIGNAL, SROUND, FRAME, a rendered transit. -/
inductive Fx where
  | signal (no val stamp : Nat)
  | sround (dl stamp : Nat)
  | frame (xop zop stamp : Nat)
  | transit
  deriving DecidableEq, Repr

/-- The sequencer and renderer on one path: the next word, the loop levels (counter and start word while active), zero-time instructions
since the last timed one, the stamp at which the next timed instruction starts, the NCO words and amplitude, the MTAG label, the last
envelope sample (`zl`: it is the zero of a WAIT's fill, R123), the granules of the candidate run still to cover, whether the run has stopped, the effects held for the select,
and the granule at which each stream goes on (R104). -/
structure SeqCtx where
  pc    : Nat
  loops : List (Nat × (Nat × Nat))
  zt    : Nat
  stamp : Nat
  ftw   : Nat
  poff  : Nat
  amp   : Nat
  mtag  : Nat
  last  : Cx
  zl    : Bool := false
  cur   : Option Timed
  cond  : Option ExitRes
  ended : Bool
  left  : Nat
  stop  : Bool
  fx    : List Fx
  strm  : List (Nat × Nat)
  deriving DecidableEq, Repr

/-- An unresolved exit (R118-R120): its number, its transit, the condition, the two candidate paths, and which run is being rendered
(0, 1; 2 when both have been sent). -/
structure Branch where
  xn   : Nat
  sT   : Nat
  cc   : Nat
  dflt : Bool
  run  : Nat
  c0   : SeqCtx
  c1   : SeqCtx
  deriving DecidableEq, Repr

/-- Markers of R41, R123, R147. A fill carries the sample it repeats and the words it is mixed with. -/
inductive MarkKind where
  | endm
  | fill (smp : Cx) (ftw poff amp : Nat)
  | resume
  | lock
  | unlock
  deriving DecidableEq, Repr

/-- A marker with its stamp and tag; `late` once it has arrived late (R495); for a fill that repeats an engine output, `from_` is the tag of the path whose
last output it takes when it reaches the lane (R123). -/
structure Mark where
  kind  : MarkKind
  stamp : Nat
  ct    : Nat
  xn    : Nat
  late  : Bool
  from_ : Option Nat
  deriving DecidableEq, Repr

/-- A watch slot (R113); `missed`: an exit found it empty and took DEF (R117); `seen`: the last item of the decision fabric it took. -/
structure WSlot where
  full   : Bool
  cls    : Nat
  inv    : Bool
  a      : Nat
  missed : Bool
  seen   : Nat
  deriving DecidableEq, Repr

/-- A granule of the measurement schedule (R43): its first stamp, the window it belongs to, its tag. -/
structure Sched where
  stamp : Nat
  win   : Option Nat
  ct    : Nat
  xn    : Nat
  deriving DecidableEq, Repr

/-- A MEASURE that has been executed and has not delivered (R166-R168). `posted` counts its granules posted; `postedAt` is the tick at which
the last was posted; `out` is the value its engine output group carried; `run` the candidate run it was executed on (R72). -/
structure Win where
  id       : Nat
  mt       : Nat
  dur      : Nat
  m0       : Nat
  label    : Nat
  ct       : Nat
  xn       : Nat
  n        : Nat
  accI     : Int
  accQ     : Int
  ovr      : Bool
  late     : Bool
  stale    : Bool
  posted   : Nat
  postedAt : Option Nat
  sent     : Bool
  out      : Option Cx
  dead     : Bool
  run      : Nat
  deriving DecidableEq, Repr

/-- A band sample that reached the integrator before its schedule was posted (the band input buffer of R44). -/
structure BandSmp where
  stamp : Nat
  e     : Nat
  i     : Int
  q     : Int
  ovr   : Bool
  cal   : Bool
  deriving DecidableEq, Repr

/-- The working thresholds of one measure-table entry and the sums of its loop (R171, R172). `set`: the thresholds have been loaded. -/
structure Thr where
  t01  : BitVec 16
  t2   : BitVec 16
  n0   : Nat
  n1   : Nat
  n2   : Nat
  i0   : Int
  i1   : Int
  q0   : Int
  q1   : Int
  q2   : Int
  upd  : Nat
  rej  : Nat
  deriving DecidableEq, Repr

/-- The readout chain of a cell. `lost` are the stamps of band samples that the input buffer of R44 could not take. -/
structure Ro where
  sched    : List Sched
  posted   : Option Nat
  cover    : Option Nat
  wins     : List Win
  winNext  : Nat
  buf      : List BandSmp
  lost     : List Nat
  slots    : List (Nat × BitVec 64)
  nslot    : Nat
  lastOk   : List (Nat × BitVec 64)
  thr      : List (Nat × Thr)
  deriving DecidableEq, Repr

/-- A stage-ring line of a cell (R99, R100): the SEGID (65,536 + z for stream z), the line within the segment or the stream, and its place. -/
structure StageLine where
  segid : Nat
  line  : Nat
  place : Nat
  deriving DecidableEq, Repr

/-- A SIGNAL held by the cell until its posting tick (R113); `stamp` is the stamp it is latched with. -/
structure SigHold where
  no    : Nat
  val   : Nat
  stamp : Nat
  deriving DecidableEq, Repr

/-- A FRAME operation held until its write tick (R191). -/
structure FrameOp where
  xop  : Nat
  zop  : Nat
  tick : Nat
  deriving DecidableEq, Repr

/-- A change of the frame bits (R190): its write tick, whether it acts after the FRAMEs of that tick (a syndrome toggle, a clear, a host write), and its operation on each
bit (R191). -/
structure FrEv where
  tick : Nat
  post : Bool
  xop  : Nat
  zop  : Nat
  deriving DecidableEq, Repr

/-- Everything a cell holds that is no register field. `ctx` is the path taken so far; `branch` an unresolved exit; `xnNext` the number of the next.
`qAt` is the detection tick of a quarantine, `zeroAt` the release tick from which the cell's lanes release zero (R91, R93, R262), `quarNext` a QUAR_REQ
for the next shot; `held` the cell is held in this shot. `faulted` and `faultRun` count faulting shots (R446), `firstAt` is the tick at which
FIRST took its code (R90). `endAt` is the release tick of the last stamp
before END, `lastAcc` the newest stamp accepted by a queue, `leadMin` the least lead of the update period, `freqSet` that the island clock has a frequency
(R46). `rin` are samples rendered and not yet grouped for the engine, `gq` groups formed that wait for the input port, `post` samples that left the engine and wait for stamping, `lastOut` the last of them by tag; `icNext` is 3 until the first group
after candidate runs has been formed, `cselLast` the last CSEL. `outMarks` are markers sent that have not reached their lanes; `lateTags` counts entries of
unresolved candidates discarded as late, by tag. `frLog` are the newest changes of the frame bits, oldest first, and `frBase` the bits before them (R190). -/
structure Cell where
  phx      : Phx
  ctx      : SeqCtx
  branch   : Option Branch
  xnNext   : Nat
  held     : Bool
  qAt      : Option Nat
  zeroAt   : Option Nat
  quarNext : Bool
  faulted  : Bool
  firstAt  : Option Nat
  faultRun : Nat
  endAt    : Option Nat
  lastAcc  : Option Nat
  leadMin  : Option Int
  leadTick : Option Nat
  freqSet  : Bool
  rin      : List (Cx × SMeta)
  post     : List (Cx × SMeta)
  gq       : List PGroup
  lastOut  : List (Nat × Cx)
  icNext   : Nat
  cselLast : Nat
  outMarks : List Mark
  lateTags : List (Nat × Nat)
  stage    : List StageLine
  slots    : List (Nat × WSlot)
  ro       : Ro
  sigs     : List SigHold
  frameOps : List FrameOp
  frameHeld : Option (Bool × Bool)
  frLog    : List FrEv
  frBase   : Bool × Bool
  deriving DecidableEq, Repr

/-- A path that has not started. -/
def SeqCtx.clear : SeqCtx :=
  { pc := 0, loops := [], zt := 0, stamp := 0, ftw := 0, poff := 0, amp := 0x7FFF, mtag := 0, last := (0, 0), zl := false, cur := none, cond := none,
    ended := false, left := 0, stop := false, fx := [], strm := [] }

/-- An empty watch slot. -/
def WSlot.empty : WSlot := { full := false, cls := 0, inv := false, a := 0, missed := false, seen := 0 }

/-- Thresholds and sums at zero. -/
def Thr.zero : Thr := { t01 := 0, t2 := 0, n0 := 0, n1 := 0, n2 := 0, i0 := 0, i1 := 0, q0 := 0, q1 := 0, q2 := 0, upd := 0, rej := 0 }

/-- The readout chain with nothing in it. -/
def Ro.clear : Ro :=
  { sched := [], posted := none, cover := none, wins := [], winNext := 0, buf := [], lost := [], slots := [], nslot := 0, lastOk := [], thr := [] }

/-- A cell right after reset. (log 3 DESIGN CHOICE) -/
def Cell.init : Cell :=
  { phx := Phx.clear, ctx := SeqCtx.clear, branch := none, xnNext := 0, held := false, qAt := none, zeroAt := none, quarNext := false,
    faulted := false, firstAt := none, faultRun := 0, endAt := none, lastAcc := none, leadMin := none, leadTick := none, freqSet := false, rin := [], post := [], gq := [], lastOut := [],
    icNext := 0, cselLast := 0, outMarks := [], lateTags := [], stage := [], slots := [], ro := Ro.clear, sigs := [], frameOps := [],
    frameHeld := none, frLog := [], frBase := (false, false) }

/-- A queue entry (R40): the three samples of one tick with their stamp and tag. A vector pin uses `code`. -/
structure QEntry where
  stamp : Nat
  ct    : Nat
  xn    : Nat
  smp   : List Cx
  code  : Nat
  deriving DecidableEq, Repr

/-- A timed-release queue (R40, R41): the source cell, whether the lane is active and from which tick, its entries and markers, the WAIT fill
in force. -/
structure Lane where
  src     : Option Nat
  act     : Bool
  from_   : Nat
  entries : List QEntry
  marks   : List Mark
  fill    : Option (Cx × Nat × Nat × Nat)
  deriving DecidableEq, Repr

/-- A lane with nothing in it. -/
def Lane.init : Lane := { src := none, act := false, from_ := 0, entries := [], marks := [], fill := none }

/-- The combined stream of one tick (R137) or the samples of a baseband lane: its stamp and whether the output is occulted then (R145), and whether the
combiner saturated in it. -/
structure HistTick where
  stamp : Nat
  smp   : List Cx
  occ   : Bool
  sat   : Bool
  deriving DecidableEq, Repr

/-- An output unit: the last release tick, the newest combined ticks, and the codes at the pin with the stamp they belong to; the release tick from which a broken
lock or a quarantine occults it (R150, R446), and the tick at which LOCK_RELEASE frees a broken lock (R291). -/
structure OutSt where
  last  : Option Nat
  hist  : List HistTick
  stamp : Nat
  codes : List Int
  occFrom : Option Nat
  freeAt : Option Nat
  breakBy : Option (Nat × Nat)
  deriving DecidableEq, Repr

/-- An output unit that has converted nothing: code 0 (R440). -/
def OutSt.init : OutSt := { last := none, hist := [], stamp := 0, codes := [], occFrom := none, freeAt := none, breakBy := none }

end Sys2Proof.Machine
end

