-- ==== Sys2Proof/Machine/PeriphState.lean ====
section
/-!
DEFINITION. The state of the peripheral units that is no register field: acquisition channels, monitor ADC, HBM controller, arbiters, Sorzil
ports, time port, calibration loops, thermal supervisor, pins.
-/
namespace Sys2Proof.Machine

/-- A source sample of an acquisition channel (R210): its stamp (tick, sub-tick, samples per tick), its value (a RAW code as it is, a complex sample in
Q1.15), its OVR mark, the count of R227's OVR_CNT for its tick, and whether its macro was in calibration (R228). -/
structure AcqSmp where
  tick : Nat
  sub  : Nat
  spt  : Nat
  i    : Int
  q    : Int
  ovr  : Bool
  ovrN : Nat
  cal  : Bool
  deriving DecidableEq, Repr

/-- A trigger that a channel has detected and not yet judged (R214, R216): stamp (tick, sub-tick of `spt` in a tick), source code (0xF forced, 0xE software). -/
structure AcqDet where
  tick : Nat
  sub  : Nat
  spt  : Nat
  src  : Nat
  deriving DecidableEq, Repr

/-- An open plate (R218-R226): its trigger; whether the source has come to the trigger's sample (`filled`, R220); the pre-trigger source samples in its window; the window's
samples, newest first, and older ones that belong to its first group (`ext`); post-trigger samples recorded; groups begun and groups stored; the newest group (K and number)
and the first K; the stored-sample indices at which K rose; MISSED; how it ends early; `data` are its stored bytes that wait in the record memory. `shut`: the window is
complete. -/
structure Plate where
  trig   : AcqDet
  filled : Bool
  preV   : Nat
  win    : List AcqSmp
  ext    : List AcqSmp
  postN  : Nat
  grps   : Nat
  done   : Nat
  grp    : Option (Nat × Nat)
  k0     : Nat
  steps  : List Nat
  above  : Bool
  missed : Nat
  trunc  : Bool
  full   : Bool
  shut   : Bool
  data   : List Byte
  deriving DecidableEq, Repr

/-- A plate that DISARM, parking or suspension closes while samples stamped before that tick `stop` are still on their way (R221, R228): the channel's configuration, Y, K by stamp,
pre-trigger memory and plate number as they stood, and the plate. -/
structure Tail where
  stop  : Nat
  img   : List Nat
  y     : Nat
  kHist : List (Nat × Nat)
  pre   : List AcqSmp
  no    : Nat
  plate : Plate
  deriving DecidableEq, Repr

/-- A closed plate on its way to the spool (R223, R224): its number, its header without SPOOL_OFF, its last group while samples of it are still to come, with those that have
(newest first), RAW format, EV_PLATE, the bytes of data, the zeros that end them, those that wait in the record memory, and the spool offset once the header is written; its
source (R210), its spool ring, and whether SPOOL = 1 lets it go in pieces (R222). -/
structure PlateOut where
  no    : Nat
  hdr   : List Byte
  last  : Option (Nat × Nat)
  smp   : List AcqSmp
  raw   : Bool
  ev    : Bool
  bytes : Nat
  pad   : Nat
  data  : List Byte
  off   : Nat
  key   : Nat
  ring  : Nat
  parts : Bool
  deriving DecidableEq, Repr

/-- A read of staging that the controller has accepted (R223): address, length, and the bytes once they have returned. -/
structure StageRd where
  addr : Nat
  len  : Nat
  data : Option (List Byte)
  deriving DecidableEq, Repr

/-- An arming on its way to the region (R217, R288): its tick U_a, the register images, whether they are written, and the ring of the command. -/
structure Arming where
  at_   : Nat
  img   : List Nat
  keep  : Bool
  ring  : Nat
  deriving DecidableEq, Repr

/-- An acquisition channel. `img` are the ten register images read at arming (R229), `y` the ready tick, `s1` the stamp tick of the last plate's last sample
and `qAt` the first tick since then at which the record memory held less than 512 KiB (R218); `kHist` K by stamp tick, newest first, `chkAt` the last tick at which the books were
checked (R225); `forced` a forced trigger has fired since Y; `armUp`, `armDn` the detectors of R215; `pre` the newest samples, newest first; `tails` plates that were stopped and
wait for their last samples; `stage` the bytes in staging, `wr` and `rd` the places of the next write and read in its slice (R310), `reads` the bytes read out of it; `sent` the
bytes of the oldest closed plate, header included, that are in the spool, `ahead` bytes of an open plate that stand in the spool past P (R222); `trigs` the stamp ticks of the
newest accepted triggers (R248); `arming` the ARM_CAPTUREs that have not reached the region. -/
structure Acq where
  img     : List Nat
  y       : Nat
  s1      : Nat
  qAt     : Option Nat
  kHist   : List (Nat × Nat)
  chkAt   : Option Nat
  kReset  : Bool
  forced  : Bool
  armUp   : Bool
  armDn   : Bool
  pre     : List AcqSmp
  plate   : Option Plate
  tails   : List Tail
  dets    : List AcqDet
  plateNo : Nat
  missed  : Nat
  meas    : List Nat
  outs    : List PlateOut
  stage   : Nat
  wr      : Nat
  rd      : Nat
  reads   : List StageRd
  sent    : Nat
  ahead   : List Byte
  trigs   : List Nat
  arming  : List Arming
  deriving DecidableEq, Repr

/-- An acquisition channel that is DISARMED and has never been armed. -/
def Acq.init : Acq :=
  { img := [], y := 0, s1 := 0, qAt := none, kHist := [], chkAt := none, kReset := false, forced := false, armUp := false, armDn := false, pre := [], plate := none,
    tails := [], dets := [], plateNo := 0, missed := 0, meas := [], outs := [], stage := 0, wr := 0, rd := 0, reads := [], sent := 0, ahead := [], trigs := [],
    arming := [] }

/-- The monitor ADC (R231-R234): the entry in conversion, whether its settings were written since it started, its offset and gain, the tick of the last self-calibration. -/
structure Mon where
  entry  : Nat
  redo   : Bool
  offset : Int
  gain   : Int
  calAt  : Nat
  deriving DecidableEq, Repr

/-- Accesses to the stack that a unit makes for one purpose (R313): its number, the requester, the purpose (a ring, an epoch, or what the requester says), the spans (address, length,
the data of a write) still to be requested, in order, the requests made and not served, what reads have brought by address, whether it held an uncorrectable word, and the spool offset
of the first byte it reads. The requests come as commands of their own. (log 149 DESIGN CHOICE) -/
structure HWork where
  id   : Nat
  who  : Nat
  tag  : Nat
  todo : List (Nat × Nat × Option (List Byte))
  out  : Nat
  got  : List (Nat × List Byte)
  bad  : Bool
  off  : Nat
  deriving DecidableEq, Repr

/-- A request of the HBM controller (R313-R315): requester number, address, length, data of a write, arrival order and tick; the `HWork` it is made for (0: none), and the spool offset its
data go to. -/
structure HReq where
  who   : Nat
  addr  : Nat
  len   : Nat
  write : Bool
  data  : List Byte
  seq   : Nat
  at_   : Nat
  job   : Nat := 0
  off   : Nat := 0
  deriving DecidableEq, Repr

/-- A pseudo-channel (R315-R320): its waiting requests oldest first, banks in in-order mode with the write each waits for, write drain, open rows,
the activate-count table (bank, row, count), postponed refreshes by bank, the start of the present refresh window, and the refreshes that have fallen due in it by bank. -/
structure Pc where
  q       : List HReq
  inOrder : List (Nat × Nat)
  drain   : Bool
  rows    : List (Nat × Nat)
  acts    : List (Nat × Nat × Nat)
  debt    : List (Nat × Nat)
  winAt   : Nat
  due     : List (Nat × Nat)
  deriving DecidableEq, Repr

/-- An idle pseudo-channel. -/
def Pc.init : Pc := { q := [], inOrder := [], drain := false, rows := [], acts := [], debt := [], winAt := 0, due := [] }

/-- The HBM controller: pseudo-channels, the arrival counter, requests held by self-refresh, the data of the last read (requester, address, bytes, uncorrectable), the pauses done of
the present gathering and whether one is in progress, the pseudo-channel that is treated next, the earliest tick of its first or next pause and the start of the present retraining
cycle, whether self-refresh was asked for by STANDBY and with which mask, whether exit must follow entry (`wake`), whether a cancelled entry is due again, the next scrub
address and the tick at which the present pass of the scrubber began, the tick since which the front has been empty, and a rate change that waits, with the rate before it; what units
have to do at the stack (`works`, the newest of them `jobs`), requests that have passed their region's port and wait for the spine (`ups`, R331); D0 of the newest chip drain and the
spine cycles that earlier chip-drain holds took (R314, R341). -/
structure HbmCtl where
  pcs     : List (Nat × Pc)
  seq     : Nat
  held    : List HReq
  lastRd  : Option (Nat × Nat × List Byte × Bool)
  pauses  : Nat
  pausing : Bool
  nextPc  : Nat
  pauseAt : Nat
  cycleAt : Nat
  standby : Bool
  keep    : Nat
  wake    : Bool
  retry   : Bool
  scrubX  : Nat
  scrubAt : Nat
  idleAt  : Nat
  rateDue : Bool
  oldRate : Nat
  works   : List HWork := []
  jobs    : Nat := 0
  ups     : List HReq := []
  holdD0  : Option Nat := none
  heldCyc : Nat := 0
  deriving DecidableEq, Repr

/-- The HBM controller right after reset. -/
def HbmCtl.init : HbmCtl :=
  { pcs := [], seq := 0, held := [], lastRd := none, pauses := 0, pausing := false, nextPc := 0, pauseAt := 0, cycleAt := 0, standby := false, keep := 0xFFFF,
    wake := false, retry := false, scrubX := 0, scrubAt := 0, idleAt := 0, rateDue := false, oldRate := 0, works := [], jobs := 0, ups := [], holdD0 := none, heldCyc := 0 }

/-- A port of an arbiter (R333-R339): the owner, the pseudo-channel its request is bound for, the cycle of its grant, the beats moved in the grant and the first cycle in which
the next can move, and the count of cycles at which the owner's cycles without a beat begin (R339); the beats moved of the present transfers (`portKey`); the requesters that wait, with
the count of cycles at the start of the wait; the owners whose burst has expired and those whom the watchdog has reset, with the cycle; the last requester granted at each priority.
Cycles are counted as `Core.arbCount` does. What is kept for all four spine lanes together is kept with lane 0. -/
structure ArbSt where
  owner  : Option Nat
  bound  : Option Nat
  since  : Nat
  beats  : Nat
  next   : Nat
  idle   : Nat
  parts  : List (Nat × Nat)
  waits  : List (Nat × Nat)
  former : List (Nat × Nat)
  bitten : List (Nat × Nat)
  last   : List (Nat × Nat)
  deriving DecidableEq, Repr

/-- A free port. -/
def ArbSt.init : ArbSt := { owner := none, bound := none, since := 0, beats := 0, next := 0, idle := 0, parts := [], waits := [], former := [], bitten := [], last := [] }

/-- A flit waiting at a port, or held for replay: virtual lane, SEQ once sent, send tick, payload. -/
structure TxFlit where
  v    : Nat
  seq  : Nat
  tick : Nat
  load : Nat
  deriving DecidableEq, Repr

/-- The transmit side of a lane (R348-R351): the state of its scrambler, the last line bit and how long it has run, the delay in UI not repaid, whether that has reached
256, the parity by bit position since the last alignment marker and the bits it covers. -/
structure TxLine where
  prbs : Nat
  last : Bool
  run  : Nat
  debt : Nat
  full : Bool
  bip  : Nat
  pos  : Nat
  deriving DecidableEq, Repr

/-- The receive side of a lane (R348, R349, R351): the state of its descrambler, the last line bit and how long it has run, the parity by bit position of the line bits since the
last alignment marker, and how many those are. -/
structure RxLine where
  prbs : Nat
  last : Bool
  run  : Nat
  bip  : Nat
  pos  : Nat
  deriving DecidableEq, Repr

/-- A Sorzil port (R348-R369). Transmit side: express flits queued, the replay buffer, flits being sent again, the next SEQ, whether a NAK has come in, the last SEQ asked
for again and how often in a row, the tick at which the next TIME flit is due, the scramblers' seeds, the flits sent. Receive side: SEQ expected, SEQ last accepted, a NAK to
send, the last SEQ asked for again and when, flits accepted since the last LINK flit and its tick, the last d (R369), decision flits held (latch tick, payload), marker errors
in a row, ticks of BIP errors, periods of a low eye and the last equaliser update by lane. `downReq`: DOWN was written; `downAt`: tick of the last end of training in DOWN;
`excl`: lanes that a retrain leaves out. `want`: express flits (virtual lane, payload) without a credit yet (R52); `lines`: the transmit lanes; `unitNo`: units sent since
training; `rx`: the receive lanes by physical lane; `rxNo`: units received since training; `linkFirst`: the first flit after training, a LINK flit, has not been sent (R363);
`ts`: the training sets sent in the last training, with their physical lanes. -/
structure Port where
  txq      : List TxFlit
  replay   : List TxFlit
  resend   : List TxFlit
  seq      : Nat
  nakIn    : Bool
  nakWhich : Nat
  nakCnt   : Nat
  timeAt   : Nat
  seeds    : List (BitVec 31)
  sent     : List (BitVec 288)
  expSeq   : Nat
  ackTx    : Nat
  nakDue   : Bool
  nakSeq   : Option (Nat × Nat)
  sinceLink : Nat
  lastLink : Nat
  lastD    : Option Int
  hold     : List (Nat × Nat)
  markErr  : List (Nat × Nat)
  bipErr   : List (Nat × Nat)
  eyeLow   : List (Nat × Nat)
  eqAt     : List (Nat × Nat)
  downReq  : Bool
  downAt   : Nat
  excl     : Nat
  want     : List (Nat × Nat)
  lines    : List TxLine
  unitNo   : Nat
  rx       : List RxLine
  rxNo     : Nat
  linkFirst : Bool
  ts       : List (Nat × BitVec 192)
  deriving DecidableEq, Repr

/-- A port in electrical idle. -/
def Port.init : Port :=
  { txq := [], replay := [], resend := [], seq := 0, nakIn := false, nakWhich := 0, nakCnt := 0, timeAt := 0, seeds := [], sent := [], expSeq := 0, ackTx := 127,
    nakDue := false, nakSeq := none, sinceLink := 0, lastLink := 0, lastD := none, hold := [], markErr := [], bipErr := [], eyeLow := [], eqAt := [],
    downReq := false, downAt := 0, excl := 0, want := [], lines := [], unitNo := 0, rx := [], rxNo := 0, linkFirst := false, ts := [] }

/-- A transmit stamp (R385): the stamp, TAG, SEQ_ID, MSGTYPE and whether the frame was a recognised event message. -/
structure TxStamp where
  ns    : Nat
  tag   : Nat
  seqId : Nat
  mtype : Nat
  ptp   : Bool
  deriving DecidableEq, Repr

/-- The time port (R377-R387). `off` is OFF in units of 2^-32 ns; `offLog` the changes of the last 8,192 ticks, newest first: tick U and the value that governed up to it (a change
at tick U governs from U + 1); `driftAt` the last tick whose DRIFT was added; `corrs` the errors submitted in this tick, judged at its end (R382); `jumpAt` the tick at which the
pulse of a second boundary starts that a change of OFF has carried network time past (R386); `secs` the seconds pulsed, newest first; `ppsEdge` and `ppsEnd` the edges of the
present pulse in 1/24 tick; `txts` the transmit stamps that wait, `stamps` those of frames sent whose instant (in quarters of a nanosecond) or tick has not ended; `txq` the frames
to send (ring, index, entry), `sent` the frames sent, with their FCS. -/
structure Tpt where
  off     : Int
  offLog  : List (Nat × Int)
  driftAt : Option Nat
  corrs   : List Int
  jumpAt  : Option Nat
  secs    : List Int
  ppsHigh : Bool
  ppsEdge : Nat
  ppsEnd  : Nat
  txts    : List TxStamp
  stamps  : List (Nat × TxStamp)
  txq     : List (Nat × Nat × Desc)
  sent    : List (List Byte)
  driftWr : Option Nat
  deriving DecidableEq, Repr

/-- The time port right after reset. -/
def Tpt.init : Tpt :=
  { off := 0, offLog := [], driftAt := none, corrs := [], jumpAt := none, secs := [], ppsHigh := false, ppsEdge := 0, ppsEnd := 0,
    txts := [], stamps := [], txq := [], sent := [], driftWr := none }

/-- The kinds of R391 that have almanac entries. -/
inductive AlmKind where
  | mon | tptLat | therm | lead | hbm | szl | coll | mis | adcFull | dacFull | bbFull | thresh
  deriving DecidableEq, Repr

/-- The KIND code (R391). -/
def AlmKind.code : AlmKind → Nat
  | .mon => 1 | .tptLat => 2 | .therm => 3 | .lead => 4 | .hbm => 5 | .szl => 6 | .coll => 0x10 | .mis => 0x11 | .adcFull => 0x12
  | .dacFull => 0x13 | .bbFull => 0x14 | .thresh => 0x20

/-- What an almanac entry is for: its kind, the level and number of its unit, and SUB (R405, R406). Levels: 0 chip, 1 region, 3 cell, 4 RF DAC, 5 ADC macro,
6 baseband DAC, 7 Sorzil port. -/
structure AlmHead where
  kind  : AlmKind
  level : Nat
  index : Nat
  sub   : Nat
  deriving DecidableEq, Repr

/-- The unit of collimation channel `k` of region `r` (R394): its level and number; a vector pin is given at level region by its global number. (log 103 DEDUCED) -/
def collUnit (r k : Nat) : Nat × Nat :=
  if k < 8 then (4, 8 * r + k) else if k < 12 then (5, 4 * r + (k - 8)) else if k < 44 then (6, 32 * r + (k - 12)) else (1, 8 * r + (k - 44))

/-- What entry `e` is for (R406). (log 103 DEDUCED) -/
def almHead (e : Nat) : Option AlmHead :=
  if e = 0 then some ⟨.mon, 0, 0, 0⟩
  else if e = 1 then some ⟨.tptLat, 0, 0, 0⟩
  else if e < 74 then some ⟨.therm, 0, e - 2, 0⟩
  else if e < 80 then none
  else if e < 88 then some ⟨.lead, 1, e - 80, 0⟩
  else if e < 96 then none
  else if e < 112 then some ⟨.hbm, 0, e - 96, 0⟩
  else if e < 136 then some ⟨.szl, 7, (e - 112) / 6, (e - 112) % 6⟩
  else if e < 256 then none
  else if e < 672 then let u := collUnit ((e - 256) / 52) ((e - 256) % 52); some ⟨.coll, u.1, u.2, 0⟩
  else if e < 1024 then none
  else if e < 1536 then some ⟨.mis, 5, (e - 1024) / 16, (e - 1024) % 16⟩
  else if e < 1568 then some ⟨.adcFull, 5, e - 1536, 0⟩
  else if e < 1632 then some ⟨.dacFull, 4, e - 1568, 0⟩
  else if e < 1888 then some ⟨.bbFull, 6, e - 1632, 0⟩
  else if e < 2048 then none
  else if e < 20480 then some ⟨.thresh, 3, (e - 2048) / 8, (e - 2048) % 8⟩
  else none

/-- Bytes 0-3 of an entry: KIND, LEVEL, SUB, INDEX (R405). -/
def AlmHead.word (h : AlmHead) : Nat := h.kind.code + h.level * 2 ^ 8 + h.sub * 2 ^ 11 + h.index * 2 ^ 16

/-- What an unlisted byte of the almanac reads as: an entry that R406 lists is EMPTY and names its unit, any other is zero (R405-R407). (log 103 DEDUCED) -/
def almByte (x : Nat) : Byte :=
  match almHead (x / 32) with
  | some h => if x % 32 < 4 then BitVec.ofNat 8 (h.word / 256 ^ (x % 32)) else 0
  | none => 0

/-- A foreground calibration or a CALIBRATE in progress (R403, R411): the ring that asked, KIND, the almanac entries still to end, DRY, the start tick,
entries that have ended with their outcome (0 APPLIED, 1 FAILED, 2 NOT_RUN) and the 32 bytes reported, and the command's LEVEL, INDEX, TAG data; `dead`: units that a swap has put
out of service, which end as NOT_RUN (R404). -/
structure CalJob where
  ring   : Nat
  kind   : Nat
  level  : Nat
  index  : Nat
  units  : List Nat
  dry    : Bool
  start  : Nat
  ended  : List (Nat × Nat × List Byte)
  addr   : Nat
  bytes  : Nat
  tag    : Nat
  dead   : List Nat
  deriving DecidableEq, Repr

/-- One slice of an ADC macro (R400): its correction values, and the sums gathered since the last update. -/
structure Slice where
  off  : Int
  gain : Int
  skew : Int
  n    : Nat
  s1   : Int
  s2   : Int
  sx   : Int
  deriving DecidableEq, Repr

/-- A slice with no correction and nothing gathered. -/
def Slice.init : Slice := { off := 0, gain := 0, skew := 0, n := 0, s1 := 0, s2 := 0, sx := 0 }

/-- An ADC macro: its slices, the last corrected code of each input (for the product with the next), the mixed samples the band filter holds
(newest first) by output stream, the tick before which it settles, the last tick sampled, the changes of CAL (tick, value), newest first (R178), and the swap tick, MODE and EN
before the last swap that changed one of them (R211). -/
structure AdcSt where
  slices : List (Nat × Slice)
  prev   : List (Nat × Int)
  histA  : List (Int × Int)
  histB  : List (Int × Int)
  settle : Nat
  last   : Option Nat
  calLog : List (Nat × Bool)
  before : Option (Nat × Bool × Bool)
  deriving DecidableEq, Repr

/-- A macro that has sampled nothing. -/
def AdcSt.init : AdcSt := { slices := [], prev := [], histA := [], histB := [], settle := 0, last := none, calLog := [], before := none }

/-- Calibration and the almanac's bookkeeping: FACTORY values loaded from the fuses, step opportunities counted (collimation by region, mismatch by 64 + macro) and the tick after
the last one (R397, R400), jobs in progress, whether an entry has changed since the last backup, when the last backup was written, whether one is wanted at once, the copy and GEN
of a backup in progress, and when a collimation channel (52 r + k) was last measured; `force`: the values in force of HBM, ADC_FULL, DAC_FULL and BB_FULL entries; `waits`:
MANUAL values that wait for a pause or a drain gap to take effect (R408). -/
structure Cal where
  factory : List (Nat × AlmVal)
  opp     : List (Nat × Nat)
  oppAt   : List (Nat × Nat)
  jobs    : List CalJob
  dirty   : Bool
  backAt  : Nat
  backNow : Bool
  backing : Option (Nat × Nat)
  measAt  : List (Nat × Nat)
  force   : List (Nat × AlmVal)
  waits   : List (Nat × AlmVal)
  deriving DecidableEq, Repr

/-- Calibration right after reset. -/
def Cal.init : Cal := { factory := [], opp := [], oppAt := [], jobs := [], dirty := false, backAt := 0, backNow := false, backing := none, measAt := [], force := [], waits := [] }

/-- The thermal supervisor (R416-R427). By sensor: windows its count has been unchanged. By zone: windows left of the grace timer (absent: stopped),
whether every window of the period stayed below THROT - HYST, and the sensor whose failure made the zone HELD (255: no working sensor is left, for good).
`shut`: THERMTRIP_N asserted for a shutdown; `cause` its sensor; `cool` windows in which every working sensor read below 85 °C; `vrReq` the tick of a rising request of a rail that waits for VR_ACK,
`vrLim` the voltage of a rail that limits its cells (R429); `hot` whether a zone stood at THROT or above in its latest window (R419, R420); `released`: THERMTRIP_N has been released
after a shutdown and the device waits for PWR_OK (R426). -/
structure Thm where
  same    : List (Nat × Nat)
  grace   : List (Nat × Nat)
  low     : List (Nat × Bool)
  heldBy  : List (Nat × Nat)
  shut    : Bool
  cause   : Nat
  cool    : Nat
  vrReq   : List (Nat × Nat)
  hot     : List (Nat × Bool)
  vrLim   : List (Nat × Nat)
  released : Bool
  deriving DecidableEq, Repr

/-- The thermal supervisor at power-up of VDD_AON. -/
def Thm.init : Thm :=
  { same := [], grace := [], low := [], heldBy := [], shut := false, cause := 0, cool := 0, vrReq := [], hot := [], vrLim := [], released := false }

/-- A compare run (R241): its first stamp, the stamp of its last compare code, a tick without a compare inside it, one after `se` so far, whether it has
ended, whether a compare failed, and whether its first failure has been detected (R242). -/
structure CRun where
  s0     : Nat
  se     : Nat
  inval  : Bool
  gap    : Bool
  closed : Bool
  fail   : Bool
  deriving DecidableEq, Repr

/-- A vector pin (R236-R243): the driver state of the newest stamp released (0 low, 1 high, 2 high impedance), what was released by stamp (code 16: no entry,
17: occulted; driver), its compare runs oldest first, the last release tick, the first failure in source of the acquisition trigger. -/
structure VecSt where
  drv  : Nat
  sig  : List (Nat × Nat × Nat)
  runs : List CRun
  last : Option Nat
  deriving DecidableEq, Repr

/-- A pin at high impedance that has released nothing. -/
def VecSt.init : VecSt := { drv := 2, sig := [], runs := [], last := none }

/-- Trigger inputs and outputs, SYNC pins, straps, JTAG, THERMTRIP_N's power-up hold. `trigLvl` the qualified level of a trigger input, `trigRaw` its level at the last sample and the tick K
of its last change, `trigEdges` the detection ticks of edges of the last ticks (R247), `trigOut` the tick at which a
trigger output goes low; `syncE` the E of the last frame; `syncHigh` SYNC_OUT held high before the counter starts (R58); `fuseDone` IDCODE is
valid (R485); `d3` the D3hot state, `settleTo` the tick until which converters settle, `srDue` whether the stack has to enter self-refresh for D3hot (0: no, 1: as soon as it can,
2: again after a cancelled entry) (R431); `smbOut` the bytes of the last SMBus answer, with its PEC (R486). -/
structure Pins where
  trigLvl  : List (Nat × Bool)
  trigOut  : List (Nat × Nat)
  trigRaw  : List (Nat × Nat × Bool)
  trigEdges : List (Nat × Nat)
  syncE    : Option Nat
  syncHigh : Bool
  hold     : Bool
  straps   : Straps
  jtagIr   : Nat
  jtagData : List Bool
  jtagPre  : List Bool
  jtagOut  : Option (List Bool)
  jtagHiZ  : Bool
  fuseDone : Bool
  d3       : Bool
  settleTo : Nat
  srDue    : Nat
  smbOut   : List Nat
  deriving DecidableEq, Repr

/-- Straps tied low. (log 3 DESIGN CHOICE) -/
def Straps.low : Straps := { syncDly := 0, szlEn := 0, smbAddr := 0, jtagEn := false }

/-- The pins right after reset release (R58, R440, R483, R484). (log 3 DESIGN CHOICE) -/
def Pins.init : Pins :=
  { trigLvl := [], trigOut := [], trigRaw := [], trigEdges := [], syncE := none, syncHigh := true, hold := true, straps := Straps.low, jtagIr := 1, jtagData := [],
    jtagPre := [], jtagOut := none, jtagHiZ := false, fuseDone := false, d3 := false, settleTo := 0, srDue := 0, smbOut := [] }

/-- Bring-up (R59, R438, R441, R485): PLL0 is locked and the chip listens on SYNC_IN; the window of 131,072 ticks is still open; the stack was put into self-refresh for the reset; SELF_TEST waits for JTAG_EN to be
cleared; JTAG_EN has been cleared already (`jtagOff`); the stages before SERVICE are done. How long a stage lasted comes with its command. -/
structure Boot where
  listen   : Bool
  window   : Bool
  kept     : Bool
  jtagWait : Bool
  jtagOff  : Bool
  ready    : Bool
  deriving DecidableEq, Repr

/-- Bring-up at reset release. -/
def Boot.init : Boot := { listen := false, window := false, kept := false, jtagWait := false, jtagOff := false, ready := false }

end Sys2Proof.Machine
end

