-- ==== Sys2Proof/Machine/UnitState.lean ====
section
/-!
DEFINITION. The state of the units above the cell that is no register field: books, decision fabric, region drains, syndrome engine,
configuration root, shot series, rings and host interface.
-/
namespace Sys2Proof.Machine

/-- The counters of one unit of a book (R53), and how many acknowledges that have yet to come belong to transfers of a port reset (R339). -/
structure Book where
  issued   : Nat
  returned : Nat
  inflight : Nat
  void     : Nat := 0
  deriving DecidableEq, Repr

/-- A book unit that has moved nothing. -/
def Book.zero : Book := { issued := 0, returned := 0, inflight := 0, void := 0 }

/-- What an item of the decision fabric is (R111, R182). -/
inductive BusKind where
  | dec | sig | remote | vec | trig
  deriving DecidableEq, Repr

/-- An item of the decision fabric: a decision, a signal, a decision of a neighbour, a compare result or a trigger edge. `latch` is the latch
tick L (R168), `base` the tick from which the available tick A is counted (R112), `sub` the SIGNO or port, `seq` its number, `exp` the ports it has left through (bit p, R186). -/
structure BusItem where
  seq   : Nat
  kind  : BusKind
  src   : Nat
  sub   : Nat
  cls   : Nat
  inv   : Bool
  latch : Nat
  base  : Nat
  rgn   : Nat
  exp   : Nat := 0
  deriving DecidableEq, Repr

/-- A line of the block staging cache (R100). -/
structure CacheLine where
  segid : Nat
  line  : Nat
  place : Nat
  use   : Nat
  deriving DecidableEq, Repr

/-- A line that has reached a block's refill engine and waits for the block port (R332). -/
structure InLine where
  segid : Nat
  line  : Nat
  data  : List Byte
  deriving DecidableEq, Repr

/-- A block's staging ring (lines of stream z under SEGID 65,536 + z), the count of its uses, its quarantine (R446); of its refill engine the LIBRARY lines it is to read
from the stack, and the lines that have come (R101, R332). -/
structure Blk where
  cache   : List CacheLine
  useCtr  : Nat
  qAt     : Option Nat
  want    : List (Nat × Nat) := []
  inbox   : List InLine := []
  deriving DecidableEq, Repr

/-- A block right after reset. -/
def Blk.init : Blk := { cache := [], useCtr := 0, qAt := none, want := [], inbox := [] }

/-- A round of a syndrome engine (R195-R205): its number, opening stamp, DL and the opening stamp of the next round when known; the inputs taken at the close
(input, class, invalid) and those MISSING; the close and its marks; the check bits, defects and erased flags; the import flits taken (port, region), their
values and erased flags by position, the arrival of the last, and whether the missing ones are erased; the start of the lookup, the groups handled, and what they
found; the toggles; whether the round has finished, and whether its region parked before (R448). -/
structure Round where
  no      : Nat
  p       : Nat
  dl      : Nat
  pNext   : Option Nat
  inputs  : List (Nat × Nat × Bool)
  missing : List Nat
  close   : Option Nat
  cut     : Bool
  deadl   : Bool
  formed  : Bool
  bits    : Nat
  d       : Nat
  era     : Nat
  got     : List (Nat × Nat)
  imp     : Nat
  impEra  : Nat
  impAt   : Nat
  expired : Bool
  start   : Option Nat
  stalled : Bool
  idx     : Nat
  applied : Nat
  esc     : Nat
  prev    : Bool
  togg    : List (Nat × Bool)
  fin     : Bool
  dead    : Bool
  deriving DecidableEq, Repr

/-- A defect flit held for a round not yet opened, or waiting for its tick (R199): port, sending region, round, defects, erasures, ready tick, and
the rounds that have opened since it came. -/
structure DefFlit where
  port : Nat
  rgn  : Nat
  no   : Nat
  dfx  : Nat
  era  : Nat
  tick : Nat
  age  : Nat := 0
  deriving DecidableEq, Repr

/-- A frame toggle on its way to a cell (R202): the cell, the bit (true for Z), the write tick, the sending region. -/
structure Toggle where
  cell : Nat
  z    : Bool
  tick : Nat
  src  : Nat
  deriving DecidableEq, Repr

/-- The syndrome engine of a region: SROUNDs held for their stamps (stamp, DL, how many), the rounds of the present shot oldest first, the number of the next,
the previous round's check bits and erased flags, the tick from which the lookup unit is free, and defect flits held. -/
structure Synd where
  opens   : List (Nat × Nat × Nat)
  rounds  : List Round
  nextNo  : Nat
  prevB   : Nat
  prevE   : Nat
  freeAt  : Nat
  flits   : List DefFlit
  deriving DecidableEq, Repr

/-- A syndrome engine with nothing in it. -/
def Synd.init : Synd := { opens := [], rounds := [], nextNo := 0, prevB := 0, prevE := 0, freeAt := 0, flits := [] }

/-- A region's part in the shot and its drain (R260-R263). `inShot`: the region takes part in the present shot. `d0`, `uR` as R256.
The flags tell which drain steps have been done; `section_` is its section of the record and `secOff` its offset in the RECORD slice (R298, R310); the last fields are the flags of the shot record (R297) and the D0 that STOP with CUT sets (R262). -/
structure RgnShot where
  inShot   : Bool
  ts       : Nat
  d0       : Option Nat
  uR       : Nat
  lastTog  : Option Nat
  ledgered : Bool
  gathered : Bool
  framed   : Bool
  swapped  : Bool
  posted   : Bool
  ended    : Option Nat
  adcChg   : Bool
  section_ : List Byte
  secOff   : Nat
  ledger   : Bool
  under    : Bool
  late     : Bool
  quar     : Bool
  cutAt    : Option Nat
  deriving DecidableEq, Repr

/-- A region outside any shot. -/
def RgnShot.init : RgnShot :=
  { inShot := false, ts := 0, d0 := none, uR := 0, lastTog := none, ledgered := false, gathered := false, framed := false, swapped := false,
    posted := false, ended := none, adcChg := false, section_ := [], secOff := 0, ledger := false, under := false, late := false, quar := false, cutAt := none }

/-- The lead loop of a region (R49, R51): its rail request, the updates in a row that wanted it lower, the tick of the last update and the RATE in force since. -/
structure LeadLoop where
  vReq  : Nat
  lower : Nat
  last  : Nat
  rate  : Nat
  deriving DecidableEq, Repr

/-- A region. `parkAt` is the tick it parked; `toggles` are frame toggles for its cells. -/
structure Rgn where
  shot    : RgnShot
  synd    : Synd
  lead    : LeadLoop
  parkAt  : Option Nat
  toggles : List Toggle
  deriving DecidableEq, Repr

/-- A region right after reset; the rail request is the start value of R428. (log 3 DESIGN CHOICE) -/
def Rgn.init : Rgn :=
  { shot := RgnShot.init, synd := Synd.init, lead := { vReq := 740, lower := 0, last := 0, rate := 1 }, parkAt := none,
    toggles := [] }

/-- A completion that waits to be written (R292). -/
structure Comp where
  opcode : Nat
  tag    : Nat
  status : Nat
  ring   : Nat
  index  : Nat
  res0   : Nat
  res1   : Nat
  stamp  : Nat
  int    : Bool
  deriving DecidableEq, Repr

/-- An event that waits to be written (R294). -/
structure Evt where
  code  : Nat
  level : Nat
  index : Nat
  stamp : Nat
  arg0  : Nat
  arg1  : Nat
  deriving DecidableEq, Repr

/-- What the device sends over the PCIe link: a write to host memory, one with the Relaxed Ordering attribute (R278), an MSI-X message of a vector with its address and data, an
answer to a read of a BAR, an AER report. (log 63 DESIGN CHOICE) -/
inductive HostOut where
  | write (addr : Nat) (data : List Byte)
  | relaxed (addr : Nat) (data : List Byte)
  | msix (vector addr data : Nat)
  | readAns (data : List Byte) (poisoned : Bool)
  | unsupported
  | aer (cause : Nat)
  deriving DecidableEq, Repr

/-- The command in a ring's command slot (R282): its descriptor, its index, the tick it reached the chip, whether it is in execution
(waiting for its end), the numbers of the ring positions a FENCE waits for, the scatter entries that a POST_SPOOL has taken, how many legs of their way its data have gone over
the ports (R331), the tick and the bytes of a QUERY's snapshot, or of the data the command has read from host memory, and whether a RUN has been held while the converters
settled (R431). -/
structure Cmd where
  desc  : Desc
  index : Nat
  start : Nat
  exec  : Bool
  deps  : List (Nat × Nat)
  taken : List Desc
  leg   : Nat := 0
  snap  : Option (Nat × List Byte) := none
  settle : Bool := false
  deriving DecidableEq, Repr

/-- A ring (R271-R277, R299-R303). `host` is PI or CI; `done` counts commands completed and `fetched` commands fetched; spool fields P, C, S,
the size to adopt and the scatter entries (address, bytes). `dbLow` holds the low half of a spool offset not yet committed, `dbLast` the last committed value; `retry` counts
the reads of an entry with a wrong phase, the next due at `retryAt`; `reserved` counts completion entries kept for commands in execution. -/
structure Ring where
  host    : Nat
  dbLow   : Option Nat
  dbLast  : Nat
  retry   : Nat
  retryAt : Nat
  stopped : Bool
  cmd     : Option Cmd
  fetched : Nat
  done    : Nat
  comps   : List Comp
  unsig   : Nat
  oldest  : Nat
  intNow  : Bool
  dirty   : Bool
  p       : Nat
  c       : Nat
  s       : Nat
  sNew    : Option Nat
  segs    : List (Nat × Nat)
  reserved : Nat
  deriving DecidableEq, Repr

/-- A ring right after reset. -/
def Ring.init : Ring :=
  { host := 0, dbLow := none, dbLast := 0, retry := 0, retryAt := 0, stopped := false, cmd := none, fetched := 0, done := 0, comps := [], unsig := 0,
    oldest := 0, intNow := false, dirty := false, p := 0, c := 0, s := 0, sNew := none, segs := [], reserved := 0 }

/-- A shot record in staging (R260, R297, R310): its result entry without PHASE and SPOOL_OFF, its header, followed in NO_HBM by its sections (R312), and by region its sections' lengths
and their offsets in the RECORD slices. -/
structure ShotRec where
  secs  : List (Nat × Nat)
  offs  : List (Nat × Nat)
  entry : List Byte
  data  : List Byte
  deriving DecidableEq, Repr

/-- The host interface. `capture` holds the captured words of R459 by offset, `msix` the words of the MSI-X table by offset and `pba` the
pending bits of its vectors (R303); `turn` is the ring whose descriptor was fetched last (R279); `relaxOn` is Enable Relaxed Ordering of the Device Control register (R278). -/
structure HostIf where
  rings    : List (Nat × Ring)
  evq      : List Evt
  ovfCnt   : Nat
  ovfFirst : Nat
  out      : List HostOut
  bootEv   : Bool
  binds    : List (Nat × Nat)
  recs     : List ShotRec
  capture  : List (Nat × Nat)
  msix     : List (Nat × Word)
  pba      : Nat
  turn     : Nat
  relaxOn  : Bool
  deriving DecidableEq, Repr

/-- The host interface right after reset. -/
def HostIf.init : HostIf :=
  { rings := [], evq := [], ovfCnt := 0, ovfFirst := 0, out := [], bootEv := false, binds := [], recs := [], capture := [],
    msix := [], pba := 0, turn := 63, relaxOn := true }

/-- The configuration root (R252-R257): the ring whose COMMIT is being checked (with CHECK_ONLY and its start tick), the completion tick of a
COMMIT whose swap is due, the regions that have swapped, the chip swap tick, whether a swap has taken place
since bring-up, the SEGIDs the committed set references, and the registers that a LOAD_CONFIG of space REG has written in tick `loadAt` (R460). -/
structure CfgRoot where
  commit   : Option (Nat × Bool × Nat)
  cC       : Option Nat
  swapped  : List Nat
  swapTick : Nat
  ever     : Bool
  inPlay   : List Nat
  loadAt   : Nat
  loaded   : List Nat
  deriving DecidableEq, Repr

/-- The configuration root right after reset. -/
def CfgRoot.init : CfgRoot :=
  { commit := none, cC := none, swapped := [], swapTick := 0, ever := false, inPlay := [], loadAt := 0, loaded := [] }

/-- A shot series (R259-R262): COUNT, START_MODE, TRIG, PERIOD, the epoch of the next shot, the first stamp of the next shot when it is known, the
stamp and end of the last shot, the last drain end E, stop requests, and the ring whose STOP waits for IDLE; whether the thermal cap set the known first stamp (R422), and whether
an FLR has discarded the record of the shot in progress (R439). -/
structure Series where
  count   : Nat
  mode    : Nat
  trig    : Nat
  period  : Nat
  next    : Nat
  ts      : Option Nat
  lastTs  : Nat
  lastEnd : Nat
  begun   : Bool
  shotOn  : Bool
  stopping : Bool
  cut     : Bool
  staged  : Bool
  stopRings : List (Fin 64)
  gen     : Nat
  present : Nat
  ledger  : Nat
  capped  : Bool
  mute    : Bool
  deriving DecidableEq, Repr

/-- No series. -/
def Series.init : Series :=
  { count := 0, mode := 0, trig := 0, period := 0, next := 0, ts := none, lastTs := 0, lastEnd := 0, begun := false, shotOn := false,
    stopping := false, cut := false, staged := false, stopRings := [], gen := 0, present := 0, ledger := 0, capped := false, mute := false }

end Sys2Proof.Machine
end

