-- ==== Sys2Proof/Machine/State.lean ====
section
/-!
DEFINITION. The state of the LK1024 block: the queue of waiting commands, the memories, and everything else. Plain data.
-/
namespace Sys2Proof.Machine

/-- The memories of the block, each a table (address, byte) in the canonical form of `Tbl.wf`. Shadowed memories (R251) have an active and a shadow copy.
Addresses: cell memories by `g * size + offset`, syndrome tables by `r * size + offset`, block stores by `(16 r + b) * size + offset`, the segment directory
16 bytes an entry (R98), the almanac 32 bytes an entry (R405), HBM by byte address (R304). `ue` lists HBM words (8 bytes, R317) with an uncorrectable error. `flaw` lists words of the
cell and region memories and of the almanac with a bit error: kind, word, uncorrectable (R65). Kinds: 1 program memory (words of 64 bits), 2 data memory (128 bits; of each 512, the first 256 are
DM_CONST), 3 segment store (128 bits), 4 measure table (128 bits), 5 syndrome memory (128 bytes), 6 almanac (entries of 32 bytes, R405); 8 more for the shadow copy. No command of the table makes an error. -/
structure Mems where
  pmA    : List (Nat × Byte)
  pmS    : List (Nat × Byte)
  dmcA   : List (Nat × Byte)
  dmcS   : List (Nat × Byte)
  mtA    : List (Nat × Byte)
  mtS    : List (Nat × Byte)
  syA    : List (Nat × Byte)
  syS    : List (Nat × Byte)
  dmw    : List (Nat × Byte)
  seg    : List (Nat × Byte)
  blk    : List (Nat × Byte)
  dir    : List (Nat × Byte)
  alm    : List (Nat × Byte)
  hbm    : List (Nat × Byte)
  hbmGen : Nat
  hbmLoss : List (Bool × Nat)
  ue     : List Nat
  ce     : List Nat
  flaw   : List (Nat × Nat × Bool)
  deriving DecidableEq, Repr

/-- What an unlisted byte reads as in every memory but the almanac and the HBM stack: zero (R63, R98, R251, R437: cleared by the bring-up). (log 3 DESIGN CHOICE) -/
def zeroByte : Nat → Byte := fun _ => 0

/-- Memories with nothing listed. (log 3 DESIGN CHOICE) -/
def Mems.empty : Mems :=
  { pmA := [], pmS := [], dmcA := [], dmcS := [], mtA := [], mtS := [], syA := [], syS := [], dmw := [], seg := [], blk := [], dir := [],
    alm := [], hbm := [], hbmGen := 0, hbmLoss := [], ue := [], ce := [], flaw := [] }

/-- The pseudo-channel of stack address `x` in the INTERLEAVED or the BLOCKED layout (R306). -/
def pcOf (blocked : Bool) (x : Nat) : Nat := if blocked then bitsOf x 30 4 else bitsOf x 7 4

/-- How many of the losses (layout, mask of pseudo-channels), newest first, address `x` has seen up to the newest that reached it (R325). -/
def lossAt : List (Bool × Nat) → Nat → Nat
  | [], _ => 0
  | e :: rest, x => if bitAt e.2 (pcOf e.1 x) then rest.length + 1 else lossAt rest x

/-- What a byte of the stack that nothing has written since its contents were lost reads as. (log 4 DESIGN CHOICE) -/
def Mems.hbmFree (m : Mems) (x : Nat) : Byte := Config.freeHbm (m.hbmGen + lossAt m.hbmLoss x) x

/-- The stack has lost everything. (log 4 DESIGN CHOICE) -/
def Mems.hbmGone (m : Mems) : Mems := { m with hbm := [], hbmGen := m.hbmGen + m.hbmLoss.length + 1, hbmLoss := [], ue := [], ce := [] }

/-- The canonical form of every memory. -/
def Mems.wf (m : Mems) : Bool :=
  Tbl.wf zeroByte m.pmA && Tbl.wf zeroByte m.pmS && Tbl.wf zeroByte m.dmcA && Tbl.wf zeroByte m.dmcS && Tbl.wf zeroByte m.mtA
    && Tbl.wf zeroByte m.mtS && Tbl.wf zeroByte m.syA && Tbl.wf zeroByte m.syS && Tbl.wf zeroByte m.dmw && Tbl.wf zeroByte m.seg
    && Tbl.wf zeroByte m.blk && Tbl.wf zeroByte m.dir && Tbl.wf almByte m.alm && Tbl.wf m.hbmFree m.hbm

/-- Everything the block holds but its queue and its memories. `now` is the meridian counter; it counts while `running`. `freeCtr` is the model's own
counter of free values. `live`, `act` and `shd` hold the registers by offset: those without SH fields, the active and the shadow set of those with SH fields
(R250); an unlisted register holds its reset value. Tables of units are by number (R6): an unlisted unit is as right after reset. `occOld` keeps, of an OCCULT register written in the present tick, the tick and the value before (R145). -/
structure Core where
  now     : Nat
  running : Bool
  freeCtr : Nat
  live    : List (Nat × Word)
  act     : List (Nat × Word)
  shd     : List (Nat × Word)
  cells   : List (Nat × Cell)
  blks    : List (Nat × Blk)
  rgns    : List (Nat × Rgn)
  lanes   : List (Nat × Lane)
  dacs    : List (Nat × OutSt)
  bbs     : List (Nat × OutSt)
  vecs    : List (Nat × VecSt)
  adcs    : List (Nat × AdcSt)
  acqs    : List (Nat × Acq)
  srcs    : List (Nat × List AcqSmp)
  books   : List (Nat × Book)
  bus     : List BusItem
  busSeq  : Nat
  occOld  : List (Nat × Nat × Nat)
  root    : CfgRoot
  ser     : Series
  host    : HostIf
  hbmc    : HbmCtl
  arbs    : List (Nat × ArbSt)
  ports   : List (Nat × Port)
  mon     : Mon
  tpt     : Tpt
  cal     : Cal
  thm     : Thm
  pins    : Pins
  boot    : Boot
  deriving DecidableEq, Repr

/-- The block: the commands that wait, first in, first out; the memories; everything else. -/
structure State where
  pending : List Instr
  mem     : Mems
  core    : Core
  deriving DecidableEq, Repr

/-- Faults. `meridianWrap`: an idle step would take the meridian counter past 2^64 - 1, for which no behaviour is defined (R32). Raised by `idle` only; safe. -/
inductive Fault where
  | meridianWrap
  deriving DecidableEq, Repr

/-- Refusals. `notModelled`: the command has no meaning yet; raised by an arm of `exec` only; safe. -/
inductive Refusal where
  | notModelled (mnemonic : String)
  deriving DecidableEq, Repr

/-- The block at its first reset release (R437, R440, R441): a power-on with VDD_AON up, PWR_OK asserted and all straps low, in stage POWER_GOOD. (log 3 DESIGN CHOICE) -/
def Core.reset : Core :=
  { now := 0, running := false, freeCtr := 0,
    live := [(Fd.CHP_RST_STS, 1)], act := [], shd := [],
    cells := [], blks := [], rgns := [], lanes := [], dacs := [], bbs := [], vecs := [], adcs := [], acqs := [], srcs := [], books := [], bus := [],
    busSeq := 1, occOld := [], root := CfgRoot.init, ser := Series.init, host := HostIf.init, hbmc := HbmCtl.init, arbs := [], ports := [],
    mon := { entry := 0, redo := false, offset := 0, gain := 0, calAt := 0 }, tpt := Tpt.init, cal := Cal.init, thm := Thm.init, pins := Pins.init, boot := Boot.init }

/-- The block right after reset: nothing waits, every memory is empty. (log 3 DESIGN CHOICE) -/
def State.reset : State := { pending := [], mem := Mems.empty, core := Core.reset }

end Sys2Proof.Machine
end

