-- ==== Sys2Proof/Machine/Ops.lean ====
section
/-!
DEFINITION. The named operations over the state: register fields, events, completions, units, books, memories, byte streams.
-/
namespace Sys2Proof.Machine

/-- The reset value of a register as a word (R14). -/
def regDef (o : Nat) : Word := BitVec.ofNat 32 (regReset o)

/-- The value of a register field: of an SH field its active copy (R13, R250). -/
def Core.get (c : Core) (x : Fld) : Nat :=
  match x.acc with
  | .sh => bitsOf (Tbl.get regDef c.act x.off).toNat x.lo x.w
  | _ => bitsOf (Tbl.get regDef c.live x.off).toNat x.lo x.w

/-- Is a field non-zero? -/
def Core.on (c : Core) (x : Fld) : Bool := c.get x != 0

/-- The signed value of a field. -/
def Core.getS (c : Core) (x : Fld) : Int := sx x.w (c.get x)

/-- The shadow copy of an SH field. -/
def Core.sh (c : Core) (x : Fld) : Nat := bitsOf (Tbl.get regDef c.shd x.off).toNat x.lo x.w

/-- A field of the table of registers `t` set to `v`. -/
def putIn (t : List (Nat × Word)) (x : Fld) (v : Nat) : List (Nat × Word) :=
  Tbl.insert t x.off (BitVec.ofNat 32 (putBits (Tbl.get regDef t x.off).toNat x.lo x.w v))

/-- A register field written by the hardware: of an SH field its active copy. -/
def Core.put (c : Core) (x : Fld) (v : Nat) : Core :=
  match x.acc with
  | .sh => { c with act := putIn c.act x v }
  | _ => { c with live := putIn c.live x v }

/-- A signed field written by the hardware. -/
def Core.putS (c : Core) (x : Fld) (v : Int) : Core := c.put x (twos x.w v)

/-- A one-bit field written by the hardware. -/
def Core.setOn (c : Core) (x : Fld) (b : Bool) : Core := c.put x (b2n b)

/-- A sticky bit set when `b` holds. -/
def Core.stick (c : Core) (x : Fld) (b : Bool) : Core := if b then c.put x 1 else c

/-- A counter that saturates at the top of its field (R16, and the register tables). -/
def Core.inc (c : Core) (x : Fld) (n : Nat) : Core := c.put x (satAdd (2 ^ x.w - 1) (c.get x) n)

/-- A whole word of the registers without SH fields. -/
def Core.liveW (c : Core) (off : Nat) : Nat := (Tbl.get regDef c.live off).toNat
/-- A whole word of the active set. -/
def Core.actW (c : Core) (off : Nat) : Nat := (Tbl.get regDef c.act off).toNat
/-- A whole word of the shadow set. -/
def Core.shdW (c : Core) (off : Nat) : Nat := (Tbl.get regDef c.shd off).toNat
/-- Writes a whole word of the registers without SH fields. -/
def Core.setLiveW (c : Core) (off v : Nat) : Core := { c with live := Tbl.insert c.live off (BitVec.ofNat 32 v) }
/-- Writes a whole word of the shadow set. -/
def Core.setShdW (c : Core) (off v : Nat) : Core := { c with shd := Tbl.insert c.shd off (BitVec.ofNat 32 v) }

/-- The first element for which `p` holds, replaced by `f` of it. -/
def modFirst {α : Type} (p : α → Bool) (f : α → α) : List α → List α
  | [] => []
  | a :: rest => if p a then f a :: rest else a :: modFirst p f rest

/-- A step that changes everything but the queue and the memories. -/
def State.onCore (s : State) (f : Mems → Core → Core) : Host.Outcome State Fault Refusal := .next { s with core := f s.mem s.core }

/-- A step that may also change the memories. -/
def State.onBoth (s : State) (f : Mems → Core → Mems × Core) : Host.Outcome State Fault Refusal :=
  .next { s with mem := (f s.mem s.core).1, core := (f s.mem s.core).2 }

/-- A fresh free value, and the state with the counter advanced. (log 2 DESIGN CHOICE) -/
def Core.free (c : Core) : Nat × Core := (Config.freeNat c.freeCtr, { c with freeCtr := c.freeCtr + 1 })
/-- The value of a register write `v`, free where a reserved bit was written as 1 (R15). (log 9 DESIGN CHOICE) -/
def Core.written (c : Core) (bad : Bool) (v : Nat) : Nat × Core := if bad then c.free else (v, c)

/-- The cell with global number `k`. -/
def Core.cell (c : Core) (k : Nat) : Cell := Tbl.get (fun _ => Cell.init) c.cells k
/-- The same, replaced. -/
def Core.setCell (c : Core) (k : Nat) (x : Cell) : Core := { c with cells := Tbl.insert c.cells k x }
/-- The same, changed. -/
def Core.modCell (c : Core) (k : Nat) (f : Cell → Cell) : Core := c.setCell k (f (c.cell k))

/-- Block `16 r + b`. -/
def Core.blk (c : Core) (k : Nat) : Blk := Tbl.get (fun _ => Blk.init) c.blks k
/-- The same, replaced. -/
def Core.setBlk (c : Core) (k : Nat) (x : Blk) : Core := { c with blks := Tbl.insert c.blks k x }
/-- The same, changed. -/
def Core.modBlk (c : Core) (k : Nat) (f : Blk → Blk) : Core := c.setBlk k (f (c.blk k))

/-- Region `k`. -/
def Core.rgn (c : Core) (k : Nat) : Rgn := Tbl.get (fun _ => Rgn.init) c.rgns k
/-- The same, replaced. -/
def Core.setRgn (c : Core) (k : Nat) (x : Rgn) : Core := { c with rgns := Tbl.insert c.rgns k x }
/-- The same, changed. -/
def Core.modRgn (c : Core) (k : Nat) (f : Rgn → Rgn) : Core := c.setRgn k (f (c.rgn k))

/-- The queue with key `168 r + q`, `q` as R469 numbers release queues. -/
def Core.lane (c : Core) (k : Nat) : Lane := Tbl.get (fun _ => Lane.init) c.lanes k
/-- The same, replaced. -/
def Core.setLane (c : Core) (k : Nat) (x : Lane) : Core := { c with lanes := Tbl.insert c.lanes k x }
/-- The same, changed. -/
def Core.modLane (c : Core) (k : Nat) (f : Lane → Lane) : Core := c.setLane k (f (c.lane k))

/-- RF DAC `d`. -/
def Core.dac (c : Core) (k : Nat) : OutSt := Tbl.get (fun _ => OutSt.init) c.dacs k
/-- The same, replaced. -/
def Core.setDac (c : Core) (k : Nat) (x : OutSt) : Core := { c with dacs := Tbl.insert c.dacs k x }
/-- The same, changed. -/
def Core.modDac (c : Core) (k : Nat) (f : OutSt → OutSt) : Core := c.setDac k (f (c.dac k))

/-- Baseband DAC `n`. -/
def Core.bb (c : Core) (k : Nat) : OutSt := Tbl.get (fun _ => OutSt.init) c.bbs k
/-- The same, replaced. -/
def Core.setBb (c : Core) (k : Nat) (x : OutSt) : Core := { c with bbs := Tbl.insert c.bbs k x }
/-- The same, changed. -/
def Core.modBb (c : Core) (k : Nat) (f : OutSt → OutSt) : Core := c.setBb k (f (c.bb k))

/-- Vector pin `v`. -/
def Core.vec (c : Core) (k : Nat) : VecSt := Tbl.get (fun _ => VecSt.init) c.vecs k
/-- The same, replaced. -/
def Core.setVec (c : Core) (k : Nat) (x : VecSt) : Core := { c with vecs := Tbl.insert c.vecs k x }
/-- The same, changed. -/
def Core.modVec (c : Core) (k : Nat) (f : VecSt → VecSt) : Core := c.setVec k (f (c.vec k))

/-- ADC macro `a`. -/
def Core.adc (c : Core) (k : Nat) : AdcSt := Tbl.get (fun _ => AdcSt.init) c.adcs k
/-- The same, replaced. -/
def Core.setAdc (c : Core) (k : Nat) (x : AdcSt) : Core := { c with adcs := Tbl.insert c.adcs k x }
/-- The same, changed. -/
def Core.modAdc (c : Core) (k : Nat) (f : AdcSt → AdcSt) : Core := c.setAdc k (f (c.adc k))

/-- Acquisition channel `4 r + h`. -/
def Core.acq (c : Core) (k : Nat) : Acq := Tbl.get (fun _ => Acq.init) c.acqs k
/-- The same, replaced. -/
def Core.setAcq (c : Core) (k : Nat) (x : Acq) : Core := { c with acqs := Tbl.insert c.acqs k x }
/-- The same, changed. -/
def Core.modAcq (c : Core) (k : Nat) (f : Acq → Acq) : Core := c.setAcq k (f (c.acq k))

/-- A unit of a book (`bookKey`). -/
def Core.book (c : Core) (k : Nat) : Book := Tbl.get (fun _ => Book.zero) c.books k
/-- The same, replaced. -/
def Core.setBook (c : Core) (k : Nat) (x : Book) : Core := { c with books := Tbl.insert c.books k x }
/-- The same, changed. -/
def Core.modBook (c : Core) (k : Nat) (f : Book → Book) : Core := c.setBook k (f (c.book k))

/-- An arbiter (`arbKey`). -/
def Core.arb (c : Core) (k : Nat) : ArbSt := Tbl.get (fun _ => ArbSt.init) c.arbs k
/-- The same, replaced. -/
def Core.setArb (c : Core) (k : Nat) (x : ArbSt) : Core := { c with arbs := Tbl.insert c.arbs k x }
/-- The same, changed. -/
def Core.modArb (c : Core) (k : Nat) (f : ArbSt → ArbSt) : Core := c.setArb k (f (c.arb k))

/-- Sorzil port `p`. -/
def Core.port (c : Core) (k : Nat) : Port := Tbl.get (fun _ => Port.init) c.ports k
/-- The same, replaced. -/
def Core.setPort (c : Core) (k : Nat) (x : Port) : Core := { c with ports := Tbl.insert c.ports k x }
/-- The same, changed. -/
def Core.modPort (c : Core) (k : Nat) (f : Port → Port) : Core := c.setPort k (f (c.port k))

/-- Ring `n` of the host interface. -/
def Core.ring (c : Core) (n : Nat) : Ring := Tbl.get (fun _ => Ring.init) c.host.rings n
/-- Ring `n` changed. -/
def Core.modRing (c : Core) (n : Nat) (f : Ring → Ring) : Core :=
  { c with host := { c.host with rings := Tbl.insert c.host.rings n (f (c.ring n)) } }

/-- Pseudo-channel `pc`. -/
def Core.pc (c : Core) (pc : Nat) : Pc := Tbl.get (fun _ => Pc.init) c.hbmc.pcs pc
/-- Pseudo-channel `pc` changed. -/
def Core.modPc (c : Core) (pc : Nat) (f : Pc → Pc) : Core :=
  { c with hbmc := { c.hbmc with pcs := Tbl.insert c.hbmc.pcs pc (f (c.pc pc)) } }

/-- An event detected now (R294); EVENT_WRITE writes it. -/
def Core.raise (c : Core) (code level index arg0 arg1 : Nat) : Core :=
  { c with host := { c.host with
      evq := c.host.evq ++ [{ code := code, level := level, index := index, stamp := c.now, arg0 := arg0 % 2 ^ 64, arg1 := arg1 % 2 ^ 64 }] } }

/-- An event raised when `b` holds. -/
def Core.raiseIf (c : Core) (b : Bool) (code level index arg0 arg1 : Nat) : Core :=
  if b then c.raise code level index arg0 arg1 else c

/-- Sends something over the PCIe link. (log 59 DEDUCED) -/
def Core.emit (c : Core) (o : HostOut) : Core := { c with host := { c.host with out := c.host.out ++ [o] } }

/-- The bytes of a memory from address `a`. -/
def rdBytes (d : Nat → Byte) (m : List (Nat × Byte)) (a n : Nat) : List Byte := (upFrom a n).map (Tbl.get d m)

/-- The little-endian value of `n` bytes of a memory from address `a` (R10). -/
def rdN (d : Nat → Byte) (m : List (Nat × Byte)) (a n : Nat) : Nat := fromLE (rdBytes d m a n)

/-- A memory with bytes written from address `a`. -/
def wrBytes (d : Nat → Byte) : List (Nat × Byte) → Nat → List Byte → List (Nat × Byte)
  | m, _, [] => m
  | m, a, b :: bs => wrBytes d (Tbl.set d m a b) (a + 1) bs

/-- A memory with `n` bytes from address `a` at zero. -/
def clrBytes (m : List (Nat × Byte)) (a n : Nat) : List (Nat × Byte) := m.filter (fun e => decide (e.1 < a) || decide (a + n ≤ e.1))

/-- The run-states of R258. -/
inductive RunState where
  | idle | armed | running | draining | parked
  deriving DecidableEq, Repr

/-- The code of a run-state in `CHP_RUN_STS.STATE`. -/
def RunState.code : RunState → Nat
  | .idle => 0 | .armed => 1 | .running => 2 | .draining => 3 | .parked => 4

/-- The run-state the chip is in. -/
def Core.runIs (c : Core) (x : RunState) : Bool := c.get Fd.CHP_RUN_STS_STATE == x.code
/-- Enters a run-state. -/
def Core.enter (c : Core) (x : RunState) : Core := c.put Fd.CHP_RUN_STS_STATE x.code
/-- Shots run: RUNNING or DRAINING. -/
def Core.shots (c : Core) : Bool := c.runIs .running || c.runIs .draining

/-- The device is in SERVICE (R441): no failure, no thermal shutdown. (log 5 DESIGN CHOICE) -/
def Core.svc (c : Core) : Bool :=
  c.get Fd.CHP_BOOT_STS_STAGE == 8 && !c.on Fd.CHP_BOOT_STS_FAILED && !c.thm.shut

/-- BAR0 is decoded (R440, R442): in SERVICE, or at its chip registers once bring-up has FAILED. (log 64 DEDUCED) -/
def Core.bar0 (c : Core) (off : Nat) : Bool :=
  !c.thm.shut && !c.pins.d3 && (c.svc || (c.on Fd.CHP_BOOT_STS_FAILED && decide (off < 0x100000)))

/-- What a PCI configuration request meets (R440, R442, R425). -/
inductive CfgAnswer where
  | retry | normal | silent
  deriving DecidableEq, Repr

/-- The answer to a PCI configuration request: Configuration Request Retry Status until SERVICE or until bring-up has failed, then normal completion; none with the link down in a
thermal shutdown (R425, R440, R442). (log 177 DEDUCED) -/
def Core.cfgAnswer (c : Core) : CfgAnswer := if c.thm.shut then .silent else if c.svc || c.on Fd.CHP_BOOT_STS_FAILED then .normal else .retry

/-- `old` with the bits of `mask` taken from `v`. -/
def mergeBits (old v mask : Nat) : Nat := Nat.lor (Nat.land old (0xFFFFFFFF - mask)) (Nat.land v mask)

/-- The bits that the byte enables `be` of a 32-bit write select. -/
def enMask (be : BitVec 4) : Nat := (upFrom 0 4).foldl (fun a k => a + (if bitAt be.toNat k then 0xFF * 2 ^ (8 * k) else 0)) 0

/-- The word that a write of `val` with byte enables `be` gives register `off`: the bytes that are not enabled keep what they hold (R457). (log 11 DEDUCED) -/
def Core.enabled (c : Core) (off : Nat) (be : BitVec 4) (val : Word) : Nat := mergeBits (c.liveW off) val.toNat (enMask be)

/-- Region `r` exists and is enabled (R1, R444). (log 5 DESIGN CHOICE) -/
def Core.rOk (c : Core) (r : Nat) : Bool := decide (r < 8) && bitAt (c.get Fd.CHP_UNIT_STS_REGION_OK) r
/-- Block `b` of region `r` is enabled. -/
def Core.bOk (c : Core) (r b : Nat) : Bool := c.rOk r && decide (b < 16) && bitAt (c.get (Fd.RGN_UNIT_STS_BLOCK_OK r)) b
/-- Cell `g` is enabled. -/
def Core.cOk (c : Core) (g : Nat) : Bool := c.bOk (cellR g) (cellB g) && bitAt (c.get (Fd.BLK_UNIT_STS_CELL_OK (cellR g) (cellB g))) (cellC g)
/-- RF DAC `i` of region `r` is enabled. -/
def Core.dacOk (c : Core) (r i : Nat) : Bool := c.rOk r && decide (i < 8) && bitAt (c.get (Fd.RGN_UNIT_STS_DAC_OK r)) i
/-- ADC macro `j` of region `r` is enabled. -/
def Core.adcOk (c : Core) (r j : Nat) : Bool := c.rOk r && decide (j < 4) && bitAt (c.get (Fd.RGN_UNIT_STS_ADC_OK r)) j
/-- Baseband DAC `m` of block `b` of region `r` is enabled. -/
def Core.bbOk (c : Core) (r b m : Nat) : Bool := c.bOk r b && decide (m < 2) && bitAt (c.get (Fd.BLK_UNIT_STS_BB_OK r b)) m

/-- The enabled regions, rising. -/
def Core.regions (c : Core) : List Nat := (upFrom 0 8).filter c.rOk
/-- The global numbers of the cells of region `r`. -/
def rgnCells (r : Nat) : List Nat := upFrom (r * 288) 288
/-- The global numbers of the cells of block `b` of region `r`. -/
def blkCells (r b : Nat) : List Nat := upFrom (r * 288 + b * 18) 18

/-- ROLE of cell `g` (R20): 0 IDLE, 1 DRIVE, 2 READOUT, 3 BASEBAND. -/
def Core.role (c : Core) (g : Nat) : Nat := if c.cOk g then c.get (Fd.CEL_CFG_ROLE g) else 0

/-- Region `r` is PARKED. -/
def Core.parked (c : Core) (r : Nat) : Bool := c.on (Fd.RGN_SUP_STS_PARKED r)

/-- The chip exists on the part with region `r` (R2): LK1024 or regions 0-3. -/
def Core.exists_ (c : Core) (r : Nat) : Bool := decide (r < 8) && bitAt (c.get Fd.CHP_CAPS_REGIONS) r

/-- Does temperature sensor `s` exist on the part (R2)? -/
def Core.sensorOk (c : Core) (s : Nat) : Bool := decide (s < 32) || (decide (64 ≤ s) && decide (s < 72)) || (decide (s < 72) && c.get Fd.CHP_ID_PART != 0x0512)
/-- The part's temperature sensors in rising order (R2). -/
def Core.sensors (c : Core) : List Nat := (upFrom 0 72).filter c.sensorOk
/-- Does thermal zone `z` exist on the part (R2, R419)? -/
def Core.zoneOk (c : Core) (z : Nat) : Bool := decide (z < 9) && c.sensorOk (8 * z)

/-- Codes of `HBM_STS.STATE` (R328). -/
inductive HbmSt where
  | off | training | active | srEntry | selfRefresh | srExit | rateChange
  deriving DecidableEq, Repr

/-- The code of a state of the stack. -/
def HbmSt.code : HbmSt → Nat
  | .off => 0 | .training => 1 | .active => 2 | .srEntry => 3 | .selfRefresh => 4 | .srExit => 5 | .rateChange => 6

/-- The stack is in a state. -/
def Core.hbmIs (c : Core) (x : HbmSt) : Bool := c.get Fd.HBM_STS_STATE == x.code
/-- The stack enters a state. -/
def Core.hbmGo (c : Core) (x : HbmSt) : Core := c.put Fd.HBM_STS_STATE x.code

/-- A request arrives while the stack is not ACTIVE (R324): the state, and whether the request is held. From self-refresh exit begins at once, and STANDBY ends. In entry before the
commit point the entry is cancelled, after it exit follows; with nothing left to serve, whether the commit point has passed is left open: a free value decides. (log 67 DESIGN CHOICE) -/
def Core.srArrive (c : Core) : Core × Bool :=
  if c.hbmIs .selfRefresh then (((c.hbmGo .srExit).put Fd.HBM_PWR_CTL_STANDBY 0).inc Fd.HBM_SR_CNT_SR_HELD 1, true)
  else if c.hbmIs .srEntry then
    let busy := c.hbmc.pcs.any (fun e => !e.2.q.isEmpty)
    let fr := c.free
    let before := !c.hbmc.wake && c.hbmc.held.isEmpty && (busy || fr.1 % 2 == 0)
    let c := if busy then c else fr.2
    if before then
      let c := (c.hbmGo .active).inc Fd.HBM_SR_CNT_SR_CANCEL 1
      ({ c with hbmc := { c.hbmc with retry := c.hbmc.standby, idleAt := c.now } }, false)
    else ({ c.inc Fd.HBM_SR_CNT_SR_HELD 1 with hbmc := { c.hbmc with wake := true } }, true)
  else (c, true)

/-- Codes of completion status (R292). -/
inductive Sts where
  | ok | state | length | align | target | segActive | check | waitCycle | hbm | aborted
  deriving DecidableEq, Repr

/-- The STATUS code (R292). -/
def Sts.code : Sts → Nat
  | .ok => 0 | .state => 1 | .length => 2 | .align => 3 | .target => 4 | .segActive => 5 | .check => 6 | .waitCycle => 7 | .hbm => 8 | .aborted => 9

/-- The key of a unit of a book (R54, R469): region-level books take their region, chip-level books region 0. -/
def bookKey (code r unit : Nat) : Nat := code * 65536 + r * 512 + unit

/-- The code of a book key (R54). -/
def bookCode (k : Nat) : Nat := k / 65536
/-- The region of a book key. -/
def bookRgn (k : Nat) : Nat := k / 512 % 128

/-- A unit of a book counts, as `f` says; in a PARKED region the counters of the region-level books are frozen (R448). -/
def Core.moveBook (c : Core) (k : Nat) (f : Book → Book) : Core := if bookCode k ≤ 5 ∧ c.parked (bookRgn k) = true then c else c.modBook k f

/-- A request leaves (R53). -/
def Core.bookIssue (c : Core) (k : Nat) : Core :=
  c.moveBook k (fun b => { b with issued := (b.issued + 1) % 2 ^ 32, inflight := b.inflight + 1 })
/-- An acknowledge arrives (R53). -/
def Core.bookReturn (c : Core) (k : Nat) : Core :=
  c.moveBook k (fun b => { b with returned := (b.returned + 1) % 2 ^ 32, inflight := b.inflight - 1 })
/-- `n` credits counted as returned at once (R55). -/
def Core.bookReturnN (c : Core) (k n : Nat) : Core :=
  c.moveBook k (fun b => { b with returned := (b.returned + n) % 2 ^ 32, inflight := b.inflight - n })
/-- A unit whose port is reset (R55, R339, R340): balanced, nothing in flight; the acknowledges of what was in flight will be discarded. -/
def Core.bookReset (c : Core) (k : Nat) : Core := c.modBook k (fun b => { b with returned := b.issued, inflight := 0, void := b.void + b.inflight })
/-- A unit set to zero (R55, R450). -/
def Core.bookZero (c : Core) (k : Nat) : Core := c.setBook k Book.zero

/-- The tags of what the configuration root does at the stack for the command of ring `n`: its data, its almanac backup; `backTag` is that of the periodic backup. -/
def cmdTag (n : Nat) : Nat := n + 1
/-- The tag of a periodic almanac backup. -/
def backTag : Nat := 128
/-- The tag of an almanac backup that ring `n` asked for. -/
def cmdBackTag (n : Nat) : Nat := 129 + n

/-- What requester `who` had to do at the stack for the purpose `tag` is over, or dropped. -/
def Core.dropWork (c : Core) (who tag : Nat) : Core := { c with hbmc := { c.hbmc with works := c.hbmc.works.filter (fun w => !(w.who == who && w.tag == tag)) } }

/-- Completes the command in the slot of ring `n` (R281, R292): the completion joins those that wait for the COMPL ring, RESULT0 and RESULT1 as given; what it had at the stack is
over. -/
def Core.complete (c : Core) (n : Nat) (st : Sts) (res0 res1 : Nat) : Core :=
  match (c.ring n).cmd with
  | none => c
  | some k =>
    let d := k.desc
    let comp : Comp := { opcode := descBits d 8 8, tag := descBits d 16 16, status := st.code, ring := n, index := k.index,
                         res0 := res0 % 2 ^ 64, res1 := res1 % 2 ^ 64, stamp := c.now, int := descBits d 2 1 == 1 }
    let c := ((c.dropWork 169 (cmdTag n)).dropWork 169 (cmdBackTag n)).modRing n (fun r => { r with cmd := none, done := r.done + 1 })
    let c := c.stick (Fd.CHP_RING_STS_HALTED n) (descBits d 1 1 == 1 && st != Sts.ok)
    let z := c.get (Fd.CHP_RING_CFG_COMPL n)
    c.modRing z (fun r => { r with comps := r.comps ++ [comp], reserved := r.reserved - 1 })

/-- Refuses the command of ring `n`: both results 0. -/
def Core.refuse (c : Core) (n : Nat) (st : Sts) : Core := c.complete n st 0 0

/-- The pool of a unit of a book (R54, R356). -/
def poolOf (code : Nat) : Nat :=
  if code = 1 ∨ code = 7 then 8 else if code = 2 then 32 else if code = 3 then 64 else if code = 4 then 128 else if code = 5 then 4096 else 64

/-- The queue key of tone lane `t` of RF DAC `i` of region `r` (R469). -/
def toneKey (r i t : Nat) : Nat := r * 168 + i * 16 + t
/-- The queue key of baseband DAC `m` of block `b` of region `r` (R469). -/
def bbKey (r b m : Nat) : Nat := r * 168 + 128 + b * 2 + m
/-- The queue key of vector pin `w` of region `r` (R469). -/
def vecKey (r w : Nat) : Nat := r * 168 + 160 + w

/-- The key of an arbiter (R331). -/
def arbKey : Arb → Nat
  | .block r b => r * 16 + b
  | .region r => 128 + r
  | .chip l => 136 + l

/-- The number of a requester of the HBM controller. -/
def hreqId : HbmReq → Nat
  | .refill r b => r * 16 + b
  | .acq ch => 128 + ch
  | .gatherer r => 160 + r
  | .resultDma => 168
  | .root => 169
  | .bar4 => 170
  | .scrubber => 171

/-- 1,000 ns in ticks. -/
def ticksPerUs : Nat := 500

end Sys2Proof.Machine
end

