-- ==== Sys2Proof/Machine/Ports.lean ====
section
/-!
DEFINITION. The ports that the arbiters share (R331-R341): requesters, clocks, who may request, the beats an owner moves, waits.
-/
namespace Sys2Proof.Machine

/-- The requesters of an arbiter (R331). -/
def arbN : Arb → Nat
  | .block _ _ => 19
  | .region _ => 22
  | .chip _ => 12

/-- The priority of requester `x` (R334, R342): only block arbiters have priorities. -/
def Core.arbPri (c : Core) (a : Arb) (x : Nat) : Nat :=
  match a with
  | .block r b => if x < 16 then bitsOf (c.get (Fd.BLK_ARB_PRI0_PRI_C r b)) (2 * x) 2 else if x < 18 then bitsOf (c.get (Fd.BLK_ARB_PRI1_PRI_C r b)) (2 * (x - 16)) 2
                  else c.get (Fd.BLK_ARB_PRI1_PRI_REFILL r b)
  | _ => 0

/-- BURST of requester `x` (R335); 0 acts as 1. -/
def Core.arbBurst (c : Core) (a : Arb) (x : Nat) : Nat :=
  max 1 (match a with
         | .block r b => c.get (Fd.BLK_ARB_CFG_BURST r b)
         | .region r => c.get (Fd.RGN_ARB_REQ_BURST r x)
         | .chip _ => c.get (Fd.CHP_ARB_REQ_BURST x))

/-- STARVE_LIMIT (R337); 0 acts as 1. -/
def Core.arbStarve (c : Core) (a : Arb) : Nat :=
  max 1 (match a with
         | .block r b => c.get (Fd.BLK_ARB_CFG_STARVE_LIMIT r b)
         | .region r => c.get (Fd.RGN_ARB_CFG_STARVE_LIMIT r)
         | .chip _ => c.get Fd.CHP_ARB_CFG_STARVE_LIMIT)

/-- The STARVE bits (R337). -/
def starveF : Arb → Fld
  | .block r b => Fd.BLK_ARB_STS_STARVE r b
  | .region r => Fd.RGN_ARB_STS_STARVE r
  | .chip _ => Fd.CHP_ARB_STS_STARVE

/-- LIMIT of the watchdog (R339); below 64 acts as 64. -/
def Core.arbLimit (c : Core) (a : Arb) : Nat :=
  max 64 (match a with
          | .block r b => c.get (Fd.BLK_ARB_WDOG_LIMIT r b)
          | .region r => c.get (Fd.RGN_ARB_WDOG_LIMIT r)
          | .chip _ => c.get Fd.CHP_ARB_WDOG_LIMIT)

/-- Is the watchdog armed (R339)? -/
def Core.arbArmed (c : Core) (a : Arb) : Bool :=
  match a with
  | .block r b => c.on (Fd.BLK_ARB_WDOG_EN r b)
  | .region r => c.on (Fd.RGN_ARB_WDOG_EN r)
  | .chip _ => c.on Fd.CHP_ARB_WDOG_EN

/-- LEVEL and INDEX by which events name an arbiter (R338). -/
def arbName : Arb → Nat × Nat
  | .block r b => (2, 16 * r + b)
  | .region r => (1, r)
  | .chip _ => (0, 0)

/-- Does the arbiter work: its region is in service and not PARKED, the spine not stopped (R448, R449)? -/
def Core.arbRuns (c : Core) (a : Arb) : Bool :=
  c.svc && match a with
  | .block r b => c.bOk r b && !c.parked r
  | .region r => c.rOk r && !c.parked r
  | .chip l => decide (l < 4) && !c.on Fd.CHP_FAULT_STS_FAULT

/-! ### Cycles (R331) -/

/-- The first arbiter cycle that starts in tick `t` or later: 2 cycles a tick, 12/5 on the spine; cycle 0 starts with tick 0. (log 75 DEDUCED) -/
def arbFirst (a : Arb) (t : Nat) : Nat :=
  match a with
  | .chip _ => ceilDiv (12 * t) 5
  | _ => 2 * t

/-- Does cycle `n` of an arbiter start in the present tick? -/
def Core.arbIn (c : Core) (a : Arb) (n : Nat) : Bool := decide (arbFirst a c.now ≤ n) && decide (n < arbFirst a (c.now + 1))

/-! ### The chip-drain hold (R314, R341) -/

/-- D0 of the chip drain of the present shot, once its last region has finished (R56). -/
def Core.chipD0 (c : Core) : Option Nat :=
  let ds := (c.regions.map (fun r => (c.rgn r).shot)).filter (fun h => h.inShot || h.d0.isSome)
  if !ds.isEmpty && ds.all (fun h => h.d0.isSome) then some (maxList 0 (ds.map (fun h => h.d0.getD 0))) else none

/-- The spine moves no HBM request: D0 + 20 to D0 + 31 of a chip drain. -/
def Core.hbmHold (c : Core) : Bool :=
  match c.hbmc.holdD0 with
  | some d => decide (d + 20 ≤ c.now) && decide (c.now < d + 32)
  | none => false

/-- The spine cycles of the hold of a chip drain with D0 = `d` that lie before cycle `n`. -/
def holdCycles (d n : Nat) : Nat := min n (arbFirst (.chip 0) (d + 32)) - arbFirst (.chip 0) (d + 20)

/-- The count of cycles up to cycle `n` by which waits and the watchdog measure: on the spine the cycles of chip-drain holds are left out (R341). -/
def Core.arbCount (c : Core) (a : Arb) (n : Nat) : Nat :=
  match a with
  | .chip _ => n - c.hbmc.heldCyc - (match c.hbmc.holdD0 with
      | some d => holdCycles d n
      | none => 0)
  | _ => n

/-- A chip drain is known to begin: its hold follows those before it (R314). -/
def Core.noteHold (c : Core) : Core :=
  match c.chipD0 with
  | none => c
  | some d =>
    if c.hbmc.holdD0 = some d then c
    else
      let old := match c.hbmc.holdD0 with
        | some e => arbFirst (.chip 0) (e + 32) - arbFirst (.chip 0) (e + 20)
        | none => 0
      { c with hbmc := { c.hbmc with holdD0 := some d, heldCyc := c.hbmc.heldCyc + old } }

/-! ### Requesters (R332) -/

/-- The state that holds the round-robin memory, the waits and the transfers of an arbiter: the four lanes of the spine share one. (log 74 DEDUCED) -/
def arbMem : Arb → Nat
  | .chip _ => arbKey (.chip 0)
  | a => arbKey a

/-- The unit of a book that a requester's port stands for (R332, R339): a cell, the block store for the refill engine, a block, a region. (log 76 DEDUCED) -/
def portBook : Arb → Nat → Option Nat
  | .block r b, x => some (if x < 18 then bookKey 1 r (18 * b + x) else bookKey 5 r b)
  | .region r, x => if x < 16 then some (bookKey 2 r x) else none
  | .chip _, x => if x < 8 then some (bookKey 3 x 0) else none

/-- A unit of a book holds a credit (R52, R54). -/
def Core.credit (c : Core) (k : Nat) : Bool := decide ((c.book k).inflight < poolOf (k / 65536))

/-- A transfer's request leaves and its acknowledge comes back within one step (R52, R53). -/
def Core.bookPass (c : Core) (k n : Nat) : Core :=
  c.moveBook k (fun b => { b with issued := (b.issued + n) % 2 ^ 32, returned := (b.returned + n) % 2 ^ 32 })

/-- Cell `g` may hold credits and requests (R21, R91, R93): it is not IDLE, not held in this shot, not quarantined. -/
def Core.cellAsks (c : Core) (g : Nat) : Bool := c.role g != 0 && !(c.cell g).held && c.get (Fd.CEL_STS_STATE g) != 3

/-- An acquisition channel suspended by a thermal step raises no request (R341). -/
def Core.chanAsks (c : Core) (ch : Nat) : Bool := c.get (Fd.ACQ_CH_STS_STATE (ch / 4) (ch % 4)) != 4

/-- May requester `x` of an arbiter raise a request, on the spine for pseudo-channel `p` (R332, R340, R341)? In the chip-drain hold an HBM-bound request stands and is not granted. -/
def Core.mayAsk (c : Core) (a : Arb) (x : Nat) (p : Option Nat) : Bool :=
  decide (x < arbN a)
  && (match portBook a x with
      | some k => c.credit k
      | none => true)
  && (match a with
      | .block r b => x == 18 || c.cellAsks (r * 288 + b * 18 + x)
      | .region r => if x < 16 then c.bOk r x else if x < 20 then c.chanAsks (4 * r + (x - 16)) else true
      | .chip _ => decide (8 ≤ x) || c.rOk x && !c.parked x)
  && (match p with
      | some p => decide (p < 16) && c.credit (bookKey 6 0 p)
      | none => true)

/-- The number of a transfer of requester `x`: `t` tells the transfers of one requester apart, 0 its own next one, `n + 1` that of the command of ring `n`. -/
def portKey (x t : Nat) : Nat := x + 32 * t

/-- Beats that transfer `t` of requester `x` has moved. -/
def Core.arbPart (c : Core) (a : Arb) (x t : Nat) : Nat := Tbl.get (fun _ => 0) (c.arb (arbMem a)).parts (portKey x t)

/-- How many of `n` beats the owner of a port can move by the end of the present tick: one a cycle, as far as its burst lasts (R333, R335). -/
def Core.arbRoom (c : Core) (a : Arb) (x n : Nat) : Nat :=
  let s := c.arb (arbKey a)
  if c.arbRuns a && s.owner == some x then
    min n (min (c.arbBurst a x - s.beats) (arbFirst a (c.now + 1) - max s.next (arbFirst a c.now)))
  else 0

/-- The owner `x` of a port moves the beats it can of its transfer `t` of `n` beats (R333): the block, and whether the transfer is whole. -/
def Core.moveBeats (c : Core) (a : Arb) (x t n : Nat) : Core × Bool :=
  let had := c.arbPart a x t
  let k := c.arbRoom a x (n - had)
  if n ≤ had then (c, true)
  else if k = 0 then (c, false)
  else
    let nx := max (c.arb (arbKey a)).next (arbFirst a c.now) + k
    let c := c.modArb (arbKey a) (fun s => { s with beats := s.beats + k, next := nx, idle := c.arbCount a nx })
    if n ≤ had + k then (c.modArb (arbMem a) (fun s => { s with parts := Tbl.erase s.parts (portKey x t) }), true)
    else (c.modArb (arbMem a) (fun s => { s with parts := Tbl.insert s.parts (portKey x t) (had + k) }), false)

/-- The spine lane that requester `x` holds, if it can move a beat now. -/
def Core.laneOf (c : Core) (x : Nat) : Option Arb :=
  ((upFrom 0 4).map Arb.chip).find? (fun a => (c.arb (arbKey a)).owner == some x && decide (0 < c.arbRoom a x 1))

/-- Requester `x` of the spine moves what it can of its transfer `t` of `n` beats, which is not HBM-bound. -/
def Core.laneBeats (c : Core) (x t n : Nat) : Core × Bool :=
  if n ≤ c.arbPart (.chip 0) x t then (c, true)
  else match c.laneOf x with
    | none => (c, false)
    | some a => (c.modArb (arbKey a) (fun s => { s with bound := none })).moveBeats a x t n

/-- As many of the items `l`, a beat each, as requester `x` of the spine passes in this tick. -/
def Core.laneTake {α : Type} (c : Core) (x : Nat) (l : List α) : Core × List α :=
  match c.laneOf x with
  | none => (c, [])
  | some a =>
    let k := c.arbRoom a x l.length
    (((c.modArb (arbKey a) (fun s => { s with bound := none })).moveBeats a x 0 k).1, l.take k)

/-- One leg of the way that data of a command go (R331): beats on the spine, or on a port of a block or region. -/
inductive Leg where
  | lane (x n : Nat)
  | port (a : Arb) (x n : Nat)
  deriving DecidableEq, Repr

/-- Beats of a transfer of `n` bytes over the spine or a region's port (R331). -/
def beatsOf (n : Nat) : Nat := ceilDiv n 128

/-- The books that cover a leg pass a credit for every beat, a segment-store token for every line of two beats (R52, R332). -/
def Core.legBooks (c : Core) (l : Leg) : Core :=
  match l with
  | .lane x n => if x < 8 then c.bookPass (bookKey 3 x 0) n else c
  | .port (.region r) x n => if x < 16 then c.bookPass (bookKey 2 r x) n else c
  | .port (.block r b) x n => if x = 18 then c.bookPass (bookKey 5 r b) (n / 2) else c.bookPass (bookKey 1 r (18 * b + x)) (n / 2)
  | .port (.chip _) _ _ => c

/-- The command of ring `n` moves its data along the legs that are left, as far as its ports let it in this tick: the block, and whether the way is done. -/
def Core.goLegs (c : Core) (n : Nat) : List Leg → Core × Bool
  | [] => (c, true)
  | l :: rest =>
    let y := match l with
      | .lane x k => c.laneBeats x (n + 1) k
      | .port a x k => c.moveBeats a x (n + 1) k
    if y.2 then ((y.1.legBooks l).modRing n (fun r => { r with cmd := r.cmd.map (fun k => { k with leg := k.leg + 1 }) })).goLegs n rest else (y.1, false)

/-- The counts of requester `x` whose wait of `wait` cycles has ended (R337). -/
def Core.arbWaited (c : Core) (a : Arb) (x wait : Nat) : Core :=
  match a with
  | .block _ _ => c
  | .region r =>
    (c.inc (Fd.RGN_ARB_WAIT_WAIT r x) wait).put (Fd.RGN_ARB_LONGEST_LONGEST r x) (min 0xFFFFFF (max wait (c.get (Fd.RGN_ARB_LONGEST_LONGEST r x))))
  | .chip _ =>
    (c.inc (Fd.CHP_ARB_WAIT_WAIT x) wait).put (Fd.CHP_ARB_LONGEST_LONGEST x) (min 0xFFFFFF (max wait (c.get (Fd.CHP_ARB_LONGEST_LONGEST x))))

/-- The wait of requester `x`, if it waits, ends in cycle `n` (R337). -/
def Core.endWaitOf (c : Core) (a : Arb) (n x : Nat) : Core :=
  match (c.arb (arbMem a)).waits.find? (fun e => e.1 == x) with
  | none => c
  | some (_, s) => (c.modArb (arbMem a) (fun y => { y with waits := Tbl.erase y.waits x })).arbWaited a x (c.arbCount a n - s)

/-- The grant of an arbiter's port ends. -/
def ArbSt.release (s : ArbSt) : ArbSt := { s with owner := none, bound := none, beats := 0 }

/-- Cell `g` is quarantined: it drops its request and its grant (R340). -/
def Core.dropAsk (c : Core) (g : Nat) : Core :=
  let a := Arb.block (cellR g) (cellB g)
  let x := cellC g
  c.modArb (arbKey a) (fun s =>
    let s := if s.owner = some x then s.release else s
    { s with waits := Tbl.erase s.waits x, parts := Tbl.erase s.parts (portKey x 0) })

end Sys2Proof.Machine
end

