-- ==== Sys2Proof/Machine/Operands.lean ====
section
/-!
DEFINITION. Operand forms: the fields of a Phitex bundle (R81, R494) and of a sequencer word (R108, R109), vector and accumulator lanes (R76),
pointer updates (R79), the sine table (R130), the fields of configuration memories.
-/
namespace Sys2Proof.Machine

/-! ### Lanes -/

/-- Lane `n` of a V register: I in the low half, Q in the high half (R76, R77). -/
def vLane (v : BitVec 128) (n : Nat) : Cx := (sx 16 (bitsOf v.toNat (32 * n) 16), sx 16 (bitsOf v.toNat (32 * n + 16) 16))

/-- The four lanes of a V register. -/
def vLanes (v : BitVec 128) : List Cx := [vLane v 0, vLane v 1, vLane v 2, vLane v 3]

/-- A complex value as 32 bits (R77). -/
def packCx (x : Cx) : Nat := twos 16 x.1 + twos 16 x.2 * 2 ^ 16

/-- A V register of up to four lanes, lane 0 lowest; missing lanes are zero (R72). -/
def packV : List Cx → BitVec 128
  | [] => 0
  | a :: rest => BitVec.ofNat 128 (packCx a + (packV rest).toNat * 2 ^ 32)

/-- Lane `n` of an accumulator, I and Q of 40 bits. -/
def accLane (a : BitVec 320) (n : Nat) : Cx := (sx 40 (bitsOf a.toNat (80 * n) 40), sx 40 (bitsOf a.toNat (80 * n + 40) 40))

/-- An accumulator of four lanes. -/
def packAcc : List Cx → BitVec 320
  | [] => 0
  | a :: rest => BitVec.ofNat 320 (twos 40 a.1 + twos 40 a.2 * 2 ^ 40 + (packAcc rest).toNat * 2 ^ 80)

/-- Complex sum. -/
def cxAdd (a b : Cx) : Cx := (a.1 + b.1, a.2 + b.2)
/-- Complex difference. -/
def cxSub (a b : Cx) : Cx := (a.1 - b.1, a.2 - b.2)
/-- Exact complex product. -/
def cxMul (a b : Cx) : Cx := (a.1 * b.1 - a.2 * b.2, a.1 * b.2 + a.2 * b.1)
/-- Conjugate. -/
def cxConj (a : Cx) : Cx := (a.1, -a.2)
/-- Negative. -/
def cxNeg (a : Cx) : Cx := (-a.1, -a.2)
/-- Both components narrowed: floor (x / 2^s), saturated to `w` bits (R77). -/
def cxNarrow (w s : Nat) (a : Cx) : Cx := (satS w (floorShr a.1 s), satS w (floorShr a.2 s))
/-- Does that narrowing saturate? -/
def cxHits (w s : Nat) (a : Cx) : Bool := satHits w (floorShr a.1 s) || satHits w (floorShr a.2 s)

/-! ### The sine table (R130) -/

/-- π in units of 2^-80. -/
def piFx : Int := 3797952473636338580787993

/-- Terms of the alternating series of sine or cosine in units of 2^-80: `k` counts up from 0 for cosine and 1 for sine. -/
def trigSum (x2 : Int) : Nat → Int → Int → Int
  | 0, _, _ => 0
  | n + 1, k, term => term + trigSum x2 n (k + 2) (-(term * x2 / (2 ^ 80 * (k + 1) * (k + 2))))

/-- 32,767 · cos of `t / 2^20` turn in units of 2^-80, for `0 ≤ t < 2^18`. -/
def cosFx (t : Nat) : Int :=
  let x := piFx * (t : Int) / 2 ^ 19
  32767 * trigSum (x * x / 2 ^ 80) 18 0 (2 ^ 80)

/-- 32,767 · sin of `t / 2^20` turn in units of 2^-80, for `0 ≤ t < 2^18`. -/
def sinFx (t : Nat) : Int :=
  let x := piFx * (t : Int) / 2 ^ 19
  32767 * trigSum (x * x / 2 ^ 80) 18 1 x

/-- (c, s) for phase `p` in units of 2^-20 turn: the exact floors, exact at the quarter turns (R130). -/
def ncoTable (p : Nat) : Cx :=
  let q := p / 2 ^ 18 % 4
  let t := p % 2 ^ 18
  if t = 0 then
    if q = 0 then (32767, 0) else if q = 1 then (0, 32767) else if q = 2 then (-32767, 0) else (0, -32767)
  else
    let c := cosFx t
    let s := sinFx t
    let fl := fun (x : Int) => x / 2 ^ 80
    if q = 0 then (fl c, fl s) else if q = 1 then (fl (-s), fl c) else if q = 2 then (fl (-c), fl (-s)) else (fl s, fl (-c))

/-- (c, s) for a 48-bit phase: bits [47:28] address the table (R130). -/
def ncoCs (ph : Nat) : Cx := ncoTable (ph / 2 ^ 28 % 2 ^ 20)

/-- The phase of R129 for DAC sample number `n`: FTW a 48-bit word (two's complement when signed), POFF of 16 bits. -/
def phase48 (ftw poff n : Nat) : Nat := (ftw * n + poff * 2 ^ 32) % 2 ^ 48

/-- The phase of R158 for half-sample number `n2`, and of R165: computed modulo 2^49 and halved. A signed word is sign-extended. -/
def phaseHalf (ftw : Int) (poff n2 : Nat) : Nat := ((ftw * (n2 : Int) + (poff : Int) * 2 ^ 33) % 2 ^ 49).toNat / 2

/-- v · (c + js), each component floor (/2^15), saturated to 16 bits (R128, R130). -/
def mixUp (v cs : Cx) : Cx := cxNarrow 16 15 (cxMul v cs)
/-- Does the mixing saturate? -/
def mixUpHits (v cs : Cx) : Bool := cxHits 16 15 (cxMul v cs)
/-- v · (c - js) narrowed in the same way (R165). -/
def mixDown (v cs : Cx) : Cx := cxNarrow 16 15 (cxMul v (cxConj cs))
/-- Does it saturate? -/
def mixDownHits (v cs : Cx) : Bool := cxHits 16 15 (cxMul v (cxConj cs))

/-! ### Phitex bundles -/

/-- The fields of a bundle (R81). -/
structure Bndl where
  ie   : Bool
  opa  : Nat
  ad   : Nat
  aa   : Nat
  ab   : Nat
  aimm : Nat
  opb  : Nat
  bd   : Nat
  ba   : Nat
  bb   : Nat
  bimm : Nat
  deriving DecidableEq, Repr

/-- The fields of a bundle word (R81). (log 6 DEDUCED) -/
def bundle (w : Nat) : Bndl :=
  { ie := bitAt w 63, opa := bitsOf w 57 6, ad := bitsOf w 54 3, aa := bitsOf w 51 3, ab := bitsOf w 48 3, aimm := bitsOf w 32 16,
    opb := bitsOf w 26 6, bd := bitsOf w 22 4, ba := bitsOf w 18 4, bb := bitsOf w 14 4, bimm := bitsOf w 0 14 }

/-- Slot A: an assigned opcode and zero in every unused field (R81, R82, R85). -/
def slotALegal (b : Bndl) : Bool :=
  let z := fun (x : Nat) => x == 0
  if b.opa = 0x00 then z b.ad && z b.aa && z b.ab && z b.aimm
  else if b.opa = 0x01 ∨ b.opa = 0x05 then z b.ab && z b.aimm
  else if b.opa = 0x02 ∨ b.opa = 0x03 then z b.aimm
  else if b.opa = 0x04 then decide (b.aimm < 32)
  else if b.opa = 0x06 then decide (b.aimm < 4)
  else if b.opa = 0x07 then z b.ab && decide (b.aimm < 4)
  else if 0x10 ≤ b.opa ∧ b.opa ≤ 0x13 then decide (b.ad < 2) && z b.aimm
  else if b.opa = 0x14 then decide (b.aa < 2) && z b.ab && decide (b.aimm < 32)
  else false

/-- Slot B: an assigned opcode, an assigned condition code, and zero in every unused field; P, M, L and V registers are 0-7 (R81, R83, R85, R494). -/
def slotBLegal (b : Bndl) : Bool :=
  let z := fun (x : Nat) => x == 0
  let r8 := fun (x : Nat) => decide (x < 8)
  if b.opb = 0x00 ∨ b.opb = 0x2C ∨ b.opb = 0x2D ∨ b.opb = 0x2F then z b.bd && z b.ba && z b.bb && z b.bimm
  else if (0x01 ≤ b.opb ∧ b.opb ≤ 0x05) ∨ b.opb = 0x09 then z b.bimm
  else if 0x06 ≤ b.opb ∧ b.opb ≤ 0x08 then z b.bb && decide (b.bimm < 32)
  else if b.opb = 0x0A then z b.ba
  else if b.opb = 0x0B then z b.ba && z b.bb
  else if b.opb = 0x0C then z b.bb
  else if b.opb = 0x10 ∨ b.opb = 0x11 then r8 b.ba && r8 b.bb && z b.bimm
  else if b.opb = 0x12 ∨ b.opb = 0x13 then r8 b.bd && r8 b.ba && r8 b.bb && z b.bimm
  else if b.opb = 0x14 ∨ b.opb = 0x15 then r8 b.bd && z b.bb && z b.bimm
  else if b.opb = 0x16 then r8 b.bd && z b.ba && z b.bb && decide (b.bimm < 16)
  else if b.opb = 0x17 then r8 b.ba && z b.bb && decide (b.bimm < 8)
  else if b.opb = 0x18 then r8 b.bd && z b.bb && decide (b.bimm < 8)
  else if b.opb = 0x20 then r8 b.bd && z b.ba && z b.bb && z b.bimm
  else if b.opb = 0x21 then z b.bd && r8 b.ba && z b.bb && z b.bimm
  else if b.opb = 0x22 then z b.bd && decide (b.ba < 2) && z b.bb && decide (b.bimm < 32)
  else if b.opb = 0x28 then z b.bd && z b.ba && z b.bb && decide (b.bimm < 4096)
  else if b.opb = 0x29 then decide (1 ≤ b.bd) && decide (b.bd ≤ 8) && z b.ba && z b.bb && decide (b.bimm < 4096)
  else if b.opb = 0x2A then decide (b.bd < 2) && z b.bb && decide (b.bimm < 4096)
  else if b.opb = 0x30 then z b.ba && z b.bb && decide (b.bimm < 16)
  else if b.opb = 0x31 then z b.bd && z b.bb && decide (b.bimm < 16)
  else false

/-- JMP, BR and LOOP (R85). -/
def isBranchOp (opb : Nat) : Bool := opb == 0x28 || opb == 0x29 || opb == 0x2A

/-- The pointer after a post-modify access (R79). -/
def postModify (p : Nat) (m : Int) (l : Nat) : Nat :=
  let q := (((p : Int) + m) % 2 ^ 16).toNat
  if l = 0 then q else p / 2 ^ l * 2 ^ l + q % 2 ^ l

/-! ### Sequencer words -/

/-- Opcode of a sequencer word (R108). -/
def sqOp (w : Nat) : Nat := bitsOf w 58 6
/-- SEG, entry or MASK, bits [57:50] (R109). -/
def sqSeg (w : Nat) : Nat := bitsOf w 50 8
/-- Level or SIGNO, bits [57:56] (R109). -/
def sqLevel (w : Nat) : Nat := bitsOf w 56 2
/-- VALUE of a SIGNAL, bits [55:54] (R109). -/
def sqValue (w : Nat) : Nat := bitsOf w 54 2
/-- Exit kind XK (R108). -/
def sqXk (w : Nat) : Nat := bitsOf w 48 2
/-- Condition code CC (R108). -/
def sqCc (w : Nat) : Nat := bitsOf w 42 6
/-- DEF (R108). -/
def sqDef (w : Nat) : Bool := bitAt w 41
/-- TGT, END or DEFT, bits [39:28] (R108, R109). -/
def sqTgt (w : Nat) : Nat := bitsOf w 28 12
/-- REP, DUR or COUNT, bits [19:0] (R109). -/
def sqLow20 (w : Nat) : Nat := bitsOf w 0 20
/-- DL, LINES, POFF, DPOFF, A, bits [15:0]. -/
def sqLow16 (w : Nat) : Nat := bitsOf w 0 16

/-- Word `x` of the active program memory of cell `g` (R81, R106). (log 6 DEDUCED) -/
def pmWord (m : Mems) (g x : Nat) : Nat := rdN zeroByte m.pmA (g * 32768 + 8 * x) 8

/-- First word of the sequencer part of cell `g` (R106). -/
def Core.seqW (c : Core) (g : Nat) : Nat := c.get (Fd.CEL_CFG_PM_SPLIT g) * 128

/-- Watch slot entry `x` of cell `g` in the active set (R106, R111). -/
def watchEntry (m : Mems) (c : Core) (g x : Nat) : Nat := rdN zeroByte m.pmA (g * 32768 + 8 * c.seqW g + 8 + 4 * x) 4
/-- KIND of a watch slot entry (R111). -/
def wKind (e : Nat) : Nat := bitsOf e 0 4
/-- SRC of a watch slot entry. -/
def wSrc (e : Nat) : Nat := bitsOf e 4 12
/-- SUB of a watch slot entry. -/
def wSub (e : Nat) : Nat := bitsOf e 16 2
/-- KEEP of a watch slot entry. -/
def wKeep (e : Nat) : Bool := bitAt e 18

/-- SEGID of segment-table entry `x` of cell `g` in the active set (R106). -/
def segTab (m : Mems) (c : Core) (g x : Nat) : Nat := rdN zeroByte m.pmA (g * 32768 + 8 * c.seqW g + 40 + 2 * x) 2

/-! ### The segment directory (R98) -/

/-- Entry of a SEGID as a number of 16 bytes. -/
def dirEntry (m : Mems) (id : Nat) : Nat := rdN zeroByte m.dir (id * 16) 16
/-- VALID. -/
def dirValid (e : Nat) : Bool := bitAt e 0
/-- HOME: 0 CELL, 1 BLOCK, 2 LIBRARY, 3 STREAM (R97). -/
def dirHome (e : Nat) : Nat := bitsOf e 1 2
/-- OWNER. -/
def dirOwner (e : Nat) : Nat := bitsOf e 4 12
/-- LINE. -/
def dirLine (e : Nat) : Nat := bitsOf e 32 27
/-- LENGTH. -/
def dirLen (e : Nat) : Nat := bitsOf e 64 20
/-- STREAM. -/
def dirStream (e : Nat) : Nat := bitsOf e 84 8
/-- GEN. -/
def dirGen (e : Nat) : Nat := bitsOf e 96 32

/-- The key under which staging rings hold the lines of SEGID `id`: the SEGID, and 65,536 + z for the segments of stream z, which share their lines (R104). -/
def lineKey (m : Mems) (id : Nat) : Nat := if dirHome (dirEntry m id) = 3 then 65536 + dirStream (dirEntry m id) else id

/-- A directory entry (R98). -/
def mkDir (valid home owner line len stream gen : Nat) : Nat :=
  valid + home * 2 + owner * 16 + line * 2 ^ 32 + len * 2 ^ 64 + stream * 2 ^ 84 + gen * 2 ^ 96

/-- A packed segment sample of 24 bits (R95). -/
def unpackSmp (x : Nat) : Cx := (sx 12 (bitsOf x 0 12), sx 12 (bitsOf x 12 12))

/-- Sample `k` (0-5) of granule `j` of a segment whose line 0 lies at byte `base` of the memory `mem` (R95). -/
def smpAt (mem : List (Nat × Byte)) (base j k : Nat) : Cx := unpackSmp (rdN zeroByte mem (base + j / 7 * 128 + j % 7 * 18 + 3 * k) 3)

/-! ### The measure table (R164) -/

/-- Entry `x` of the active measure table of cell `g`, 32 bytes. -/
def mtEntry (m : Mems) (g x : Nat) : Nat := rdN zeroByte m.mtA (g * 256 + 32 * x) 32
/-- FTW. -/
def mtFtw (e : Nat) : Int := sx 48 (bitsOf e 0 48)
/-- POFF. -/
def mtPoff (e : Nat) : Nat := bitsOf e 48 16
/-- WSEG. -/
def mtWseg (e : Nat) : Nat := bitsOf e 64 8
/-- NTAP. -/
def mtNtap (e : Nat) : Nat := bitsOf e 72 13
/-- RSHIFT. -/
def mtRshift (e : Nat) : Nat := bitsOf e 85 5
/-- DMODE. -/
def mtDmode (e : Nat) : Nat := bitsOf e 90 2
/-- SGN2. -/
def mtSgn2 (e : Nat) : Bool := bitAt e 92
/-- T01_INIT. -/
def mtT01 (e : Nat) : Nat := bitsOf e 96 16
/-- T2_INIT. -/
def mtT2 (e : Nat) : Nat := bitsOf e 112 16
/-- AD_EN. -/
def mtAdEn (e : Nat) : Bool := bitAt e 128
/-- AD2_EN. -/
def mtAd2En (e : Nat) : Bool := bitAt e 129
/-- HIST_EXP. -/
def mtHist (e : Nat) : Nat := bitsOf e 130 4
/-- STEP_EXP. -/
def mtStep (e : Nat) : Nat := bitsOf e 134 4
/-- RELOAD. -/
def mtReload (e : Nat) : Bool := bitAt e 138
/-- FREEZE. -/
def mtFreeze (e : Nat) : Bool := bitAt e 139
/-- MIN_SEP. -/
def mtMinSep (e : Nat) : Nat := bitsOf e 144 16
/-- T01_MIN, T01_MAX, T2_MIN, T2_MAX by number 0-3. -/
def mtLim (e k : Nat) : Int := sx 16 (bitsOf e (160 + 16 * k) 16)
/-- MIN_COUNT. -/
def mtMinCount (e : Nat) : Nat := bitsOf e 224 16

end Sys2Proof.Machine
end

