-- ==== Sys2Proof/Machine/Flags.lean ====
section
/-!
DEFINITION. The flags of the Phitex engine: their places in FLAGS (R76) and the rules by which results set them (R83).
-/
namespace Sys2Proof.Machine

/-- Bit `i` of FLAGS. -/
def flagAt (f : BitVec 14) (i : Nat) : Bool := bitAt f.toNat i
/-- FLAGS with bit `i` at `b`. -/
def setFlag (f : BitVec 14) (i : Nat) (b : Bool) : BitVec 14 := BitVec.ofNat 14 (putBits f.toNat i 1 (b2n b))
/-- Z. -/
def flZ (f : BitVec 14) : Bool := flagAt f 0
/-- N. -/
def flN (f : BitVec 14) : Bool := flagAt f 1
/-- C. -/
def flC (f : BitVec 14) : Bool := flagAt f 2
/-- V. -/
def flV (f : BitVec 14) : Bool := flagAt f 3
/-- GIE. -/
def flGie (f : BitVec 14) : Bool := flagAt f 4
/-- LAl. -/
def flLa (f : BitVec 14) (l : Nat) : Bool := flagAt f (5 + l)
/-- IC. -/
def flIc (f : BitVec 14) : Nat := bitsOf f.toNat 7 2

/-- Z and N from a 32-bit result; C and V unchanged (R83). -/
def znFlags (r : Word) : PWrite := .zncv 0b0011 (BitVec.ofNat 4 (b2n (r == 0) + 2 * b2n r.msb))

/-- Z, N, C and V. -/
def zncvFlags (r : Word) (cy ov : Bool) : PWrite :=
  .zncv 0b1111 (BitVec.ofNat 4 (b2n (r == 0) + 2 * b2n r.msb + 4 * b2n cy + 8 * b2n ov))

/-- ADD and ADDI: the sum, its flags with C the carry out and V signed overflow (R83). -/
def addFlags (a b : Word) : Word × PWrite :=
  let r := a + b
  (r, zncvFlags r (decide (2 ^ 32 ≤ a.toNat + b.toNat)) (a.msb == b.msb && r.msb != a.msb))

/-- SUB: the difference, its flags with C = 1 when no borrow and V signed overflow (R83). -/
def subFlags (a b : Word) : Word × PWrite :=
  let r := a - b
  (r, zncvFlags r (decide (b.toNat ≤ a.toNat)) (a.msb != b.msb && r.msb != a.msb))

/-- The condition codes of BR (R83). -/
def brCond (f : BitVec 14) (cc : Nat) : Bool :=
  if cc = 1 then flZ f else if cc = 2 then !flZ f else if cc = 3 then flN f != flV f else if cc = 4 then flN f == flV f
  else if cc = 5 then flC f else if cc = 6 then !flC f else if cc = 7 then flIc f == 0 else flIc f != 0

end Sys2Proof.Machine
end

