-- ==== Sys2Proof/Machine/Cells.lean ====
section
/-!
DEFINITION. What a cell sends to its lanes and how it is judged: engine events (R86), lateness (R42, R495), entries and markers of the release
queues (R40, R41), the select (R119), lead (R43, R45), stamping of samples (R128-R131), the watch slots (R113).
-/
namespace Sys2Proof.Machine

/-- A shot is in progress on cell `g` and it is not quarantined: `CEL_STS.STATE` RUNNING or ENDED (R70). (log 5 DESIGN CHOICE) -/
def Core.cellLive (c : Core) (g : Nat) : Bool :=
  c.get (Fd.CEL_STS_STATE g) == 1 || c.get (Fd.CEL_STS_STATE g) == 2

/-- Cell `g` executes: RUNNING and its region not parked (R70, R448). -/
def Core.cellRuns (c : Core) (g : Nat) : Bool :=
  c.svc && c.get (Fd.CEL_STS_STATE g) == 1 && !c.parked (cellR g) && (c.cell g).zeroAt == none

/-- Engine event `e` fires in cell `g`: recorded as pending when enabled, in every STATE (R86). (log 22 DEDUCED, 137 DEDUCED) -/
def Core.evt (c : Core) (g e : Nat) : Core :=
  if bitAt (c.get (Fd.CEL_CFG_EV_EN g)) e then
    c.put (Fd.CEL_STS_EV_PEND g) (Nat.lor (c.get (Fd.CEL_STS_EV_PEND g)) (2 ^ e))
  else c

/-- The shot flags of region `r` changed (R297). -/
def Core.modShot (c : Core) (r : Nat) (f : RgnShot → RgnShot) : Core := c.modRgn r (fun x => { x with shot := f x.shot })

/-- LATE is set for cell `g` (R41, R42, R44): the sticky bit, the engine event, the flag of the shot record. -/
def Core.late (c : Core) (g : Nat) : Core :=
  ((c.put (Fd.CEL_LEAD_STS_LATE g) 1).evt g 5).modShot (cellR g) (fun x => { x with late := true })

/-- The vector pins cell `g` feeds (R236). -/
def Core.vecPins (c : Core) (g : Nat) : List Nat :=
  (upFrom 0 8).filter (fun w => c.on (Fd.VIO_PIN_CFG_EN (cellR g) w) && c.get (Fd.VIO_PIN_CFG_SRC (cellR g) w) == g % 288)

/-- The release queue of the samples of cell `g`: its tone lane or its baseband DAC (R40, R135). -/
def Core.mainLane (c : Core) (g : Nat) : Option Nat :=
  let r := cellR g
  let b := cellB g
  let k := cellC g
  if c.role g = 1 then some (toneKey r (c.get (Fd.BLK_TONE_ROUTE_DAC r b k)) (c.get (Fd.BLK_TONE_ROUTE_TONE r b k)))
  else if c.role g = 3 then some (bbKey r b (c.get (Fd.BLK_TONE_ROUTE_BB r b k)))
  else none

/-- All queues cell `g` feeds. -/
def Core.cellLanes (c : Core) (g : Nat) : List Nat :=
  match c.mainLane g with
  | none => []
  | some k => if c.role g = 3 then k :: (c.vecPins g).map (vecKey (cellR g)) else [k]

/-- Is a queue key that of a vector pin? -/
def isVecKey (k : Nat) : Bool := decide (160 ≤ k % 168)

/-- The book key of a release queue (R54, R469). -/
def queueBook (k : Nat) : Nat := bookKey 4 (k / 168) (k % 168)

/-! ### Stamping -/

/-- A sample of a DRIVE or BASEBAND cell through amplitude and NCO mixing (R128-R131): the 16-bit value and whether a stage saturated. A BASEBAND cell
uses the I component only. -/
def stampSample (role : Nat) (v : Cx) (t : SMeta) : Cx × Bool :=
  let a := sx 16 t.amp
  let w : Cx := if role = 3 then (v.1, 0) else v
  let x := (w.1 * a, w.2 * a)
  let y := cxNarrow 16 15 x
  if role = 1 then
    let cs := ncoCs (phase48 t.ftw t.poff (24 * t.stamp + 8 * t.sub))
    (mixUp y cs, cxHits 16 15 x || mixUpHits y cs)
  else (y, cxHits 16 15 x)

/-- The vector code of lane `l` from the samples of one tick: Q of R95 as it left the engine (R237). -/
def vecCode (smp : List (Cx × SMeta)) (l : Nat) : Nat :=
  match smp[l / 3]? with
  | none => 0
  | some v => bitsOf (twos 16 v.1.2 / 16) (4 * (l % 3)) 4

/-- The full tick of a stamp carried as 16 bits: the value closest to `now` with those low bits (R37); of two equally close the later. (log 139 DESIGN CHOICE) -/
def rebuild (now lo : Nat) : Nat :=
  let d := (now + 65536 * 2 - lo % 65536 + 32768) % 65536
  if now + 32768 < d then now + 32768 + 65536 - d else now + 32768 - d

/-! ### Entries -/

/-- May cell `g` send an entry: it holds an entry credit of book 0x4 for every queue it feeds (R40, R52). -/
def Core.laneCredit (c : Core) (g : Nat) : Bool := (c.cellLanes g).all (fun k => c.credit (queueBook k))

/-- Counts a late entry of cell `g` (R42). -/
def Core.lateDiscard (c : Core) (g n : Nat) : Core := if n = 0 then c else (c.inc (Fd.CEL_LATE_CNT_LATE_DISCARD g) n).late g

/-- LEAD_MIN starts at +127 with the first entry that cell `g` sends in a shot (R51). -/
def Core.firstEntry (c : Core) (g : Nat) : Core :=
  if (c.cell g).lastAcc.isNone && (c.cell g).ro.posted.isNone then c.putS (Fd.CEL_LEAD_STS_LEAD_MIN g) 127 else c

/-- An entry of cell `g` reaches queue `k` (R37, R42, R119). -/
def Core.arrive (c : Core) (g k : Nat) (e : QEntry) : Core :=
  let e := { e with stamp := rebuild c.now e.stamp }
  if c.now + 17 < e.stamp then
    let c := (c.modLane k (fun l => { l with entries := l.entries ++ [e] })).bookIssue (queueBook k)
    (c.firstEntry g).modCell g (fun x => { x with lastAcc := some (max e.stamp (x.lastAcc.getD 0)) })
  else
    let c := (c.bookIssue (queueBook k)).bookReturn (queueBook k)
    if e.ct = 0 then c.lateDiscard g 1
    else c.modCell g (fun x => { x with lateTags := x.lateTags ++ [(e.ct, e.xn)] })

/-- The entry of one tick sent to every queue of the cell: samples to its main lane, its code to each vector pin (R40, R236). -/
def Core.sendTick (c : Core) (g : Nat) (smp : List (Cx × SMeta)) : Core :=
  match smp with
  | [] => c
  | f :: _ =>
    let outs := smp.map (fun v => stampSample (c.role g) v.1 v.2)
    let sat := outs.any (fun o => o.2)
    let c := (c.stick (Fd.CEL_DRV_STS_MIX_SAT g) sat).inc (Fd.CEL_DRV_STS_SAT_CNT g) (b2n sat)
    (c.cellLanes g).foldl (fun c k =>
      if isVecKey k then
        c.arrive g k { stamp := f.2.stamp, ct := f.2.ct, xn := f.2.xn, smp := [], code := vecCode smp (c.get (Fd.VIO_PIN_CFG_LANE (k / 168) (k % 168 - 160))) }
      else c.arrive g k { stamp := f.2.stamp, ct := f.2.ct, xn := f.2.xn, smp := outs.map (fun o => o.1), code := 0 }) c

/-! ### Markers -/

/-- The cell sends a marker (R41, R118, R123, R147). -/
def Core.sendMark (c : Core) (g : Nat) (k : Mark) : Core := c.modCell g (fun x => { x with outMarks := x.outMarks ++ [k] })

/-- A LOCK that cannot be granted (R148, R495). -/
def Core.lockDenied (c : Core) (g : Nat) : Core := c.put (Fd.CEL_DRV_STS_LOCK_DENIED g) 1

/-- A late plain marker of cell `g` acts (R495): END, fill and resume at the next tick; LOCK denied; UNLOCK lost. The answer is the marker as its lanes take it. -/
def lateMark (now : Nat) (k : Mark) : Option Mark :=
  match k.kind with
  | .lock => none
  | .unlock => none
  | _ => some { k with stamp := now + 18, late := false }

/-- A marker of cell `g` reaches its lanes (R37, R495): a LOCK or UNLOCK its tone lane, the others every lane. A tagged late one waits for the select. -/
def Core.markLanes (c : Core) (g : Nat) (k : Mark) : Core :=
  let k := { k with stamp := rebuild c.now k.stamp }
  let isLate := decide (k.stamp ≤ c.now + 17)
  let put := fun (c : Core) (k : Mark) => (c.cellLanes g).foldl (fun c q => c.modLane q (fun l => { l with marks := l.marks ++ [k] })) c
  if !isLate then put c k
  else if k.ct ≠ 0 then put c { k with late := true, stamp := if k.kind = .lock ∨ k.kind = .unlock then k.stamp else c.now + 18 }
  else
    let c := c.late g
    match lateMark c.now k with
    | some k => put c k
    | none => if k.kind = .lock then c.lockDenied g else c

/-- Samples of the marker's path that precede it are still on their way through an engine in the stream (R72, R73): the cell sends an END, and a fill that repeats an engine output,
after them (R41, R123). -/
def Cell.holds (x : Cell) (k : Mark) : Bool :=
  let ts := x.rin.map (fun s => s.2) ++ x.post.map (fun s => s.2) ++ (x.gq ++ x.phx.inPort ++ x.phx.taken ++ x.phx.outPort).flatMap (fun p => p.metas)
  ts.any (fun t => decide (t.stamp < k.stamp) && (t.ct == 0 || (t.ct == k.ct && t.xn == k.xn)))

/-- May a marker that the cell has formed go to its lanes? -/
def Cell.canSend (x : Cell) (k : Mark) : Bool := !((k.kind == MarkKind.endm || k.from_.isSome) && x.holds k)

/-- Keeps the markers of the selected candidate as plain ones; drops those of the other (R119). -/
def selMarks (xn sel : Nat) (l : List Mark) : List Mark :=
  (l.filter (fun k => k.ct == 0 || k.xn != xn || k.ct == sel + 1)).map (fun k => if k.ct ≠ 0 ∧ k.xn = xn then { k with ct := 0 } else k)

/-- Entries of the selected candidate become plain ones (tag 0); those of the other stay until their release tick as dead entries (tag 3) (R119). -/
def selEntries (xn sel : Nat) (l : List QEntry) : List QEntry :=
  l.map (fun e => if e.ct = 0 ∨ e.ct = 3 ∨ e.xn ≠ xn then e else { e with ct := if e.ct = sel + 1 then 0 else 3 })

/-- The select (XN, CSEL) reaches every lane the cell feeds (R119): late entries of the selected candidate are counted now, late markers act. -/
def Core.laneSelect (c : Core) (g xn sel : Nat) : Core :=
  let x := c.cell g
  let n := (x.lateTags.filter (fun t => t.1 == sel + 1 && t.2 == xn)).length
  let c := c.modCell g (fun x => { x with lateTags := x.lateTags.filter (fun t => t.2 != xn), outMarks := selMarks xn sel x.outMarks, cselLast := sel })
  let c := c.lateDiscard g n
  (c.cellLanes g).foldl (fun c q =>
    let ms := selMarks xn sel (c.lane q).marks
    let bad := ms.any (fun k => k.late)
    let lost := ms.any (fun k => k.late && k.kind == MarkKind.lock)
    let keep := (ms.filter (fun k => !(k.late && (k.kind == MarkKind.lock || k.kind == MarkKind.unlock)))).map (fun k => { k with late := false })
    let c := if bad then c.late g else c
    let c := if lost then c.lockDenied g else c
    c.modLane q (fun l => { l with marks := keep, entries := selEntries xn sel l.entries })) c

/-! ### Lead -/

/-- The lead of cell `g` at this tick, where it is defined (R43): for a READOUT cell P + 11 - M, else (S - 17) - M. -/
def Core.lead (c : Core) (g : Nat) : Option Int :=
  let x := c.cell g
  if c.role g = 2 then x.ro.posted.map (fun p => (p : Int) + 11 - (c.now : Int))
  else x.lastAcc.map (fun s => (s : Int) - 17 - (c.now : Int))

/-- The lead of cell `g` in a tick in which it is evaluated (R43, R45): not in BRANCH_HOLD or WAIT_HOLD, not before the first entry and not after END. -/
def Core.leadNow (c : Core) (g : Nat) : Option Int :=
  if c.get (Fd.CEL_SEQ_STS_HOLD g) = 0 ∧ (c.cell g).endAt = none then c.lead g else none

/-- Evaluates the lead of cell `g` once in this tick (R45): least leads, and whether it is lost. (log 38 DEDUCED) -/
def Core.evalLead (c : Core) (g : Nat) : Core × Bool :=
  let x := c.cell g
  if c.cellRuns g && x.leadTick != some c.now then
    match c.leadNow g with
    | none => (c, false)
    | some l =>
      let lo := match x.leadMin with
        | none => l
        | some a => min a l
      let c := c.modCell g (fun x => { x with leadMin := some lo, leadTick := some c.now })
      let c := c.putS (Fd.CEL_LEAD_STS_LEAD_MIN g) (min (c.getS (Fd.CEL_LEAD_STS_LEAD_MIN g)) (clampI (-128) 127 l))
      (c, decide (l < -1024))
  else (c, false)

/-! ### Watch slots -/

/-- Watch slot `x` of cell `g`. -/
def Cell.slot (x : Cell) (k : Nat) : WSlot := Tbl.get (fun _ => WSlot.empty) x.slots k
/-- Watch slot `k` changed. -/
def Cell.setSlot (x : Cell) (k : Nat) (w : WSlot) : Cell := { x with slots := Tbl.insert x.slots k w }

/-- SLOT_FULL as the slots stand (R126). -/
def Core.slotBits (c : Core) (g : Nat) : Core :=
  let x := c.cell g
  c.put (Fd.CEL_SEQ_STS_SLOT_FULL g) (((upFrom 0 8).map (fun k => if (x.slot k).full then 2 ^ k else 0)).foldl (fun a b => a + b) 0)

/-- The DEC register of the engine (R76): class, valid, late, slot, expiry. -/
def decByte (cls : Nat) (valid late : Bool) (slot : Nat) (expiry : Bool) : BitVec 8 :=
  BitVec.ofNat 8 (cls % 4 + 4 * b2n valid + 8 * b2n late + 16 * (slot % 8) + 128 * b2n expiry)

/-- Engine event DECISION with its DEC value (R86). DEC holds the newest occurrence, also one that merges with a pending one, and is written whatever EV_EN. (log 162 DESIGN CHOICE) -/
def Core.evtDec (c : Core) (g : Nat) (v : BitVec 8) : Core :=
  (c.modCell g (fun x => { x with phx := { x.phx with dec := v } })).evt g 1

/-! ### Frame bits -/

/-- A frame operation: 0 keep, 1 clear, 2 set, 3 toggle (R191). -/
def frameOp (op : Nat) (b : Bool) : Bool := if op = 1 then false else if op = 2 then true else if op = 3 then !b else b

/-- The bits (X, Z) after the changes `l`. -/
def frameRun (b : Bool × Bool) (l : List FrEv) : Bool × Bool := l.foldl (fun b e => (frameOp e.xop b.1, frameOp e.zop b.2)) b

/-- A change takes its place among the others (R190): by write tick, the FRAMEs of a tick before what follows them, and those in execution order. -/
def putEv (e : FrEv) (l : List FrEv) : List FrEv :=
  let before := fun (k : FrEv) => decide (k.tick < e.tick) || (k.tick == e.tick && (e.post || !k.post))
  l.filter before ++ [e] ++ l.filter (fun k => !before k)

/-- The changes of the frame bits of cell `g` that are kept, those of the newest 64 ticks, and the bits before them. -/
def Core.frameLog (c : Core) (g : Nat) : List FrEv × (Bool × Bool) :=
  let x := c.cell g
  if x.frLog.isEmpty then ([], (c.on (Fd.CEL_FRAME_X g), c.on (Fd.CEL_FRAME_Z g)))
  else
    let old := fun (k : FrEv) => decide (k.tick + 64 < c.now)
    (x.frLog.filter (fun k => !old k && decide (k.tick ≤ c.now)), frameRun x.frBase (x.frLog.filter old))

/-- The frame bits (X, Z) that govern releases and latches of this tick: a change at U governs U + 1 (R134, R170, R190). (log 24 DEDUCED) -/
def Core.frameNow (c : Core) (g : Nat) : Bool × Bool :=
  let y := c.frameLog g
  frameRun y.2 (y.1.filter (fun k => decide (k.tick < c.now)))

/-- Did the changes `l` of write tick `t`, with the bits `b` before all of them, change the frame bits: does the value at the end of that tick differ from the one before it (R190)? -/
def frameChanged (b : Bool × Bool) (l : List FrEv) (t : Nat) : Bool :=
  frameRun b (l.filter (fun k => decide (k.tick < t))) != frameRun b (l.filter (fun k => decide (k.tick ≤ t)))

/-- A change of the frame bits of cell `g` with a write tick not after this one takes effect, as at its write tick (R190, R191). Engine event FRAME is judged at the end of the write
tick; where that tick is over, at once. (log 24 DEDUCED, 121 DEDUCED) -/
def Core.frameEv (c : Core) (g : Nat) (e : FrEv) : Core :=
  let y := c.frameLog g
  let l := putEv e y.1
  let b := frameRun y.2 l
  let c := c.modCell g (fun k => { k with frLog := l, frBase := y.2 })
  let c := (c.setOn (Fd.CEL_FRAME_X g) b.1).setOn (Fd.CEL_FRAME_Z g) b.2
  if e.tick < c.now ∧ frameChanged y.2 l e.tick = true then c.evt g 3 else c

/-- The end of this tick as the frame bits of cell `g` see it: engine event FRAME when they differ from those before the tick (R190). -/
def Core.frameTick (c : Core) (g : Nat) : Core :=
  if (c.cell g).frLog.any (fun k => k.tick == c.now) && frameChanged (c.cell g).frBase (c.cell g).frLog c.now then c.evt g 3 else c

/-- Both frame bits written at this tick, after the FRAMEs and toggles of the tick (R192, R193). -/
def Core.setFrame (c : Core) (g : Nat) (x z : Bool) : Core :=
  c.frameEv g { tick := c.now, post := true, xop := if x then 2 else 1, zop := if z then 2 else 1 }

end Sys2Proof.Machine
end

