-- ==== Sys2Proof/Machine/Rings.lean ====
section
/-!
DEFINITION. Rings and spools as the block's units use them (R271-R278, R299, R300): entry and byte addresses, room, writing an entry, writing into a
spool, ring errors.
-/
namespace Sys2Proof.Machine

/-- The kinds of ring (R271). -/
inductive RingKind where
  | command | completion | event | result | spool | tptTx | tptRx
  deriving DecidableEq, Repr

/-- The code of a ring kind. -/
def RingKind.code : RingKind → Nat
  | .command => 0 | .completion => 1 | .event => 2 | .result => 3 | .spool => 4 | .tptTx => 5 | .tptRx => 6

/-- Bytes of an entry of a ring of a kind (R271). -/
def entryBytes (kind : Nat) : Nat := if kind = 1 ∨ kind = 2 then 32 else 64

/-- Ring `n` is enabled and of the kind. -/
def Core.ringIs (c : Core) (n : Nat) (k : RingKind) : Bool :=
  decide (n < 64) && c.on (Fd.CHP_RING_CFG_EN n) && c.get (Fd.CHP_RING_CFG_KIND n) == k.code

/-- Ring `n` is an enabled DEV_WRITE spool. -/
def Core.devSpool (c : Core) (n : Nat) : Bool := c.ringIs n .spool && c.get (Fd.CHP_RING_CFG_DIR n) == 0
/-- Ring `n` is an enabled HOST_WRITE spool. -/
def Core.hostSpool (c : Core) (n : Nat) : Bool := c.ringIs n .spool && c.get (Fd.CHP_RING_CFG_DIR n) == 1

/-- SIZE of ring `n`. -/
def Core.ringSize (c : Core) (n : Nat) : Nat := 2 ^ c.get (Fd.CHP_RING_CFG_SIZE_EXP n)
/-- BASE of ring `n`. -/
def Core.ringBase (c : Core) (n : Nat) : Nat := c.get (Fd.CHP_RING_BASE_LO_BASE_LO n) + 2 ^ 32 * c.get (Fd.CHP_RING_BASE_HI_BASE_HI n)
/-- WB of ring `n`. -/
def Core.ringWb (c : Core) (n : Nat) : Nat := c.get (Fd.CHP_RING_WB_LO_WB_LO n) + 2 ^ 32 * c.get (Fd.CHP_RING_WB_HI_WB_HI n)
/-- DEV_INDEX of ring `n`. -/
def Core.devIdx (c : Core) (n : Nat) : Nat := c.get (Fd.CHP_RING_STS_DEV_INDEX n)

/-- May the device write one more entry of ring `n` (R275)? -/
def Core.devRoom (c : Core) (n : Nat) : Bool := (c.devIdx n + 1) % c.ringSize n != (c.ring n).host

/-- DEV_INDEX advances by one; DEV_PHASE inverts at the wrap (R275). -/
def Core.advIdx (c : Core) (n : Nat) : Core :=
  let i := (c.devIdx n + 1) % c.ringSize n
  let c := if i = 0 then c.put (Fd.CHP_RING_STS_DEV_PHASE n) (1 - c.get (Fd.CHP_RING_STS_DEV_PHASE n)) else c
  (c.put (Fd.CHP_RING_STS_DEV_INDEX n) i).modRing n (fun r => { r with dirty := true })

/-- One more written entry of ring `n` that has not been signalled (R303). -/
def Core.unsigned (c : Core) (n : Nat) : Core :=
  c.modRing n (fun r => { r with unsig := r.unsig + 1, oldest := if r.unsig = 0 then c.now else r.oldest })

/-- The device writes an entry of ring `n` with its PHASE bit (R275, R278); `bytes` carries PHASE = 0 in bit 0. -/
def Core.putEntry (c : Core) (n : Nat) (bytes : List Byte) : Core :=
  let ph := BitVec.ofNat 8 (c.get (Fd.CHP_RING_STS_DEV_PHASE n))
  let ent := match bytes with
    | [] => []
    | b :: rest => (b ||| ph) :: rest
  ((c.emit (.write (c.ringBase n + c.devIdx n * entryBytes (c.get (Fd.CHP_RING_CFG_KIND n))) ent)).unsigned n).advIdx n

/-- A ring error (R276): ERROR, ERR_CAUSE, EV_RING_ERR; PHASE and READ_FAIL (2, 3) also stop the ring. (log 59 DEDUCED) -/
def Core.ringErr (c : Core) (n cause val : Nat) : Core :=
  let c := (c.put (Fd.CHP_RING_STS_ERROR n) 1).put (Fd.CHP_RING_STS_ERR_CAUSE n) cause
  let c := if cause = 2 ∨ cause = 3 then c.modRing n (fun r => { r with stopped := true }) else c
  (c.modRing n (fun r => { r with dirty := true })).raise 0x0001 6 n cause val

/-! ### Spools (R299, R300) -/

/-- Bytes in use. -/
def Ring.used (r : Ring) : Nat := if r.c ≤ r.p then r.p - r.c else r.p + r.s - r.c
/-- Bytes the producer may write. -/
def Ring.free (r : Ring) : Nat := r.s - 64 - r.used

/-- The first entries of a spool that make `s` bytes. -/
def segsUpTo : Nat → List (Nat × Nat) → List (Nat × Nat)
  | _, [] => []
  | s, (a, b) :: rest => if s = 0 then [] else (a, b) :: segsUpTo (s - b) rest

/-- A write of spool data: with Relaxed Ordering where the Device Control register enables it (R278). -/
def spoolPut (relax : Bool) (addr : Nat) (data : List Byte) : HostOut := if relax then .relaxed addr data else .write addr data

/-- The host writes that put `data` at offset `o` of consecutive entries, and the data left over past the last entry. -/
def spoolChunks (relax : Bool) : List (Nat × Nat) → Nat → List Byte → List HostOut × List Byte
  | [], _, data => ([], data)
  | (a, b) :: rest, o, data =>
    if b ≤ o then spoolChunks relax rest (o - b) data
    else
      let part := data.take (b - o)
      let more := spoolChunks relax rest 0 (data.drop (b - o))
      (if part.isEmpty then more.1 else spoolPut relax (a + o) part :: more.1, more.2)

/-- The write-back record of ring `n` with a given spool offset and size (R277). -/
def Core.wbRecord (c : Core) (n off size : Nat) : HostOut :=
  let w := c.devIdx n + 2 ^ 16 * c.get (Fd.CHP_RING_STS_DEV_PHASE n) + 2 ^ 17 * c.get (Fd.CHP_RING_STS_HALTED n) + 2 ^ 18 * c.get (Fd.CHP_RING_STS_ERROR n)
  .write (c.ringWb n) (toLE 4 w ++ toLE 4 0 ++ toLE 8 off ++ toLE 8 size ++ toLE 8 c.now)

/-- The write-back record of ring `n` is written; for a spool it counts as one entry (R277, R303). -/
def Core.writeBack (c : Core) (n : Nat) : Core :=
  let r := c.ring n
  let spool := c.ringIs n .spool
  let off := if spool then (if c.devSpool n then r.p else r.c) else 0
  let c := c.emit (c.wbRecord n off (if spool then r.s else 0))
  let c := if spool then c.unsigned n else c
  c.modRing n (fun r => { r with dirty := false })

/-- The device writes an item at P of DEV_WRITE spool `n` and advances P; S_new is adopted when P reaches S_old, and announced by a write-back before any data
at S_old (R300). -/
def Core.spoolWrite (c : Core) (n : Nat) (data : List Byte) : Core :=
  let r := c.ring n
  let e := r.p + data.length
  match r.sNew with
  | some sNew =>
    if r.s ≤ e then
      let k := r.s - r.p
      let segs := segsUpTo sNew r.segs
      let a := spoolChunks c.host.relaxOn segs r.p (data.take k)
      let c := a.1.foldl Core.emit c
      let c := c.modRing n (fun x => { x with p := r.s, s := sNew, sNew := none })
      let c := c.writeBack n
      let b := spoolChunks c.host.relaxOn segs r.s (data.drop k)
      let d := spoolChunks c.host.relaxOn segs 0 b.2
      let c := (b.1 ++ d.1).foldl Core.emit c
      c.modRing n (fun x => { x with p := if e < sNew then e else e - sNew, dirty := true })
    else
      let c := (spoolChunks c.host.relaxOn (segsUpTo r.s r.segs) r.p data).1.foldl Core.emit c
      c.modRing n (fun x => { x with p := e, dirty := true })
  | none =>
    let segs := segsUpTo r.s r.segs
    let a := spoolChunks c.host.relaxOn segs r.p data
    let b := spoolChunks c.host.relaxOn segs 0 a.2
    let c := (a.1 ++ b.1).foldl Core.emit c
    c.modRing n (fun x => { x with p := if e < r.s then e else e - r.s, dirty := true })

/-- Bytes that stand `k` bytes past P of DEV_WRITE spool `n`, P unmoved (R222): written, while no growth of the spool is due. (log 148 DESIGN CHOICE) -/
def Core.spoolAhead (c : Core) (n k : Nat) (data : List Byte) : Core :=
  let r := c.ring n
  let segs := segsUpTo r.s r.segs
  let o := if r.s = 0 then 0 else (r.p + k) % r.s
  let a := spoolChunks c.host.relaxOn segs o data
  let b := spoolChunks c.host.relaxOn segs 0 a.2
  (a.1 ++ b.1).foldl Core.emit c

/-- P of spool `n` moves past bytes that already stand there; where a growth of the spool has become due since, they are written again at their places (R300). (log 148 DESIGN
CHOICE) -/
def Core.spoolPass (c : Core) (n : Nat) (data : List Byte) : Core :=
  let r := c.ring n
  if r.sNew.isSome then c.spoolWrite n data
  else if data.isEmpty then c
  else c.modRing n (fun x => { x with p := if x.p + data.length < x.s then x.p + data.length else x.p + data.length - x.s, dirty := true })

end Sys2Proof.Machine
end

