-- ==== Sys2Proof/Machine/Acquire.lean ====
section
/-!
DEFINITION. The acquisition channels (R210-R230): configuration, triggers, samples, plates, and the commands ARM to PLATE_SPOOLED.
-/
namespace Sys2Proof.Machine

/-! ### Arithmetic of measurements (R215, R227) -/

/-- floor (sqrt n) for `n < 2^(2 b)`, from bit `b - 1` down. -/
def isqrtFrom : Nat → Nat → Nat → Nat
  | 0, r, _ => r
  | b + 1, r, n => if (r + 2 ^ b) * (r + 2 ^ b) ≤ n then isqrtFrom b (r + 2 ^ b) n else isqrtFrom b r n

/-- floor (sqrt n) for every n below 2^128. -/
def isqrt (n : Nat) : Nat := isqrtFrom 64 0 n

/-- The largest `t` in `[lo, lo + 2^b)` (in 2^-16 turn, below a quarter turn) whose angle does not pass that of (x, y). -/
def angleFrom (x y : Int) : Nat → Nat → Nat
  | 0, lo => lo
  | b + 1, lo =>
    let t := (lo + 2 ^ b) * 16
    if x * sinFx t ≤ y * cosFx t then angleFrom x y b (lo + 2 ^ b) else angleFrom x y b lo

/-- floor (atan2 (y, x) × 2^16 / 2π) of a point of the first quadrant, axis `y = 0` included. -/
def angleQ1 (x y : Int) : Nat := if y = x then 8192 else if y < x then angleFrom x y 13 0 else angleFrom x y 13 8192

/-- floor (atan2 (q, i) × 2^16 / 2π) mod 2^16; 0 at the origin (R227). -/
def atan2p (q i : Int) : Nat :=
  if q = 0 ∧ i = 0 then 0
  else if 0 < i ∧ 0 ≤ q then angleQ1 i q
  else if i ≤ 0 ∧ 0 < q then 16384 + angleQ1 q (-i)
  else if i < 0 ∧ q ≤ 0 then 32768 + angleQ1 (-i) (-q)
  else 49152 + angleQ1 (-q) i

/-! ### Configuration (R229) -/

/-- A field of the register images read at arming. -/
def Acq.f (a : Acq) (k lo w : Nat) : Nat := bitsOf (a.img.getD k 0) lo w
/-- SRC. -/
def Acq.src (a : Acq) : Nat := a.f 0 0 4
/-- UNIT. -/
def Acq.unit (a : Acq) : Nat := a.f 0 4 3
/-- INPUT. -/
def Acq.input (a : Acq) : Nat := a.f 0 7 1
/-- MODE. -/
def Acq.mode (a : Acq) : Nat := a.f 0 8 2
/-- SPOOL. -/
def Acq.spool (a : Acq) : Bool := a.f 0 10 1 == 1
/-- DECIM. -/
def Acq.decim (a : Acq) : Nat := a.f 0 11 4
/-- KMAX. -/
def Acq.kmax (a : Acq) : Nat := a.f 0 15 4
/-- STAGE_HIGH; 0 acts as 12. -/
def Acq.stageHigh (a : Acq) : Nat := if a.f 0 19 4 = 0 then 12 else a.f 0 19 4
/-- RING. -/
def Acq.ring (a : Acq) : Nat := a.f 1 0 6
/-- Trigger SRC. -/
def Acq.tsrc (a : Acq) : Nat := a.f 6 0 4
/-- Trigger SEL. -/
def Acq.tsel (a : Acq) : Nat := a.f 6 4 12
/-- SLOPE. -/
def Acq.slope (a : Acq) : Nat := a.f 6 16 2
/-- LEVEL. -/
def Acq.level (a : Acq) : Int := sx 16 (a.f 7 0 16)
/-- HYST. -/
def Acq.hyst (a : Acq) : Int := ((a.f 7 16 16 : Nat) : Int)
/-- Bytes of a stored sample (R210). -/
def Acq.width (a : Acq) : Nat := if a.src = 0 then 2 else 4
/-- Capacity in stored samples (R212). -/
def Acq.cap (a : Acq) : Nat := 2 ^ 20 / a.width
/-- K for a source sample stamped at tick `t` (R225). -/
def Acq.kAt (a : Acq) (t : Nat) : Nat := ((a.kHist.find? (fun e => decide (e.1 ≤ t))).map (fun e => e.2)).getD a.decim
/-- K of the newest samples. -/
def Acq.kNow (a : Acq) : Nat := ((a.kHist.head?).map (fun e => e.2)).getD a.decim

/-- The ten register images of channel `h` of region `r` as the registers stand (R229). -/
def Core.acqRegs (c : Core) (r h : Nat) : List Nat :=
  [c.liveW (Fd.ACQ_CH_CFG r h), c.liveW (Fd.ACQ_CH_RING r h), c.liveW (Fd.ACQ_PRE r h), c.liveW (Fd.ACQ_POST r h), c.liveW (Fd.ACQ_COUNT r h),
   c.liveW (Fd.ACQ_AUTO r h), c.liveW (Fd.ACQ_TRIG r h), c.liveW (Fd.ACQ_LEVEL r h), c.liveW (Fd.ACQ_MFTW_LO r h), c.liveW (Fd.ACQ_MFTW_HI r h)]

/-- The offsets of the ten registers of channel `h` of region `r` that ARM_CAPTURE writes (R288). (log 53 DEDUCED) -/
def acqOffs (r h : Nat) : List Nat :=
  [Fd.ACQ_CH_CFG r h, Fd.ACQ_CH_RING r h, Fd.ACQ_PRE r h, Fd.ACQ_POST r h, Fd.ACQ_COUNT r h, Fd.ACQ_AUTO r h, Fd.ACQ_TRIG r h, Fd.ACQ_LEVEL r h,
   Fd.ACQ_MFTW_LO r h, Fd.ACQ_MFTW_HI r h]

/-- STATE of channel `ch` (R217). -/
def Core.acqState (c : Core) (ch : Nat) : Nat := c.get (Fd.ACQ_CH_STS_STATE (ch / 4) (ch % 4))
/-- Sets STATE. -/
def Core.acqGoto (c : Core) (ch st : Nat) : Core := c.put (Fd.ACQ_CH_STS_STATE (ch / 4) (ch % 4)) st
/-- Shows the present K. -/
def Core.acqShowK (c : Core) (ch : Nat) : Core := c.put (Fd.ACQ_CH_STS_K (ch / 4) (ch % 4)) ((c.acq ch).kNow)

/-- The staging area of a channel in bytes (R310). -/
def Core.stageCap (c : Core) : Nat := c.get (Fd.HBM_PART_SIZE 1) * 2 ^ 21

/-- Stored bytes of a channel that wait in its record memory, in the order of the plates (R212): those of closed plates, of stopped ones, of the open one. -/
def Acq.stored (a : Acq) : Nat :=
  ((a.outs.map (fun o => o.data.length)) ++ (a.tails.map (fun t => t.plate.data.length)) ++ (a.plate.toList.map (fun p => p.data.length))).foldl (fun m n => m + n) 0

/-- The stored bytes that the mover may take (R212): plate by plate, none past a plate that still receives samples. -/
def outsFront : List PlateOut → List Byte × Bool
  | [] => ([], true)
  | o :: rest => if o.last.isSome then (o.data, false) else let y := outsFront rest; (o.data ++ y.1, y.2)

/-- The front of the FIFO of R212. -/
def Acq.front (a : Acq) : List Byte :=
  let y := outsFront a.outs
  if y.2 then y.1 ++ (match a.tails with
    | t :: _ => t.plate.data
    | [] => (a.plate.map (fun p => p.data)).getD []) else y.1

/-- Closed plates with `n` bytes taken off the front, and how many of the `n` are left. -/
def dropOuts : Nat → List PlateOut → List PlateOut × Nat
  | n, [] => ([], n)
  | n, o :: rest =>
    let y := dropOuts (n - o.data.length) rest
    ({ o with data := o.data.drop n } :: y.1, y.2)

/-- `n` bytes leave the front of the FIFO. -/
def Acq.dropFront (a : Acq) (n : Nat) : Acq :=
  let y := dropOuts n a.outs
  match a.tails with
  | t :: rest => { a with outs := y.1, tails := { t with plate := { t.plate with data := t.plate.data.drop y.2 } } :: rest }
  | [] => { a with outs := y.1, plate := a.plate.map (fun p => { p with data := p.data.drop y.2 }) }

/-- Bytes that channel `ch` holds in its record memory: stored samples of plates, and the pre-trigger samples while it is ARMED (R212, R213). -/
def Core.acqHeld (c : Core) (ch : Nat) : Nat :=
  let a := c.acq ch
  let pre := if c.acqState ch = 1 then min (a.f 2 0 32) (a.pre.filter (fun s => decide (a.y ≤ s.tick))).length else 0
  a.stored + pre / 2 ^ a.kNow * a.width

/-- Notes the first tick after a plate at which the record memory holds less than 512 KiB (R218). -/
def Core.acqNoteQ (c : Core) (ch : Nat) : Core :=
  if (c.acq ch).qAt == none && decide (c.acqHeld ch < 2 ^ 19) then c.modAcq ch (fun a => { a with qAt := some c.now }) else c

/-! ### Arming and closing -/

/-- The checks of R230 on a configuration image, in the order of R280. (log 53 DEDUCED) -/
def Core.armCheck (c : Core) (ch : Nat) (img : List Nat) : Sts :=
  let r := ch / 4
  let h := ch % 4
  let a : Acq := { Acq.init with img := img }
  let noUnit := if a.src = 2 then !c.on (Fd.RGN_DAC_CFG_EN r a.unit) || !c.dacOk r a.unit
                else decide (3 < a.unit) || !c.on (Fd.RGN_ADC_CFG_EN r a.unit) || !c.adcOk r a.unit
  let badSel := (a.tsrc == 7 && (a.tsel == h || decide (3 < a.tsel))) || (a.tsrc == 3 && (decide (2304 ≤ a.tsel) || c.role a.tsel != 2))
    || (a.tsrc == 1 && decide (3 < a.tsel)) || (a.tsrc == 2 && decide (7 < a.tsel))
  if decide (32 ≤ ch) || !c.rOk r || decide (2 < a.src) || a.mode == 3 || decide (7 < a.tsrc) || noUnit || !c.devSpool a.ring || badSel then .target
  else if c.acqState ch ≠ 0 ∨ c.parked r then .state
  else if (a.f 2 0 32 = 0 ∧ a.f 3 0 32 = 0) ∨ 2 ^ a.decim * a.cap < a.f 2 0 32 ∨ 12 < a.decim ∨ a.kmax < a.decim ∨ 12 < a.kmax
      ∨ (a.mode = 2 ∧ a.f 5 0 24 = 0) ∨ (a.slope = 0 ∧ (a.tsrc = 4 ∨ a.tsrc = 5 ∨ a.tsrc = 1)) then .length
  else .ok

/-- The number of a source of region `r` (R210). -/
def srcKey (r src unit input : Nat) : Nat := ((r * 3 + src) * 8 + unit) * 2 + (if src = 2 then 0 else input)

/-- The number of the source that the images of a channel of region `r` name. -/
def Acq.key (a : Acq) (r : Nat) : Nat := srcKey r a.src a.unit a.input

/-- `x` as `n` bytes, a negative number in two's complement. -/
def leI (n : Nat) (x : Int) : List Byte := toLE n (twos (8 * n) x)

/-- The sample number of R224. -/
def AcqSmp.no (s : AcqSmp) : Nat := s.tick * s.spt + s.sub

/-- The value in Q1.15 of the stored format (R227). -/
def AcqSmp.val (raw : Bool) (s : AcqSmp) : Cx := if raw then (s.i * 16, 0) else (s.i, s.q)

/-- The mixed sample of R227. -/
def Acq.mixed (a : Acq) (s : AcqSmp) : Cx :=
  let n2 := 48 * s.tick + (if a.src = 2 then 16 * s.sub else 48 / s.spt * s.sub)
  mixDown (s.val (a.src == 0)) (ncoCs (phaseHalf ((a.f 8 0 32 + 2 ^ 32 * a.f 9 0 16 : Nat) : Int) (a.f 9 16 16) n2))

/-- Rising zero crossings of a window, oldest first: (position, count, first, last) folded over the samples (R227). -/
def zcFold (hyst : Int) : List Int → Nat → Bool → List Nat → List Nat
  | [], _, _, acc => acc
  | x :: rest, p, armed, acc =>
    if armed && decide (0 ≤ x) then zcFold hyst rest (p + 1) false (acc ++ [p])
    else zcFold hyst rest (p + 1) (armed || decide (x < -hyst)) acc

/-- Sum of `ovrN` over the distinct ticks of consecutive samples. -/
def ovrTicks : Option Nat → List AcqSmp → Nat
  | _, [] => 0
  | t, s :: rest => (if t = some s.tick then 0 else s.ovrN) + ovrTicks (some s.tick) rest

/-- The measurements of R227 over the window `w`, oldest first, as field values: MIN, MAX, RMS, PHASE, MEAN_I, MEAN_Q, AMPL, ZC_PERIOD, ZC_COUNT, OVR_CNT, and
ZC_NONE. `free` gives the values of an empty window, of which the spec states none. (log 126 DESIGN CHOICE)
ZC_PERIOD and OVR_CNT past 32 bits wrap. (log 159 DESIGN CHOICE) -/
def Acq.measure (a : Acq) (w : List AcqSmp) (free : Nat → Nat) : List Nat :=
  let raw := a.src == 0
  let n := w.length
  let vals := w.map (AcqSmp.val raw)
  let mags := vals.map (fun v => isqrt (v.1 * v.1 + v.2 * v.2).toNat)
  let nums : List Int := if raw then vals.map (fun v => v.1) else mags.map (fun (x : Nat) => (x : Int))
  let mn := nums.foldl min (nums.headD 0)
  let mx := nums.foldl max (nums.headD 0)
  let sq := sumI (vals.map (fun v => v.1 * v.1 + v.2 * v.2))
  let ms := w.map a.mixed
  let mean := fun (l : List Int) => sumI l * 65536 / (n : Int)
  let mi := if n = 0 then sx 32 (free 3) else mean (ms.map (fun v => v.1))
  let mq := if n = 0 then sx 32 (free 4) else mean (ms.map (fun v => v.2))
  let zc := zcFold a.hyst (vals.map (fun v => v.1)) 0 false []
  let per := if zc.length < 2 then 0 else 256 * (zc.getLastD 0 - zc.headD 0) / (zc.length - 1)
  let ovr := if raw then (w.filter (fun s => s.ovr)).length else ovrTicks none w
  [if n = 0 then free 0 % 65536 else twos 16 mn, if n = 0 then free 1 % 65536 else twos 16 mx,
   if n = 0 then free 2 % 65536 else isqrt (sq / (n : Int)).toNat, atan2p mq mi, twos 32 mi, twos 32 mq, isqrt (mi * mi + mq * mq).toNat,
   per % 2 ^ 32, min 0xFFFF zc.length, ovr % 2 ^ 32, b2n (decide (zc.length < 2))]

/-- The groups (K, number) of a window, oldest first, each once (R224). -/
def Acq.groups (a : Acq) : List AcqSmp → Option (Nat × Nat) → List (Nat × Nat)
  | [], _ => []
  | s :: rest, g =>
    let k := a.kAt s.tick
    let x := (k, s.no / 2 ^ k)
    if g = some x then a.groups rest g else x :: a.groups rest (some x)

/-- The plate header of R226 with SPOOL_OFF zero. -/
def plateHeader (ch : Nat) (a : Acq) (p : Plate) (w : List AcqSmp) (loss aborted stale : Bool) (ms : List Nat) (bytes lastTick : Nat) : List Byte :=
  let m := fun k => ms.getD k 0
  let kEnd := (p.grp.map (fun g => g.1)).getD p.k0
  let step := fun k => min 0xFFFFFFFF (p.steps.getD k 0)
  let flags := b2n (p.trig.src == 0xF) + 2 * b2n (decide (p.preV < a.f 2 0 32)) + 4 * b2n p.trunc + 8 * b2n (a.spool && decide (a.cap < p.grps))
    + 16 * b2n (p.above || !p.steps.isEmpty) + 32 * b2n loss + 64 * b2n aborted + 128 * b2n stale + 256 * m 10 + 512 * b2n (decide (4 < p.steps.length))
  toLE 4 (ch % 32 + a.src * 2 ^ 8 + a.unit * 2 ^ 12 + a.input * 2 ^ 15 + p.trig.src * 2 ^ 16 + p.k0 * 2 ^ 20 + kEnd * 2 ^ 24 + min 4 p.steps.length * 2 ^ 28)
    ++ toLE 4 a.plateNo ++ toLE 8 p.trig.tick ++ toLE 4 (p.trig.sub + flags * 2 ^ 16) ++ toLE 4 p.preV ++ toLE 4 p.postN ++ toLE 4 (min 0xFFFF p.missed)
    ++ toLE 8 bytes ++ toLE 8 0 ++ toLE 4 (step 0) ++ toLE 4 (step 1) ++ toLE 4 (step 2) ++ toLE 4 (step 3)
    ++ toLE 8 w.length ++ toLE 2 (m 0) ++ toLE 2 (m 1) ++ toLE 2 (m 2) ++ toLE 2 (m 3) ++ toLE 4 (m 4) ++ toLE 4 (m 5) ++ toLE 4 (m 6) ++ toLE 4 (m 7)
    ++ toLE 4 (m 8) ++ toLE 4 (m 9) ++ toLE 8 lastTick ++ toLE 16 0

/-- `n` rounded up to a multiple of 64. -/
def pad64 (n : Nat) : Nat := ceilDiv n 64 * 64

/-- Is a sample at or after the trigger? A trigger stamped between two samples of the channel falls on the later one (R220). (log 159 DESIGN CHOICE) -/
def AcqSmp.atOrAfter (s : AcqSmp) (d : AcqDet) : Bool :=
  decide (d.tick < s.tick) || (s.tick == d.tick && decide (d.sub * s.spt ≤ s.sub * d.spt))

/-- The stored bytes of group `g` (R210, R224): the mean over all of its samples; where a sample of the group was never recorded, a free value. Answers the next free number too.
(log 126 DESIGN CHOICE) -/
def storedBytes (raw : Bool) (fr : Nat) (smp : List AcqSmp) (g : Nat × Nat) : List Byte × Nat :=
  let m := (smp.take (2 ^ g.1)).filter (fun s => s.no / 2 ^ g.1 == g.2)
  if m.length < 2 ^ g.1 then (toLE (if raw then 2 else 4) (Config.freeNat fr), fr + 1)
  else
    let mean := fun (l : List Int) => sumI l / ((2 ^ g.1 : Nat) : Int)
    let i := mean (m.map (fun s => s.i))
    (if raw then toLE 2 (twos 16 (i * 16) + b2n (m.any (fun s => s.ovr))) else toLE 2 (twos 16 i) ++ toLE 2 (twos 16 (mean (m.map (fun s => s.q)))), fr)

/-- One more window sample of an open plate (R220, R222, R224-R226), `others` bytes of the record memory being held by other plates. It is not taken once the window is complete or
clamped at capacity. A group is stored with its last sample; where the record memory is full then, the plate ends with its last stored sample (R225). (log 159 DESIGN CHOICE) -/
def Acq.addWin (a : Acq) (others : Nat) (x : Plate × Nat) (post : Bool) (s : AcqSmp) : Plate × Nat :=
  let p := x.1
  if p.shut then x
  else
    let raw := a.src == 0
    let k := a.kAt s.tick
    let g := (k, s.no / 2 ^ k)
    let fresh := p.grp != some g
    if fresh && !a.spool && decide (a.cap ≤ p.grps) then ({ p with trunc := true, shut := true }, x.2)
    else
      let rose := match p.grp with
        | some o => decide (o.1 < k)
        | none => false
      let gap := match p.grp with
        | some o => if fresh && decide (p.done < p.grps) then some o else none
        | none => none
      let y := match gap with
        | some o => storedBytes raw x.2 (p.win ++ p.ext) o
        | none => ([], x.2)
      let win := s :: p.win
      let complete := decide ((s.no + 1) % 2 ^ k = 0)
      let z := if complete then storedBytes raw y.2 (win ++ p.ext) g else ([], y.2)
      let n := p.postN + b2n post
      if decide (0 < y.1.length + z.1.length) && decide (2 ^ 20 < others + p.data.length + y.1.length + z.1.length) then
        let o := if gap.isSome then gap.getD g else g
        ({ p with win := p.win.dropWhile (fun t => (a.kAt t.tick, t.no / 2 ^ a.kAt t.tick) == o), full := true, shut := true }, z.2)
      else
      ({ p with win := win, grp := some g, grps := p.grps + b2n fresh, k0 := if p.grp = none then k else p.k0,
                steps := if rose then p.steps ++ [p.grps] else p.steps, above := p.above || decide (a.decim < k),
                postN := n, done := p.done + b2n gap.isSome + b2n complete, data := p.data ++ y.1 ++ z.1,
                shut := post && n == a.f 3 0 32 }, z.2)

/-- The source has come to the trigger (R220): the pre-trigger samples enter the window, and those recorded since. -/
def Acq.fill (a : Acq) (others : Nat) (x : Plate × Nat) : Plate × Nat :=
  let p := x.1
  let before := a.pre.dropWhile (fun s => s.atOrAfter p.trig)
  let after := a.pre.takeWhile (fun s => s.atOrAfter p.trig)
  let n := min (a.f 2 0 32) (before.takeWhile (fun s => decide (a.y ≤ s.tick))).length
  let x := (before.take n).reverse.foldl (fun x s => a.addWin others x false s) ({ p with filled := true, ext := (before.drop n).take 4096 }, x.2)
  let x := ({ x.1 with preV := x.1.win.length }, x.2)
  after.reverse.foldl (fun x s => a.addWin others x true s) ({ x.1 with shut := x.1.shut || a.f 3 0 32 == 0 }, x.2)

/-- One source sample, already in the pre-trigger memory `a.pre`, reaches the plate (R220). -/
def Acq.meet (a : Acq) (others : Nat) (x : Plate × Nat) (s : AcqSmp) : Plate × Nat :=
  if !s.atOrAfter x.1.trig then x else if x.1.filled then a.addWin others x true s else a.fill others x

/-- A plate of channel `ch` closes (R218-R222, R225-R228), `a` being the channel as the plate saw it: header and measurements; the plate joins those for the spool. Answers the stamp
tick of its last sample too. (log 126 DESIGN CHOICE) -/
def Core.plateSeal (c : Core) (ch : Nat) (a : Acq) (p0 : Plate) (loss aborted : Bool) : Core × Nat :=
  let r := ch / 4
  let h := ch % 4
  let w := p0.win.reverse
  let gs := a.groups w none
  let n := gs.length
  let p := { p0 with grps := n, grp := gs.getLast?, postN := w.length - p0.preV }
  let base := c.freeCtr
  let stale := w.any (fun s => s.cal)
  let ms := if stale then (c.acq ch).meas else a.measure w (fun k => Config.freeNat (base + k))
  let bytes := pad64 (n * a.width)
  let s1 := match p.win with
    | s :: _ => s.tick
    | [] => (p.trig.tick * p.trig.spt + p.trig.sub - 1) / p.trig.spt
  let lastTick := if w.isEmpty then Config.freeNat (base + 5) else s1
  let last := if p.done < n then gs.getLast? else none
  let data := p.data.take (p.data.length - (p.done - n) * a.width)
  let out : PlateOut := { no := a.plateNo, hdr := plateHeader ch a p w loss aborted stale ms bytes lastTick, last := last, smp := (p.win ++ p.ext).take 4096, raw := a.src == 0,
                          ev := a.f 0 23 1 == 1, bytes := bytes,
                          pad := bytes - n * a.width, data := if last.isNone then data ++ List.replicate (bytes - n * a.width) 0 else data, off := 0,
                          key := a.key r, ring := a.ring, parts := a.spool }
  let c := if w.isEmpty then { c with freeCtr := base + 6 } else c
  let c := c.modAcq ch (fun a => { a with outs := a.outs ++ [out], meas := ms })
  let c := (c.inc (Fd.ACQ_CH_CNT_PLATES r h) 1).stick (Fd.ACQ_CH_STS_TRUNC r h) p.trunc
  (c.stick (Fd.ACQ_CH_STS_LOSS r h) loss, s1)

/-- A missed trigger (R216). -/
def Core.acqMiss (c : Core) (ch : Nat) : Core :=
  (c.inc (Fd.ACQ_CH_CNT_MISSED_TRIG (ch / 4) (ch % 4)) 1).modAcq ch (fun a => { a with missed := a.missed + 1 })

/-- Every trigger that channel `ch` has detected and not judged is missed: it is not ARMED any more (R216). -/
def Core.missAll (c : Core) (ch : Nat) : Core :=
  let n := (c.acq ch).dets.length
  (upFrom 0 n).foldl (fun c _ => c.acqMiss ch) (c.modAcq ch (fun a => { a with dets := [] }))

/-- Closes the open plate of channel `ch` (R218, R219, R222, R225): the channel goes to REARM or, after its last plate, to DISARMED, where what it had still to judge is missed. -/
def Core.plateEnd (c : Core) (ch : Nat) (loss : Bool) : Core :=
  let a := c.acq ch
  match a.plate with
  | none => c
  | some p =>
    let last := a.mode == 1 || (a.f 4 0 32 != 0 && decide (a.f 4 0 32 ≤ a.plateNo + 1))
    let y := c.plateSeal ch a p loss false
    let c := y.1.modAcq ch (fun a => { a with plate := none, plateNo := (a.plateNo + 1) % 2 ^ 32, s1 := y.2, qAt := none })
    let c := c.acqNoteQ ch
    if last then (c.acqGoto ch 0).missAll ch else c.acqGoto ch 3

/-- The channel as a stopped plate saw it. -/
def Tail.asAcq (t : Tail) : Acq := { Acq.init with img := t.img, y := t.y, kHist := t.kHist, pre := t.pre, plateNo := t.no }

/-- The spool offset at which the next plate of channel `ch` for spool `n` will begin, all its waiting plates written. -/
def Core.nextPlateOff (c : Core) (ch n : Nat) : Nat :=
  let a := c.acq ch
  let x := c.ring n
  let o := x.p + (((a.outs.filter (fun o => o.ring == n)).map (fun o => 128 + o.bytes)).foldl (fun m n => m + n) 0) - (if (a.outs.head?).any (fun o => o.ring == n) then a.sent else 0)
  if x.s = 0 then o else o % x.s

/-- A stopped plate of channel `ch` whose last samples have come closes, with ABORTED unless its window was complete (R221, R228); one that met a full record memory with LOSS (R225). -/
def Core.sealTail (c : Core) (ch : Nat) (t : Tail) : Core :=
  let x := if t.plate.filled then (t.plate, c.freeCtr) else t.asAcq.fill ((c.acq ch).stored - t.plate.data.length) (t.plate, c.freeCtr)
  let c := { c with freeCtr := x.2 }
  let p := { x.1 with win := x.1.win.filter (fun s => decide (s.tick < t.stop)) }
  let c := if p.full then (c.raise 0x0042 5 ch t.no (c.nextPlateOff ch t.asAcq.ring)).inc (Fd.ACQ_CH_CNT2_LOSS_PLATES (ch / 4) (ch % 4)) 1 else c
  ((c.plateSeal ch t.asAcq p p.full (!x.1.shut)).1).modAcq ch (fun a => { a with tails := a.tails.filter (fun o => decide (o ≠ t)) })

/-- Has every source sample stamped before tick `d` come, `l` being the newest ones? -/
def allCome (l : List AcqSmp) (d : Nat) : Bool :=
  match l with
  | s :: _ => decide (d * s.spt ≤ s.no + 1)
  | [] => false

/-- The stopped plates of channel `ch` whose samples have all come close. -/
def Core.sealTails (c : Core) (ch : Nat) : Core :=
  (c.acq ch).tails.foldl (fun c t => if allCome t.pre t.stop then c.sealTail ch t else c) c

/-- The channels of region `r`. -/
def rgnChans (r : Nat) : List Nat := upFrom (r * 4) 4

/-- The next ready tick is `y` (R218, R225, R228): pre-trigger memory and detectors start again. -/
def Core.acqAtY (c : Core) (ch y : Nat) : Core :=
  let c := c.modAcq ch (fun a => { a with y := y, forced := false, armUp := false, armDn := false, kReset := false,
                                          kHist := if a.kReset then (y, a.decim) :: a.kHist else a.kHist })
  (c.acqGoto ch 1).acqShowK ch

/-- The thermal step lifts (R228): the next Y is this tick. -/
def Core.acqResume (c : Core) (r : Nat) : Core :=
  (rgnChans r).foldl (fun c ch => if c.acqState ch = 4 then c.acqAtY ch c.now else c) c

/-! ### Triggers -/

/-- Channel `ch` detects a trigger (R214); a DISARMED channel counts none (R217). -/
def Core.detect (c : Core) (ch : Nat) (d : AcqDet) : Core :=
  if c.acqState ch = 0 then c else c.modAcq ch (fun a => { a with dets := a.dets ++ [d] })

/-- Every channel whose trigger SRC is `src` and for which `sel` holds detects a trigger at tick `t`. -/
def Core.detectAll (c : Core) (src t : Nat) (sel : Nat → Acq → Bool) : Core :=
  (upFrom 0 32).foldl (fun c ch =>
    if (c.acq ch).tsrc = src ∧ sel ch (c.acq ch) then c.detect ch { tick := t, sub := 0, spt := 1, src := src } else c) c

/-- A SHOT trigger in region `r` with first stamp `ts` (R214). -/
def Core.acqShot (c : Core) (r ts : Nat) : Core := c.detectAll 6 ts (fun ch _ => ch / 4 == r)
/-- A compare failure of vector pin `w` of region `r` at tick `t` (R214). -/
def Core.acqVector (c : Core) (r w t : Nat) : Core := c.detectAll 2 t (fun ch a => ch / 4 == r && a.tsel == w)
/-- A decision of cell `g` latched at `t` (R214). -/
def Core.acqDecision (c : Core) (g cls t : Nat) (inv : Bool) : Core :=
  c.detectAll 3 t (fun _ a => a.tsel == g && bitAt (a.f 6 18 3) cls && (!inv || a.f 6 21 1 == 1))
/-- A qualified edge of trigger input `x` captured at `t` (R214). -/
def Core.acqTrigIn (c : Core) (x t : Nat) (rising : Bool) : Core :=
  c.detectAll 1 t (fun _ a => a.tsel == x && bitAt a.slope (if rising then 0 else 1))

/-- Does detection `d` come before `e` (R216): earlier stamp; on equal stamps the SRC trigger, then the forced, then the software trigger. -/
def AcqDet.before (d e : AcqDet) : Bool :=
  let rank := fun (x : AcqDet) => if x.src = 0xE then 2 else if x.src = 0xF then 1 else 0
  if d.tick ≠ e.tick then decide (d.tick < e.tick)
  else if d.sub * e.spt ≠ e.sub * d.spt then decide (d.sub * e.spt < e.sub * d.spt)
  else decide (rank d < rank e)

/-- The first detection of a list in that order, and the others. -/
def firstDet : List AcqDet → Option (AcqDet × List AcqDet)
  | [] => none
  | d :: rest =>
    match firstDet rest with
    | none => some (d, [])
    | some (e, others) => if e.before d then some (e, d :: others) else some (d, e :: others)

/-- A trigger is accepted (R216, R218, R220): the plate opens, with its pre-trigger samples as soon as the source has come to the trigger's sample. -/
def Core.acqAccept (c : Core) (ch : Nat) (d : AcqDet) : Core :=
  let a := c.acq ch
  let p : Plate := { trig := d, filled := false, preV := 0, win := [], ext := [], postN := 0, grps := 0, done := 0, grp := none, k0 := a.kAt d.tick,
                     steps := [], above := false, missed := a.missed, trunc := false, full := false, shut := false, data := [] }
  let x := match a.pre with
    | s :: _ => if s.atOrAfter d then a.fill a.stored (p, c.freeCtr) else (p, c.freeCtr)
    | [] => (p, c.freeCtr)
  let c := ({ c with freeCtr := x.2 }).setAcq ch { a with plate := some x.1, missed := 0, trigs := d.tick :: (a.trigs.filter (fun t => decide (d.tick ≤ t + 64))) }
  let c := c.acqGoto ch 2
  (rgnChans (ch / 4)).foldl (fun c o =>
    if o ≠ ch ∧ (c.acq o).tsrc = 7 ∧ (c.acq o).tsel = ch % 4 then c.detect o { d with src := 7 } else c) c

/-- The earliest trigger of channel `ch` that has been detected and not judged is accepted when the channel is ARMED and the stamp is not before Y; else it is missed (R216). The
command decides how long a detected trigger waits for one with an earlier stamp. (log 159 DESIGN CHOICE) -/
def Core.acqJudge (c : Core) (ch : Nat) : Core :=
  match firstDet (c.acq ch).dets with
  | none => c
  | some (d, rest) =>
    let c := c.modAcq ch (fun a => { a with dets := rest })
    if c.acqState ch = 1 ∧ (c.acq ch).y ≤ d.tick then c.acqAccept ch d else c.acqMiss ch

/-- Channel `ch` is stopped at this tick from outside and goes to state `st` (R221, R228): what it has detected is judged first; an open plate ends with the last sample stamped
before this tick. A channel stopped during its last plate goes to DISARMED (R219). (log 147 DEDUCED, 159 DESIGN CHOICE) -/
def Core.acqStop (c : Core) (ch st : Nat) : Core :=
  let c := (upFrom 0 (c.acq ch).dets.length).foldl (fun c _ => c.acqJudge ch) c
  let a := c.acq ch
  match a.plate with
  | none => c.acqGoto ch st
  | some p =>
    let t : Tail := { stop := c.now, img := a.img, y := a.y, kHist := a.kHist, pre := a.pre, no := a.plateNo, plate := p }
    let last := a.mode == 1 || (a.f 4 0 32 != 0 && decide (a.f 4 0 32 ≤ a.plateNo + 1))
    let c := c.modAcq ch (fun a => { a with plate := none, tails := a.tails ++ [t], plateNo := (a.plateNo + 1) % 2 ^ 32 })
    (c.acqGoto ch (if last then 0 else st)).sealTails ch

/-- Every channel of region `r` is stopped because the region parks (R228). -/
def Core.acqPark (c : Core) (r : Nat) : Core := (rgnChans r).foldl (fun c ch => if c.acqState ch = 0 then c else c.acqStop ch 0) c

/-- Thermal step 2 acts on the channels of region `r` (R228): an open plate closes with ABORTED, channels that are not DISARMED become SUSPENDED. -/
def Core.acqSuspend (c : Core) (r : Nat) : Core :=
  (rgnChans r).foldl (fun c ch => if c.acqState ch = 0 ∨ c.acqState ch = 4 then c else c.acqStop ch 4) c

/-! ### Samples -/

/-- The detector of R215 on one sample of an own-source trigger: the next arming flags, and whether it fires. -/
def Acq.detector (a : Acq) (x : Int) : Bool × Bool × Bool :=
  let up := bitAt a.slope 0
  let dn := bitAt a.slope 1
  let fireUp := up && a.armUp && decide (a.level ≤ x)
  let fireDn := dn && a.armDn && decide (x ≤ a.level)
  let armUp := (a.armUp && !fireUp) || decide (x < a.level - a.hyst)
  let armDn := (a.armDn && !fireDn) || decide (a.level + a.hyst < x)
  if a.tsrc = 5 ∧ a.slope = 3 ∧ (fireUp ∨ fireDn) then (decide (x < a.level - a.hyst), decide (a.level + a.hyst < x), true)
  else (armUp, armDn, fireUp || fireDn)

/-- The own-source detector of channel `ch` sees a sample stamped at Y or later (R215). -/
def Core.acqSee (c : Core) (ch : Nat) (s : AcqSmp) : Core :=
  let a := c.acq ch
  if (a.tsrc = 4 ∨ a.tsrc = 5) ∧ a.y ≤ s.tick then
    let v := s.val (a.src == 0)
    let x : Int := if a.tsrc = 4 then v.1 else ((isqrt (v.1 * v.1 + v.2 * v.2).toNat : Nat) : Int)
    let d := a.detector x
    let c := c.modAcq ch (fun a => { a with armUp := d.1, armDn := d.2.1 })
    if d.2.2 then c.detect ch { tick := s.tick, sub := s.sub, spt := s.spt, src := a.tsrc } else c
  else c

/-- A closed plate whose last group still receives samples gets one more; with the group's last one the group is stored and the data end (R224, R226). -/
def PlateOut.meet (o : PlateOut) (fr : Nat) (s : AcqSmp) : PlateOut × Nat :=
  match o.last with
  | none => (o, fr)
  | some g =>
    let smp := if s.no / 2 ^ g.1 = g.2 then s :: o.smp else o.smp
    if (g.2 + 1) * 2 ^ g.1 ≤ s.no + 1 then
      let y := storedBytes o.raw fr smp g
      ({ o with last := none, smp := [], data := o.data ++ y.1 ++ List.replicate o.pad 0 }, y.2)
    else ({ o with smp := smp.take 4096 }, fr)

/-- One sample of source `k` reaches the closed plates of that source, oldest first. -/
def outsMeet (k : Nat) (s : AcqSmp) : List PlateOut → Nat → List PlateOut × Nat
  | [], fr => ([], fr)
  | o :: rest, fr =>
    let y := if o.key = k then o.meet fr s else (o, fr)
    let z := outsMeet k s rest y.2
    (y.1 :: z.1, z.2)

/-- One sample reaches a stopped plate of channel `ch`; the first one at its stop tick or later closes it. -/
def Core.tailMeet (c : Core) (ch : Nat) (s : AcqSmp) (t : Tail) : Core :=
  if t.stop ≤ s.tick then c.sealTail ch t
  else
    let t' := { t with pre := (s :: t.pre).take (bitsOf (t.img.getD 2 0) 0 32 + 64 * s.spt + 4096) }
    let x := t'.asAcq.meet ((c.acq ch).stored - t.plate.data.length) (t.plate, c.freeCtr) s
    let u := { t' with plate := x.1 }
    let c := ({ c with freeCtr := x.2 }).modAcq ch (fun a => { a with tails := a.tails.map (fun o => if o = t then u else o) })
    if allCome [s] t.stop then c.sealTail ch u else c

/-- One sample of source `k` reaches channel `ch` (R213, R215, R220, R224): its plates that were captured from that source, and the channel while its present configuration names it. -/
def Core.acqFeed (c : Core) (ch k : Nat) (s : AcqSmp) : Core :=
  let y := outsMeet k s (c.acq ch).outs c.freeCtr
  let c := ({ c with freeCtr := y.2 }).modAcq ch (fun a => { a with outs := y.1 })
  let c := (c.acq ch).tails.foldl (fun c t => if t.asAcq.key (ch / 4) = k then c.tailMeet ch s t else c) c
  if c.acqState ch = 0 ∨ (c.acq ch).img = [] ∨ (c.acq ch).key (ch / 4) ≠ k then c
  else
    let c := c.modAcq ch (fun a => { a with pre := (s :: a.pre).take (a.f 2 0 32 + 64 * s.spt + 4096) })
    let c := c.acqSee ch s
    let a := c.acq ch
    match a.plate with
    | none => c
    | some p =>
      let x := a.meet (a.stored - p.data.length) (p, c.freeCtr) s
      ({ c with freeCtr := x.2 }).setAcq ch { a with plate := some x.1 }

/-- The newest samples of a source (R210): those that the first group of a plate may need (R224). -/
def Core.srcHist (c : Core) (k : Nat) : List AcqSmp := Tbl.get (fun _ => []) c.srcs k

/-- The samples of one tick of a source reach the channels of its region (R210). -/
def Core.acqSource (c : Core) (r src unit input : Nat) (ss : List AcqSmp) : Core :=
  let k := srcKey r src unit input
  let c := { c with srcs := Tbl.insert c.srcs k ((ss.reverse ++ c.srcHist k).take 4096) }
  (rgnChans r).foldl (fun c ch => ss.foldl (fun c s => c.acqFeed ch k s) c) c

/-! ### Arming -/

/-- Channel `ch` becomes ARMED with ready tick `u` and the configuration `img` (R217). Its pre-trigger memory is empty; the source's newest samples stay at hand for the groups at
the edge of a window (R224). A thermal step in force does not suspend it (R228). (log 53 DEDUCED, 159 DESIGN CHOICE) -/
def Core.armAt (c : Core) (ch u : Nat) (img : List Nat) : Core :=
  let c := c.modAcq ch (fun a =>
    let b : Acq := { a with img := img }
    { b with y := u, s1 := u, qAt := some u, kHist := [(0, b.decim)], chkAt := none, kReset := false, forced := false, armUp := false, armDn := false,
             pre := c.srcHist (srcKey (ch / 4) b.src b.unit b.input), plate := none, dets := [], plateNo := 0 })
  let c := (c.acqGoto ch 1).acqShowK ch
  ((c.acq ch).pre.filter (fun s => decide (u ≤ s.tick))).reverse.foldl (fun c s => c.acqSee ch s) c

/-! ### Staging and the spool (R212, R222, R223, R310) -/

/-- The stack address of the staging slice of channel `ch` (R310). -/
def Core.stageBase (c : Core) (ch : Nat) : Nat := c.get (Fd.HBM_PART_BASE 1) * 2 ^ 26 + ch * c.stageCap

/-- Bytes of `reads` that have come in order. -/
def readsIn : List StageRd → List Byte
  | [] => []
  | x :: rest =>
    match x.data with
    | some d => d ++ readsIn rest
    | none => []

/-- `n` bytes of the reads that have come are taken. -/
def dropReads : Nat → List StageRd → List StageRd
  | _, [] => []
  | n, x :: rest =>
    match x.data with
    | none => x :: rest
    | some d => if d.length ≤ n then dropReads (n - d.length) rest else { x with data := some (d.drop n) } :: rest

/-- The spool that the oldest plate of a channel goes to (R223): that of the arming under which it was captured. -/
def Acq.spoolRing (a : Acq) : Nat :=
  match a.outs with
  | o :: _ => o.ring
  | [] => match a.tails with
    | t :: _ => t.asAcq.ring
    | [] => a.ring

/-- A request of channel `ch` at the controller (R212, R223, R310): a write takes the next bytes of the record memory to the next place of its slice, a read takes the oldest staged
bytes, as far as the spool has room for them. `none`: no such request is the channel's. (log 148 DESIGN CHOICE) -/
def Core.acqAsk (c : Core) (ch addr len : Nat) (write : Bool) (data : List Byte) : Option Core :=
  let a := c.acq ch
  let cap := c.stageCap
  if write then
    if addr = c.stageBase ch + a.wr ∧ len ≤ a.front.length ∧ data = a.front.take len ∧ a.stage + len ≤ cap ∧ a.wr + len ≤ cap then
      some ((c.modAcq ch (fun a => { a.dropFront len with stage := a.stage + len, wr := (a.wr + len) % cap })).acqNoteQ ch)
    else none
  else
    let busy := (a.reads.map (fun x => x.len)).foldl (fun m n => m + n) 0
    let out := ((a.reads.filter (fun x => x.data.isNone)).map (fun x => x.len)).foldl (fun m n => m + n) 0
    if addr = c.stageBase ch + a.rd ∧ out + len ≤ a.stage ∧ a.rd + len ≤ cap ∧ busy + len + a.ahead.length + 128 ≤ (c.ring a.spoolRing).free then
      some (c.modAcq ch (fun a => { a with rd := (a.rd + len) % cap, reads := a.reads ++ [{ addr := addr, len := len, data := none }] }))
    else none

/-- The first read at an address gets its bytes. -/
def fillRead (addr : Nat) (data : List Byte) : List StageRd → List StageRd
  | [] => []
  | x :: rest => if x.addr = addr ∧ x.data.isNone then { x with data := some data } :: rest else x :: fillRead addr data rest

/-- A read of staging returns to channel `ch`: its place in staging is free. -/
def Core.acqGot (c : Core) (ch addr : Nat) (data : List Byte) : Core :=
  (c.modAcq ch (fun a => { a with reads := fillRead addr data a.reads, stage := a.stage - data.length })).acqNoteQ ch

/-- The bytes of channel `ch` that can go to the spool: those read out of staging; in NO_HBM those in the record memory (R312). -/
def Core.acqReady (c : Core) (ch : Nat) : List Byte := if c.on Fd.CHP_BOOT_STS_NO_HBM then (c.acq ch).front else readsIn (c.acq ch).reads

/-- `n` of those bytes are taken. -/
def Core.acqTake (c : Core) (ch n : Nat) : Core :=
  if c.on Fd.CHP_BOOT_STS_NO_HBM then (c.modAcq ch (fun a => a.dropFront n)).acqNoteQ ch else c.modAcq ch (fun a => { a with reads := dropReads n a.reads })

/-- Where byte `i` of the data of plates `l`, one after another from offset `o`, and of the plate after them stands in the spool. -/
def plateByte : List PlateOut → Nat → Nat → Nat
  | [], o, i => o + 128 + i
  | p :: rest, o, i => if i < p.bytes then o + 128 + i else plateByte rest (o + 128 + p.bytes) (i - p.bytes)

/-- The spool offset that the next byte channel `ch` reads out of staging goes to (R223, R317). -/
def Core.acqOff (c : Core) (ch : Nat) : Nat :=
  let a := c.acq ch
  let r := c.ring a.spoolRing
  let busy := (a.reads.map (fun x => x.len)).foldl (fun m n => m + n) 0
  let o := if a.sent = 0 then r.p else (a.outs.map (fun o => o.off)).headD 0
  plateByte a.outs o ((if a.sent = 0 then a.ahead.length else a.sent - 128) + busy) % max 1 r.s

/-- Is a plate of another channel half written in spool `n`, or a shot record on its way into it? The result DMA counts as channel 32, the time port as 33. -/
def Core.spoolHeld (c : Core) (n ch : Nat) : Bool :=
  (ch != 32 && c.get Fd.CHP_RESULT_CFG_SPOOL == n && c.hbmc.works.any (fun w => w.who == 168)) || (upFrom 0 32).any (fun o => o != ch && (c.acq o).spoolRing == n && (decide (0 < (c.acq o).sent) || !(c.acq o).ahead.isEmpty))

/-! ### The commands -/

/-- ARM (R217, R229, R230): `ACQ_CH_CTL.ARM` written with 1. A failed check sets CFG_ERR. -/
def execArm (ch : Nat) (s : State) : Host.Outcome State Fault Refusal :=
  s.onCore (fun _ c =>
    if !c.svc || decide (32 ≤ ch) || !c.rOk (ch / 4) then c
    else
      let img := c.acqRegs (ch / 4) (ch % 4)
      if c.armCheck ch img = .ok then c.armAt ch c.now img else c.put (Fd.ACQ_CH_STS_CFG_ERR (ch / 4) (ch % 4)) 1)

/-- DISARM (R221). -/
def execDisarm (ch : Nat) (s : State) : Host.Outcome State Fault Refusal :=
  s.onCore (fun _ c => if !c.svc || decide (32 ≤ ch) || c.acqState ch == 0 then c else c.acqStop ch 0)

/-- SOFT_TRIG (R214): a software trigger stamped with this tick. -/
def execSoftTrig (ch : Nat) (s : State) : Host.Outcome State Fault Refusal :=
  s.onCore (fun _ c => if !c.svc || decide (32 ≤ ch) then c else c.detect ch { tick := c.now, sub := 0, spt := 1, src := 0xE })

/-- RATE_RESET (R225): K returns to DECIM at the next Y. -/
def execRateReset (ch : Nat) (s : State) : Host.Outcome State Fault Refusal :=
  s.onCore (fun _ c => if !c.svc || decide (32 ≤ ch) then c else c.modAcq ch (fun a => { a with kReset := true }))

/-- ACQ_TRIGGER (R216): the earliest trigger detected and not yet judged is judged. -/
def execAcqTrigger (ch : Nat) (s : State) : Host.Outcome State Fault Refusal := s.onCore (fun _ c => c.acqJudge ch)

/-- AUTO_TIMEOUT (R219): no trigger accepted by Y + TIMEOUT in AUTO mode; a forced trigger fires with that tick as its stamp. -/
def execAutoTimeout (ch : Nat) (s : State) : Host.Outcome State Fault Refusal :=
  s.onCore (fun _ c =>
    let a := c.acq ch
    if c.acqState ch = 1 ∧ a.mode = 2 ∧ !a.forced ∧ a.y + a.f 5 0 24 ≤ c.now then
      (c.modAcq ch (fun a => { a with forced := true })).detect ch { tick := a.y + a.f 5 0 24, sub := 0, spt := 1, src := 0xF }
    else c)

/-- PLATE_CLOSE (R218, R219, R222, R226-R228): the window of the open plate is complete, or clamped at capacity. -/
def execPlateClose (ch : Nat) (s : State) : Host.Outcome State Fault Refusal :=
  s.onCore (fun _ c =>
    match (c.acq ch).plate with
    | some p => if p.shut && !p.full && c.acqState ch == 2 then c.plateEnd ch false else c
    | none => c)

/-- ACQ_READY (R218): the next ready tick Y = max (S_1 + 16, Q); the channel is ARMED and its pre-trigger memory starts empty. -/
def execAcqReady (ch : Nat) (s : State) : Host.Outcome State Fault Refusal :=
  s.onCore (fun _ c =>
    let a := c.acq ch
    match a.qAt with
    | some q => if c.acqState ch = 3 ∧ max (a.s1 + 16) q ≤ c.now then c.acqAtY ch (max (a.s1 + 16) q) else c
    | none => c)

/-- RATE_CHECK (R225): at a multiple of 4,096 ticks a channel whose memories fill steps K up, once a tick. -/
def execRateCheck (ch : Nat) (s : State) : Host.Outcome State Fault Refusal :=
  s.onCore (fun _ c =>
    let a := c.acq ch
    let st := c.acqState ch
    let high := decide (3 * 2 ^ 18 ≤ c.acqHeld ch)
      || (!c.on Fd.CHP_BOOT_STS_NO_HBM && decide (a.stageHigh * c.stageCap ≤ 16 * a.stage))
    if c.now % 4096 = 0 ∧ a.chkAt ≠ some c.now ∧ (st = 1 ∨ st = 2) ∧ high ∧ a.kNow < a.kmax then
      let c := c.modAcq ch (fun a => { a with chkAt := some c.now, kHist := (c.now, a.kNow + 1) :: a.kHist })
      let c := (c.acqShowK ch).put (Fd.ACQ_CH_STS_RATE_REDUCED (ch / 4) (ch % 4)) 1
      c.raise 0x0041 5 ch (a.kNow + 1) a.plateNo
    else c)

/-- LOSS (R225): the record memory was full when a stored sample had to be written; the plate ends with its last stored sample. -/
def execLoss (ch : Nat) (s : State) : Host.Outcome State Fault Refusal :=
  s.onCore (fun _ c =>
    let a := c.acq ch
    match a.plate with
    | some p =>
      if p.full && c.acqState ch == 2 then
        let c := c.raise 0x0042 5 ch a.plateNo (c.nextPlateOff ch a.ring)
        let c := c.inc (Fd.ACQ_CH_CNT2_LOSS_PLATES (ch / 4) (ch % 4)) 1
        c.plateEnd ch true
      else c
    | none => c)

/-- PLATE_SPOOLED (R222, R223, R226, R278, R299): the spool DMA moves what it has of the channel's oldest plate into released spool space, a closed plate's header first; EV_PLATE after
the plate's last byte. A plate with SPOOL = 0 begins once the spool has room for all of it. With SPOOL = 1 the bytes of an open plate go ahead into the spool; P moves past them once
the header stands before them. (log 148 DESIGN CHOICE) -/
def execPlateSpooled (ch : Nat) (s : State) : Host.Outcome State Fault Refusal :=
  s.onCore (fun _ c =>
    let a := c.acq ch
    let n := a.spoolRing
    let x := c.ring n
    let got := c.acqReady ch
    if !c.devSpool n || x.stopped || c.spoolHeld n ch then c
    else match a.outs with
    | o :: _ =>
      if a.sent = 0 && decide (x.free < 128 + (if o.parts then a.ahead.length else o.bytes)) then c
      else
        let off := if a.sent = 0 then x.p else o.off
        let c := if a.sent = 0 then (c.spoolWrite n (o.hdr.take 40 ++ toLE 8 off ++ o.hdr.drop 48)).spoolPass n a.ahead else c
        let sent := if a.sent = 0 then 128 + a.ahead.length else a.sent
        let k := min (min got.length (c.ring n).free) (128 + o.bytes - sent)
        let c := (c.spoolWrite n (got.take k)).acqTake ch k
        let whole := sent + k == 128 + o.bytes && o.last.isNone
        let c := c.modAcq ch (fun a => { a with ahead := [], sent := if whole then 0 else sent + k, outs := if whole then a.outs.drop 1 else modFirst (fun _ => true) (fun o => { o with off := off }) a.outs })
        c.raiseIf (whole && o.ev) 0x0040 5 ch o.no off
    | [] =>
      match a.plate with
      | some p =>
        let k := min got.length (x.free - 128 - a.ahead.length)
        if !a.spool || !p.filled || !a.tails.isEmpty || x.sNew.isSome || k = 0 then c
        else
          let c := (c.spoolAhead n (128 + a.ahead.length) (got.take k)).acqTake ch k
          c.modAcq ch (fun a => { a with ahead := a.ahead ++ got.take k })
      | none => c)

end Sys2Proof.Machine
end

