-- ==== Sys2Proof/Machine/Almanac.lean ====
section
/-!
DEFINITION. The almanac (R391, R405-R408): where its entries lie, reading and writing them, the values in force, accepted and refused results; and what shows that a calibration is
in progress.
-/
namespace Sys2Proof.Machine

/-- Entry of a sensor. -/
def almTherm (s : Nat) : Nat := 2 + s
/-- Entry of a region's lead loop. -/
def almLead (r : Nat) : Nat := 80 + r
/-- Entry of a pseudo-channel. -/
def almHbm (p : Nat) : Nat := 96 + p
/-- Entry of a Sorzil lane. -/
def almSzl (p l : Nat) : Nat := 112 + 6 * p + l
/-- Entry of a collimation channel. -/
def almColl (r k : Nat) : Nat := 256 + 52 * r + k
/-- Entry of a slice of an ADC macro. -/
def almMis (a k : Nat) : Nat := 1024 + 16 * a + k
/-- Entry of an ADC macro. -/
def almAdc (a : Nat) : Nat := 1536 + a
/-- Entry of an RF DAC. -/
def almDac (d : Nat) : Nat := 1568 + d
/-- Entry of a baseband DAC. -/
def almBb (n : Nat) : Nat := 1632 + n
/-- Entry of a measure-table entry of a cell. (log 32 DEDUCED) -/
def almThresh (g x : Nat) : Nat := 2048 + 8 * g + x

/-- STATE of an almanac entry (R405). -/
inductive AlmState where
  | empty | factory | measured | manual
  deriving DecidableEq, Repr

/-- The code of a state. -/
def AlmState.code : AlmState → Nat
  | .empty => 0 | .factory => 1 | .measured => 2 | .manual => 3

/-- The word at byte 4 of entry `e`: STATE, FAILED, FAIL_CNT. -/
def almSts (m : Mems) (e : Nat) : Nat := rdN almByte m.alm (32 * e + 4) 4
/-- Entry `e` is MANUAL. -/
def almManual (m : Mems) (e : Nat) : Bool := bitsOf (almSts m e) 0 2 == 3
/-- VALUE word `k` of entry `e`. -/
def almV (m : Mems) (e k : Nat) : Nat := rdN almByte m.alm (32 * e + 16 + 4 * k) 4
/-- The four VALUE words of entry `e`. -/
def almVal (m : Mems) (e : Nat) : AlmVal :=
  { v0 := BitVec.ofNat 32 (almV m e 0), v1 := BitVec.ofNat 32 (almV m e 1), v2 := BitVec.ofNat 32 (almV m e 2), v3 := BitVec.ofNat 32 (almV m e 3) }

/-- The 32 bytes of an entry. -/
def almBytes (h : AlmHead) (sts stamp : Nat) (v : AlmVal) : List Byte :=
  toLE 4 h.word ++ toLE 4 sts ++ toLE 8 stamp
    ++ toLE 4 v.v0.toNat ++ toLE 4 v.v1.toNat ++ toLE 4 v.v2.toNat ++ toLE 4 v.v3.toNat

/-- Entry `e` written with a state word and values; STAMP is the tick of the last change of value. (log 103 DEDUCED) -/
def almPut (m : Mems) (now e sts : Nat) (v : AlmVal) : Mems :=
  match almHead e with
  | none => m
  | some h =>
    let stamp := if v = almVal m e then rdN almByte m.alm (32 * e + 8) 8 else now
    { m with alm := wrBytes almByte m.alm (32 * e) (almBytes h sts stamp v) }

/-- The almanac has changed since the last backup (R409). (log 103 DEDUCED) -/
def Core.almTouched (c : Core) : Core := { c with cal := { c.cal with dirty := true } }

/-- Does the unit of entry `e` exist on this part: entries of absent regions stay EMPTY (R407). -/
def Core.almExists (c : Core) (e : Nat) : Bool :=
  match almHead e with
  | none => false
  | some h =>
    let r := if h.kind = .coll then (e - 256) / 52
      else match h.level with
        | 1 => h.index
        | 3 => h.index / 288
        | 4 => h.index / 8
        | 5 => h.index / 4
        | 6 => h.index / 32
        | _ => 0
    if h.kind = .therm then c.sensorOk h.index else c.exists_ r

/-- The kinds whose values in force are held apart from the entry: a MANUAL value takes effect later, or acts in an analog unit only (R408). -/
def AlmKind.forced (k : AlmKind) : Bool := k == .hbm || k == .adcFull || k == .dacFull || k == .bbFull

/-- The values `v` of entry `e` take effect, where those in force are held. -/
def Core.forceVal (c : Core) (e : Nat) (v : AlmVal) : Core :=
  match almHead e with
  | some h => if h.kind.forced then { c with cal := { c.cal with force := Tbl.insert c.cal.force e v, waits := Tbl.erase c.cal.waits e } } else c
  | none => c

/-- The values in force of entry `e`; its stored ones where none have taken effect. -/
def Core.forced (c : Core) (m : Mems) (e : Nat) : AlmVal := Tbl.get (fun _ => almVal m e) c.cal.force e

/-- The MANUAL values of entries for which `p` holds have waited for this moment (R408). -/
def Core.forceWaits (c : Core) (p : Nat → Bool) : Core := (c.cal.waits.filter (fun e => p e.1)).foldl (fun c e => c.forceVal e.1 e.2) c

/-- A drain gap of region `r` begins: MANUAL values of its RF and baseband DACs take effect (R408). -/
def Core.gapVals (c : Core) (r : Nat) : Core :=
  c.forceWaits (fun e => (decide (1568 ≤ e) && decide (e < 1632) && (e - 1568) / 8 == r) || (decide (1632 ≤ e) && decide (e < 1888) && (e - 1632) / 32 == r))

/-- Does every delay of the HBM value `v` lie within `n` taps of `old` (R321)? -/
def delaysNear (n : Nat) (v old : Nat) : Bool :=
  (upFrom 0 3).all (fun k => decide (bitsOf v (8 * k) 8 ≤ bitsOf old (8 * k) 8 + n) && decide (bitsOf old (8 * k) 8 ≤ bitsOf v (8 * k) 8 + n))

/-! ### Calibrations in progress (R178, R234, R401, R413) -/

/-- A slice with its sums and counts cleared. (log 95 DEDUCED) -/
def Slice.clear (s : Slice) : Slice := { s with n := 0, s1 := 0, s2 := 0, sx := 0 }

/-- The slices of macro `a` without their sums (R400, R401, R411). -/
def Core.clearSums (c : Core) (a : Nat) : Core :=
  c.modAdc a (fun z => { z with slices := z.slices.map (fun (e : Nat × Slice) => (e.1, e.2.clear)) })

/-- CAL of macro `k` = 4 r + j begins or ends at this tick (R178, R394); at its end the sums are cleared (R401). -/
def Core.setCal (c : Core) (k : Nat) (v : Bool) : Core :=
  let c := (c.put (Fd.RGN_ADC_STS_CAL (k / 4) (k % 4)) (b2n v)).modAdc k (fun a => { a with calLog := ((c.now, v) :: a.calLog).take 8 })
  if v then c else c.clearSums k

/-- `CAL_STS.BUSY` follows the calibrations in progress (R413): a CALIBRATE, the monitor's own, a retraining of HBM. -/
def Core.calBusy (c : Core) : Core := c.setOn Fd.CAL_STS_BUSY (!c.cal.jobs.isEmpty || c.on Fd.MON_STS_CAL || c.on Fd.HBM_STS_GATHERING)

/-- A calibration of the monitor starts (R234): every result holds and is STALE, and the sequence pauses. -/
def Core.monCalStart (c : Core) : Core := ((upFrom 0 32).foldl (fun c e => c.put (Fd.MON_RES_STALE e) 1) (c.put Fd.MON_STS_CAL 1)).calBusy

/-- The end of a calibration of the monitor: CAL is 0 and no result is STALE (R234). (log 100 DEDUCED) -/
def Core.monCalDone (c : Core) : Core := ((upFrom 0 32).foldl (fun c e => c.put (Fd.MON_RES_STALE e) 0) (c.put Fd.MON_STS_CAL 0)).calBusy

/-- Every calibration stops with nothing applied (R404): its CALIBRATE is gone, no macro and no monitor is in calibration. -/
def Core.calStop (c : Core) : Core :=
  let es := (c.cal.jobs.filter (fun j => j.kind == 0x12)).flatMap (fun j => j.units)
  let c := es.foldl (fun c e => c.setCal (e - 1536) false) { c with cal := { c.cal with jobs := [] } }
  (if c.on Fd.MON_STS_CAL then c.monCalDone else c).calBusy

/-! ### Results (R407) -/

/-- An accepted result (R407): the values are written and STATE becomes MEASURED, unless it is MANUAL; FAILED is cleared. (log 93 DEDUCED) -/
def almAccept (m : Mems) (c : Core) (e : Nat) (v : AlmVal) : Mems × Core :=
  if !c.almExists e then (m, c)
  else
    let old := almSts m e
    let st := if bitsOf old 0 2 = 3 then 3 else AlmState.measured.code
    (almPut m c.now e (st + bitsOf old 16 16 * 2 ^ 16) (if st = 3 then almVal m e else v), if st = 3 then c.almTouched else c.almTouched.forceVal e v)

/-- A refused result (R407): FAILED is set, FAIL_CNT counts, no value changes; EV_CAL_FAIL when FAILED changes from 0 to 1, but for HBM and SZL entries. -/
def almRefuse (m : Mems) (c : Core) (e : Nat) : Mems × Core :=
  match almHead e with
  | none => (m, c)
  | some h =>
    if !c.almExists e then (m, c)
    else
      let old := almSts m e
      let m := almPut m c.now e (bitsOf old 0 2 + 4 + satAdd 0xFFFF (bitsOf old 16 16) 1 * 2 ^ 16) (almVal m e)
      let c := c.almTouched.put Fd.CAL_STS_FAILED 1
      let ev := !bitAt old 2 && h.kind != AlmKind.hbm && h.kind != AlmKind.szl
      (m, c.raiseIf ev 0xA0 h.level h.index e h.kind.code)

/-- A result of entry `e`: accepted or refused. (log 102 DESIGN CHOICE) -/
def almResult (m : Mems) (c : Core) (e : Nat) (ok : Bool) (v : AlmVal) : Mems × Core := if ok then almAccept m c e v else almRefuse m c e

/-- A value of two words. (log 102 DESIGN CHOICE) -/
def almTwo (a b : Nat) : AlmVal := { v0 := BitVec.ofNat 32 a, v1 := BitVec.ofNat 32 b, v2 := 0, v3 := 0 }

/-- The entry with a head, if there is one (R411). -/
def almFind (kind level index sub : Nat) : Option Nat :=
  let cand : List Nat :=
    if kind = 1 then [0] else if kind = 2 then [1] else if kind = 3 then [almTherm index] else if kind = 4 then [almLead index]
    else if kind = 5 then [almHbm index] else if kind = 6 then [almSzl index sub]
    else if kind = 0x10 then
      (if level = 4 then [almColl (index / 8) (index % 8)] else if level = 5 then [almColl (index / 4) (8 + index % 4)]
       else if level = 6 then [almColl (index / 32) (12 + index % 32)] else [almColl (index / 8) (44 + index % 8)])
    else if kind = 0x11 then [almMis index sub] else if kind = 0x12 then [almAdc index] else if kind = 0x13 then [almDac index]
    else if kind = 0x14 then [almBb index] else if kind = 0x20 then [almThresh index sub] else []
  cand.find? (fun e => match almHead e with
    | some h => h.kind.code == kind && h.level == level && h.index == index && h.sub == sub
    | none => false)

end Sys2Proof.Machine
end

