-- ==== Sys2Proof/Machine/Syndrome.lean ====
section
/-!
DEFINITION. The syndrome engine (R194-R205): its configuration memory, rounds, checks, imports, lookups, toggles and records.
-/
namespace Sys2Proof.Machine

/-! ### The syndrome configuration memory (R194) -/

/-- `n` bytes at offset `o` of the active syndrome memory of region `r`. -/
def synRd (m : Mems) (r o n : Nat) : Nat := rdN zeroByte m.syA (r * 327680 + o) n
/-- Input map entry `u`. -/
def synIn (m : Mems) (r u : Nat) : Nat := synRd m r (4 * u) 4
/-- The inputs in use. -/
def synUsed (m : Mems) (r : Nat) : List Nat := (upFrom 0 128).filter (fun u => bitsOf (synIn m r u) 12 2 != 0)
/-- The input bit that BITSEL forms from a class. -/
def inputBit (sel cls : Nat) : Bool := if sel = 1 then cls == 1 else if sel = 2 then cls != 0 else if sel = 3 then cls == 2 else false
/-- The control word of check `k`. -/
def chkWord (m : Mems) (r k : Nat) : Nat := synRd m r (0x200 + 16 * k + 8) 4
/-- The used input indices of check `k`. -/
def chkIdx (m : Mems) (r k : Nat) : List Nat :=
  ((upFrom 0 8).map (fun i => synRd m r (0x200 + 16 * k + i) 1)).filterMap (fun b => if bitAt b 7 then some (b % 128) else none)
/-- Import map entry `x`. -/
def impEntry (m : Mems) (r x : Nat) : Nat := synRd m r (0x600 + 2 * x) 2
/-- The import entries in use with their port, sending region and bit. -/
def impUsed (m : Mems) (r : Nat) : List (Nat × Nat × Nat × Nat) :=
  (upFrom 0 32).filterMap (fun x => let e := impEntry m r x
                                    if bitAt e 15 then some (x, bitsOf e 0 2, bitsOf e 2 3, bitsOf e 5 5) else none)
/-- WIDTH of group `x`. -/
def grpWidth (m : Mems) (r x : Nat) : Nat := synRd m r (0x700 + 32 * x + 18) 1 % 32
/-- BASE of group `x`. -/
def grpBase (m : Mems) (r x : Nat) : Nat := synRd m r (0x700 + 32 * x + 16) 2
/-- The positions of group `x`. -/
def grpPos (m : Mems) (r x : Nat) : List Nat := (upFrom 0 (grpWidth m r x)).map (fun i => synRd m r (0x700 + 32 * x + i) 1 % 128)
/-- The groups in use, ascending. -/
def grpUsed (m : Mems) (r : Nat) : List Nat := (upFrom 0 8).filter (fun x => grpWidth m r x != 0)
/-- Target `t` of group `x`: cell and whether the bit is Z. -/
def target (m : Mems) (r x t : Nat) : Option (Nat × Bool) :=
  let e := synRd m r (0x800 + 32 * x + 2 * t) 2
  if bitAt e 15 then some (bitsOf e 0 12, bitAt e 12) else none
/-- Entry `i` of the lookup table (R200). -/
def lutEntry (m : Mems) (r i : Nat) : Nat := synRd m r (0x10000 + 4 * i) 4

/-! ### Rounds -/

/-- The syndrome engine of region `r` changed. -/
def Core.modSynd (c : Core) (r : Nat) (f : Synd → Synd) : Core := c.modRgn r (fun x => { x with synd := f x.synd })

/-- Shows BUSY: a round is open or in lookup (R206). -/
def Core.synBusy (c : Core) (r : Nat) : Core :=
  c.setOn (Fd.RGN_SYND_STS_BUSY r) ((c.rgn r).synd.rounds.any (fun d => !d.fin))

/-- A round just opened. -/
def Round.open (no p dl : Nat) : Round :=
  { no := no, p := p, dl := dl, pNext := none, inputs := [], missing := [], close := none, cut := false, deadl := false, formed := false, bits := 0, d := 0,
    era := 0, got := [], imp := 0, impEra := 0, impAt := p, expired := false, start := none, stalled := false, idx := 0, applied := 0, esc := 0,
    prev := false, togg := [], fin := false, dead := false }

/-- The tick at which a decision is an input of the syndrome engine of region `r` (R183). -/
def BusItem.atRgn (i : BusItem) (r : Nat) : Nat := i.base + (if i.rgn = r then 3 else 4)

/-- The first decision of the source of input `u` in the span of a round (R196). -/
def Core.roundItem (c : Core) (m : Mems) (r : Nat) (d : Round) (u : Nat) : Option BusItem :=
  let g := bitsOf (synIn m r u) 0 12
  c.bus.find? (fun i => i.kind == BusKind.dec && i.src == g && decide (d.p ≤ i.latch)
    && (match d.pNext with
        | none => true
        | some n => decide (i.latch < n)))

/-- The tick at which the last used input of a round arrives; none while one is missing. P when no input is used (R196). -/
def Core.roundFull (c : Core) (m : Mems) (r : Nat) (d : Round) : Option Nat :=
  (synUsed m r).foldl (fun a u =>
    match a, c.roundItem m r d u with
    | some t, some i => some (max t (i.atRgn r))
    | _, _ => none) (some d.p)

/-- The close tick of an open round, as far as it is known (R196). -/
def Core.roundClose (c : Core) (m : Mems) (r : Nat) (d : Round) : Nat :=
  let t := d.p + d.dl
  let t := match d.pNext with
    | some n => min t n
    | none => t
  match c.roundFull m r d with
  | some f => min t f
  | none => t

/-- A round of region `r` closes at tick `t` (R196): inputs taken, ROUNDS counted; decisions on their way for MISSING inputs are late. -/
def Core.closeRound (c : Core) (m : Mems) (r : Nat) (d : Round) (t : Nat) (cut : Bool) : Core × Round :=
  let used := synUsed m r
  let took := used.filterMap (fun u =>
    match c.roundItem m r d u with
    | some i => if i.atRgn r ≤ t then some (u, i.cls, i.inv) else none
    | none => none)
  let miss := used.filter (fun u => !(took.any (fun e => e.1 == u)))
  let cut := cut || d.pNext == some t
  let dead := decide (d.p + d.dl ≤ t)
  let flying := (miss.filterMap (fun u => c.roundItem m r d u)).eraseDups
  let c := (c.inc (Fd.RGN_SYND_CNT0_ROUNDS r) 1).stick (Fd.RGN_SYND_STS_CUT r) cut
  let c := if cut || dead then c.inc (Fd.RGN_SYND_CNT2_LATE_IN r) flying.length else c
  (c, { d with inputs := took, missing := miss, close := some t, cut := cut, deadl := dead })

/-- A decision of cell `g` latched at `l` is posted: every region counts it that has a closed round for which it is late (R196). -/
def Core.synLate (c : Core) (m : Mems) (g l : Nat) : Core :=
  c.regions.foldl (fun c r =>
    if !c.parked r && (c.rgn r).synd.rounds.any (fun d => d.close.isSome && (d.cut || d.deadl) && decide (d.p ≤ l)
        && (match d.pNext with
            | none => true
            | some n => decide (l < n))
        && d.missing.any (fun u => bitsOf (synIn m r u) 0 12 == g))
    then c.inc (Fd.RGN_SYND_CNT2_LATE_IN r) 1 else c) c

/-- The exclusive or of input bits of check `k`, and whether an input it names is erased (R197). -/
def checkBits (m : Mems) (r : Nat) (d : Round) (k : Nat) : Bool × Bool :=
  let vals := (chkIdx m r k).map (fun u =>
    match d.inputs.find? (fun e => e.1 == u) with
    | some (_, cls, inv) => if inv then (false, true) else (inputBit (bitsOf (synIn m r u) 12 2) cls, false)
    | none => (false, true))
  (xorAll (vals.map (fun v => v.1)), vals.any (fun v => v.2))

/-- A number from `n` flags by position. -/
def flagsOf (n : Nat) (f : Nat → Bool) : Nat := (upFrom 0 n).foldl (fun a k => if f k then a + 2 ^ k else a) 0

/-- Check bits, defects and erased flags of a round from those of the previous one (R197). -/
def formRound (m : Mems) (r : Nat) (prevB prevE : Nat) (d : Round) : Round :=
  let cb := (upFrom 0 64).map (fun k => if bitAt (chkWord m r k) 0 then checkBits m r d k else (false, false))
  let at_ := fun k => cb.getD k (false, false)
  let diff := fun k => bitAt (chkWord m r k) 1
  let en := fun k => bitAt (chkWord m r k) 0
  { d with formed := true,
           bits := flagsOf 64 (fun k => (at_ k).1),
           d := flagsOf 64 (fun k => en k && Bool.xor (at_ k).1 (diff k && bitAt prevB k)),
           era := flagsOf 64 (fun k => en k && ((at_ k).2 || (diff k && bitAt prevE k))) }

/-- DEF and ERA of the defect flit of a round (R198). -/
def exportBits (m : Mems) (r : Nat) (v : Nat) : Nat :=
  (upFrom 0 64).foldl (fun a k =>
    let w := chkWord m r k
    if bitAt w 0 && bitAt w 2 && bitAt v k then Nat.lor a (2 ^ bitsOf w 3 5) else a) 0

/-- The import flits (port, region) a round of region `r` uses. -/
def impNeeds (m : Mems) (r : Nat) : List (Nat × Nat) := ((impUsed m r).map (fun e => (e.2.1, e.2.2.1))).eraseDups

/-- Are all import flits a round uses there, or the missing ones erased? -/
def impDone (m : Mems) (r : Nat) (d : Round) : Bool := d.expired || (impNeeds m r).all (fun k => d.got.contains k)

/-- The tick at which imports still absent are erased (R199, R204). -/
def Core.impLimit (c : Core) (r : Nat) (d : Round) : Nat :=
  match (c.rgn r).shot.d0 with
  | some z => min (d.p + d.dl) (z + 4)
  | none => d.p + d.dl

/-- The start D of the lookup of a round whose imports are there (R200, R203, R204), and whether it waits for the unit. -/
def Core.lookupStart (c : Core) (r : Nat) (d : Round) : Nat × Bool :=
  match d.start with
  | some x => (x, d.stalled)
  | none =>
    let own := max (d.close.getD 0 + 4) d.impAt
    let free := (c.rgn r).synd.freeAt
    let own := match (c.rgn r).shot.d0 with
      | some z => if z < max own free then z + 4 else own
      | none => own
    (max own free, decide (own < free))

/-- A defect bit of a position 0-95, and whether it is erased. -/
def Round.pos (d : Round) (p : Nat) : Bool × Bool :=
  if p < 64 then (bitAt d.d p, bitAt d.era p) else (bitAt d.imp (p - 64), bitAt d.impEra (p - 64))

/-- Has group `x` an erased position in its address? -/
def grpErased (m : Mems) (r : Nat) (d : Round) (x : Nat) : Bool := (grpPos m r x).any (fun p => (d.pos p).2)

/-- The address of group `x` (R200). -/
def grpAddr (m : Mems) (r : Nat) (d : Round) (x : Nat) : Nat :=
  grpBase m r x + ((grpPos m r x).zipIdx.foldl (fun a e => if (d.pos e.1).1 then a + 2 ^ e.2 else a) 0)

/-- The toggles of `a` and `b` exclusively or'ed (R202). -/
def xorTogg (a b : List (Nat × Bool)) : List (Nat × Bool) :=
  b.foldl (fun a t => if a.contains t then a.erase t else a ++ [t]) a

/-- One group of a round handled (R200, R201). An entry with VALID = 0 counts LUT_MISS alone, whatever its ESC; a group that an erasure keeps from being applied reads no entry, and
counts as a correction prevented whatever that entry holds. (log 164 DESIGN CHOICE) -/
def lookupGroup (m : Mems) (r mode : Nat) (d : Round) (x : Nat) (c : Core) : Core × Round :=
  let skipAll := mode = 2 ∧ (grpUsed m r).any (grpErased m r d)
  if skipAll ∨ (mode = 1 ∧ grpErased m r d x) then (c, { d with prev := true })
  else
    let e := lutEntry m r (grpAddr m r d x)
    if !bitAt e 31 then (c.inc (Fd.RGN_SYND_CNT1_LUT_MISS r) 1, d)
    else if bitAt e 30 then
      ((c.inc (Fd.RGN_SYND_CNT0_ESC r) 1).put (Fd.RGN_SYND_STS_ESC r) 1, { d with esc := d.esc + 2 ^ x })
    else
      let ts := (upFrom 0 16).filterMap (fun t => if bitAt e t then target m r x t else none)
      (c, { d with applied := d.applied + 2 ^ x, togg := xorTogg d.togg ts })

/-- The round record of R205; CLOSE counts from the first stamp `ts`. -/
def roundRec (ts : Nat) (d : Round) : List Byte :=
  toLE 8 d.d ++ toLE 4 d.imp ++ toLE 8 d.era ++ toLE 4 d.impEra
    ++ toLE 4 (d.no + d.applied * 2 ^ 8 + d.esc * 2 ^ 16 + b2n d.cut * 2 ^ 24 + b2n d.deadl * 2 ^ 25 + b2n d.stalled * 2 ^ 26)
    ++ toLE 4 (min 0x3FFFF (d.close.getD 0 - ts))

/-- Open rounds close now with CUT because the shot of their region ends (R204) or the region parks (R448). SROUNDs held for a later stamp stay held (R195). -/
def Core.cutRound (c : Core) (m : Mems) (r : Nat) : Core :=
  let sy := (c.rgn r).synd
  let x := sy.rounds.foldl (fun (x : Core × List Round) d =>
    if d.close.isSome then (x.1, x.2 ++ [d])
    else
      let k := x.1.roundClose m r d
      let y := if k ≤ c.now then x.1.closeRound m r d k (decide (k = c.now)) else x.1.closeRound m r d c.now true
      (y.1, x.2 ++ [y.2])) (c, [])
  (x.1.modSynd r (fun s => { s with rounds := x.2 })).synBusy r

/-- The region parks (R448): the open round is cut; from now no round sends a toggle, and rounds not finished show APPLIED 0. -/
def Core.synPark (c : Core) (m : Mems) (r : Nat) : Core :=
  let c := c.cutRound m r
  (c.modSynd r (fun s => { s with opens := [], rounds := s.rounds.map (fun d => if d.fin then d else { d with dead := true, fin := true, applied := 0, togg := [] }) })).synBusy r

/-- An express flit takes a credit of book 0x7 and enters the queue of virtual lane `v` of port `p` at this tick (R356, R358). -/
def Core.queueFlit (c : Core) (p v load : Nat) : Core :=
  (c.bookIssue (bookKey 7 0 (2 * p + v))).modPort p (fun x => { x with txq := x.txq ++ [{ v := v, seq := 0, tick := c.now, load := load }] })

/-- An express flit of virtual lane `v` (0 DEC, 1 DEF) is handed to Sorzil port `p` (R356, R358): it enters the queue under book 0x7, and waits for a credit where there is none
(R52); at a port that is not UP it is discarded at the queue (R367). With the spine stopped there is none (R370). (log 153 DEDUCED) -/
def Core.sendExpress (c : Core) (p v load : Nat) : Core :=
  let k := bookKey 7 0 (2 * p + v)
  if c.on Fd.CHP_FAULT_STS_FAULT then c
  else if c.get (Fd.SZL_PORT_STS_STATE p) = 2 then
    if c.credit k && !(c.port p).want.any (fun w => w.1 == v) then c.queueFlit p v load
    else c.modPort p (fun x => { x with want := x.want ++ [(v, load)] })
  else (if c.credit k then (c.bookIssue k).bookReturn k else c).inc (Fd.SZL_PORT_CNT1_SEND_DROP p) 1

/-- A credit of virtual lane `v` of port `p` returns (R356); the oldest flit that waits for one enters the queue at this tick (R52). (log 153 DEDUCED) -/
def Core.flitCredit (c : Core) (p v : Nat) : Core :=
  let c := c.bookReturn (bookKey 7 0 (2 * p + v))
  match (c.port p).want.find? (fun w => w.1 == v) with
  | none => c
  | some w => (c.modPort p (fun x => { x with want := x.want.erase w })).queueFlit p v w.2

/-! ### The commands -/

/-- A round opens: a flit held for a round not yet opened waits for 256 rounds at most (R199). -/
def ageFlits (l : List DefFlit) : List DefFlit := (l.map (fun f => { f with age := f.age + 1 })).filter (fun f => decide (f.age ≤ 256))

/-- ROUND_OPEN (R195, R196, R204): an SROUND whose stamp P has come opens a round, or is ignored with EN = 0. A round that opens in the drain closes at once with CUT. (log 141 DESIGN CHOICE) -/
def execRoundOpen (r : Nat) (s : State) : Host.Outcome State Fault Refusal :=
  s.onCore (fun m c =>
    let sy := (c.rgn r).synd
    match sy.opens with
    | [] => c
    | (p, dl, n) :: rest =>
      if c.now < p || c.parked r then c
      else
        let c := c.modSynd r (fun s => { s with opens := rest })
        if !c.on (Fd.RGN_SYND_CTL_EN r) then c.inc (Fd.RGN_SYND_CNT2_IGNORED r) n
        else
          let same := match sy.rounds.getLast? with
            | some d => d.p == p
            | none => false
          if same then
            c.modSynd r (fun s => { s with rounds := s.rounds.map (fun d => if d.p = p ∧ d.close = none then { d with dl := max d.dl dl } else d) })
          else
            let c := c.modSynd r (fun s =>
              { s with rounds := s.rounds.map (fun d => if d.pNext = none then { d with pNext := some p } else d) ++ [Round.open sy.nextNo p dl],
                       nextNo := (sy.nextNo + 1) % 256, flits := ageFlits s.flits })
            let c := (c.put (Fd.RGN_SYND_STS_ROUND r) sy.nextNo).synBusy r
            if (c.rgn r).shot.d0.isSome then c.cutRound m r else c)

/-- ROUND_CLOSE (R196): the oldest open round closes at its last input, at P + DL, or at the next round's opening. -/
def execRoundClose (r : Nat) (s : State) : Host.Outcome State Fault Refusal :=
  s.onCore (fun m c =>
    match (c.rgn r).synd.rounds.find? (fun d => d.close.isNone) with
    | none => c
    | some d =>
      let t := c.roundClose m r d
      if t ≤ c.now && !c.parked r then
        let x := c.closeRound m r d t false
        x.1.modSynd r (fun s => { s with rounds := modFirst (fun d => d.close.isNone) (fun _ => x.2) s.rounds })
      else c)

/-- DEFECT_FORM (R197, R198, R205): at C + 4 the defects of the oldest closed round are formed, and its defect flit is handed to the export port. -/
def execDefectForm (r : Nat) (s : State) : Host.Outcome State Fault Refusal :=
  s.onCore (fun m c =>
    let sy := (c.rgn r).synd
    match sy.rounds.find? (fun d => !d.formed) with
    | none => c
    | some d =>
      match d.close with
      | none => c
      | some k =>
        if c.now < k + 4 then c
        else
          let f := formRound m r sy.prevB sy.prevE d
          let c := c.modSynd r (fun s => { s with rounds := modFirst (fun d => !d.formed) (fun _ => f) s.rounds, prevB := f.bits, prevE := f.era })
          let nth := (sy.rounds.takeWhile (fun d => d.formed)).length
          let c := c.stick (Fd.RGN_SYND_STS_REC_OVF r) (decide (c.get (Fd.RGN_SYND_CFG_NREC r) ≤ nth))
          if c.on (Fd.RGN_SYND_CFG_EXP_EN r) && !f.dead then
            c.sendExpress (c.get (Fd.RGN_SYND_CFG_EXP_PORT r)) 1
              (r + f.no * 2 ^ 3 + exportBits m r f.d * 2 ^ 16 + exportBits m r f.era * 2 ^ 48)
          else c)

/-- DEFECT_IMPORT (R199): the oldest defect flit of port `p` whose tick has come enters the round of its number; too late, it is discarded. A flit for a round
that is not open yet stays held. -/
def execDefectImport (p r : Nat) (s : State) : Host.Outcome State Fault Refusal :=
  s.onCore (fun m c =>
    let sy := (c.rgn r).synd
    let fits := fun (f : DefFlit) (d : Round) => d.no == f.no && !d.got.contains (f.port, f.rgn)
    let ready := fun (f : DefFlit) => f.port == p && decide (f.tick ≤ c.now) && sy.rounds.any (fits f)
    match sy.flits.find? ready with
    | none => c
    | some f =>
      let c := c.modSynd r (fun s => { s with flits := s.flits.erase f })
      if !(impNeeds m r).contains (f.port, f.rgn) then c
      else
        match sy.rounds.find? (fits f) with
        | none => c
        | some d =>
          if d.expired || d.fin then
            (c.inc (Fd.RGN_SYND_CNT2_IMPORT_LATE r) 1).modSynd r
              (fun s => { s with rounds := modFirst (fits f) (fun d => { d with got := d.got ++ [(f.port, f.rgn)] }) s.rounds })
          else
            let mine := (impUsed m r).filter (fun e => e.2.1 == f.port && e.2.2.1 == f.rgn)
            let v := mine.foldl (fun a e => if bitAt f.dfx e.2.2.2 then Nat.lor a (2 ^ e.1) else a) d.imp
            let x := mine.foldl (fun a e => if bitAt f.era e.2.2.2 then Nat.lor a (2 ^ e.1) else a) d.impEra
            c.modSynd r (fun s => { s with rounds := modFirst (fits f) (fun d =>
              { d with got := d.got ++ [(f.port, f.rgn)], imp := v, impEra := x, impAt := max d.impAt (max f.tick d.p) }) s.rounds }))

/-- IMPORT_DEADLINE (R199, R204): imports still absent are erased and DEADLINE is set. -/
def execImportDeadline (r : Nat) (s : State) : Host.Outcome State Fault Refusal :=
  s.onCore (fun m c =>
    let due := fun (d : Round) => !d.fin && d.close.isSome && !impDone m r d && decide (c.impLimit r d ≤ c.now)
    c.modSynd r (fun s => { s with rounds := modFirst due (fun d =>
      let absent := (impUsed m r).filter (fun e => !d.got.contains (e.2.1, e.2.2.1))
      { d with expired := true, deadl := true, impAt := max d.impAt (c.impLimit r d),
               impEra := absent.foldl (fun a e => Nat.lor a (2 ^ e.1)) d.impEra }) s.rounds }))

/-- GROUP_LOOKUP (R200, R201, R203): the lookup unit handles the next group of the oldest round not finished, at D + 5 for its first, every 5 ticks. -/
def execGroupLookup (r : Nat) (s : State) : Host.Outcome State Fault Refusal :=
  s.onCore (fun m c =>
    match (c.rgn r).synd.rounds.find? (fun d => !d.fin) with
    | none => c
    | some d =>
      if d.close.isNone || !d.formed || !impDone m r d || c.parked r then c
      else
        let st := c.lookupStart r d
        match (grpUsed m r)[d.idx]? with
        | none => c
        | some x =>
          if c.now < st.1 + 5 * (d.idx + 1) then c
          else
            let c := if d.start.isNone then c.inc (Fd.RGN_SYND_CNT2_STALL r) (b2n st.2) else c
            let y := lookupGroup m r (c.get (Fd.RGN_SYND_CFG_ERASE_MODE r)) { d with start := some st.1, stalled := st.2 } x c
            y.1.modSynd r (fun s => { s with rounds := modFirst (fun d => !d.fin) (fun _ => { y.2 with idx := d.idx + 1 }) s.rounds }))

/-- TOGGLE_SEND (R200-R203): after its last group a round reports ESC and erasure and sends its toggles with write tick U. -/
def execToggleSend (r : Nat) (s : State) : Host.Outcome State Fault Refusal :=
  s.onCore (fun m c =>
    let n := (grpUsed m r).length
    match (c.rgn r).synd.rounds.find? (fun d => !d.fin) with
    | none => c
    | some d =>
      let st := c.lookupStart r d
      if d.close.isNone || !d.formed || !impDone m r d || c.parked r || d.idx != n || decide (c.now < st.1 + 5 * n) then c
      else
        let c := if d.start.isNone then c.inc (Fd.RGN_SYND_CNT2_STALL r) (b2n st.2) else c
        let c := c.raiseIf (d.esc != 0) 0x0030 1 r d.no d.esc
        let c := if d.prev then ((c.inc (Fd.RGN_SYND_CNT1_ERASED r) 1).put (Fd.RGN_SYND_STS_ERASURE r) 1).raise 0x0031 1 r d.no d.era else c
        let send := c.on (Fd.RGN_SYND_CTL_APPLY r) && !d.dead
        let c := if send then d.togg.foldl (fun c t =>
            let u := st.1 + 5 * n + (if cellR t.1 = r then 4 else 8)
            let c := c.modRgn (cellR t.1) (fun x => { x with toggles := x.toggles ++ [{ cell := t.1, z := t.2, tick := u, src := r }],
                                                              shot := { x.shot with lastTog := some (max u (x.shot.lastTog.getD 0)), framed := false } })
            c.modShot r (fun x => { x with uR := max x.uR u })) c
          else c
        (c.modSynd r (fun s =>
          { s with freeAt := st.1 + 5 * n,
                   rounds := modFirst (fun d => !d.fin) (fun d => { d with fin := true, start := some st.1, stalled := st.2 }) s.rounds })).synBusy r)

end Sys2Proof.Machine
end

