-- ==== Sys2Proof/Machine/Readout.lean ====
section
/-!
DEFINITION. The readout chain of a cell after its integrator (R167-R178, R182-R184): results, classification, slots, decisions, and the threshold loop.
-/
namespace Sys2Proof.Machine

/-- The readout chain of cell `g` changed. -/
def Core.modRo (c : Core) (g : Nat) (f : Ro → Ro) : Core := c.modCell g (fun x => { x with ro := f x.ro })

/-- D of R168: PHX_DELAY with the engine inline, else 0. -/
def Core.latchDelay (c : Core) (g : Nat) : Nat := if c.on (Fd.CEL_CFG_PHX_INLINE g) then c.get (Fd.CEL_RO_CFG_PHX_DELAY g) else 0

/-- The macro and stream a READOUT cell listens to (R162). -/
def Core.chanOf (c : Core) (g : Nat) : Nat × Nat :=
  (c.get (Fd.BLK_CHAN_ROUTE_ADC (cellR g) (cellB g) (cellC g)), c.get (Fd.BLK_CHAN_ROUTE_INPUT (cellR g) (cellB g) (cellC g)))

/-- Band samples a tick on the stream of cell `g`: 2 in INTERLEAVED mode, 1 in DUAL mode (R159). -/
def Core.bandRate (c : Core) (g : Nat) : Nat := if c.on (Fd.RGN_ADC_CFG_MODE (cellR g) (c.chanOf g).1) then 1 else 2

/-- M1: the stamp at which the window of a MEASURE ends (R168). -/
def Win.m1 (w : Win) : Nat := w.m0 + 2 * w.dur - 1

/-- The latch tick L of a MEASURE of cell `g` (R168). (log 30 DESIGN CHOICE) -/
def Core.winLatch (c : Core) (g : Nat) (w : Win) : Nat := w.m1 + 11 + c.latchDelay g

/-- R: the sum of a window narrowed by RSHIFT (R167). (log 30 DESIGN CHOICE) -/
def winResult (e : Nat) (w : Win) : Cx := cxNarrow 16 (mtRshift e) (w.accI, w.accQ)
/-- Does the narrowing saturate (RSAT)? -/
def winRsat (e : Nat) (w : Win) : Bool := cxHits 16 (mtRshift e) (w.accI, w.accQ)

/-- The raw class of a result under the working thresholds (R169). -/
def rawClass (e : Nat) (t : Thr) (r : Cx) : Nat :=
  let t01 := t.t01.toInt
  let t2 := t.t2.toInt
  let low := b2n (decide (t01 ≤ r.1))
  if mtDmode e = 1 then low
  else if mtDmode e = 2 then if (if mtSgn2 e then decide (r.2 ≤ t2) else decide (t2 ≤ r.2)) then 2 else low
  else 0

/-- The reported class (R170). -/
def reportedClass (raw : Nat) (x : Bool) : Nat := if x then (if raw = 0 then 1 else if raw = 1 then 0 else raw) else raw

/-- A result slot (R176). -/
def mkSlot (i q : Int) (cls raw : Nat) (valid late ovr rsat stale xinv : Bool) (mt latch : Nat) : BitVec 64 :=
  BitVec.ofNat 64 (twos 16 i + twos 16 q * 2 ^ 16 + cls % 4 * 2 ^ 32 + raw % 4 * 2 ^ 34 + b2n valid * 2 ^ 36 + b2n late * 2 ^ 37 + b2n ovr * 2 ^ 38
    + b2n rsat * 2 ^ 39 + b2n stale * 2 ^ 40 + b2n xinv * 2 ^ 41 + mt % 8 * 2 ^ 42 + 2 ^ 45 + min 0x3FFFF latch * 2 ^ 46)

/-- A result gathered by the threshold loop under class `k` (R172). -/
def Thr.gather (t : Thr) (k : Nat) (r : Cx) : Thr :=
  if k = 0 then { t with n0 := t.n0 + 1, i0 := t.i0 + r.1, q0 := t.q0 + r.2 }
  else if k = 1 then { t with n1 := t.n1 + 1, i1 := t.i1 + r.1, q1 := t.q1 + r.2 }
  else if k = 2 then { t with n2 := t.n2 + 1, q2 := t.q2 + r.2 }
  else t

/-- The class under which MTAG's LABEL gathers a result (R174); 4: not at all. -/
def gatherAs (label raw : Nat) : Nat := if label = 0 then raw else if label = 1 then 0 else if label = 2 then 1 else 4

/-- Working thresholds and sums of entry `x` of cell `g`. -/
def Core.thr (c : Core) (g x : Nat) : Thr := Tbl.get (fun _ => Thr.zero) (c.cell g).ro.thr x
/-- The same, replaced. -/
def Core.setThr (c : Core) (g x : Nat) (t : Thr) : Core := c.modRo g (fun o => { o with thr := Tbl.insert o.thr x t })

/-- A decision of cell `g` goes onto the decision bus at `base`, with latch tick `l` (R182-R184, R168). -/
def Core.postDecision (c : Core) (m : Mems) (g cls l base : Nat) (valid : Bool) : Core :=
  let r := cellR g
  let item : BusItem := { seq := c.busSeq, kind := BusKind.dec, src := g, sub := 0, cls := cls, inv := !valid, latch := l, base := base, rgn := r }
  let c := { c with bus := c.bus ++ [item], busSeq := c.busSeq + 1 }
  let c := if valid then c.inc (Fd.RGN_DEC_CNT_POSTED r) 1 else c.inc (Fd.RGN_DEC_CNT_INVALID r) 1
  (c.synLate m g l).acqDecision g cls l (!valid)

/-- Did the integrator of cell `g` lose a sample of window `w` (R44)? -/
def Core.winLost (c : Core) (g : Nat) (w : Win) : Bool := (c.cell g).ro.lost.any (fun t => decide (w.m0 ≤ t) && decide (t ≤ w.m1))

/-- Have all samples of window `w` of cell `g` entered its sum (R166, R167)? -/
def Core.winWhole (c : Core) (g : Nat) (w : Win) : Bool := w.n == 2 * w.dur * c.bandRate g

/-- The result R of window `w` of cell `g`, whether it saturates, and the free values it takes (R167, R168): the engine's output with the engine inline. Where an engine output has
not come by L, R is a free value; where the window is not whole, R and its saturation are. (log 30 DESIGN CHOICE) -/
def Core.winValue (c : Core) (m : Mems) (g : Nat) (w : Win) : Cx × Bool × Nat :=
  let e := mtEntry m g w.mt
  let b := c.freeCtr
  let free : Cx := (sx 16 (Config.freeNat b), sx 16 (Config.freeNat (b + 1)))
  if c.on (Fd.CEL_CFG_PHX_INLINE g) then
    match w.out with
    | some r => (r, winRsat e w, 0)
    | none => (free, if c.winWhole g w then winRsat e w else Config.freeNat (b + 2) % 2 == 1, 3)
  else if c.winWhole g w then (winResult e w, winRsat e w, 0)
  else (free, Config.freeNat (b + 2) % 2 == 1, 3)

/-- The result of a MEASURE of cell `g` is delivered (R168-R178, R184): slot, counters, threshold gathering, engine event RESULT, decision. `lateWin`: the window
was posted late; `flush`: the drain delivers it with VALID = 0 (R91, R262). A parked region posts no decision (R448). -/
def Core.deliver (c : Core) (m : Mems) (g : Nat) (w : Win) (lateWin flush : Bool) : Core :=
  let e := mtEntry m g w.mt
  let l := c.winLatch g w
  let ro := (c.cell g).ro
  let dead := w.dead || flush || c.parked (cellR g)
  let phxLate := c.on (Fd.CEL_CFG_PHX_INLINE g) && w.out.isNone
  let lost := c.winLost g w
  let y := c.winValue m g w
  let c := { c with freeCtr := c.freeCtr + y.2.2 }
  let r := y.1
  let rsat := y.2.1
  let raw := rawClass e (c.thr g w.mt) r
  let x := (c.frameNow g).1
  let late := w.late || lateWin || phxLate || lost
  let valid := !late && !dead && !w.stale
  let lat := l - (c.rgn (cellR g)).shot.ts
  let old := (Tbl.get (fun _ => (0 : BitVec 64)) ro.lastOk w.mt).toNat
  let cls := if w.stale then bitsOf old 32 2 else reportedClass raw x
  let slot := if w.stale then mkSlot (sx 16 (bitsOf old 0 16)) (sx 16 (bitsOf old 16 16)) cls (bitsOf old 34 2) false late (bitAt old 38) rsat true (bitAt old 41) w.mt lat
              else mkSlot r.1 r.2 cls raw valid late w.ovr rsat false x w.mt lat
  let nslot := c.get (Fd.CEL_RO_CFG_NSLOT g)
  let c := if ro.nslot < nslot then
      (c.modRo g (fun o => { o with slots := Tbl.insert o.slots o.nslot slot, nslot := o.nslot + 1 })).put (Fd.CEL_RO_STS_SLOTS_USED g) (ro.nslot + 1)
    else c.put (Fd.CEL_RO_STS_SLOT_OVF g) 1
  let c := if valid then c.modRo g (fun o => { o with lastOk := Tbl.insert o.lastOk w.mt slot }) else c
  let c := if valid && !w.ovr && !rsat then c.setThr g w.mt ((c.thr g w.mt).gather (gatherAs w.label raw) r) else c
  let c := (c.inc (Fd.CEL_RO_CNT_MEAS g) 1).inc (Fd.CEL_RO_CNT_INVALID g) (b2n (!valid))
  let c := (c.put (Fd.CEL_RO_STS_LAST_MT g) w.mt).stick (Fd.CEL_RO_STS_PHX_LATE g) phxLate
  let c := (c.stick (Fd.CEL_RO_STS_RSAT g) rsat).modRo g (fun o =>
    { o with wins := o.wins.filter (fun v => v.id != w.id) })
  let c := c.evt g 2
  if c.parked (cellR g) || mtDmode e == 0 then c
  else c.postDecision m g cls l (if lateWin then c.now else l) valid

/-- Is the result of window `w` due (R168), and was the window posted after its latch tick? A dead window latches at L. -/
def Core.winDue (c : Core) (g : Nat) (w : Win) : Option Bool :=
  let l := c.winLatch g w
  match w.dead, w.postedAt with
  | true, _ => if l ≤ c.now then some false else none
  | false, some p =>
    if w.posted = w.dur then
      if p ≤ l then (if l ≤ c.now then some false else none) else (if p + 1 ≤ c.now then some true else none)
    else none
  | false, none => none

/-- Results not delivered by the end of the shot fill their slots with VALID = 0; their decisions go onto the bus marked invalid, but for a parked region's (R91, R177, R262,
R448). (log 44 DEDUCED) -/
def Core.flushWins (c : Core) (m : Mems) (g : Nat) : Core :=
  ((c.cell g).ro.wins.filter (fun w => w.ct == 0)).foldl (fun c w => c.deliver m g w false true) c

/-- One threshold of R172: (ok, candidate) from the means, the separation and the limits. (log 31 DEDUCED) -/
def thrCand (t : Int) (m0 m1 sep : Int) (tap : Int) (minSep lo hi : Int) : Bool × Int :=
  if sep < minSep then (false, t)
  else
    let z := (m0 + m1) / 2
    let cand := if tap ≤ z - t then t + tap else if tap ≤ t - z then t - tap else t
    (decide (lo ≤ cand) && decide (cand ≤ hi), cand)

/-- The threshold loop of entry `x` of cell `g` in a drain (R172), with the thresholds moved and the updates rejected. `man` holds every threshold: the almanac entry is
MANUAL (R408). With MIN_COUNT 0 and a class without results its mean is a free value. (log 31 DEDUCED, 32 DEDUCED, 127 DESIGN CHOICE) -/
def Core.thrUpdate (c : Core) (m : Mems) (g x : Nat) (man : Bool) : Core × Nat × Nat :=
  let e := mtEntry m g x
  let t := c.thr g x
  let r := cellR g
  if !mtAdEn e || !c.on (Fd.RGN_DISC_CTL_EN r) || c.on (Fd.RGN_DISC_CTL_FREEZE r) || decide (t.n0 + t.n1 + t.n2 < 2 ^ mtHist e) then (c, 0, 0)
  else
    let tap : Int := ((2 ^ mtStep e : Nat) : Int)
    let minN := mtMinCount e
    let minSep : Int := ((mtMinSep e : Nat) : Int)
    let base := c.freeCtr
    let mean := fun (s : Int) (n k : Nat) => if n = 0 then sx 16 (Config.freeNat (base + k)) else s / (n : Int)
    let c := if minN = 0 then { c with freeCtr := base + 4 } else c
    let m0 := mean t.i0 t.n0 0
    let m1 := mean t.i1 t.n1 1
    let a := if minN ≤ t.n0 ∧ minN ≤ t.n1 then thrCand t.t01.toInt m0 m1 (m1 - m0) tap minSep (mtLim e 0) (mtLim e 1)
             else (false, t.t01.toInt)
    let use2 := mtDmode e == 2 && mtAd2En e
    let n01 := t.n0 + t.n1
    let m01 := mean (t.q0 + t.q1) n01 2
    let m2 := mean t.q2 t.n2 3
    let sgn : Int := if mtSgn2 e then -1 else 1
    let b := if minN ≤ n01 ∧ minN ≤ t.n2 then thrCand t.t2.toInt m01 m2 (sgn * (m2 - m01)) tap minSep (mtLim e 2) (mtLim e 3)
             else (false, t.t2.toInt)
    let move := fun (k : Bool × Int) => k.1 && !mtFreeze e && !man
    let ups := b2n (move a) + b2n (use2 && move b)
    let rejs := b2n (!a.1) + b2n (use2 && !b.1)
    let n : Thr := { Thr.zero with t01 := if move a then BitVec.ofInt 16 a.2 else t.t01, t2 := if use2 && move b then BitVec.ofInt 16 b.2 else t.t2,
                                   upd := satAdd 0xFFFF t.upd ups, rej := satAdd 0xFFFF t.rej rejs }
    ((c.setThr g x n).stick (Fd.CEL_RO_STS_ADAPT_REJ g) (decide (0 < rejs)), ups, rejs)

/-- Working thresholds loaded from INIT at a swap whose new entry has RELOAD (R171), also while `RGN_DISC_CTL.FREEZE` is 1 (R173). (log 32 DEDUCED, 145 DESIGN CHOICE) -/
def Core.thrReload (c : Core) (m : Mems) (g : Nat) : Core :=
  (upFrom 0 8).foldl (fun c x =>
    let e := mtEntry m g x
    if mtReload e then
      (c.setThr g x { Thr.zero with t01 := BitVec.ofNat 16 (mtT01 e), t2 := BitVec.ofNat 16 (mtT2 e) }).modRo g
        (fun o => { o with lastOk := Tbl.erase o.lastOk x })
    else c) c

/-! ### The command -/

/-- DISCRIMINATOR_LATCH (R168-R170, R175-R178, R184): the oldest MEASURE of cell `g` whose result is due is classified, written to its slot and posted. (log 30 DESIGN CHOICE) -/
def execDiscriminatorLatch (g : Nat) (s : State) : Host.Outcome State Fault Refusal :=
  s.onCore (fun m c =>
    match (c.cell g).ro.wins with
    | [] => c
    | w :: _ =>
      if w.ct ≠ 0 || !c.svc then c
      else
        match c.winDue g w with
        | none => c
        | some late => c.deliver m g w late false)

end Sys2Proof.Machine
end

