-- ==== Sys2Proof/Machine/Supervise.lean ====
section
/-!
DEFINITION. The supervisors (R89-R93, R150, R446-R451): cell faults and quarantine, block quarantine, region parking, chip fault, unparking, with the
commands QUAR_REQ, HOST_EV, PARK, UNPARK, REINIT_DONE, CHIP_UNPARK, CHIP_FAULT, BLOCK_FAULT, REGION_FAULT.
-/
namespace Sys2Proof.Machine

/-! ### Parking (R447, R448) -/

/-- The bits of `RGN_SUP_STS.CAUSE` (R452). -/
inductive ParkCause where
  | ledger | blockEsc | regionFault | thermal | host | chip
  deriving DecidableEq, Repr

/-- The bit of a cause. -/
def ParkCause.bit : ParkCause → Nat
  | .ledger => 1 | .blockEsc => 2 | .regionFault => 4 | .thermal => 8 | .host => 16 | .chip => 32

/-- The non-IDLE cells of region `r`. -/
def Core.rgnActive (c : Core) (r : Nat) : List Nat := (rgnCells r).filter (fun g => c.role g != 0)

/-- The series ends as STOP with CUT = 0 does: no further shot begins; the shot in progress completes (R262). -/
def Core.stopSeries (c : Core) : Core := { c with ser := { c.ser with stopping := true } }

/-- Cell `g` stops in a region that parks: no clock runs, and its lanes release zero from P + 2 (R448). -/
def Core.parkCell (c : Core) (g : Nat) : Core :=
  c.modCell g (fun x => { x with zeroAt := some (match x.zeroAt with
                                                 | some z => min z (c.now + 2)
                                                 | none => c.now + 2),
                                 phx := { x.phx with on := false } })

/-- Region `r` parked before this tick: what its units find now parks nothing, and no cause of theirs joins (R447). -/
def Core.parkedOff (c : Core) (r : Nat) : Bool := c.parked r && (c.rgn r).parkAt != some c.now

/-- A further cause of a region that parked in this same tick: its bit joins CAUSE, in the register and in the event (R447). -/
def Core.parkAgain (c : Core) (r : Nat) (why : ParkCause) : Core :=
  let v := Nat.lor (c.get (Fd.RGN_SUP_STS_CAUSE r)) why.bit
  let c := (c.put (Fd.RGN_SUP_STS_CAUSE r) v).put Fd.THM_STS_PARKED (if why = .thermal then Nat.lor (c.get Fd.THM_STS_PARKED) (2 ^ r) else c.get Fd.THM_STS_PARKED)
  { c with host := { c.host with evq := c.host.evq.map (fun e => if e.code = 0xB2 ∧ e.index = r ∧ e.stamp = c.now then { e with arg0 := v } else e) } }

/-- `THM_STS.CAPPED` (R422): a zone is at step 1 or above; the zone of a PARKED region does not count. -/
def Core.showCap (c : Core) : Core :=
  c.setOn Fd.THM_STS_CAPPED (c.on Fd.THM_CHIP_STS_STEP || (upFrom 0 8).any (fun r => c.on (Fd.RGN_THERM_STS_STEP r) && !c.parked r))

/-- RESULT0 of STOP (R262): the epoch of the last shot begun, 0xFFFFFFFF without one. -/
def Core.lastEpoch (c : Core) : Nat :=
  if c.ser.begun then (if c.ser.shotOn then c.ser.next else (c.ser.next + 2 ^ 32 - 1) % 2 ^ 32) else 0xFFFFFFFF

/-- The series has ended: the chip is IDLE, and every STOP that waited completes (R258, R262). -/
def Core.seriesEnd (c : Core) : Core :=
  let rings := c.ser.stopRings
  let e := c.lastEpoch
  let c := { c with ser := { Series.init with lastEnd := c.ser.lastEnd, lastTs := c.ser.lastTs, next := c.ser.next } }
  rings.foldl (fun c n => c.complete n.val .ok e 0) (c.enter .idle)

/-- Region `r` misses a shot: no block of it was quarantined in that one (R447, R452). (log 161 DEDUCED) -/
def Core.noQuarRun (c : Core) (r : Nat) : Core := (upFrom 0 16).foldl (fun c b => c.put (Fd.BLK_SUP_STS_QUAR_RUN r b) 0) c

/-- Region `r` parks at this tick (R447, R448). A region PARKED at T_s is not present in the shot (R298). Once every region is PARKED the series ends: with its shot's drains, or at
once between two shots (R258, R448). -/
def Core.park (c : Core) (m : Mems) (r : Nat) (why : ParkCause) : Core :=
  if !c.rOk r then c
  else if c.parked r then (if (c.rgn r).parkAt = some c.now then c.parkAgain r why else c)
  else
    let c := (c.put (Fd.RGN_SUP_STS_PARKED r) 1).put (Fd.RGN_SUP_STS_CAUSE r) why.bit
    let c := c.inc (Fd.RGN_SUP_STS_PARKS r) 1
    let c := c.put Fd.CHP_RUN_STS_RGN_PARKED (Nat.lor (c.get Fd.CHP_RUN_STS_RGN_PARKED) (2 ^ r))
    let c := c.put Fd.THM_STS_PARKED (if why = .thermal then Nat.lor (c.get Fd.THM_STS_PARKED) (2 ^ r) else c.get Fd.THM_STS_PARKED)
    let c := c.modRgn r (fun x => { x with parkAt := some c.now })
    let c := c.raise 0xB2 1 r why.bit (c.get Fd.CHP_RUN_EPOCH_EPOCH)
    let c := (c.acqPark r).synPark m r
    let c := ((c.rgnActive r).foldl Core.parkCell c).showCap
    let y := c.ser
    let c := if y.shotOn && decide (c.now ≤ y.lastTs) && bitAt y.present r then { c with ser := { y with present := y.present - 2 ^ r } } else c
    if c.regions.all c.parked && c.runIs .running then (if y.shotOn then c.stopSeries.enter .draining else c.seriesEnd) else c

/-! ### Quarantine (R89-R92, R150, R446) -/

/-- The owner of the lock of an RF DAC is quarantined at F = now: the DAC is BROKEN, and occulted from release tick F + 2 (R150). (log 41 DEDUCED) -/
def Core.breakLocks (c : Core) (g : Nat) : Core :=
  let r := cellR g
  (upFrom 0 8).foldl (fun c i =>
    if c.get (Fd.RGN_DAC_STS_LOCK_STATE r i) = 1 ∧ c.get (Fd.RGN_DAC_STS_OWNER r i) = g % 288 ∧ !c.parked r then
      c.modDac (8 * r + i) (fun o => { o with occFrom := some (c.now + 2), breakBy := some (c.now + 2, g) })
    else c) c

/-- A lock whose break is due (R150): DAC `i` of region `r` is BROKEN, the cell holds no lock any more (R151), and EV_LOCK_BROKEN names it. A parked region raises none.
(log 41 DEDUCED, 142 DEDUCED) -/
def Core.breakDue (c : Core) (r i : Nat) : Core :=
  match (c.dac (8 * r + i)).breakBy with
  | none => c
  | some (t, g) =>
    if c.now < t then c
    else
      let c := c.modDac (8 * r + i) (fun o => { o with breakBy := none })
      if c.parked r then c
      else
        let c := (((c.put (Fd.CEL_DRV_STS_LOCKED g) 0).put (Fd.RGN_DAC_STS_LOCK_STATE r i) 2).put (Fd.RGN_DAC_STS_OWNER r i) (g % 288)).put (Fd.RGN_DAC_STS_LOCK_BROKEN r i) 1
        let c := c.put (Fd.RGN_DAC_EPOCH_EPOCH r i) (c.get Fd.CHP_RUN_EPOCH_EPOCH)
        c.raise 0x21 4 (8 * r + i) g (c.get Fd.CHP_RUN_EPOCH_EPOCH)

/-- Cell `g` stops under R91 at F = now: clock, engine and sequencer stop, lanes release zero from F + 2, executed MEASUREs deliver invalid. -/
def Core.stopCell (c : Core) (g : Nat) : Core :=
  let c := c.put (Fd.CEL_STS_STATE g) 3
  let c := c.modCell g (fun x =>
    { x with qAt := some c.now, zeroAt := some (match x.zeroAt with
                                               | some z => min z (c.now + 2)
                                               | none => c.now + 2),
             phx := { x.phx with on := false }, ro := { x.ro with wins := x.ro.wins.map (fun w => { w with dead := true }) } })
  ((c.modShot (cellR g) (fun x => { x with quar := x.quar || x.inShot })).breakLocks g).dropAsk g

/-- The block supervisor quarantines block `b` of region `r` (R446); `why`: 1 CELL_ESC, 2 REPEAT, 3 BLOCK_FAULT. In the tick in which the region parks it still does, so that every
cause of that tick is set (R447). (log 42 DEDUCED) -/
def Core.quarBlock (c : Core) (m : Mems) (r b why : Nat) : Core :=
  if (c.blk (16 * r + b)).qAt.isSome || c.parkedOff r then c
  else
    let c := (blkCells r b).foldl (fun c g => if c.role g ≠ 0 ∧ c.get (Fd.CEL_STS_STATE g) ≠ 3 then c.stopCell g else c) c
    let c := c.modBlk (16 * r + b) (fun k => { k with qAt := some c.now })
    let c := [0, 1].foldl (fun c i => c.modBb (32 * r + 2 * b + i) (fun o => { o with occFrom := some (c.now + 2) })) c
    let c := (c.put (Fd.BLK_SUP_STS_QUARANTINED r b) 1).put (Fd.BLK_SUP_STS_CAUSE r b) why
    let c := (c.inc (Fd.BLK_SUP_STS_QUAR_RUN r b) 1).inc (Fd.BLK_SUP_STS_QUAR_SHOTS r b) 1
    let c := c.raise 0xB1 2 (16 * r + b) why (c.get Fd.CHP_RUN_EPOCH_EPOCH)
    let esc := c.get (Fd.RGN_SUP_CFG_BLK_ESC r)
    let rep := c.get (Fd.RGN_SUP_CFG_BLK_REPEAT r)
    let n := ((upFrom 0 16).filter (fun k => c.on (Fd.BLK_SUP_STS_QUARANTINED r k))).length
    if (esc ≠ 0 ∧ esc ≤ n) ∨ (rep ≠ 0 ∧ rep ≤ c.get (Fd.BLK_SUP_STS_QUAR_RUN r b)) then c.park m r .blockEsc else c

/-- The FIRST code and CAUSE bits of `codes` join `CEL_FAULT` (R89, R90): FIRST takes the lowest code of those found in the tick in which it was 0. -/
def Core.faultBits (c : Core) (g : Nat) (codes : List Nat) : Core :=
  let old := c.get (Fd.CEL_FAULT_CAUSE g)
  let bits := codes.foldl (fun a k => Nat.lor a (2 ^ (k - 1))) old
  let c := c.put (Fd.CEL_FAULT_CAUSE g) bits
  if old = 0 then (c.put (Fd.CEL_FAULT_FIRST g) (minList 0 codes)).modCell g (fun x => { x with firstAt := some c.now })
  else if (c.cell g).firstAt = some c.now then c.put (Fd.CEL_FAULT_FIRST g) (minList 0 (c.get (Fd.CEL_FAULT_FIRST g) :: codes))
  else c

/-- A fault has stopped cell `g` in this very tick (R90, R91). -/
def Core.faultsNow (c : Core) (g : Nat) : Bool := (c.cell g).faulted && (c.cell g).qAt == some c.now

/-- A further fault of cell `g` found in the tick of the first: its codes join `CEL_FAULT`, and the event that reports the quarantine (R90). (log 138 DEDUCED) -/
def Core.joinFault (c : Core) (g : Nat) (codes : List Nat) : Core :=
  let c := c.faultBits g codes
  { c with host := { c.host with evq := c.host.evq.map (fun e =>
      if e.code = 0x20 ∧ e.index = g ∧ e.stamp = c.now then { e with arg0 := c.get (Fd.CEL_FAULT_FIRST g), arg1 := c.get (Fd.CEL_FAULT_CAUSE g) } else e) } }

/-- Cell `g` faults at this tick for the causes `codes` (R89-R91, R446). A cell that is not RUNNING or ENDED has nothing that could fault, but for what it finds in the
tick in which a fault stopped it. -/
def Core.faultCell (c : Core) (m : Mems) (g : Nat) (codes : List Nat) : Core :=
  if codes.isEmpty || c.parkedOff (cellR g) then c
  else if !c.cellLive g then (if c.faultsNow g then c.joinFault g codes else c)
  else
    let r := cellR g
    let b := cellB g
    let c := (c.faultBits g codes).stopCell g
    let c := c.raise 0x20 3 g (c.get (Fd.CEL_FAULT_FIRST g)) (c.get (Fd.CEL_FAULT_CAUSE g))
    let fresh := !(c.cell g).faulted
    let c := c.modCell g (fun x => { x with faulted := true, faultRun := if x.faulted then x.faultRun else x.faultRun + 1 })
    let c := c.inc (Fd.BLK_SUP_STS_CELLS_Q r b) (b2n fresh)
    let esc := c.get (Fd.BLK_SUP_CFG_CELL_ESC r b)
    let rep := c.get (Fd.BLK_SUP_CFG_REPEAT r b)
    if esc ≠ 0 ∧ esc ≤ c.get (Fd.BLK_SUP_STS_CELLS_Q r b) then c.quarBlock m r b 1
    else if rep ≠ 0 ∧ rep ≤ (c.cell g).faultRun then c.quarBlock m r b 2
    else c

/-- A sequencer fault with its cause in `SEQ_CAUSE` (R127): 1 CHAIN, 2 LOOP, 3 PC_RANGE. -/
def Core.seqFault (c : Core) (m : Mems) (g cause : Nat) : Core :=
  if c.cellLive g && !c.parked (cellR g) then (c.put (Fd.CEL_SEQ_STS_SEQ_CAUSE g) cause).faultCell m g [8] else c

/-- What unit `f` of cell `g` does at this tick. When a fault has stopped the cell in this tick, the unit does nothing more, but a fault that it finds in the same island
cycle joins the first one (R90): its codes are those that `f` finds in the cell as it ran. (log 138 DEDUCED) -/
def Core.unitOf (c : Core) (m : Mems) (g : Nat) (f : Core → Core) : Core :=
  if c.faultsNow g && c.get (Fd.CEL_STS_STATE g) == 3 && !c.parked (cellR g) then
    let d := f (((c.modCell g (fun x => { x with zeroAt := none, phx := { x.phx with on := c.on (Fd.CEL_CFG_PHX_EN g) } })).put (Fd.CEL_STS_STATE g) 1).put (Fd.CEL_FAULT_CAUSE g) 0)
    let found := d.get (Fd.CEL_FAULT_CAUSE g)
    let keep := fun (c : Core) (k : Nat) (x : Fld) => if bitAt found (k - 1) then c.put x (d.get x) else c
    let c := keep (keep (keep c 1 (Fd.CEL_LEAD_STS_LEAD_LOST g)) 7 (Fd.CEL_ECC_LAST_MEM g)) 8 (Fd.CEL_SEQ_STS_SEQ_CAUSE g)
    c.faultCell m g ((upFrom 1 8).filter (fun k => bitAt found (k - 1)))
  else f c

/-! ### Bit errors of the cell memories (R65) -/

/-- What a read of word `x` of memory `k` of the cells finds (R65): some true an uncorrectable error, some false a corrected one. Memories by the codes of
`CEL_ECC.LAST_MEM`: 1 program (words of 64 bits), 2 data, 3 segment store (words of 128 bits). (log 129 DESIGN CHOICE) -/
def flawAt (m : Mems) (k x : Nat) : Option Bool := (m.flaw.find? (fun f => f.1 == k && f.2.1 == x)).map (fun f => f.2.2)

/-- The error bookkeeping of a read (R65): a corrected error counts, an uncorrectable one faults the cell with MEM_UE, but for one in a shadow copy, which COMMIT finds. The answer
says whether the read stands. (log 129 DESIGN CHOICE) -/
def Core.eccRead (c : Core) (m : Mems) (g k x : Nat) : Core × Bool :=
  match flawAt m k x with
  | none => (c, true)
  | some false => ((c.inc (Fd.CEL_ECC_CORR_CNT g) 1).put (Fd.CEL_ECC_LAST_MEM g) (k % 8), true)
  | some true => if 8 ≤ k then (c, true) else ((c.put (Fd.CEL_ECC_LAST_MEM g) k).faultCell m g [7], false)

/-- Is every read of `n` words from word `x` of memory `k` of cell `g` good, and the bookkeeping of them (R65)? -/
def Core.eccReads (c : Core) (m : Mems) (g k x n : Nat) : Core × Bool :=
  (upFrom x n).foldl (fun (a : Core × Bool) w => let y := a.1.eccRead m g k w; (y.1, a.2 && y.2)) (c, true)

/-- The reads of memory `k`, in words of 128 bits, that bring `n` bytes from byte `a` (R65). -/
def Core.eccBytes (c : Core) (m : Mems) (g k a n : Nat) : Core × Bool := c.eccReads m g k (a / 16) ((a + n - 1) / 16 + 1 - a / 16)

/-- The read of byte `o` of the image header, the watch slots or the segment table of cell `g` (R65, R106). -/
def Core.eccImage (c : Core) (m : Mems) (g o : Nat) : Core × Bool := c.eccRead m g 1 (g * 4096 + c.seqW g + o / 8)

/-! ### Chip fault (R449, R404) -/

/-- Every command in execution completes with ST_ABORTED; calibrations stop with nothing applied (R404, R449). (log 128 DEDUCED) -/
def Core.abortAll (c : Core) : Core :=
  let c := c.calStop
  let c := if c.root.commit.isSome then { c.put Fd.CHP_CFG_STS_SET_STATE 0 with root := { c.root with commit := none } } else c
  (upFrom 0 64).foldl (fun c n =>
    match (c.ring n).cmd with
    | some k => if k.exec then c.refuse n .aborted else c
    | none => c) c

/-- A chip fault of code `cause` (R449, R452): 1 SPINE, 2 ROOT_UE, 3 PLL0_LOCK, 4 SUPERVISOR, 5 ENDPOINT. (log 128 DEDUCED) -/
def Core.chipFault (c : Core) (m : Mems) (cause : Nat) : Core :=
  let c := if c.on Fd.CHP_FAULT_STS_FAULT then c else (c.put Fd.CHP_FAULT_STS_CAUSE cause).put Fd.CHP_FAULT_STS_FAULT 1
  let c := c.enter .parked
  let c := c.regions.foldl (fun c r => c.park m r .chip) c
  let c := { c with ser := { c.ser with shotOn := false, stopRings := [] } }
  (c.abortAll.emit (.aer cause)).raise 0xB4 0 0 cause 0

/-! ### The commands -/

/-- QUAR_REQ (R90, R91): requested quarantine of a running cell; of a cell that is OFF it applies from the first tick of the next shot it enters. (log 40 DEDUCED) -/
def execQuarReq (g : Nat) (s : State) : Host.Outcome State Fault Refusal :=
  s.onCore (fun _ c =>
    if !c.svc || !c.cOk g then c
    else if c.cellLive g && !c.parked (cellR g) then (c.stopCell g).raise 0x20 3 g 0 0
    else if c.get (Fd.CEL_STS_STATE g) = 0 then c.modCell g (fun x => { x with quarNext := true })
    else c)

/-- HOST_EV (R86): engine event HOST. -/
def execHostEv (g : Nat) (s : State) : Host.Outcome State Fault Refusal :=
  s.onCore (fun _ c => if c.svc && c.cOk g then c.evt g 7 else c)

/-- PARK (R447): `RGN_CTL.PARK` written with 1. -/
def execPark (r : Nat) (s : State) : Host.Outcome State Fault Refusal :=
  s.onCore (fun m c => if c.svc then c.park m r .host else c)

/-- REGION_FAULT (R447): a failed supervisor self-check, a decision-bus handshake past its bound, or an uncorrectable error in the syndrome memory. -/
def execRegionFault (r : Nat) (s : State) : Host.Outcome State Fault Refusal :=
  s.onCore (fun m c => if c.svc then c.park m r .regionFault else c)

/-- BLOCK_FAULT (R446 case 3). (log 42 DEDUCED) -/
def execBlockFault (r b : Nat) (s : State) : Host.Outcome State Fault Refusal :=
  s.onCore (fun m c => if c.svc && c.bOk r b then c.quarBlock m r b 3 else c)

/-- CHIP_FAULT (R449) of code `cause` 1-5. -/
def execChipFault (cause : Nat) (s : State) : Host.Outcome State Fault Refusal :=
  s.onCore (fun m c => if c.svc && decide (1 ≤ cause) && decide (cause ≤ 5) then c.chipFault m cause else c)

/-- May region `r` leave PARKED by UNPARK (R450)? Refused while MISMATCH is set, the region's zone is at step 3 or HELD, or the chip is PARKED. -/
def Core.unparkOk (c : Core) (r : Nat) : Bool :=
  !c.on (Fd.RGN_LEDGER_STS_MISMATCH r) && c.get (Fd.RGN_THERM_STS_STEP r) != 3 && !c.on (Fd.RGN_THERM_STS_HELD r) && !c.runIs .parked

/-- The ADC macros of region `r` settle for 1,000 ticks (R450). -/
def Core.settleAdcs (c : Core) (r : Nat) : Core := (upFrom 0 4).foldl (fun c j => c.modAdc (4 * r + j) (fun a => { a with settle := max a.settle (c.now + 1000) })) c

/-- UNPARK (R450): re-initialisation of a parked region starts, or the write is refused with EV_REGION_UNPARK outcome 1. -/
def execUnpark (r : Nat) (s : State) : Host.Outcome State Fault Refusal :=
  s.onCore (fun _ c =>
    if !c.svc || !c.rOk r || !c.parked r || c.on (Fd.RGN_SUP_STS_REINIT r) then c
    else if !c.unparkOk r then c.raise 0xB3 1 r 1 0
    else (c.settleAdcs r).put (Fd.RGN_SUP_STS_REINIT r) 1)

/-- Does the chip have a unit of this number? -/
def testUnitOk : TestUnit → Bool
  | .core | .timePort => true
  | .region r => decide (r < 8)
  | .block r b => decide (r < 8) && decide (b < 16)
  | .cell r b k => decide (r < 8) && decide (b < 16) && decide (k < 18)
  | .dac r i => decide (r < 8) && decide (i < 8)
  | .adc r j => decide (r < 8) && decide (j < 4)
  | .bb r b m => decide (r < 8) && decide (b < 16) && decide (m < 2)

/-- An SH field cleared in both sets. -/
def Core.clearBoth (c : Core) (f : Fld) : Core := { c with act := putIn c.act f 0, shd := putIn c.shd f 0 }

/-- A unit that failed self-test is disabled (R444): its bit in the unit maps reads 0, and EN of a converter reads 0 in both sets. -/
def Core.disable (c : Core) (u : TestUnit) : Core :=
  let clr := fun (c : Core) (f : Fld) (i : Nat) => c.put f (c.get f - (if bitAt (c.get f) i then 2 ^ i else 0))
  if !testUnitOk u then c
  else match u with
  | .core => c
  | .timePort => c.put Fd.CHP_BOOT_STS_NO_TIME 1
  | .region r => clr c Fd.CHP_UNIT_STS_REGION_OK r
  | .block r b => clr c (Fd.RGN_UNIT_STS_BLOCK_OK r) b
  | .cell r b k => clr c (Fd.BLK_UNIT_STS_CELL_OK r b) k
  | .dac r i => clr (c.clearBoth (Fd.RGN_DAC_CFG_EN r i)) (Fd.RGN_UNIT_STS_DAC_OK r) i
  | .adc r j => clr (c.clearBoth (Fd.RGN_ADC_CFG_EN r j)) (Fd.RGN_UNIT_STS_ADC_OK r) j
  | .bb r b k => clr (c.clearBoth (Fd.BLK_BB_CFG_EN r b k)) (Fd.BLK_UNIT_STS_BB_OK r b) k

/-- The region a unit of self-test belongs to. -/
def testRgn : TestUnit → Option Nat
  | .region r => some r
  | .block r _ => some r
  | .cell r _ _ => some r
  | .dac r _ => some r
  | .adc r _ => some r
  | .bb r _ _ => some r
  | _ => none

/-- What the requesters of region `r` have on their way to the stack is gone. -/
def Core.dropUps (c : Core) (r : Nat) : Core :=
  { c with hbmc := { c.hbmc with ups := c.hbmc.ups.filter (fun q => (if q.who < 128 then q.who / 16 else if q.who < 160 then (q.who - 128) / 4 else q.who - 160) != r) } }

/-- REINIT_DONE (R450): at Y_u, when its ADC macros have settled, the region leaves PARKED with its region-level books at zero, or stays PARKED when its supervisor failed self-test. `failed` lists
the units that failed; the region itself stands for its supervisor. (log 7 DESIGN CHOICE) -/
def execReinitDone (r : Nat) (failed : List TestUnit) (s : State) : Host.Outcome State Fault Refusal :=
  s.onCore (fun _ c =>
    if !c.on (Fd.RGN_SUP_STS_REINIT r) || c.runIs .parked || (upFrom 0 4).any (fun j => decide (c.now < (c.adc (4 * r + j)).settle)) then c
    else
      let c := c.put (Fd.RGN_SUP_STS_REINIT r) 0
      let mine := failed.filter (fun u => testRgn u == some r && u != TestUnit.region r)
      let c := mine.foldl Core.disable c
      if failed.contains (TestUnit.region r) then c.raise 0xB3 1 r 2 0
      else
        let c := { c with books := c.books.filter (fun e => !(decide (bookCode e.1 ≤ 5) && bookRgn e.1 == r)) }
        let c := (c.put (Fd.RGN_SUP_STS_PARKED r) 0).put Fd.CHP_RUN_STS_RGN_PARKED
          (c.get Fd.CHP_RUN_STS_RGN_PARKED - (if bitAt (c.get Fd.CHP_RUN_STS_RGN_PARKED) r then 2 ^ r else 0))
        let c := c.put Fd.THM_STS_PARKED (c.get Fd.THM_STS_PARKED - (if bitAt (c.get Fd.THM_STS_PARKED) r then 2 ^ r else 0))
        let c := (rgnCells r).foldl (fun c g => c.modCell g (fun x => { x with zeroAt := none })) c
        let c := (c.noQuarRun r).dropUps r
        let c := (c.modRgn r (fun x => { x with parkAt := none })).showCap
        c.raise 0xB3 1 r 0 c.now)

/-- CHIP_UNPARK (R451): a chip PARKED by a chip-level ledger mismatch returns to IDLE with its chip-level books at zero; its regions stay PARKED. -/
def execChipUnpark (s : State) : Host.Outcome State Fault Refusal :=
  s.onCore (fun _ c =>
    if c.svc && c.runIs .parked && !c.on Fd.CHP_LEDGER_STS_MISMATCH && !c.on Fd.CHP_FAULT_STS_FAULT then
      { c.seriesEnd with books := c.books.filter (fun e => decide (bookCode e.1 ≤ 5)) }
    else c)

end Sys2Proof.Machine
end

