-- ==== Sys2Proof/Machine/Demod.lean ====
section
/-!
DEFINITION. The demodulator of a READOUT cell (R44, R165-R167): band samples, windows, and the passing of a result to the engine (R168).
-/
namespace Sys2Proof.Machine

/-- The weight of sample `j` of a window under entry `e` (R166). -/
def winWeight (m : Mems) (c : Core) (g e j : Nat) : Cx :=
  if mtNtap e = 0 then (2048, 0)
  else if j < mtNtap e then smpAt m.seg (g * 32768 + dirLine (dirEntry m (segTab m c g (mtWseg e))) * 128) (j / 6) (j % 6)
  else (0, 0)

/-- One band sample enters window `w` (R165-R167): the window with the product added, and whether the mixing saturated. -/
def winAdd (m : Mems) (c : Core) (g : Nat) (w : Win) (b : BandSmp) : Win × Bool :=
  let e := mtEntry m g w.mt
  let cs := ncoCs (phaseHalf (mtFtw e) (mtPoff e) (48 * b.stamp + 24 * b.e))
  let v := mixDown (b.i, b.q) cs
  let p := cxMul v (winWeight m c g e ((b.stamp - w.m0) * c.bandRate g + b.e))
  ({ w with n := w.n + 1, accI := w.accI + p.1, accQ := w.accQ + p.2, ovr := w.ovr || b.ovr, stale := w.stale || b.cal },
   mixDownHits (b.i, b.q) cs)

/-- The window whose granule covers stamp `t`, as the schedule of the taken path names it. -/
def Ro.winAt (o : Ro) (t : Nat) : Option Nat :=
  match o.sched.find? (fun s => s.ct == 0 && decide (s.stamp ≤ t) && decide (t < s.stamp + 2)) with
  | some s => s.win
  | none => none

/-- A result goes to the engine once its window is complete (R168): R in lane 0 of one input group, IC marking candidate runs. The group's place names the window. -/
def Core.toEngine (c : Core) (m : Mems) (g : Nat) (w : Win) : Core :=
  if c.on (Fd.CEL_CFG_PHX_INLINE g) && !w.sent && !w.dead && decide (w.n = 2 * w.dur * c.bandRate g) then
    let x := c.cell g
    let ic := if w.run = 0 then x.icNext else w.run
    let gr : PGroup := { lanes := packV [winResult (mtEntry m g w.mt) w], vm := 1, ic := ic, csel := x.cselLast,
                         metas := [{ stamp := w.id, sub := 0, ct := 0, xn := 0, ftw := 0, poff := 0, amp := 0 }] }
    let c := c.modCell g (fun x => { x with gq := x.gq ++ [gr], icNext := if w.run = 0 then 0 else x.icNext })
    c.modRo g (fun o => { o with wins := modFirst (fun v => v.id == w.id) (fun v => { v with sent := true }) o.wins })
  else c

/-- Groups formed enter the engine's input port while it holds fewer than 2 (R72). -/
def Cell.fillPort (x : Cell) : Cell :=
  let n := 2 - x.phx.inPort.length
  { x with phx := { x.phx with inPort := x.phx.inPort ++ x.gq.take n }, gq := x.gq.drop n }

/-- The reads of the weights of window `w` of cell `g` for the samples `bs`: the entry of the segment table that names the table, and the taps (R65, R166). -/
def Core.eccWeights (c : Core) (m : Mems) (g : Nat) (w : Win) (bs : List BandSmp) : Core :=
  let e := mtEntry m g w.mt
  if mtNtap e = 0 then c
  else
    let at_ := g * 32768 + dirLine (dirEntry m (segTab m c g (mtWseg e))) * 128
    bs.foldl (fun c b =>
      let j := (b.stamp - w.m0) * c.bandRate g + b.e
      if j < mtNtap e then (c.eccBytes m g 3 (at_ + j / 42 * 128 + j / 6 % 7 * 18 + 3 * (j % 6)) 3).1 else c) (c.eccImage m g (40 + 2 * mtWseg e)).1

/-- Band samples reach the integrator of cell `g` under window `k`. (log 29 DEDUCED) -/
def Core.integrate (c : Core) (m : Mems) (g k : Nat) (bs : List BandSmp) : Core :=
  match (c.cell g).ro.wins.find? (fun w => w.id == k) with
  | none => c
  | some w =>
    let r := bs.foldl (fun (a : Win × Bool) b => let y := winAdd m c g a.1 b; (y.1, a.2 || y.2)) (w, false)
    let c := (c.stick (Fd.CEL_RO_STS_MIX_SAT g) r.2).modRo g (fun o => { o with wins := modFirst (fun v => v.id == k) (fun _ => r.1) o.wins })
    let c := c.eccWeights m g w bs
    (c.toEngine m g r.1).modCell g Cell.fillPort

/-- Samples that wait in the band input buffer of R44 are integrated once the schedule that covers them counts as posted; their window is late. A sample that no
MEASURE covers is dropped. (log 29 DEDUCED) -/
def Core.drainBuf (c : Core) (m : Mems) (g : Nat) : Core :=
  let o := (c.cell g).ro
  let isIn := fun (b : BandSmp) => o.sched.any (fun s => s.ct == 0 && decide (s.stamp ≤ b.stamp) && decide (b.stamp < s.stamp + 2))
  let c := c.modRo g (fun o => { o with buf := o.buf.filter (fun b => !isIn b) })
  (o.buf.filter isIn).foldl (fun c b =>
    match o.winAt b.stamp with
    | none => c
    | some k => (c.modRo g (fun o => { o with wins := modFirst (fun v => v.id == k) (fun v => { v with late := true }) o.wins })).integrate m g k [b]) c

/-- Credits of the schedule queue return: granules whose last band sample has reached the integrator by tick `t` (R43). -/
def Core.schedFree (c : Core) (g t : Nat) : Core :=
  c.modRo g (fun o => { o with sched := o.sched.filter (fun s => s.ct != 0 || decide (t < s.stamp + 1 + 11) ||
    o.buf.any (fun b => decide (s.stamp ≤ b.stamp) && decide (b.stamp < s.stamp + 2))) })

end Sys2Proof.Machine
end

