-- ==== Sys2Proof/Machine/Sequencer.lean ====
section
/-!
DEFINITION. The sequencer and renderer of a cell (R95-R123, R132, R174, R191, R195, R496): paths, zero-time and timed instructions, rendering, candidate
runs and the select, WAIT, refill of the stage ring, and the entries and markers a cell sends.
-/
namespace Sys2Proof.Machine

/-! ### Words -/

/-- May a cell of role `role` execute opcode `op` (R109, R132, R174, R191, R195)? -/
def roleMay (op role : Nat) : Bool :=
  if op = 0x01 then role == 1 || role == 3
  else if op = 0x03 ∨ op = 0x18 then role == 2
  else if op = 0x10 ∨ op = 0x11 ∨ op = 0x12 ∨ op = 0x14 ∨ op = 0x15 then role == 1
  else if op = 0x13 then role == 1 || role == 3
  else if op = 0x1D then role == 1 || role == 2
  else role != 0

/-! ### Paths -/

/-- The path being executed, its tag and the exit number: the taken path, or the candidate run in progress; none while both runs have been sent. -/
def Cell.path (x : Cell) : Option (SeqCtx × Nat × Nat) :=
  match x.branch with
  | none => some (x.ctx, 0, 0)
  | some b => if b.run = 0 then some (b.c0, 1, b.xn) else if b.run = 1 then some (b.c1, 2, b.xn) else none

/-- That path replaced. -/
def Cell.setPath (x : Cell) (k : SeqCtx) : Cell :=
  match x.branch with
  | none => { x with ctx := k }
  | some b => { x with branch := some (if b.run = 0 then { b with c0 := k } else { b with c1 := k }) }

/-- Samples not yet grouped become groups of four, and with `flush` the rest a partial group (R72). A group whose IC is not 0b11 carries the last selected index as CSEL.
(log 136 DESIGN CHOICE) -/
def Cell.group (flush : Bool) (x : Cell) : Cell :=
  let mk := fun (l : List (Cx × SMeta)) (ic : Nat) =>
    ({ lanes := packV (l.map (fun s => s.1)), vm := BitVec.ofNat 4 (2 ^ l.length - 1), ic := ic, csel := x.cselLast, metas := l.map (fun s => s.2) } : PGroup)
  let tag := fun (l : List (Cx × SMeta)) => ((l.head?).map (fun s => s.2.ct)).getD 0
  let put := fun (x : Cell) (l : List (Cx × SMeta)) (rest : List (Cx × SMeta)) =>
    let t : Nat := tag l
    if t = 1 ∨ t = 2 then { x with rin := rest, gq := x.gq ++ [mk l t] } else { x with rin := rest, gq := x.gq ++ [mk l x.icNext], icNext := 0 }
  let x := if 4 ≤ x.rin.length then put x (x.rin.take 4) (x.rin.drop 4) else x
  if flush && !x.rin.isEmpty then put x x.rin [] else x

/-! ### Effects outside the cell (R113, R191, R195, R86) -/

/-- An SROUND held for its stamp `p` (R195): by rising stamps; those of one stamp open one round, whose DL is the largest. -/
def holdRound (p dl : Nat) : List (Nat × Nat × Nat) → List (Nat × Nat × Nat)
  | [] => [(p, dl, 1)]
  | o :: rest => if o.1 = p then (p, max o.2.1 dl, o.2.2 + 1) :: rest else if p < o.1 then (p, dl, 1) :: o :: rest else o :: holdRound p dl rest

/-- An effect of the taken path takes place. A stamp or write tick that has passed becomes the next tick, and sets LATE; with `sel` the effect comes from a run just
selected: it is not late, and takes place now where its stamp has passed. (log 22 DEDUCED, 24 DEDUCED) -/
def Core.applyFx (c : Core) (g : Nat) (sel : Bool) (f : Fx) : Core :=
  match f with
  | .signal no v st =>
    let old := decide (st < c.now) && !sel
    let t := if old then c.now + 1 else max st c.now
    let c := c.modCell g (fun x => { x with sigs := x.sigs.filter (fun h => h.no != no || h.stamp != t) ++ [{ no := no, val := v, stamp := t }] })
    let c := if old then c.late g else c
    c.evt g 4
  | .sround dl st =>
    let old := decide (st < c.now) && !sel
    let p := if old then c.now + 1 else max st c.now
    let r := cellR g
    let c := c.modSynd r (fun s => { s with opens := holdRound p dl s.opens })
    if old then c.late g else c
  | .frame xop zop st =>
    let u := if c.role g = 1 then st - 18 else st + 10 + c.latchDelay g
    let old := decide (u < c.now)
    if sel && old then c.frameEv g { tick := u, post := false, xop := xop, zop := zop }
    else
    let c := c.modCell g (fun x => { x with frameOps := x.frameOps ++ [{ xop := xop, zop := zop, tick := if old then c.now + 1 else u }] })
    if old then c.late g else c
  | .transit => c.evt g 0

/-- An effect of the path `k` with tag `ct`: at once on the taken path, held for the select on a candidate run (R118). -/
def Core.effect (c : Core) (g ct : Nat) (k : SeqCtx) (f : Fx) : Core × SeqCtx :=
  if ct = 0 then (c.applyFx g false f, k) else (c, { k with fx := k.fx ++ [f] })

/-- The END of the taken path (R41, R70, R107): the cell has sent its END marker. -/
def Core.ended (c : Core) (g stamp : Nat) : Core :=
  let t := if c.role g = 2 then stamp - 1 + 11 else stamp - 1 - 17
  ((c.modCell g (fun x => { x with endAt := some t })).evt g 6).put (Fd.CEL_STS_STATE g) 2

/-! ### Timed instructions -/

/-- The end of a run (R118): after run 0 comes run 1, after run 1 BRANCH_HOLD until the select. A run ends with its 8 granules, or when it stopped. (log 23 DEDUCED) -/
def Core.settle (c : Core) (g : Nat) : Core :=
  let x := c.cell g
  match x.branch with
  | none => c
  | some b =>
    let fin := fun (k : SeqCtx) => k.left == 0 || k.stop || k.ended
    if b.run = 0 && fin b.c0 then c.setCell g ({ (x.group true) with branch := some { b with run := 1 } })
    else if b.run = 1 && fin b.c1 then (c.setCell g ({ (x.group true) with branch := some { b with run := 2 } })).put (Fd.CEL_SEQ_STS_HOLD g) 1
    else c

/-- A meridian condition at the end of a timed instruction of the taken path: the candidate runs begin (R118). -/
def Cell.fork (x : Cell) (k : SeqCtx) (cc : Nat) (dflt : Bool) (next tgt : Nat) : Cell :=
  let x := x.group true
  let run := fun (pc : Nat) => { k with pc := pc, cond := none, left := 8, stop := false, fx := [] }
  { x with branch := some { xn := x.xnNext, sT := k.stamp, cc := cc, dflt := dflt, run := 0, c0 := run next, c1 := run tgt },
           xnNext := (x.xnNext + 1) % 16 }

/-- A timed instruction has been rendered or posted whole: its transit (R114, R118, R86). -/
def Core.finish (c : Core) (g : Nat) (k : SeqCtx) (ct : Nat) (t : Timed) : Core :=
  let k := { k with stamp := t.s0 + 2 * t.gran, zt := 0, cur := none }
  let p := c.effect g ct k .transit
  match t.exit with
  | some (.cond cc d n tg) =>
    if ct = 0 then p.1.modCell g (fun x => ({ x with ctx := p.2 }).fork p.2 cc d n tg)
    else p.1.modCell g (fun x => x.setPath { p.2 with cond := some (.cond cc d n tg), stop := true })
  | some (.known pc) => p.1.modCell g (fun x => x.setPath { p.2 with pc := pc, stop := decide (ct ≠ 0) })
  | some (.goto pc) => p.1.modCell g (fun x => x.setPath { p.2 with pc := pc })
  | none => p.1.modCell g (fun x => x.setPath { p.2 with pc := t.word + 1 })

/-- The exit of the word `w` at `pc` (R114-R116). A render-time condition takes the value of PF now. -/
def exitOf (pf : BitVec 4) (pc w : Nat) : ExitRes :=
  if sqXk w = 2 then .goto (sqTgt w)
  else if sqXk w = 1 then
    if 0x20 ≤ sqCc w then .known (if bitAt pf.toNat (sqCc w % 4) != bitAt (sqCc w) 2 then sqTgt w else pc + 1)
    else .cond (sqCc w) (sqDef w) (pc + 1) (sqTgt w)
  else .goto (pc + 1)

/-- The exit of `t` fixed (R115), and PC of `CEL_SEQ_STS`. -/
def Core.fixExit (c : Core) (m : Mems) (g : Nat) (t : Timed) : Core × Timed :=
  (c.put (Fd.CEL_SEQ_STS_PC g) t.word, { t with exit := some (exitOf (c.cell g).phx.pf t.word (pmWord m g t.word)) })

/-! ### Rendering -/

/-- Where the line of granule `j` of a PLAY lies in the segment store of cell `g` (byte address), and the granule's place in it; none: not in the stage ring (R97, R105). -/
def Core.linePlace (c : Core) (m : Mems) (g : Nat) (t : Timed) (j : Nat) : Option (Nat × Nat) :=
  let e := dirEntry m t.segid
  let js := if dirHome e = 3 then t.sbase + j else j % max 1 t.segLen
  if dirHome e = 0 then some (g * 32768 + (dirLine e + js / 7) * 128, js % 7)
  else ((c.cell g).stage.find? (fun s => s.segid == lineKey m t.segid && s.line == js / 7)).map (fun s => (g * 32768 + s.place * 128, js % 7))

/-- STAGE_USED of block `b` of region `r`. (log 28 DEDUCED) -/
def Core.stageUsed (c : Core) (r b : Nat) : Core := c.put (Fd.BLK_SEG_STS_STAGE_USED r b) (c.blk (16 * r + b)).cache.length

/-- The line of granule `j` leaves the stage ring after its last granule; a stream line that the taken path has played leaves the block's ring too. (log 27 DESIGN CHOICE) -/
def Core.freeLine (c : Core) (m : Mems) (g ct : Nat) (t : Timed) (j : Nat) : Core :=
  let e := dirEntry m t.segid
  let js := if dirHome e = 3 then t.sbase + j else j % max 1 t.segLen
  if dirHome e ≠ 0 ∧ (js % 7 = 6 ∨ (dirHome e ≠ 3 ∧ js + 1 = t.segLen)) then
    let id := lineKey m t.segid
    let c := c.modCell g (fun x => { x with stage := x.stage.eraseP (fun s => s.segid == id && s.line == js / 7) })
    if dirHome e = 3 ∧ ct = 0 then
      (c.modBlk (16 * cellR g + cellB g) (fun k => { k with cache := k.cache.filter (fun l => !(l.segid == id && l.line == js / 7)) })).stageUsed (cellR g) (cellB g)
    else c
  else c

/-- Renders the next tick of the timed instruction in progress (R96, R105, R114, R118): its three samples with their places, which
join the samples on their way to the input port of an engine that sits in the stream (R72); none: nothing to render, or the line has not arrived. -/
def Core.renderTick (c : Core) (m : Mems) (g : Nat) : Core × Option (List (Cx × SMeta)) :=
  let x := c.cell g
  match x.path with
  | none => (c, none)
  | some (k, ct, xn) =>
    match k.cur with
    | none => (c, none)
    | some t =>
      if (t.kind != .play && t.kind != .gap) || k.left == 0 && ct != 0 then (c, none)
      else
        let j : Nat := t.done / 6
        let h : Nat := t.done % 6 / 3
        let zero : List Cx := [(0, 0), (0, 0), (0, 0)]
        let smp : Option (List Cx) :=
          if t.kind = .gap ∨ t.silent = some j then some zero
          else (c.linePlace m g t j).map (fun p => (upFrom (3 * h) 3).map (fun i =>
                 let v := smpAt m.seg (p.1) p.2 i
                 (v.1 * 16, v.2 * 16)))
        match smp with
        | none => (c, none)
        | some vs =>
          let r : Core × Bool := match c.linePlace m g t j with
            | some p => if t.kind = TKind.play ∧ t.silent ≠ some j then c.eccBytes m g 3 (p.1 + p.2 * 18 + 9 * h) 9 else (c, true)
            | none => (c, true)
          if !r.2 then (r.1, none)
          else
            let c : Core := r.1
            let y : Core × Timed := if t.done = 6 * (t.gran - 1) then c.fixExit m g t else (c, t)
            let c : Core := y.1
            let t : Timed := { y.2 with done := t.done + 3 }
            let out := (upFrom 0 3).map (fun i =>
              (vs.getD i (0, 0), ({ stamp := t.s0 + 2 * j + h, sub := i, ct := ct, xn := xn, ftw := k.ftw, poff := k.poff, amp := k.amp } : SMeta)))
            let k := { k with last := vs.getD 2 (0, 0), zl := false, left := if h = 1 ∧ ct ≠ 0 then k.left - 1 else k.left, cur := some t }
            let c := if h = 1 ∧ t.kind = .play then c.freeLine m g ct t j else c
            let c := if c.on (Fd.CEL_CFG_PHX_INLINE g) then c.modCell g (fun x => ({ x with rin := x.rin ++ out }).group false) else c
            let c := if 6 * t.gran ≤ t.done then c.finish g k ct t else c.modCell g (fun x => x.setPath k)
            (c.settle g, some out)

/-- With the engine inline the renderer fills the input port while it has room (R72). -/
def Core.pump (m : Mems) (g : Nat) : Nat → Core → Core
  | 0, c => c.modCell g Cell.fillPort
  | n + 1, c =>
    let c := c.modCell g Cell.fillPort
    let x := c.cell g
    if c.cellRuns g && c.on (Fd.CEL_CFG_PHX_INLINE g) && c.role g != 2 && x.gq.isEmpty && decide (x.phx.inPort.length < 2) then
      match c.renderTick m g with
      | (c, none) => c
      | (c, some _) => Core.pump m g n c
    else c

/-- The pump with enough turns for two groups. -/
def Core.feed (c : Core) (m : Mems) (g : Nat) : Core := c.pump m g 6

/-! ### Instructions -/

/-- Runs the next sequencer word of cell `g` when the cell executes, the path is ready for an instruction, and the word's opcode is `op` (R107, R108, R127). The sequencer fetches only
from its own part of program memory (R64): a JMP below it faults as one past its end does. (log 6 DEDUCED, 130 DESIGN CHOICE, 167 DESIGN CHOICE) -/
def Core.seqRun (c : Core) (m : Mems) (g op : Nat) (f : Core → SeqCtx → Nat → Nat → Nat → Core) : Core :=
  c.unitOf m g (fun c => if !c.cellRuns g then c
  else match (c.cell g).path with
    | none => c
    | some (k, ct, xn) =>
      if k.cur.isSome || k.cond.isSome || k.ended || k.stop then c
      else if k.pc < c.seqW g ∨ 4096 ≤ k.pc then c.seqFault m g 3
      else
        let w := pmWord m g k.pc
        if sqOp w != op || !roleMay op (c.role g) then c
        else
          let r := c.eccRead m g 1 (g * 4096 + k.pc)
          if r.2 then f r.1 k ct xn w else r.1)

/-- A zero-time instruction (R107): at most 16 between two timed ones. -/
def Core.zeroTime (c : Core) (m : Mems) (g op : Nat) (f : Core → SeqCtx → Nat → Nat → Nat → Core × SeqCtx) : Core :=
  c.seqRun m g op (fun c k ct xn w =>
    if 16 ≤ k.zt then c.seqFault m g 1
    else
      let p := f c { k with zt := k.zt + 1, pc := k.pc + 1 } ct xn w
      ((p.1.modCell g (fun x => x.setPath p.2)).settle g).feed m g)

/-- A zero-time instruction that changes only its path. -/
def Core.pathOnly (c : Core) (m : Mems) (g op : Nat) (f : SeqCtx → Nat → SeqCtx) : Core :=
  c.zeroTime m g op (fun c k _ _ w => (c, f k w))

/-- A zero-time instruction whose effect lies outside the cell. -/
def Core.fxOnly (c : Core) (m : Mems) (g op : Nat) (f : SeqCtx → Nat → Fx) : Core :=
  c.zeroTime m g op (fun c k ct _ w => c.effect g ct k (f k w))

/-- A timed instruction begins (R107). -/
def Core.beginTimed (c : Core) (m : Mems) (g : Nat) (k : SeqCtx) (t : Timed) : Core :=
  (c.modCell g (fun x => x.setPath { k with zt := 0, cur := some t })).feed m g

/-- A timed instruction of `gran` granules at the path's next stamp. -/
def Timed.mk0 (kind : TKind) (k : SeqCtx) (gran : Nat) : Timed :=
  { kind := kind, word := k.pc, s0 := k.stamp, gran := max 1 gran, done := 0, segid := 0, segLen := 0, win := 0, mask := 0, all := false, fill := false,
    deft := 0, dl := 0, silent := none, sbase := 0, exit := none }

/-- NOP (R109). -/
def execSeqNop (g : Nat) (s : State) : Host.Outcome State Fault Refusal := s.onCore (fun m c => c.pathOnly m g 0x00 (fun k _ => k))

/-- The PLAY of word `w` on path `k` (R104, R109): entry SEG, REP + 1 times; a stream play takes the next granules of its stream. -/
def Core.playOf (c : Core) (m : Mems) (g : Nat) (k : SeqCtx) (w : Nat) : SeqCtx × Timed :=
  let id := segTab m c g (sqSeg w)
  let e := dirEntry m id
  let n := dirLen e * (sqLow20 w + 1)
  let z := dirStream e
  let base := Tbl.get (fun _ => 0) k.strm z
  (if dirHome e = 3 then { k with strm := Tbl.insert k.strm z (base + n) } else k, { Timed.mk0 .play k n with segid := id, segLen := dirLen e, sbase := base })

/-- PLAY (R104, R109). -/
def execSeqPlay (g : Nat) (s : State) : Host.Outcome State Fault Refusal :=
  s.onCore (fun m c => c.seqRun m g 0x01 (fun c k _ _ w =>
    let e := c.eccImage m g (40 + 2 * sqSeg w)
    if !e.2 then e.1 else let y := e.1.playOf m g k w; e.1.beginTimed m g y.1 y.2))

/-- GAP (R109). -/
def execSeqGap (g : Nat) (s : State) : Host.Outcome State Fault Refusal :=
  s.onCore (fun m c => c.seqRun m g 0x02 (fun c k _ _ w => c.beginTimed m g k (Timed.mk0 .gap k (sqLow20 w))))

/-- MEASURE (R109, R166): a window of DUR granules under its entry, with the label of MTAG, which it uses up (R174). -/
def execSeqMeasure (g : Nat) (s : State) : Host.Outcome State Fault Refusal :=
  s.onCore (fun m c => c.seqRun m g 0x03 (fun c k ct xn w =>
    let id := (c.cell g).ro.winNext
    let dur := max 1 (sqLow20 w)
    let win : Win := { id := id, mt := sqSeg w % 8, dur := dur, m0 := k.stamp, label := k.mtag, ct := ct, xn := xn, n := 0, accI := 0, accQ := 0, ovr := false,
                       late := false, stale := false, posted := 0, postedAt := none, sent := false, out := none, dead := false, run := ct }
    let c := c.modRo g (fun o => { o with wins := o.wins ++ [win], winNext := id + 1 })
    c.beginTimed m g { k with mtag := 0 } { Timed.mk0 .measure k dur with win := id }))

/-- The marker that begins a WAIT's fill (R123). The envelope samples of a WAIT before it are its fill. -/
def waitMark (inline : Bool) (k : SeqCtx) (ct xn : Nat) (fill : Bool) : Mark :=
  { kind := .fill (if fill then k.last else (0, 0)) k.ftw k.poff k.amp, stamp := k.stamp, ct := ct, xn := xn, late := false,
    from_ := if fill && inline && !k.zl then some ct else none }

/-- The taken path is at a WAIT that starts at `w0` (R123): WAIT_HOLD; a READOUT cell's samples from W0 on are covered. -/
def Core.enterWait (c : Core) (g w0 : Nat) : Core :=
  let c := c.put (Fd.CEL_SEQ_STS_HOLD g) 2
  if c.role g = 2 then c.modRo g (fun o => { o with cover := some w0 }) else c

/-- WAIT (R109, R121, R123). On a candidate run it ends the run and its marker is tagged (R118). -/
def execSeqWait (g : Nat) (s : State) : Host.Outcome State Fault Refusal :=
  s.onCore (fun m c => c.seqRun m g 0x04 (fun c k ct xn w =>
    let t := { Timed.mk0 .wait k 1 with mask := sqSeg w, all := bitAt w 49, fill := bitAt w 48, deft := sqTgt w, dl := sqLow16 w }
    let c := c.modCell g (Cell.group true)
    let c := if c.role g = 2 then c else c.sendMark g (waitMark (c.on (Fd.CEL_CFG_PHX_INLINE g)) k ct xn t.fill)
    let k := if t.fill then k else { k with last := (0, 0), zl := true }
    let c := c.modCell g (fun x => x.setPath { k with zt := 0, cur := some t, stop := decide (ct ≠ 0) })
    ((if ct = 0 then c.enterWait g k.stamp else c).settle g).feed m g))

/-- JMP (R109). -/
def execSeqJmp (g : Nat) (s : State) : Host.Outcome State Fault Refusal :=
  s.onCore (fun m c => c.pathOnly m g 0x08 (fun k w => { k with pc := sqTgt w }))

/-- The path after the LOOP of word `w`, `k.pc` being the word after it (R110). -/
def SeqCtx.loopAt (k : SeqCtx) (w : Nat) : SeqCtx :=
  if sqLow20 w = 0 then { k with pc := sqTgt w + 1, loops := Tbl.erase k.loops (sqLevel w) }
  else { k with loops := Tbl.insert k.loops (sqLevel w) (sqLow20 w, k.pc) }

/-- The path after an ENDL of an active level, `k.pc` being the word after it (R110). -/
def SeqCtx.endlAt (k : SeqCtx) (l n start : Nat) : SeqCtx :=
  if 1 < n then { k with pc := start, loops := Tbl.insert k.loops l (n - 1, start) } else { k with loops := Tbl.erase k.loops l }

/-- LOOP (R110). -/
def execSeqLoop (g : Nat) (s : State) : Host.Outcome State Fault Refusal := s.onCore (fun m c => c.pathOnly m g 0x09 SeqCtx.loopAt)

/-- ENDL (R110): on an inactive level it faults with cause LOOP. -/
def execSeqEndl (g : Nat) (s : State) : Host.Outcome State Fault Refusal :=
  s.onCore (fun m c => c.seqRun m g 0x0A (fun c0 k _ _ w =>
    if 16 ≤ k.zt then c0.seqFault m g 1
    else
      match k.loops.find? (fun l => l.1 == sqLevel w) with
      | none => c0.seqFault m g 2
      | some (l, n, start) =>
        c.pathOnly m g 0x0A (fun k _ => k.endlAt l n start)))

/-- SIGNAL (R113). -/
def execSeqSignal (g : Nat) (s : State) : Host.Outcome State Fault Refusal :=
  s.onCore (fun m c => c.fxOnly m g 0x0B (fun k w => .signal (sqLevel w) (sqValue w) k.stamp))

/-- END (R41, R107, R109): the END marker at the stamp after the last granule. It has been sent once no sample before it is left in an engine. -/
def execSeqEnd (g : Nat) (s : State) : Host.Outcome State Fault Refusal :=
  s.onCore (fun m c => c.zeroTime m g 0x3F (fun c k ct xn _ =>
    let c := c.modCell g (Cell.group true)
    let k' : Mark := { kind := .endm, stamp := k.stamp, ct := ct, xn := xn, late := false, from_ := none }
    let c := if c.role g = 2 then c else c.sendMark g k'
    (if ct = 0 && (c.role g == 2 || (c.cell g).canSend k') then c.ended g k.stamp else c, { k with ended := true })))

/-- SETF (R132). -/
def execSeqSetf (g : Nat) (s : State) : Host.Outcome State Fault Refusal :=
  s.onCore (fun m c => c.pathOnly m g 0x10 (fun k w => { k with ftw := bitsOf w 0 48 }))

/-- SETP (R132). -/
def execSeqSetp (g : Nat) (s : State) : Host.Outcome State Fault Refusal :=
  s.onCore (fun m c => c.pathOnly m g 0x11 (fun k w => { k with poff := sqLow16 w }))

/-- ADDP (R132). -/
def execSeqAddp (g : Nat) (s : State) : Host.Outcome State Fault Refusal :=
  s.onCore (fun m c => c.pathOnly m g 0x12 (fun k w => { k with poff := (k.poff + sqLow16 w) % 2 ^ 16 }))

/-- SETA (R132). -/
def execSeqSeta (g : Nat) (s : State) : Host.Outcome State Fault Refusal :=
  s.onCore (fun m c => c.pathOnly m g 0x13 (fun k w => { k with amp := sqLow16 w }))

/-- LOCK and UNLOCK send a marker stamped with the path's next stamp (R148, R149). -/
def Core.lockMark (c : Core) (m : Mems) (g op : Nat) (kind : MarkKind) : Core :=
  c.zeroTime m g op (fun c k ct xn _ => (c.sendMark g { kind := kind, stamp := k.stamp, ct := ct, xn := xn, late := false, from_ := none }, k))

/-- LOCK (R132, R148). -/
def execSeqLock (g : Nat) (s : State) : Host.Outcome State Fault Refusal := s.onCore (fun m c => c.lockMark m g 0x14 .lock)

/-- UNLOCK (R132, R149). -/
def execSeqUnlock (g : Nat) (s : State) : Host.Outcome State Fault Refusal := s.onCore (fun m c => c.lockMark m g 0x15 .unlock)

/-- MTAG (R174). -/
def execSeqMtag (g : Nat) (s : State) : Host.Outcome State Fault Refusal :=
  s.onCore (fun m c => c.pathOnly m g 0x18 (fun k w => { k with mtag := w % 4 }))

/-- SROUND (R195). -/
def execSeqSround (g : Nat) (s : State) : Host.Outcome State Fault Refusal :=
  s.onCore (fun m c => c.fxOnly m g 0x1C (fun k w => .sround (sqLow16 w) k.stamp))

/-- FRAME (R191). -/
def execSeqFrame (g : Nat) (s : State) : Host.Outcome State Fault Refusal :=
  s.onCore (fun m c => c.fxOnly m g 0x1D (fun k w => .frame (w % 4) (w / 4 % 4) k.stamp))

end Sys2Proof.Machine
end

