-- ==== Sys2Proof/Machine/Render.lean ====
section
/-!
DEFINITION. What brings data to the renderer and takes a path on: refill of the staging and stage rings (R99-R105), entries and markers on their way (R40-R43, R495),
the select of an exit (R117-R120), the end of a WAIT (R121-R123), the posting of a SIGNAL (R113).
-/
namespace Sys2Proof.Machine

/-! ### Refill -/

/-- Entries used in the segment table of cell `g` (R106). -/
def segCount (m : Mems) (c : Core) (g : Nat) : Nat := bitsOf (pmWord m g (c.seqW g)) 16 9

/-- Does the active segment table of cell `g` name SEGID `id`? -/
def segNamed (m : Mems) (c : Core) (g id : Nat) : Bool := (upFrom 0 (segCount m c g)).any (fun x => segTab m c g x == id)

/-- The lowest place below `n` that is not in use. -/
def freePlace (n : Nat) (used : List Nat) : Option Nat := (upFrom 0 n).find? (fun p => !used.contains p)

/-- The cell that owns stream `z`: the OWNER of a VALID STREAM segment of the stream which that cell's active segment table names (R104, R124). (log 61 DEDUCED) -/
def streamOwner (m : Mems) (c : Core) (z : Nat) : Option Nat :=
  let ids := (m.dir.map (fun e => e.1 / 16)).eraseDups
  (ids.find? (fun i =>
    let e := dirEntry m i
    dirValid e && dirHome e == 3 && dirStream e == z && segNamed m c (dirOwner e) i)).map (fun i => dirOwner (dirEntry m i))

/-- The granule of stream `z` that the taken path of a cell plays next (R104). -/
def Cell.streamAt (m : Mems) (x : Cell) (z : Nat) : Nat :=
  match x.ctx.cur with
  | some t => if t.kind = TKind.play ∧ lineKey m t.segid = 65536 + z then t.sbase + t.done / 6 else Tbl.get (fun _ => 0) x.ctx.strm z
  | none => Tbl.get (fun _ => 0) x.ctx.strm z

/-- Has the owner of stream `z` passed line `k` of it, or has the stream no owner (R105)? -/
def Core.streamPassed (c : Core) (m : Mems) (z k : Nat) : Bool :=
  match streamOwner m c z with
  | none => true
  | some g => decide (k * 7 + 6 < (c.cell g).streamAt m z)

/-- Stream lines that have been passed leave block `b` of region `r` (R105). -/
def Core.dropPassed (c : Core) (m : Mems) (r b : Nat) : Core :=
  let old := fun (segid line : Nat) => decide (65536 ≤ segid) && c.streamPassed m (segid - 65536) line
  (c.modBlk (16 * r + b) (fun k => { k with cache := k.cache.filter (fun l => !old l.segid l.line), inbox := k.inbox.filter (fun l => !old l.segid l.line) })).stageUsed r b

/-! ### The lines a cell asks for (R100) -/

/-- The lines that the path `k` of cell `g` needs and the lines `have` do not give: the next of them, in render order, and the lines left over. The look ahead ends at a WAIT, an END
and an exit that waits for its condition; with `both` it goes on along both sides of the first such exit (R100). (log 140 DESIGN CHOICE) -/
def Core.wants (c : Core) (m : Mems) (g : Nat) : Nat → Bool → SeqCtx → List StageLine → List (Nat × Nat) × List StageLine
  | 0, _, _, ls => ([], ls)
  | n + 1, both, k, ls =>
    match k.cur with
    | some t =>
      let e := dirEntry m t.segid
      let j := t.done / 6
      if t.kind = TKind.play ∧ dirHome e ≠ 0 ∧ j < t.gran then
        let js := if dirHome e = 3 then t.sbase + j else j % max 1 t.segLen
        let n' := min (t.gran - j) (if dirHome e = 3 then 7 - js % 7 else min (7 - js % 7) (max 1 t.segLen - js))
        let id := lineKey m t.segid
        if ls.any (fun s => s.segid == id && s.line == js / 7) then
          let whole := dirHome e ≠ 3 ∨ (js + n') % 7 = 0
          c.wants m g n both { k with cur := some { t with done := 6 * (j + n') } } (if whole then ls.eraseP (fun s => s.segid == id && s.line == js / 7) else ls)
        else ([(id, js / 7)], ls)
      else if t.kind = TKind.wait then ([], ls)
      else
        match t.exit.getD (exitOf (c.cell g).phx.pf t.word (pmWord m g t.word)) with
        | .goto pc => c.wants m g n both { k with cur := none, pc := pc } ls
        | .known pc => if t.exit.isSome then c.wants m g n both { k with cur := none, pc := pc } ls else ([], ls)
        | .cond _ _ a b =>
          if both then
            let x := c.wants m g n false { k with cur := none, pc := a } ls
            (x.1 ++ (c.wants m g n false { k with cur := none, pc := b } x.2).1 ++ (c.wants m g n false { k with cur := none, pc := b } ls).1, x.2)
          else ([], ls)
    | none =>
      if k.cond.isSome || k.ended || decide (k.pc < c.seqW g) || decide (4096 ≤ k.pc) then ([], ls)
      else
        let w := pmWord m g k.pc
        let op := sqOp w
        let k1 := { k with pc := k.pc + 1 }
        if op = 0x01 then let y := c.playOf m g k w; c.wants m g n both { y.1 with cur := some y.2 } ls
        else if op = 0x02 ∨ op = 0x03 then c.wants m g n both { k with cur := some (Timed.mk0 .gap k 1) } ls
        else if op = 0x04 ∨ op = 0x3F then ([], ls)
        else if op = 0x08 then c.wants m g n both { k with pc := sqTgt w } ls
        else if op = 0x09 then c.wants m g n both (k1.loopAt w) ls
        else if op = 0x0A then
          match k.loops.find? (fun l => l.1 == sqLevel w) with
          | none => ([], ls)
          | some (l, cnt, start) => c.wants m g n both (k1.endlAt l cnt start) ls
        else c.wants m g n both k1 ls

/-- The lines that cell `g` may ask for next: on the taken path, or on either candidate path (R100). -/
def Core.lineWants (c : Core) (m : Mems) (g : Nat) : List (Nat × Nat) :=
  let x := c.cell g
  match x.branch with
  | none => (c.wants m g 8192 true x.ctx x.stage).1
  | some b =>
    let a := c.wants m g 8192 false b.c0 x.stage
    a.1 ++ (c.wants m g 8192 false b.c1 a.2).1 ++ (c.wants m g 8192 false b.c1 x.stage).1

/-- The line of a block's staging ring that gives way to a new one: the least recently used LIBRARY line that `keep` does not hold back (R100). -/
def lruLine (keep : CacheLine → Bool) : List CacheLine → Option CacheLine
  | [] => none
  | a :: rest =>
    match lruLine keep rest with
    | none => if a.segid < 65536 ∧ keep a = false then some a else none
    | some b => if a.segid < 65536 ∧ keep a = false ∧ a.use ≤ b.use then some a else some b

/-- Has a cell of block `b` of region `r` a request for a line outstanding (R100): it runs, has room in its stage ring, and asks for the line next? -/
def Core.lineAsked (c : Core) (m : Mems) (r b : Nat) (l : CacheLine) : Bool :=
  (blkCells r b).any (fun g =>
    c.cellRuns g && c.cellAsks g && (freePlace (c.get (Fd.CEL_SEQ_CFG_STAGE_LINES g)) ((c.cell g).stage.map (fun s => s.place))).isSome
      && (c.lineWants m g).contains (l.segid, l.line))

/-- A place in the staging ring of block `b` of region `r` for a new line (R100): a free one, or that of the least recently used LIBRARY line that no cell has outstanding.
(log 27 DESIGN CHOICE, 28 DEDUCED) -/
def Core.stagePlace (c : Core) (m : Mems) (r b : Nat) : Option (Nat × Core) :=
  let k := 16 * r + b
  let ca := (c.blk k).cache
  match freePlace (c.get (Fd.BLK_SEG_CFG_STAGE_LINES r b)) (ca.map (fun l => l.place)) with
  | some p => some (p, c)
  | none => (lruLine (c.lineAsked m r b) ca).map (fun l => (l.place, c.modBlk k (fun x => { x with cache := x.cache.filter (fun y => y.place != l.place) })))

/-- A line put into the staging ring of a block, under a token of the block's store (R52, R54): the memory of the store and the ring. (log 27 DESIGN CHOICE) -/
def Core.stagePut (c : Core) (m : Mems) (r b segid line : Nat) (data : List Byte) : Mems × Core × Option Nat :=
  match c.stagePlace m r b with
  | none => (m, c, none)
  | some (p, c) =>
    let k := 16 * r + b
    let c := c.modBlk k (fun x => { x with cache := x.cache ++ [{ segid := segid, line := line, place := p, use := x.useCtr }], useCtr := x.useCtr + 1 })
    ({ m with blk := wrBytes zeroByte m.blk (k * 524288 + p * 128) data }, (c.bookPass (bookKey 5 r b) 1).stageUsed r b, some p)

/-! ### Refill -/

/-- The byte address in the stack of a line of LIBRARY segment `segid` (R310). -/
def Core.libAddr (c : Core) (m : Mems) (segid line : Nat) : Nat := c.get (Fd.HBM_PART_BASE 0) * 2 ^ 26 + (dirLine (dirEntry m segid) + line) * 128

/-- The refill engine of block `b` of region `r` is to bring a LIBRARY line, unless it is there or on its way (R100, R101). -/
def Core.askLine (c : Core) (r b segid line : Nat) : Core :=
  let k := c.blk (16 * r + b)
  if k.cache.any (fun l => l.segid == segid && l.line == line) || k.want.contains (segid, line) || k.inbox.any (fun l => l.segid == segid && l.line == line) then c
  else c.modBlk (16 * r + b) (fun k => { k with want := k.want ++ [(segid, line)] })

/-- What a read of a refill engine has brought (R317): the line it asked for at this address; an uncorrectable one is neither delivered nor cached. -/
def Core.refillGot (c : Core) (m : Mems) (r b addr : Nat) (data : List Byte) (ok : Bool) : Core :=
  match (c.blk (16 * r + b)).want.find? (fun w => c.libAddr m w.1 w.2 == addr) with
  | none => c
  | some w => c.modBlk (16 * r + b) (fun k =>
      { k with want := k.want.filter (fun v => v != w), inbox := if ok then k.inbox ++ [{ segid := w.1, line := w.2, data := data }] else k.inbox })

/-- PREFETCH (R101): the refill engine is asked for the first LINES lines of a LIBRARY segment, on either candidate run. (log 28 DEDUCED) -/
def execSeqPrefetch (g : Nat) (s : State) : Host.Outcome State Fault Refusal :=
  s.onCore (fun m c => c.zeroTime m g 0x0C (fun c k _ _ w =>
    let id := segTab m c g (sqSeg w)
    let e := dirEntry m id
    let c := (c.eccImage m g (40 + 2 * sqSeg w)).1
    (if dirHome e = 2 then (upFrom 0 (min (sqLow16 w) (ceilDiv (dirLen e) 7))).foldl (fun c l => c.askLine (cellR g) (cellB g) id l) c else c, k)))

/-- The place in the block store of a line that cell `g` asks its block for (R97, R332): in the resident area, or in the staging ring; none: a miss. -/
def Core.blockPlace (c : Core) (m : Mems) (g segid line : Nat) : Option Nat :=
  let e := dirEntry m segid
  if dirHome e = 1 then some (dirLine e + line)
  else ((c.blk (16 * cellR g + cellB g)).cache.find? (fun l => l.segid == lineKey m segid && l.line == line)).map (fun l => l.place)

/-- Cell `g` is told that the staging ring misses its line: the count, the end of its grant, and for a LIBRARY line the read by the refill engine (R332). (log 28 DEDUCED) -/
def Core.missLine (c : Core) (m : Mems) (g segid line : Nat) : Core :=
  let r := cellR g
  let b := cellB g
  let a := Arb.block r b
  if c.arbRoom a (cellC g) 1 = 0 then c
  else
    let c := (c.modArb (arbKey a) (fun s => { s.release with parts := Tbl.erase s.parts (portKey (cellC g) 0) })).inc (Fd.BLK_SEG_STS_LIB_MISS r b) 1
    if dirHome (dirEntry m segid) = 2 then c.askLine r b segid line else c

/-- A line in place `q` of the block store reaches place `p` of the stage ring of cell `g`. -/
def takeLine (m : Mems) (c : Core) (g segid line p q : Nat) : Mems × Core :=
  let k := 16 * cellR g + cellB g
  let id := lineKey m segid
  let data := rdBytes zeroByte m.blk (k * 524288 + q * 128) 128
  let m := { m with seg := wrBytes zeroByte m.seg (g * 32768 + p * 128) data }
  let c := c.modBlk k (fun x => { x with cache := x.cache.map (fun y => if y.segid = id ∧ y.line = line then { y with use := x.useCtr } else y), useCtr := x.useCtr + 1 })
  let c := (c.modCell g (fun x => { x with stage := x.stage ++ [{ segid := id, line := line, place := p }] })).bookPass (bookKey 1 (cellR g) (g % 288)) 1
  (m, c.feed m g)

/-- STAGE_LINE_ARRIVAL (R99, R100, R105, R332): the request of cell `g` for a line it needs next has the grant of the block port, which moves the line into a free place of the stage
ring, and the renderer goes on; or the block answers that the staging ring misses the line. A line that no path needs is not asked for, one already passed among them. (log 27 DESIGN CHOICE, 140 DESIGN CHOICE) -/
def execStageLineArrival (g segid line : Nat) (s : State) : Host.Outcome State Fault Refusal :=
  s.onBoth (fun m c =>
    let x := c.cell g
    match freePlace (c.get (Fd.CEL_SEQ_CFG_STAGE_LINES g)) (x.stage.map (fun l => l.place)) with
    | none => (m, c)
    | some p =>
      if !c.cellRuns g || !c.cellAsks g || !dirValid (dirEntry m segid) || !(c.lineWants m g).contains (lineKey m segid, line) then (m, c)
      else match c.blockPlace m g segid line with
        | none => (m, c.missLine m g segid line)
        | some q =>
          let y := c.moveBeats (.block (cellR g) (cellB g)) (cellC g) 0 2
          if y.2 then takeLine m y.1 g segid line p q else (m, y.1))

/-- UNDERRUN (R43, R105): the renderer waits for a line and the cell's lead would fall below UNDERRUN_LEAD; the granule is rendered as zero. Before the cell's first entry the render
position stands for the newest stamp accepted. (log 140 DESIGN CHOICE) -/
def execUnderrun (g : Nat) (s : State) : Host.Outcome State Fault Refusal :=
  s.onCore (fun m c =>
    if !c.cellRuns g then c
    else match (c.cell g).path with
      | none => c
      | some (k, ct, _) =>
        match k.cur with
        | none => c
        | some t =>
          let j := t.done / 6
          let lim := max 2 (c.get (Fd.CEL_SEQ_CFG_UNDERRUN_LEAD g))
          let lead : Int := (c.lead g).getD (((t.s0 + 2 * j : Nat) : Int) - 18 - (c.now : Int))
          if t.kind != .play || t.done % 6 != 0 || t.silent == some j || (c.linePlace m g t j).isSome || (ct != 0 && k.left == 0) || decide ((lim : Int) < lead) then c
          else
            let c := c.modCell g (fun x => x.setPath { k with cur := some { t with silent := some j } })
            let c := (c.put (Fd.CEL_SEQ_STS_UNDERRUN g) 1).inc (Fd.CEL_SEQ_CNT1_UNDERRUN g) 1
            (c.modShot (cellR g) (fun x => { x with under := true })).feed m g)

/-! ### Entries and markers -/

/-- The next stage takes an output group of the engine (R73): its valid lanes with their places. -/
def Cell.takeOut (x : Cell) : Cell :=
  match x.phx.outPort with
  | [] => x
  | p :: rest =>
    let smp := ((upFrom 0 4).zip p.metas).map (fun k => (vLane p.lanes k.1, k.2))
    let smp := smp.filter (fun k => k.2.ct != 3)
    { x with phx := { x.phx with outPort := rest }, post := x.post ++ smp,
             lastOut := smp.foldl (fun l k => Tbl.insert l k.2.ct k.1) x.lastOut }

/-- A READOUT cell posts the next granule of its schedule (R43, R115). -/
def Core.postGranule (c : Core) (m : Mems) (g : Nat) : Core :=
  let x := c.cell g
  match x.path with
  | none => c
  | some (k, ct, xn) =>
    match k.cur with
    | none => c
    | some t =>
      if (t.kind != .measure && t.kind != .gap) || (ct != 0 && k.left == 0) || decide (64 ≤ x.ro.sched.length) then c
      else
        let st := t.s0 + 2 * t.done
        let y : Core × Timed := if t.done + 1 = t.gran then c.fixExit m g t else (c, t)
        let t := { y.2 with done := t.done + 1 }
        let win := if t.kind = TKind.measure then some t.win else none
        let whole := t.done == t.gran
        let c := (y.1.firstEntry g).modRo g (fun o =>
          { o with sched := o.sched ++ [{ stamp := st, win := win, ct := ct, xn := xn }],
                   posted := if ct = 0 then some (max (st + 1) (o.posted.getD 0)) else o.posted,
                   wins := modFirst (fun w => win == some w.id) (fun w => { w with posted := w.posted + 1, postedAt := if whole && ct == 0 then some c.now else w.postedAt }) o.wins })
        let k := { k with left := if ct = 0 then k.left else k.left - 1, cur := some t }
        let c := if whole then c.finish g k ct t else c.modCell g (fun x => x.setPath k)
        (c.settle g).drainBuf m g

/-- QUEUE_ENTRY_ARRIVAL (R40, R42, R43, R73, R496): the next entry of cell `g` reaches its queues: of a DRIVE or BASEBAND cell the samples of one tick, rendered or
taken from the engine; of a READOUT cell one granule of its schedule. -/
def execQueueEntryArrival (g : Nat) (s : State) : Host.Outcome State Fault Refusal :=
  s.onCore (fun m c =>
    let role := c.role g
    if role = 2 then (if c.cellRuns g then (c.schedFree g (c.now - 1)).postGranule m g else c)
    else if role = 0 || !c.cellLive g || c.parked (cellR g) || !c.laneCredit g || !c.svc then c
    else if c.on (Fd.CEL_CFG_PHX_INLINE g) then
      let c := (iter (fun (x : Cell) => if x.post.length < 3 then x.takeOut else x) 2 (c.cell g) |> c.setCell g)
      let p := (c.cell g).post
      let c := if 3 ≤ p.length then (c.sendTick g (p.take 3)).modCell g (fun x => { x with post := x.post.drop 3 }) else c
      c.feed m g
    else if c.cellRuns g then
      match c.renderTick m g with
      | (c, none) => c
      | (c, some smp) => c.sendTick g smp
    else c)

/-- A marker as it leaves cell `x`: a fill that repeats an engine output takes the last one of its path, or of the path before the exit (R123). -/
def Cell.outMark (x : Cell) (k : Mark) : Mark :=
  match k.kind, k.from_ with
  | .fill _ f p a, some t => { k with kind := MarkKind.fill (((x.lastOut.find? (fun e => e.1 == t)).map (fun e => e.2)).getD (Tbl.get (fun _ => (0, 0)) x.lastOut 0)) f p a }
  | _, _ => k

/-- MARKER_ARRIVAL (R41, R123, R495): the oldest marker that cell `g` may send reaches its lanes. An END that waited for the last samples has now been sent. -/
def execMarkerArrival (g : Nat) (s : State) : Host.Outcome State Fault Refusal :=
  s.onCore (fun _ c =>
    let x := c.cell g
    match x.outMarks.find? x.canSend with
    | none => c
    | some k =>
      if !c.svc || !c.cellLive g || c.parked (cellR g) then c
      else
        let c := c.modCell g (fun y => { y with outMarks := y.outMarks.erase k })
        let c := if k.kind = .endm ∧ k.ct = 0 ∧ x.endAt = none then c.ended g k.stamp else c
        c.markLanes g (x.outMark k))

/-! ### The select -/

/-- Does class `v` meet condition code `cc` (R116)? -/
def ccHolds (cc v : Nat) : Bool := if cc / 8 = 1 then v == 1 else if cc / 8 = 2 then v == 2 else v == 1 || v == 2

/-- A place's tag after the select: the selected candidate's becomes plain, the other's dead (R119). -/
def selTag (xn sel : Nat) (t : SMeta) : SMeta :=
  if (t.ct = 1 ∨ t.ct = 2) ∧ t.xn = xn then { t with ct := if t.ct = sel + 1 then 0 else 3 } else t

/-- A group with its places retagged. -/
def selGroup (xn sel : Nat) (p : PGroup) : PGroup := { p with metas := p.metas.map (selTag xn sel) }

/-- What a cell holds of the two runs after the select (R119): samples, groups, markers, windows and schedule. -/
def Cell.selectHeld (x : Cell) (now xn sel : Nat) : Cell :=
  let smp := fun (l : List (Cx × SMeta)) => (l.map (fun k => (k.1, selTag xn sel k.2))).filter (fun k => k.2.ct != 3)
  let keep := fun (ct n : Nat) => ct == 0 || n != xn || ct == sel + 1
  let sched := (x.ro.sched.filter (fun s => keep s.ct s.xn)).map (fun s => if s.ct ≠ 0 ∧ s.xn = xn then { s with ct := 0 } else s)
  let wins := (x.ro.wins.filter (fun w => keep w.ct w.xn)).map (fun w =>
    if w.ct ≠ 0 ∧ w.xn = xn then { w with ct := 0, postedAt := if w.posted = w.dur then some now else w.postedAt } else w)
  let top := maxList 0 ((sched.filter (fun s => s.ct == 0)).map (fun s => s.stamp + 1))
  { x with rin := smp x.rin, gq := x.gq.map (selGroup xn sel), post := smp x.post,
           phx := { x.phx with inPort := x.phx.inPort.map (selGroup xn sel), outPort := x.phx.outPort.map (selGroup xn sel), taken := x.phx.taken.map (selGroup xn sel) },
           lastOut := match x.lastOut.find? (fun k => k.1 == sel + 1) with
             | some k => [(0, k.2)]
             | none => x.lastOut.filter (fun k => k.1 == 0),
           outMarks := x.outMarks.map (fun k => if k.xn = xn ∧ k.from_ = some (sel + 1) then { k with from_ := some 0 } else k),
           icNext := 3,
           ro := { x.ro with sched := sched, wins := wins, posted := if sched.isEmpty then x.ro.posted else some (max top (x.ro.posted.getD 0)) } }

/-- The stage ring of cell `g` once path `k` is the taken one: lines that this path does not need go, but for stream lines not passed. (log 26 DEDUCED) -/
def Core.keepLines (c : Core) (m : Mems) (g : Nat) (k : SeqCtx) (l : List StageLine) : List StageLine :=
  let extra := (c.wants m g 8192 false k l).2
  l.filter (fun s => !extra.contains s || (decide (65536 ≤ s.segid) && decide (({ c.cell g with ctx := k } : Cell).streamAt m (s.segid - 65536) ≤ s.line * 7 + 6)))

/-- The effects of the selected run take place, in its order (R118). (log 22 DEDUCED, 23 DEDUCED) -/
def Core.runFx (c : Core) (g : Nat) (l : List Fx) : Core := l.foldl (fun c f => c.applyFx g true f) c

/-- The exit `b` of cell `g` takes candidate `sel` (R117-R120). -/
def Core.takeExit (c : Core) (m : Mems) (g : Nat) (b : Branch) (sel : Nat) : Core :=
  let yes : SeqCtx := if sel = 0 then b.c0 else b.c1
  let c := c.modCell g (Cell.group true)
  let c := c.laneSelect g b.xn sel
  let path : SeqCtx := { yes with fx := [], left := 0, stop := false, cond := none }
  let c := c.modCell g (fun x => { (x.selectHeld c.now b.xn sel) with branch := none, ctx := path, stage := c.keepLines m g path x.stage })
  let c := (c.put (Fd.CEL_SEQ_STS_HOLD g) 0).runFx g yes.fx
  let fin : Mark := { kind := .endm, stamp := yes.stamp, ct := 0, xn := 0, late := false, from_ := none }
  let c := if yes.ended && (c.role g == 2 || (c.cell g).canSend fin) then c.ended g yes.stamp else c
  let c := match yes.cur with
    | some t => if t.kind = TKind.wait then c.enterWait g t.s0 else c
    | none => c
  let c := match yes.cond with
    | some (.cond cc d n t) => c.modCell g (fun x => x.fork x.ctx cc d n t)
    | _ => c
  ((c.dropPassed m (cellR g) (cellB g)).drainBuf m g).feed m g

/-- EXIT_SELECT (R117): at X the exit of cell `g` is resolved from its watch slot, or by DEF. (log 23 DEDUCED, 26 DEDUCED) -/
def execExitSelect (g : Nat) (s : State) : Host.Outcome State Fault Refusal :=
  s.onCore (fun m c =>
    let x := c.cell g
    match x.branch with
    | none => c
    | some b =>
      let tx := if c.role g = 2 then b.sT + 11 else b.sT - 17
      if !c.cellRuns g || decide (c.now < tx) then c
      else
        let k := b.cc % 8
        let w := x.slot k
        let dflt := b2n b.dflt
        if w.full && decide (w.a ≤ tx) then
          let c := (c.eccImage m g (8 + 4 * k)).1
          let c := if wKeep (watchEntry m c g k) then c else (c.modCell g (fun x => x.setSlot k { w with full := false, missed := false })).slotBits g
          if w.inv then (c.inc (Fd.CEL_SEQ_CNT0_DECISION_INVALID g) 1).takeExit m g b dflt
          else c.takeExit m g b (b2n (ccHolds b.cc w.cls))
        else
          let c := (c.inc (Fd.CEL_SEQ_CNT0_DECISION_LATE g) 1).put (Fd.CEL_SEQ_STS_DEC_LATE g) 1
          (c.modCell g (fun x => x.setSlot k { w with missed := true })).takeExit m g b dflt)

/-! ### WAIT -/

/-- The WAIT the taken path of cell `g` is at. -/
def Cell.waiting (x : Cell) : Option Timed :=
  match x.branch, x.ctx.cur with
  | none, some t => if t.kind = TKind.wait then some t else none
  | _, _ => none

/-- The tick V at which the condition of a WAIT holds, as far as the slots tell now (R121). -/
def Cell.waitV (x : Cell) (t : Timed) : Option Nat :=
  let ks := (upFrom 0 8).filter (bitAt t.mask)
  let as := (ks.filter (fun k => (x.slot k).full)).map (fun k => (x.slot k).a)
  if t.all then (if as.length = ks.length then some (max (t.s0 - 24) (maxList 0 as)) else none)
  else if as.isEmpty then none else some (max (t.s0 - 24) (minList 0 as))

/-- The first grid stamp of a WAIT at `w0` at or after `t` (R122). -/
def gridFrom (w0 t : Nat) : Nat := if t ≤ w0 then w0 else t + (t - w0) % 2

/-- The WAIT `t` of cell `g` ends: the successor at `pc` starts at `b` (R122, R123). -/
def Core.endWait (c : Core) (m : Mems) (g : Nat) (t : Timed) (b pc : Nat) : Core :=
  let c := if t.s0 < b then c.firstEntry g else c
  let c := if c.role g = 2 then
      c.modRo g (fun o => { o with cover := none, posted := if t.s0 < b then some (max (b - 1) (o.posted.getD 0)) else o.posted })
    else (c.sendMark g { kind := .resume, stamp := b, ct := 0, xn := 0, late := false, from_ := none }).modCell g
      (fun x => { x with lastAcc := if t.s0 < b then some (max (b - 1) (x.lastAcc.getD 0)) else x.lastAcc })
  let c := c.modCell g (fun x => { x with ctx := { x.ctx with cur := none, stamp := b, pc := pc, zt := 0 } })
  ((c.put (Fd.CEL_SEQ_STS_HOLD g) 0).evt g 0).feed m g

/-- WAIT_HOLDS (R121, R122): the condition holds by the deadline; the successor is the next word. -/
def execWaitHolds (g : Nat) (s : State) : Host.Outcome State Fault Refusal :=
  s.onCore (fun m c =>
    let x := c.cell g
    match x.waiting with
    | none => c
    | some t =>
      match x.waitV t with
      | none => c
      | some v => if !c.cellRuns g || decide (t.s0 + t.dl < v) then c else c.endWait m g t (gridFrom t.s0 (max t.s0 (v + 24))) (t.word + 1))

/-- WAIT_EXPIRY (R122): the deadline has passed and the condition did not hold by then; the successor is at DEFT. -/
def execWaitExpiry (g : Nat) (s : State) : Host.Outcome State Fault Refusal :=
  s.onCore (fun m c =>
    let x := c.cell g
    match x.waiting with
    | none => c
    | some t =>
      let held := match x.waitV t with
        | some v => decide (v ≤ t.s0 + t.dl)
        | none => false
      if !c.cellRuns g || held || decide (c.now < t.s0 + t.dl) then c
      else
        let c := ((c.put (Fd.CEL_SEQ_STS_WAIT_EXP g) 1).inc (Fd.CEL_SEQ_CNT1_WAIT_EXPIRED g) 1).evtDec g (decByte 0 false false 0 true)
        c.endWait m g t (gridFrom t.s0 (t.s0 + t.dl + 24)) t.deft)

/-! ### Signals -/

/-- SIGNAL_POST (R113, R91, R182): a SIGNAL that is due is latched onto the decision bus, marked invalid when the cell has been quarantined; a PARKED region posts nothing. -/
def execSignalPost (g : Nat) (s : State) : Host.Outcome State Fault Refusal :=
  s.onCore (fun _ c =>
    let x := c.cell g
    match x.sigs.find? (fun h => decide (h.stamp ≤ c.now)) with
    | none => c
    | some h =>
      if !c.svc then c
      else
        let c := c.modCell g (fun x => { x with sigs := x.sigs.filter (fun k => !(k.no == h.no && k.stamp == h.stamp)) })
        if c.parked (cellR g) then c
        else
          let item : BusItem := { seq := c.busSeq, kind := BusKind.sig, src := g, sub := h.no, cls := h.val, inv := c.get (Fd.CEL_STS_STATE g) == 3,
                                  latch := h.stamp, base := h.stamp, rgn := cellR g }
          { c with bus := c.bus ++ [item], busSeq := c.busSeq + 1 })

end Sys2Proof.Machine
end

