-- ==== Sys2Proof/Machine/Pipeline.lean ====
section
/-!
DEFINITION. The Phitex engine's pipeline (R71-R88): fetching a bundle, results in flight, the issue of a bundle's slots, loops, delay slots, events.
-/
namespace Sys2Proof.Machine

/-- S register `n`. -/
def Phx.rS (p : Phx) (n : Nat) : Word := Tbl.get (fun _ => 0) p.sR n
/-- V register `n`. -/
def Phx.rV (p : Phx) (n : Nat) : BitVec 128 := Tbl.get (fun _ => 0) p.vR n
/-- Accumulator `n`. -/
def Phx.rAcc (p : Phx) (n : Nat) : BitVec 320 := Tbl.get (fun _ => 0) p.acc n
/-- P register `n`. -/
def Phx.rP (p : Phx) (n : Nat) : BitVec 16 := Tbl.get (fun _ => 0) p.pR n
/-- M register `n`. -/
def Phx.rM (p : Phx) (n : Nat) : BitVec 16 := Tbl.get (fun _ => 0) p.mR n
/-- L register `n`. -/
def Phx.rL (p : Phx) (n : Nat) : BitVec 4 := Tbl.get (fun _ => 0) p.lR n
/-- LC of loop level `l`. -/
def Phx.rLc (p : Phx) (l : Nat) : Word := Tbl.get (fun _ => 0) p.lc l
/-- LS of loop level `l`. -/
def Phx.rLs (p : Phx) (l : Nat) : Nat := (Tbl.get (fun _ => (0 : BitVec 12)) p.ls l).toNat
/-- LE of loop level `l`. -/
def Phx.rLe (p : Phx) (l : Nat) : Nat := (Tbl.get (fun _ => (0 : BitVec 12)) p.le l).toNat

/-- Special register `x` as MOVX reads it (R76); none for a number above 11. -/
def Phx.special (p : Phx) (x : Nat) : Option Word :=
  if x = 0 then some (p.flags.setWidth 32) else if x = 1 then some (p.eflags.setWidth 32) else if x = 2 then some (p.epc.setWidth 32)
  else if x = 3 then some (p.evcause.setWidth 32) else if x = 4 then some (p.rLc 0) else if x = 5 then some (BitVec.ofNat 32 (p.rLs 0))
  else if x = 6 then some (BitVec.ofNat 32 (p.rLe 0)) else if x = 7 then some (p.rLc 1) else if x = 8 then some (BitVec.ofNat 32 (p.rLs 1))
  else if x = 9 then some (BitVec.ofNat 32 (p.rLe 1)) else if x = 10 then some (p.pf.setWidth 32) else if x = 11 then some (p.dec.setWidth 32)
  else none

/-- A MOVX write lands (R76). EVCAUSE and DEC cannot be written. -/
def Phx.setSpecial (p : Phx) (x : Nat) (v : Word) : Phx :=
  if x = 0 then { p with flags := v.setWidth 14 } else if x = 1 then { p with eflags := v.setWidth 14 } else if x = 2 then { p with epc := v.setWidth 12 }
  else if x = 4 then { p with lc := Tbl.insert p.lc 0 v } else if x = 5 then { p with ls := Tbl.insert p.ls 0 (v.setWidth 12) }
  else if x = 6 then { p with le := Tbl.insert p.le 0 (v.setWidth 12) } else if x = 7 then { p with lc := Tbl.insert p.lc 1 v }
  else if x = 8 then { p with ls := Tbl.insert p.ls 1 (v.setWidth 12) } else if x = 9 then { p with le := Tbl.insert p.le 1 (v.setWidth 12) }
  else if x = 10 then { p with pf := v.setWidth 4 } else p

/-- The sum of a MAC-class operation in 40-bit lanes, and whether a component wraps (R77). -/
def macSum (a : BitVec 320) (prod : List Cx) : BitVec 320 × Bool :=
  let ls := ((upFrom 0 4).zip prod).map (fun k => cxAdd (accLane a k.1) k.2)
  (packAcc ls, ls.any (fun x => satHits 40 x.1 || satHits 40 x.2))

/-- A result becomes visible (R74-R77): the engine, and whether an accumulator wrapped. LUI and VPUT join the rest of their register as it stands then. (log 134 DESIGN CHOICE) -/
def Phx.land (p : Phx) : PWrite → Phx × Bool
  | .s d v => ({ p with sR := Tbl.insert p.sR d v }, false)
  | .lui d v => ({ p with sR := Tbl.insert p.sR d (BitVec.ofNat 32 (putBits (p.rS d).toNat 18 14 v.toNat)) }, false)
  | .v d x => ({ p with vR := Tbl.insert p.vR d x }, false)
  | .vput d lane k x => ({ p with vR := Tbl.insert p.vR d (BitVec.ofNat 128 (putBits (p.rV d).toNat (32 * lane + 16 * k) 16 x.toNat)) }, false)
  | .macz d prod => ({ p with acc := Tbl.insert p.acc d (packAcc prod) }, false)
  | .mac d prod => ({ p with acc := Tbl.insert p.acc d (macSum (p.rAcc d) prod).1 }, (macSum (p.rAcc d) prod).2)
  | .p d x => ({ p with pR := Tbl.insert p.pR d x }, false)
  | .m d x => ({ p with mR := Tbl.insert p.mR d x }, false)
  | .l d x => ({ p with lR := Tbl.insert p.lR d x }, false)
  | .zncv mask val => ({ p with flags := (p.flags &&& ~~~(mask.setWidth 14)) ||| (val &&& mask).setWidth 14 }, false)
  | .port ic cs vm => ({ p with flags := BitVec.ofNat 14 (bitsOf p.flags.toNat 0 7 + ic % 4 * 128 + cs % 2 * 512 + vm.toNat * 1024) }, false)
  | .sreg x v => (p.setSpecial x v, false)

/-- One bundle has been issued: every result in flight comes one bundle nearer; those due become visible in issue order. -/
def Phx.advance (p : Phx) : Phx × Bool :=
  let l := p.pend.map (fun e => { e with left := e.left - 1 })
  (l.filter (fun e => e.left == 0)).foldl (fun (a : Phx × Bool) e => let y := a.1.land e.w; (y.1, a.2 || y.2))
    ({ p with pend := l.filter (fun e => e.left != 0) }, false)

/-- `n` empty bundles issue. -/
def Phx.empties (p : Phx) (n : Nat) : Phx × Bool :=
  iter (fun (a : Phx × Bool) => let y := a.1.advance; (y.1, a.2 || y.2)) n (p, false)

/-- The engine of cell `g` replaced, and AOV when an accumulator wrapped. -/
def Core.setPhx (c : Core) (g : Nat) (p : Phx) (aov : Bool) : Core :=
  (c.modCell g (fun x => { x with phx := p })).stick (Fd.CEL_STS_AOV g) aov

/-- The engine of cell `g` issues bundles: from the first stamp of its shot to D0, unless it has halted or the cell has stopped (R76, R91, R448). (log 5 DESIGN CHOICE) -/
def Core.phxRuns (c : Core) (g : Nat) : Bool :=
  c.svc && c.cellLive g && !c.parked (cellR g) && (c.cell g).zeroAt == none && (c.cell g).phx.on && !c.on (Fd.CEL_STS_HALTED g)

/-- Is `a` the last bundle of an active loop? -/
def Phx.loopEnd (p : Phx) (a : Nat) : Bool := (flLa p.flags 0 && p.rLe 0 == a) || (flLa p.flags 1 && p.rLe 1 == a)

/-- The loop test of one level when the bundle at `pc` issues (R84): the engine, the next bundle if the loop goes back, and whether the level below is tested. (log 19 DEDUCED) -/
def Phx.loopTest (p : Phx) (l : Nat) : Phx × Option Nat × Bool :=
  if flLa p.flags l then
    if p.rLe l = p.pc then
      if 1 < (p.rLc l).toNat then ({ p with lc := Tbl.insert p.lc l (p.rLc l - 1) }, some (p.rLs l), false)
      else ({ p with flags := setFlag p.flags (5 + l) false }, none, true)
    else (p, none, false)
  else (p, none, true)

/-- The loop test of the bundle at `pc` (R84): level 1 before level 0. The answer is the engine and the bundle a loop goes back to. (log 19 DEDUCED, 130 DESIGN CHOICE) -/
def Phx.loops (p : Phx) : Phx × Option Nat :=
  match p.loopTest 1 with
  | (q, some a, _) => (q, some a)
  | (q, none, true) => ((q.loopTest 0).1, (q.loopTest 0).2.1)
  | (q, none, false) => (q, none)

/-- A JMP or BR of the bundle at `pc` has the last bundle of an active loop in its delay slots, the two bundles that issue after it (R84, R85). -/
def Phx.slotsHitLoop (p : Phx) : Bool :=
  let a := p.loops.2.getD (p.pc + 1)
  p.loops.1.loopEnd a || p.loops.1.loopEnd (a + 1)

/-- R85: illegal opcodes, fields, condition codes and branches. -/
def bundleIllegal (p : Phx) (b : Bndl) : Bool :=
  !slotALegal b || !slotBLegal b || (decide (0 < p.dslots) && isBranchOp b.opb) || ((b.opb == 0x28 || b.opb == 0x29) && p.slotsHitLoop)

/-- The faults of an access of `n` bytes at `a` (R78). (log 20 DEDUCED) -/
def dmFaults (a n : Nat) (store : Bool) : List Nat :=
  (if 0x2000 ≤ a ∨ (store = true ∧ a < 0x1000) then [4] else []) ++ (if a % n ≠ 0 then [5] else [])

/-- The faults other than ILLEGAL_OP that slot B of bundle `b` shows beside an illegal slot (R71, R73, R78, R90): an access that is misaligned or out of range, a port
operation on a port that is not there. (log 132 DEDUCED) -/
def Core.slotBFaults (c : Core) (g : Nat) (p : Phx) (b : Bndl) : List Nat :=
  let a := (p.rP b.ba).toNat
  if !slotBLegal b then []
  else if b.opb = 0x10 then dmFaults a 4 false
  else if b.opb = 0x11 then dmFaults a 4 true
  else if b.opb = 0x12 then dmFaults a 16 false
  else if b.opb = 0x13 then dmFaults a 16 true
  else if b.opb = 0x20 then (if c.on (Fd.CEL_CFG_PHX_INLINE g) then [] else [6])
  else if b.opb = 0x21 ∨ b.opb = 0x22 then (if c.on (Fd.CEL_CFG_PHX_INLINE g) = false ∨ p.taken.isEmpty = true then [6] else [])
  else []

/-- The bundle of cell `g` is refused at issue (R85, R90): ILLEGAL_OP, with what its slot B shows besides. It counts as issued. (log 21 DEDUCED, 132 DEDUCED) -/
def Core.refuseBundle (c : Core) (m : Mems) (g : Nat) (b : Bndl) : Core :=
  let p := (c.cell g).phx
  (c.put (Fd.CEL_STS_PHX_PC g) p.pc).faultCell m g (2 :: c.slotBFaults g p b)

/-- The bundle about to issue in cell `g` (R64, R65, R85); a fetch that cannot stand faults the cell. Its errors count once a bundle. (log 6 DEDUCED) -/
def Core.phxFetch (c : Core) (m : Mems) (g : Nat) (k : Core → Bndl → Core) : Core :=
  c.unitOf m g (fun c => if !c.phxRuns g then c
  else
    let p := (c.cell g).phx
    if c.seqW g ≤ p.pc then c.faultCell m g [3]
    else
      let r := if p.aDone then (c, true) else c.eccRead m g 1 (g * 4096 + p.pc)
      if !r.2 then r.1
      else
        let b := bundle (pmWord m g p.pc)
        if bundleIllegal p b then r.1.refuseBundle m g b else k r.1 b)

/-- Does slot B hold the bundle back (R74)? IN on an empty port, OUT or OUTA on a full one, WAITE with no event pending. (log 130 DESIGN CHOICE) -/
def Core.phxStall (c : Core) (g : Nat) (b : Bndl) : Bool :=
  let p := (c.cell g).phx
  if b.opb = 0x20 then c.on (Fd.CEL_CFG_PHX_INLINE g) && p.inPort.isEmpty
  else if b.opb = 0x21 ∨ b.opb = 0x22 then decide (2 ≤ p.outPort.length)
  else if b.opb = 0x2C then c.get (Fd.CEL_STS_EV_PEND g) == 0
  else false

/-- A slot-A operation of cell `g` with opcode `op` issues: its result with latency `lat`, and whether it saturated (R82). -/
def Core.slotA (c : Core) (m : Mems) (g op lat : Nat) (f : Bndl → Phx → Option PWrite × Bool) : Core :=
  c.phxFetch m g (fun c b =>
    let p := (c.cell g).phx
    if b.opa ≠ op ∨ p.aDone = true ∨ c.phxStall g b = true then c
    else
      let y := f b p
      let cur := match y.1 with
        | some w => [{ w := w, left := lat }]
        | none => []
      (c.modCell g (fun x => { x with phx := { p with curA := cur, aDone := true } })).stick (Fd.CEL_STS_SAT g) y.2)

/-- Where the engine goes after a bundle (R83, R84): on, or as a branch, a loop or its own end says. -/
inductive PNext where
  | on
  | branch (taken : Option Nat)
  | loop (l : Nat) (n : Word) (last : Nat)
  deriving DecidableEq, Repr

/-- LOOP sets level `l` (R84): count `n`, first bundle after this one, last bundle `last`; the level is active unless the count is 0. -/
def Phx.setLoop (p : Phx) (l : Nat) (n : Word) (last : Nat) : Phx :=
  { p with lc := Tbl.insert p.lc l n, ls := Tbl.insert p.ls l (BitVec.ofNat 12 (p.pc + 1)), le := Tbl.insert p.le l (BitVec.ofNat 12 last),
           flags := setFlag p.flags (5 + l) (n != 0) }

/-- The engine once the bundle at its pc has issued, with the pc of the next (R83, R84): the loop test acts for every bundle; the two bundles after a JMP or BR are its delay slots, and then its target
comes; LOOP replaces its level, which the loop test of its own bundle does not see, and with count 0 goes on after the body unless another loop goes back. (log 133 DESIGN CHOICE) -/
def Phx.nextOf (p : Phx) (nx : PNext) : Phx :=
  let lp := p.loops
  let a := lp.2.getD (p.pc + 1) % 4096
  match nx with
  | .loop l n last =>
    let lq := ({ p with flags := setFlag p.flags (5 + l) false } : Phx).loops
    { lq.1.setLoop l n last with pc := lq.2.getD (if n = 0 then last + 1 else p.pc + 1) % 4096, dslots := 0, dtarget := none }
  | .branch t => { lp.1 with pc := a, dslots := 2, dtarget := t }
  | .on =>
    if p.dslots = 1 then { lp.1 with pc := p.dtarget.getD a, dslots := 0, dtarget := none }
    else { lp.1 with pc := a, dslots := p.dslots - 1 }

/-- The bundle issues: its results are in flight, results due become visible, and the next bundle is chosen. (log 21 DEDUCED) -/
def Phx.issue (p : Phx) (ws : List PEntry) (nx : PNext) : Phx × Bool :=
  let q := p.nextOf nx
  ({ q with pend := q.pend ++ ws ++ p.curA, curA := [], aDone := false }).advance

/-- What a slot-B operation does beside its results: fault codes, the next bundle, and changes of the core and the memories. -/
structure BOut where
  ws    : List PEntry
  nx    : PNext
  fault : List Nat
  deriving DecidableEq, Repr

/-- Results with latency `lat` and nothing else. -/
def BOut.res (lat : Nat) (ws : List PWrite) : BOut := { ws := ws.map (fun w => { w := w, left := lat }), nx := .on, fault := [] }

/-- A fault. -/
def BOut.bad (codes : List Nat) : BOut := { ws := [], nx := .on, fault := codes }

/-- A slot-B operation of cell `g` with opcode `op` issues and completes its bundle; slot A must have issued, or be NOPA. `CEL_STS.PHX_PC` shows the bundle issued (R70). -/
def Core.slotB (c : Core) (m : Mems) (g op : Nat) (f : Core → Bndl → Phx → BOut) (after : Core → Bndl → Core) : Core :=
  c.phxFetch m g (fun c b =>
    let p := (c.cell g).phx
    if b.opb ≠ op ∨ (p.aDone = false ∧ b.opa ≠ 0) ∨ c.phxStall g b = true then c
    else
      let o := f c b p
      let c := c.put (Fd.CEL_STS_PHX_PC g) p.pc
      if !o.fault.isEmpty then c.faultCell m g o.fault
      else
        let y := p.issue o.ws o.nx
        after (c.setPhx g y.1 y.2) b)

/-- A slot-B operation that does nothing but write results. -/
def Core.slotBRes (c : Core) (m : Mems) (g op lat : Nat) (f : Bndl → Phx → List PWrite) : Core :=
  c.slotB m g op (fun _ b p => BOut.res lat (f b p)) (fun c _ => c)

/-! ### Data memory -/

/-- `n` bytes of the data memory of cell `g` at `a` (R63). -/
def dmRead (m : Mems) (g a n : Nat) : Nat :=
  if a < 0x1000 then rdN zeroByte m.dmcA (g * 4096 + a) n else rdN zeroByte m.dmw (g * 4096 + (a - 0x1000)) n

/-- DM_WORK with `n` bytes stored at `a`. -/
def dmWrite (m : Mems) (g a n v : Nat) : Mems := { m with dmw := wrBytes zeroByte m.dmw (g * 4096 + (a - 0x1000)) (toLE n v) }

/-- The updated pointer of an access, visible with latency 3 (R79, R80). -/
def ptrUpdate (p : Phx) (b : Bndl) : PWrite :=
  .p b.ba (BitVec.ofNat 16 (postModify (p.rP b.ba).toNat (p.rM (b.bb % 8)).toInt (p.rL b.ba).toNat))

/-- A load of `n` bytes (R78, R79). An uncorrectable word faults the cell (R65). -/
def Core.load (c : Core) (m : Mems) (g op n : Nat) (f : Bndl → Nat → PWrite) : Core :=
  let q := (c.cell g).phx
  let at_ := (q.rP (bundle (pmWord m g q.pc)).ba).toNat
  c.slotB m g op (fun _ b p =>
    let a := (p.rP b.ba).toNat
    if (dmFaults a n false).isEmpty then BOut.res 3 [ptrUpdate p b, f b (dmRead m g a n)] else BOut.bad (dmFaults a n false))
    (fun c _ => (c.eccRead m g 2 (g * 512 + at_ / 16)).1)

/-- A store of `n` bytes: the memory changes at once (R78, R79). (log 20 DEDUCED) -/
def storeOp (m : Mems) (c : Core) (g op n : Nat) (f : Bndl → Phx → Nat) : Mems × Core :=
  let p := (c.cell g).phx
  let b := bundle (pmWord m g p.pc)
  let a := (p.rP b.ba).toNat
  let c' := c.slotB m g op (fun _ b p => if (dmFaults a n true).isEmpty then BOut.res 3 [ptrUpdate p b] else BOut.bad (dmFaults a n true)) (fun c _ => c)
  let went := c.phxRuns g && decide (p.pc < c.seqW g) && !bundleIllegal p b && b.opb == op && (p.aDone || b.opa == 0)
    && (dmFaults a n true).isEmpty && flawAt m 1 (g * 4096 + p.pc) != some true
  (if went then dmWrite m g a n (f b p) else m, c')

/-! ### Ports -/

/-- An output group leaves the engine (R73, R168): to the next stage of a DRIVE or BASEBAND cell, or as the value of the MEASURE of a READOUT cell, if in time. -/
def Core.pushOut (c : Core) (m : Mems) (g : Nat) (lanes : BitVec 128) : Core :=
  let x := c.cell g
  match x.phx.taken with
  | [] => c
  | k :: rest =>
    let c := c.modCell g (fun x => { x with phx := { x.phx with taken := rest } })
    if c.role g = 2 then
      let id := ((k.metas.head?).map (fun t => t.stamp)).getD 0
      c.modRo g (fun o => { o with wins := modFirst (fun w => w.id == id) (fun w => if c.now ≤ c.winLatch g w then { w with out := some (vLane lanes 0) } else w) o.wins })
    else (c.modCell g (fun x => { x with phx := { x.phx with outPort := x.phx.outPort ++ [{ k with lanes := lanes }] } })).feed m g

/-- OUT and OUTA (R71, R73). -/
def Core.outOp (c : Core) (m : Mems) (g op : Nat) (f : Bndl → Phx → BitVec 128 × Bool) : Core :=
  let p := (c.cell g).phx
  let y := f (bundle (pmWord m g p.pc)) p
  c.slotB m g op (fun c _ p => if c.on (Fd.CEL_CFG_PHX_INLINE g) = false ∨ p.taken.isEmpty = true then BOut.bad [6] else BOut.res 1 [])
    (fun c _ => (c.stick (Fd.CEL_STS_SAT g) y.2).pushOut m g y.1)

/-! ### Events -/

/-- EVENT_TAKE (R86, R87): the lowest pending event is taken before a bundle with IE = 1, with GIE = 1 and not in a delay slot. (log 130 DESIGN CHOICE) -/
def execEventTake (g : Nat) (s : State) : Host.Outcome State Fault Refusal :=
  s.onCore (fun m c =>
    let p := (c.cell g).phx
    let ev := c.get (Fd.CEL_STS_EV_PEND g)
    if !c.phxRuns g || ev == 0 || !flGie p.flags || decide (0 < p.dslots) || p.aDone || decide (c.seqW g ≤ p.pc) || !(bundle (pmWord m g p.pc)).ie then c
    else
      let e := ((upFrom 0 8).find? (bitAt ev)).getD 0
      let y := ({ p with epc := BitVec.ofNat 12 p.pc, evcause := BitVec.ofNat 3 e }).empties 4
      let q := y.1
      let q := { q with eflags := q.flags, flags := setFlag (setFlag (setFlag q.flags 4 false) 5 false) 6 false, pc := 4 * e }
      (((c.setPhx g q y.2).put (Fd.CEL_STS_EV_PEND g) (ev - 2 ^ e)).put (Fd.CEL_STS_IN_HANDLER g) 1).put (Fd.CEL_STS_WAITING g) 0)

end Sys2Proof.Machine
end

