-- ==== Sys2Proof/Machine/Engine.lean ====
section
/-!
DEFINITION. The operations of the Phitex engine (R71-R88), one definition for each row: slot A, then slot B.
-/
namespace Sys2Proof.Machine

/-- Lane-wise results of two V registers, narrowed by `s` (R77, R82). -/
def laneOp (b : Bndl) (f : Cx → Cx → Cx) (s : Nat) (p : Phx) : Option PWrite × Bool :=
  let xs := ((vLanes (p.rV b.aa)).zip (vLanes (p.rV b.ab))).map (fun k => f k.1 k.2)
  (some (.v b.ad (packV (xs.map (cxNarrow 16 s)))), xs.any (cxHits 16 s))

/-- The four exact products of a MAC-class operation (R82). -/
def products (f : Cx → Cx → Cx) (b : Bndl) (p : Phx) : List Cx := ((vLanes (p.rV b.aa)).zip (vLanes (p.rV b.ab))).map (fun k => f k.1 k.2)

/-- An accumulator narrowed by `s` (R77), and whether a component saturated. -/
def narrowAcc (a : BitVec 320) (s : Nat) : BitVec 128 × Bool :=
  let xs := (upFrom 0 4).map (accLane a)
  (packV (xs.map (cxNarrow 16 s)), xs.any (cxHits 16 s))

/-- A scalar result with the flags Z and N (R83). -/
def logic (b : Bndl) (r : Word) : List PWrite := [.s b.bd r, znFlags r]

/-! ### Slot A -/

/-- NOPA (R82). -/
def execPhxNopa (g : Nat) (s : State) : Host.Outcome State Fault Refusal :=
  s.onCore (fun m c => c.slotA m g 0x00 1 (fun _ _ => (none, false)))

/-- VMOV (R82). -/
def execPhxVmov (g : Nat) (s : State) : Host.Outcome State Fault Refusal :=
  s.onCore (fun m c => c.slotA m g 0x01 2 (fun b p => (some (.v b.ad (p.rV b.aa)), false)))

/-- VADD (R82). -/
def execPhxVadd (g : Nat) (s : State) : Host.Outcome State Fault Refusal :=
  s.onCore (fun m c => c.slotA m g 0x02 2 (fun b p => laneOp b (cxAdd · ·) 0 p))

/-- VSUB (R82). -/
def execPhxVsub (g : Nat) (s : State) : Host.Outcome State Fault Refusal :=
  s.onCore (fun m c => c.slotA m g 0x03 2 (fun b p => laneOp b (cxSub · ·) 0 p))

/-- VCMUL (R82). -/
def execPhxVcmul (g : Nat) (s : State) : Host.Outcome State Fault Refusal :=
  s.onCore (fun m c => c.slotA m g 0x04 3 (fun b p => laneOp b (cxMul · ·) (b.aimm % 32) p))

/-- VCONJ (R82). -/
def execPhxVconj (g : Nat) (s : State) : Host.Outcome State Fault Refusal :=
  s.onCore (fun m c => c.slotA m g 0x05 2 (fun b p => laneOp b (fun x _ => cxConj x) 0 p))

/-- VALN (R82). -/
def execPhxValn (g : Nat) (s : State) : Host.Outcome State Fault Refusal :=
  s.onCore (fun m c => c.slotA m g 0x06 2 (fun b p => (some (.v b.ad (packV (((vLanes (p.rV b.aa)) ++ vLanes (p.rV b.ab)).drop (b.aimm % 4) |>.take 4))), false)))

/-- VBCST (R82). -/
def execPhxVbcst (g : Nat) (s : State) : Host.Outcome State Fault Refusal :=
  s.onCore (fun m c => c.slotA m g 0x07 2 (fun b p => (some (.v b.ad (packV (List.replicate 4 (vLane (p.rV b.aa) (b.aimm % 4))))), false)))

/-- MACZ (R82). -/
def execPhxMacz (g : Nat) (s : State) : Host.Outcome State Fault Refusal :=
  s.onCore (fun m c => c.slotA m g 0x10 4 (fun b p => (some (.macz (b.ad % 2) (products cxMul b p)), false)))

/-- MAC (R82). -/
def execPhxMac (g : Nat) (s : State) : Host.Outcome State Fault Refusal :=
  s.onCore (fun m c => c.slotA m g 0x11 4 (fun b p => (some (.mac (b.ad % 2) (products cxMul b p)), false)))

/-- MACC (R82). -/
def execPhxMacc (g : Nat) (s : State) : Host.Outcome State Fault Refusal :=
  s.onCore (fun m c => c.slotA m g 0x12 4 (fun b p => (some (.mac (b.ad % 2) (products (fun x y => cxMul x (cxConj y)) b p)), false)))

/-- MSUB (R82). -/
def execPhxMsub (g : Nat) (s : State) : Host.Outcome State Fault Refusal :=
  s.onCore (fun m c => c.slotA m g 0x13 4 (fun b p => (some (.mac (b.ad % 2) (products (fun x y => cxNeg (cxMul x y)) b p)), false)))

/-- MOVA (R82). -/
def execPhxMova (g : Nat) (s : State) : Host.Outcome State Fault Refusal :=
  s.onCore (fun m c => c.slotA m g 0x14 2 (fun b p => (some (.v b.ad (narrowAcc (p.rAcc (b.aa % 2)) (b.aimm % 32)).1), (narrowAcc (p.rAcc (b.aa % 2)) (b.aimm % 32)).2)))

/-! ### Slot B: scalars and registers -/

/-- PHX_NOP (R83). -/
def execPhxNop (g : Nat) (s : State) : Host.Outcome State Fault Refusal :=
  s.onCore (fun m c => c.slotBRes m g 0x00 1 (fun _ _ => []))

/-- ADD (R83). -/
def execPhxAdd (g : Nat) (s : State) : Host.Outcome State Fault Refusal :=
  s.onCore (fun m c => c.slotBRes m g 0x01 1 (fun b p => [.s b.bd (addFlags (p.rS b.ba) (p.rS b.bb)).1, (addFlags (p.rS b.ba) (p.rS b.bb)).2]))

/-- SUB (R83). -/
def execPhxSub (g : Nat) (s : State) : Host.Outcome State Fault Refusal :=
  s.onCore (fun m c => c.slotBRes m g 0x02 1 (fun b p => [.s b.bd (subFlags (p.rS b.ba) (p.rS b.bb)).1, (subFlags (p.rS b.ba) (p.rS b.bb)).2]))

/-- AND (R83). -/
def execPhxAnd (g : Nat) (s : State) : Host.Outcome State Fault Refusal :=
  s.onCore (fun m c => c.slotBRes m g 0x03 1 (fun b p => logic b (p.rS b.ba &&& p.rS b.bb)))

/-- OR (R83). -/
def execPhxOr (g : Nat) (s : State) : Host.Outcome State Fault Refusal :=
  s.onCore (fun m c => c.slotBRes m g 0x04 1 (fun b p => logic b (p.rS b.ba ||| p.rS b.bb)))

/-- XOR (R83). -/
def execPhxXor (g : Nat) (s : State) : Host.Outcome State Fault Refusal :=
  s.onCore (fun m c => c.slotBRes m g 0x05 1 (fun b p => logic b (p.rS b.ba ^^^ p.rS b.bb)))

/-- SHL (R83). -/
def execPhxShl (g : Nat) (s : State) : Host.Outcome State Fault Refusal :=
  s.onCore (fun m c => c.slotBRes m g 0x06 1 (fun b p => logic b (p.rS b.ba <<< (b.bimm % 32))))

/-- SHR (R83). -/
def execPhxShr (g : Nat) (s : State) : Host.Outcome State Fault Refusal :=
  s.onCore (fun m c => c.slotBRes m g 0x07 1 (fun b p => logic b (p.rS b.ba >>> (b.bimm % 32))))

/-- SAR (R83). -/
def execPhxSar (g : Nat) (s : State) : Host.Outcome State Fault Refusal :=
  s.onCore (fun m c => c.slotBRes m g 0x08 1 (fun b p => logic b ((p.rS b.ba).sshiftRight (b.bimm % 32))))

/-- MUL (R83): the low 32 bits. -/
def execPhxMul (g : Nat) (s : State) : Host.Outcome State Fault Refusal :=
  s.onCore (fun m c => c.slotBRes m g 0x09 2 (fun b p => logic b (p.rS b.ba * p.rS b.bb)))

/-- LI (R83, R494): the 18-bit immediate of bits [17:0], sign-extended. -/
def execPhxLi (g : Nat) (s : State) : Host.Outcome State Fault Refusal :=
  s.onCore (fun m c => c.slotBRes m g 0x0A 1 (fun b _ => [.s b.bd (BitVec.ofInt 32 (sx 18 (b.bb % 16 * 16384 + b.bimm)))]))

/-- LUI (R83): bits [31:18]; the others stay. -/
def execPhxLui (g : Nat) (s : State) : Host.Outcome State Fault Refusal :=
  s.onCore (fun m c => c.slotBRes m g 0x0B 1 (fun b _ => [.lui b.bd (BitVec.ofNat 14 b.bimm)]))

/-- ADDI (R83). -/
def execPhxAddi (g : Nat) (s : State) : Host.Outcome State Fault Refusal :=
  s.onCore (fun m c => c.slotBRes m g 0x0C 1 (fun b p => [.s b.bd (addFlags (p.rS b.ba) (BitVec.ofInt 32 (sx 14 b.bimm))).1, (addFlags (p.rS b.ba) (BitVec.ofInt 32 (sx 14 b.bimm))).2]))

/-- MOVP (R83). -/
def execPhxMovp (g : Nat) (s : State) : Host.Outcome State Fault Refusal :=
  s.onCore (fun m c => c.slotBRes m g 0x14 1 (fun b p => [.p b.bd ((p.rS b.ba).setWidth 16)]))

/-- MOVM (R83). -/
def execPhxMovm (g : Nat) (s : State) : Host.Outcome State Fault Refusal :=
  s.onCore (fun m c => c.slotBRes m g 0x15 1 (fun b p => [.m b.bd ((p.rS b.ba).setWidth 16)]))

/-- VGET (R83). -/
def execPhxVget (g : Nat) (s : State) : Host.Outcome State Fault Refusal :=
  s.onCore (fun m c => c.slotBRes m g 0x17 2 (fun b p => [.s b.bd (BitVec.ofInt 32 (if bitAt b.bimm 2 then (vLane (p.rV b.ba) (b.bimm % 4)).2 else (vLane (p.rV b.ba) (b.bimm % 4)).1))]))

/-- VPUT (R83). -/
def execPhxVput (g : Nat) (s : State) : Host.Outcome State Fault Refusal :=
  s.onCore (fun m c => c.slotBRes m g 0x18 2 (fun b p => [.vput b.bd (b.bimm % 4) (b.bimm / 4 % 2) ((p.rS b.ba).setWidth 16)]))

/-- SETL (R80, R83): exponents 1-3, 14 and 15 fault the cell. -/
def execPhxSetl (g : Nat) (s : State) : Host.Outcome State Fault Refusal :=
  s.onCore (fun m c => c.slotB m g 0x16 (fun _ b _ =>
    if (1 ≤ b.bimm ∧ b.bimm ≤ 3) ∨ 14 ≤ b.bimm then BOut.bad [2] else BOut.res 1 [.l b.bd (BitVec.ofNat 4 b.bimm)]) (fun c _ => c))

/-- MOVX, read (R76, R83). -/
def execPhxMovxRead (g : Nat) (s : State) : Host.Outcome State Fault Refusal :=
  s.onCore (fun m c => c.slotB m g 0x30 (fun _ b p =>
    match p.special b.bimm with
    | some v => BOut.res 1 [.s b.bd v]
    | none => BOut.bad [2]) (fun c _ => c))

/-- MOVX, write (R76, R83): EVCAUSE, DEC and numbers above 11 fault the cell. -/
def execPhxMovxWrite (g : Nat) (s : State) : Host.Outcome State Fault Refusal :=
  s.onCore (fun m c => c.slotB m g 0x31 (fun _ b p =>
    if b.bimm = 3 ∨ 11 ≤ b.bimm then BOut.bad [2] else BOut.res 1 [.sreg b.bimm (p.rS b.ba)]) (fun c _ => c))

/-! ### Slot B: memory -/

/-- LD (R78, R79, R83). -/
def execPhxLd (g : Nat) (s : State) : Host.Outcome State Fault Refusal :=
  s.onCore (fun m c => c.load m g 0x10 4 (fun b v => .s b.bd (BitVec.ofNat 32 v)))

/-- LDV (R78, R79, R83). -/
def execPhxLdv (g : Nat) (s : State) : Host.Outcome State Fault Refusal :=
  s.onCore (fun m c => c.load m g 0x12 16 (fun b v => .v b.bd (BitVec.ofNat 128 v)))

/-- ST (R78, R79, R83). -/
def execPhxSt (g : Nat) (s : State) : Host.Outcome State Fault Refusal :=
  s.onBoth (fun m c => storeOp m c g 0x11 4 (fun b p => (p.rS b.bd).toNat))

/-- STV (R78, R79, R83). -/
def execPhxStv (g : Nat) (s : State) : Host.Outcome State Fault Refusal :=
  s.onBoth (fun m c => storeOp m c g 0x13 16 (fun b p => (p.rV b.bd).toNat))

/-! ### Slot B: ports -/

/-- IN (R71, R72, R83): pops one input group; the renderer goes on. -/
def execPhxIn (g : Nat) (s : State) : Host.Outcome State Fault Refusal :=
  s.onCore (fun m c =>
    let k := (c.cell g).phx.inPort
    c.slotB m g 0x20 (fun c b p =>
      if c.on (Fd.CEL_CFG_PHX_INLINE g) then
        match p.inPort with
        | [] => BOut.res 2 []
        | q :: _ => BOut.res 2 [.v b.bd q.lanes, .port q.ic q.csel q.vm]
      else BOut.bad [6])
      (fun c _ => (c.modCell g (fun x => { x with phx := { x.phx with inPort := x.phx.inPort.drop 1, taken := x.phx.taken ++ k.take 1 } })).feed m g))

/-- OUT (R71, R73, R83). -/
def execPhxOut (g : Nat) (s : State) : Host.Outcome State Fault Refusal :=
  s.onCore (fun m c => c.outOp m g 0x21 (fun b p => (p.rV b.ba, false)))

/-- OUTA (R71, R73, R77, R83). -/
def execPhxOuta (g : Nat) (s : State) : Host.Outcome State Fault Refusal :=
  s.onCore (fun m c => c.outOp m g 0x22 (fun b p => narrowAcc (p.rAcc (b.ba % 2)) (b.bimm % 32)))

/-! ### Slot B: control -/

/-- PHX_JMP (R83): two delay slots. -/
def execPhxJmp (g : Nat) (s : State) : Host.Outcome State Fault Refusal :=
  s.onCore (fun m c => c.slotB m g 0x28 (fun _ b _ => { ws := [], nx := .branch (some b.bimm), fault := [] }) (fun c _ => c))

/-- BR (R83): the two bundles after it are delay slots whether or not it is taken. -/
def execPhxBr (g : Nat) (s : State) : Host.Outcome State Fault Refusal :=
  s.onCore (fun m c => c.slotB m g 0x29 (fun _ b p => { ws := [], nx := .branch (if brCond p.flags b.bd then some b.bimm else none), fault := [] }) (fun c _ => c))

/-- PHX_LOOP (R84): starts a loop level; a count of 0 skips the body. -/
def execPhxLoop (g : Nat) (s : State) : Host.Outcome State Fault Refusal :=
  s.onCore (fun m c => c.slotB m g 0x2A (fun _ b p => { ws := [], nx := .loop (b.bd % 2) (p.rS b.ba) b.bimm, fault := [] }) (fun c _ => c))

/-- WAITE (R83): stalls until an enabled event is pending; `CEL_STS.WAITING` shows the stall. -/
def execPhxWaite (g : Nat) (s : State) : Host.Outcome State Fault Refusal :=
  s.onCore (fun m c =>
    let p := (c.cell g).phx
    let b := bundle (pmWord m g p.pc)
    if c.phxRuns g = true ∧ p.pc < c.seqW g ∧ bundleIllegal p b = false ∧ b.opb = 0x2C ∧ c.phxStall g b = true then c.put (Fd.CEL_STS_WAITING g) 1
    else c.slotB m g 0x2C (fun _ _ _ => BOut.res 1 []) (fun c _ => c.put (Fd.CEL_STS_WAITING g) 0))

/-- RETE (R87): four empty bundles, FLAGS from EFLAGS, on at EPC; outside a handler it faults the cell. With one EPC, EFLAGS and IN_HANDLER, the first RETE of a nested
event ends the handler. (log 135 DESIGN CHOICE) -/
def execPhxRete (g : Nat) (s : State) : Host.Outcome State Fault Refusal :=
  s.onCore (fun m c => c.slotB m g 0x2D (fun c _ _ => if c.on (Fd.CEL_STS_IN_HANDLER g) then BOut.res 1 [] else BOut.bad [2])
    (fun c _ =>
      let y := (c.cell g).phx.empties 4
      let q := y.1
      (c.setPhx g { q with flags := q.eflags, pc := q.epc.toNat, dslots := 0, dtarget := none } y.2).put (Fd.CEL_STS_IN_HANDLER g) 0))

/-- HALT (R83): stops the engine until the next shot. -/
def execPhxHalt (g : Nat) (s : State) : Host.Outcome State Fault Refusal :=
  s.onCore (fun m c => c.slotB m g 0x2F (fun _ _ _ => BOut.res 1 []) (fun c _ => c.put (Fd.CEL_STS_HALTED g) 1))

end Sys2Proof.Machine
end

