-- ==== Sys2Proof/Machine/Fabric.lean ====
section
/-!
DEFINITION. The decision fabric and the pins it meets: watch slots (R111-R113), decision flits (R186-R188), frame bits (R189-R193), compare runs and strobes of
vector pins (R240-R243), trigger inputs and outputs (R247, R248).
-/
namespace Sys2Proof.Machine

/-! ### Watch slots -/

/-- Does an item carry a value for a watch slot entry (R111)? -/
def watchMatch (e : Nat) (i : BusItem) : Bool :=
  let k := wKind e
  if k = 1 then i.kind == .dec && i.src == wSrc e
  else if k = 2 then i.kind == .sig && i.src == wSrc e && i.sub == wSub e
  else if k = 3 then i.kind == .remote && i.src == wSrc e && i.sub == wSub e
  else if k = 4 then i.kind == .vec && i.src == wSrc e
  else if k = 5 then i.kind == .trig && i.src == wSrc e
  else false

/-- The available tick A of an item at region `r` (R112, R187, R242, R247). -/
def availTick (r : Nat) (i : BusItem) : Nat :=
  match i.kind with
  | .remote => i.base
  | .trig => i.base + 4
  | _ => i.atRgn r

/-- WATCH_SLOT_FILL (R113, R86): a value whose tick A has come fills slot `x` of cell `g`, or replaces the value it holds; engine event DECISION is recorded also in a cell that is
quarantined. (log 137 DEDUCED) -/
def execWatchSlotFill (g x : Nat) (s : State) : Host.Outcome State Fault Refusal :=
  s.onCore (fun m c =>
    let r := cellR g
    let w := (c.cell g).slot x
    let open_ := c.get (Fd.CEL_STS_STATE g) == 3 || (c.cellLive g && (c.cell g).zeroAt.isNone)
    if 8 ≤ x ∨ c.svc = false ∨ open_ = false ∨ c.parked r = true then c
    else
      let e := watchEntry m c g x
      match c.bus.find? (fun i => decide (w.seen < i.seq) && watchMatch e i && decide (availTick r i ≤ c.now)) with
      | none => c
      | some i =>
        let n : WSlot := { full := true, cls := i.cls, inv := i.inv, a := if w.full then w.a else availTick r i, missed := false, seen := i.seq }
        let c := (c.modCell g (fun k => k.setSlot x n)).stick (Fd.CEL_SEQ_STS_SLOT_OVW g) w.full
        (((c.eccImage m g (8 + 4 * x)).1.slotBits g).evtDec g (decByte i.cls (!i.inv) w.missed x false)))

/-! ### Decision flits -/

/-- The export entry of port `p` that names a cell (R186). -/
def Core.exportOf (c : Core) (p g : Nat) : List Nat :=
  (upFrom 0 80).filter (fun e => c.on (Fd.CHP_DEC_EXPORT_EN p e) && c.get (Fd.CHP_DEC_EXPORT_CELL p e) == g)

/-- The 3-bit code of a decision (R186). -/
def flitCode (cls : Nat) (inv : Bool) : Nat := cls % 4 + (if inv then 4 else 1)

/-- DECISION_FLIT_SEND (R183, R186): two ticks after the latch the named cells' decisions of one latch tick leave through port `p` in one express flit. -/
def execDecisionFlitSend (p : Nat) (s : State) : Host.Outcome State Fault Refusal :=
  s.onCore (fun _ c =>
    let mine := fun (i : BusItem) => i.kind == .dec && !bitAt i.exp p && decide (i.base + 2 ≤ c.now) && !(c.exportOf p i.src).isEmpty
    if 4 ≤ p ∨ c.svc = false then c
    else match c.bus.find? mine with
      | none => c
      | some f =>
        let grp := fun (i : BusItem) => mine i && i.latch == f.latch && i.base == f.base
        let codes := (c.bus.filter grp).foldl (fun a i => (c.exportOf p i.src).foldl (fun a e => putBits a (16 + 3 * e) 3 (flitCode i.cls i.inv)) a) (f.latch % 65536)
        ({ c with bus := c.bus.map (fun i => if grp i then { i with exp := i.exp + 2 ^ p } else i) }).sendExpress p 0 codes)

/-- DECISION_FLIT_DELIVER (R187): at L + 22 the accepted decision flit of port `p` puts its codes, as the import entries name them, before the DEC_REMOTE slots. -/
def execDecisionFlitDeliver (p : Nat) (s : State) : Host.Outcome State Fault Refusal :=
  s.onCore (fun _ c =>
    match (c.port p).hold with
    | [] => c
    | (l, load) :: rest =>
      if c.svc = false ∨ c.now < l + 22 then c
      else
        let c := c.modPort p (fun x => { x with hold := rest })
        (upFrom 0 80).foldl (fun c e =>
          let k := bitsOf load (16 + 3 * e) 3
          if k = 0 ∨ k = 7 ∨ c.on (Fd.CHP_DEC_IMPORT_EN p e) = false then c
          else
            let i : BusItem := { seq := c.busSeq, kind := .remote, src := c.get (Fd.CHP_DEC_IMPORT_CELL p e), sub := p,
                                 cls := if 4 ≤ k then k - 4 else k - 1, inv := decide (4 ≤ k), latch := l, base := l + 22, rgn := 0 }
            { c with bus := c.bus ++ [i], busSeq := c.busSeq + 1 }) c)

/-! ### Frame bits -/

/-- The net effect of the toggles of one bit. -/
def netToggle (l : List Toggle) (z : Bool) : Bool := xorAll ((l.filter (fun t => t.z == z)).map (fun _ => true))

/-- The frame operations and toggles of cell `g` due by now act (R189, R190): operations in execution order, then toggles; TOGGLES counts each bit the net toggles
change. -/
def Core.frameAct (c : Core) (g : Nat) : Core :=
  let r := cellR g
  let ops := (c.cell g).frameOps.filter (fun o => decide (o.tick ≤ c.now))
  let tg := (c.rgn r).toggles.filter (fun t => t.cell == g && decide (t.tick ≤ c.now))
  if ops.isEmpty && tg.isEmpty then c
  else
    let c := c.modCell g (fun x => { x with frameOps := x.frameOps.filter (fun o => !decide (o.tick ≤ c.now)) })
    let c := c.modRgn r (fun x => { x with toggles := x.toggles.filter (fun t => !(t.cell == g && decide (t.tick ≤ c.now))) })
    if c.role g ≠ 1 ∧ c.role g ≠ 2 then c
    else
      let e := { tick := c.now, post := true, xop := if netToggle tg false then 3 else 0, zop := if netToggle tg true then 3 else 0 }
      let c := ops.foldl (fun c o => c.frameEv g { tick := c.now, post := false, xop := o.xop, zop := o.zop }) c
      (c.frameEv g e).inc (Fd.CEL_FRAME_TOGGLES g) (b2n (netToggle tg false) + b2n (netToggle tg true))

/-- FRAME_WRITE_TICK (R190). -/
def execFrameWriteTick (g : Nat) (s : State) : Host.Outcome State Fault Refusal := s.onCore (fun _ c => if c.svc then c.frameAct g else c)

/-! ### Vector pins -/

/-- The driver of REST (R244): 0 low, 1 high, 2 high impedance. (log 155 DESIGN CHOICE) -/
def Core.restDrv (c : Core) (r w : Nat) : Nat :=
  let k := c.get (Fd.VIO_PIN_CFG_REST r w)
  if k = 1 then 0 else if k = 2 then 1 else 2

/-- The last stamp of the span of the entries of the source of pin `w` of region `r` (R245): that before its END marker, or the last one released before the cell was quarantined,
held, cut or parked. (log 163 DEDUCED) -/
def Core.vecSpan (c : Core) (r w : Nat) : Nat :=
  let x := c.cell (r * 288 + c.get (Fd.VIO_PIN_CFG_SRC r w))
  if !c.on (Fd.VIO_PIN_CFG_EN r w) then 0
  else match x.endAt, x.zeroAt with
    | some e, some z => min (e + 17) (z + 16)
    | some e, none => e + 17
    | none, some z => z + 16
    | none, none => 0

/-- Vector pin `w` of region `r` goes to REST (R245): from this tick on, but for stamps inside the span of its source's entries, which have been released and still govern it; unless a
cause of its own occults it. Its compare runs end. (log 163 DEDUCED) -/
def Core.vecRest (c : Core) (r w : Nat) : Core :=
  let occ := if c.on (Fd.VIO_PIN_CFG_OCC_DRIVE r w) then 0 else 2
  let rest := c.restDrv r w
  c.modVec (8 * r + w) (fun x =>
    { x with sig := x.sig.map (fun k => if c.now ≤ k.1 ∧ c.vecSpan r w < k.1 then (if k.2.1 = 17 then (k.1, 17, occ) else (k.1, 0, rest)) else k),
             drv := if (x.sig.getLast?.map (fun k => k.2.1)) = some 17 then occ else rest,
             runs := x.runs.map (fun d => { d with closed := true }) })

/-- COMPARE_RUN_POST (R241-R243): a compare run of vector pin `v` that has ended posts its value one tick after its last stamp; a PARKED region posts nothing. -/
def execCompareRunPost (v : Nat) (s : State) : Host.Outcome State Fault Refusal :=
  s.onCore (fun _ c =>
    let r := v / 8
    match (c.vec v).runs with
    | [] => c
    | d :: rest =>
      if c.svc = false ∨ d.closed = false ∨ c.now < d.se + 1 then c
      else
        let c := c.modVec v (fun x => { x with runs := rest })
        if c.parked r then c
        else
          let c := c.inc (Fd.VIO_CNT_RUNS_FAILED r (v % 8)) (b2n d.fail)
          let i : BusItem := { seq := c.busSeq, kind := .vec, src := v, sub := 0, cls := b2n d.fail, inv := d.inval, latch := d.se + 1, base := d.se + 1, rgn := r }
          { c with bus := c.bus ++ [i], busSeq := c.busSeq + 1 })

/-- Does a compare code fail on a level (R239; levels 0 LOW, 1 MID, 2 HIGH)? -/
def compareFails (code level : Nat) : Bool :=
  if code = 4 ∨ code = 8 then level != 0 else if code = 5 ∨ code = 9 then level != 2 else if code = 6 then level != 1 else false

/-- VECTOR_STROBE (R239, R240, R243): the compare code of the present tick samples vector pin `v` at `mv` millivolts. (log 131 DESIGN CHOICE) -/
def execVectorStrobe (v mv : Nat) (s : State) : Host.Outcome State Fault Refusal :=
  s.onCore (fun _ c =>
    let r := v / 8
    let w := v % 8
    match (c.vec v).sig.find? (fun k => k.1 == c.now) with
    | none => c
    | some (_, code, _) =>
      if c.svc = false ∨ code < 4 ∨ 9 < code then c
      else
        let lv := if mv < 8 * c.get (Fd.VIO_PIN_THR_VTL r w) then 0 else if 8 * c.get (Fd.VIO_PIN_THR_VTH r w) < mv then 2 else 1
        let bad := compareFails code lv
        let first := bad && (c.vec v).runs.any (fun d => decide (d.s0 ≤ c.now) && decide (c.now ≤ d.se) && !d.fail)
        let c := c.modVec v (fun x => { x with sig := x.sig.map (fun k => if k.1 = c.now then (k.1, 0, k.2.2) else k),
                                               runs := x.runs.map (fun d => if bad = true ∧ d.s0 ≤ c.now ∧ c.now ≤ d.se then { d with fail := true } else d) })
        let c := c.put (Fd.VIO_STS_LEVEL r w) lv
        if !bad then c
        else
          let c := (c.inc (Fd.VIO_CNT_FAIL_TICKS r w) 1).put (Fd.VIO_STS_FAIL r w) 1
          let c := if c.on (Fd.VIO_FIRST_VALID r w) then c
            else (((c.put (Fd.VIO_FIRST_LATCH r w) (min 0x3FFFF (c.now - (c.rgn r).shot.ts))).put (Fd.VIO_FIRST_LEVEL r w) lv).put (Fd.VIO_FIRST_CODE r w) code).put
                   (Fd.VIO_FIRST_VALID r w) 1
          if first then c.acqVector r w c.now else c)

/-! ### Trigger inputs and outputs -/

/-- The qualified level of trigger input `x`. -/
def Core.trigLvl (c : Core) (x : Nat) : Bool := Tbl.get (fun _ => false) c.pins.trigLvl x

/-- The least period that thermal step 1 sets (R422), 0 without it. -/
def Core.capPeriod (c : Core) : Nat := if c.on Fd.THM_STS_CAPPED then max 500 (c.get Fd.THM_CAP_CAP_PERIOD) else 0

/-- The qualified edge of this tick sets the first stamp of the next shot: K + WIDTH + 64, not before the period and the thermal cap allow (R259, R260, R422). (log 39 DEDUCED) -/
def Core.trigShot (c : Core) : Core :=
  let r := c.ser
  let cap := c.capPeriod
  let due := if r.begun then r.lastTs + max r.period cap else 0
  let ts := max (max (c.now + 64) due) r.lastEnd
  { c with ser := { r with ts := some ts, capped := r.begun && decide (r.period < cap) && decide (c.now + 64 < due) && decide (r.lastEnd ≤ due) } }

/-- Does the series take its next first stamp from an edge of trigger input `x` that is detected now (R259)? Of TRIG_EACH, from one detected at the end of the last shot's drains or later. -/
def Core.trigTakes (c : Core) (x : Nat) : Bool :=
  let r := c.ser
  let wanted := r.mode == 3 || (r.mode == 2 && r.next == 0)
  let ended := !r.begun || decide (r.lastEnd ≤ c.now)
  let waits := !r.shotOn && !r.stopping && r.ts.isNone && (c.runIs .armed || c.runIs .running)
  wanted && ended && waits && r.trig == x

/-- A qualified edge of trigger input `x` to `level`, captured at `k` and detected now (R247): it fills watch slots, feeds acquisition triggers and outputs, and a series that
waits for this input takes its next first stamp from it (R259). (log 39 DEDUCED) -/
def Core.trigEdge (c : Core) (x k : Nat) (level : Bool) : Core :=
  let edge := c.get (Fd.CHP_TRIG_IN_CFG_EDGE x)
  let c := (c.put Fd.CHP_TRIG_IN_STS_SEEN (Nat.lor (c.get Fd.CHP_TRIG_IN_STS_SEEN) (2 ^ x))).inc (Fd.CHP_TRIG_IN_CNT_EDGES x) 1
  let c := { c with pins := { c.pins with trigLvl := Tbl.insert c.pins.trigLvl x level,
                                          trigEdges := c.pins.trigEdges.filter (fun (e : Nat × Nat) => decide (c.now < e.2 + 4)) ++ [(x, c.now)] } }
  let c := if bitAt edge (if level then 0 else 1) then
      { c with bus := c.bus ++ [{ seq := c.busSeq, kind := .trig, src := x, sub := 0, cls := 1, inv := false, latch := c.now, base := c.now, rgn := 0 }],
               busSeq := c.busSeq + 1 }
    else c
  let c := c.acqTrigIn x k level
  if c.trigTakes x then c.trigShot else c

/-- At the end of a tick input `x` has shown a level other than the qualified one since sample K; with samples K to K + WIDTH the edge is qualified (R247). -/
def Core.trigQualify (c : Core) (x : Nat) : Core :=
  match c.pins.trigRaw.find? (fun e => e.1 == x) with
  | none => c
  | some (_, k, level) =>
    if c.svc = false ∨ c.trigLvl x = level ∨ c.now < k + c.get (Fd.CHP_TRIG_IN_CFG_WIDTH x) then c else c.trigEdge x k level

/-- TRIG_IN_EDGE (R247): the sample of tick `k`, the present one, is the first of input `x` that shows `level`. A pulse that ends before it was qualified counts as a glitch; with WIDTH 0 the
edge is qualified now, otherwise at the end of tick K + WIDTH, if no sample until then shows the other level. (log 156 DESIGN CHOICE) -/
def execTrigInEdge (x : Nat) (level : Bool) (k : Nat) (s : State) : Host.Outcome State Fault Refusal :=
  s.onCore (fun _ c =>
    let same : Bool := match c.pins.trigRaw.find? (fun e => e.1 == x) with
      | some (_, j, l) => l == level || (c.running && j == c.now)
      | none => !level
    if decide (4 ≤ x) || k != c.now || same then c
    else
      let old := c.trigLvl x
      let c := { c with pins := { c.pins with trigRaw := Tbl.insert c.pins.trigRaw x (c.now, level) } }
      if c.svc = false then { c with pins := { c.pins with trigLvl := Tbl.insert c.pins.trigLvl x level } }
      else
        let c := c.put Fd.CHP_TRIG_IN_STS_LEVEL (putBits (c.get Fd.CHP_TRIG_IN_STS_LEVEL) x 1 (b2n level))
        if old = level then c.inc (Fd.CHP_TRIG_IN_CNT_GLITCH x) 1
        else if c.get (Fd.CHP_TRIG_IN_CFG_WIDTH x) = 0 then c.trigEdge x c.now level else c)

/-- Does pin `v` drive high in the present tick? -/
def Core.drivesHigh (c : Core) (v : Nat) : Bool := (c.vec v).sig.any (fun k => k.1 == c.now && k.2.2 == 1)

/-- Was the qualified level of trigger input `x` `b` 4 ticks ago (R248)? Each edge detected since has turned it. -/
def Core.trigSince (c : Core) (x : Nat) (b : Bool) : Bool :=
  let since := (c.pins.trigEdges.filter (fun e => e.1 == x && decide (c.now < e.2 + 4))).length
  (if since % 2 = 0 then c.trigLvl x else !c.trigLvl x) == b

/-- Does the source of trigger output `x` start it at this tick (R248)? -/
def Core.trigStarts (c : Core) (x : Nat) : Bool :=
  let src := c.get (Fd.CHP_TRIG_OUT_CFG_SRC x)
  let sel := c.get (Fd.CHP_TRIG_OUT_CFG_SEL x)
  if src = 1 then c.ser.shotOn && c.ser.lastTs == c.now
  else if src = 2 then c.drivesHigh sel
  else if src = 3 then
    c.bus.any (fun i => i.kind == .dec && i.src == sel && !i.inv && bitAt (c.get (Fd.CHP_TRIG_OUT_CFG_CLASSMASK x)) i.cls && i.base + 6 == c.now)
  else if src = 4 then (c.acq sel).trigs.any (fun t => t + 34 == c.now)
  else if src = 5 then decide (1 ≤ sel) && c.running && c.now % 2 ^ sel == 0
  else if src = 6 then c.trigSince sel true
  else false

/-- TRIG_OUT_START (R248): output `x` becomes active, for WIDTH ticks, or while its level lasts (MIRROR, TRIG; end tick 0). -/
def execTrigOutStart (x : Nat) (s : State) : Host.Outcome State Fault Refusal :=
  s.onCore (fun _ c =>
    let src := c.get (Fd.CHP_TRIG_OUT_CFG_SRC x)
    if 4 ≤ x ∨ c.svc = false ∨ c.trigStarts x = false ∨ c.on Fd.CHP_FAULT_STS_FAULT = true then c
    else
      let e := if src = 2 ∨ src = 6 then 0 else c.now + max 1 (c.get (Fd.CHP_TRIG_OUT_CFG_WIDTH x))
      { c with pins := { c.pins with trigOut := Tbl.insert c.pins.trigOut x e } })

/-- TRIG_OUT_END (R248): the span of output `x` is over, or the level it follows. -/
def execTrigOutEnd (x : Nat) (s : State) : Host.Outcome State Fault Refusal :=
  s.onCore (fun _ c =>
    let src := c.get (Fd.CHP_TRIG_OUT_CFG_SRC x)
    let sel := c.get (Fd.CHP_TRIG_OUT_CFG_SEL x)
    match c.pins.trigOut.find? (fun k => k.1 == x) with
    | none => c
    | some (_, e) =>
      let past := if e ≠ 0 then decide (e ≤ c.now) else if src = 2 then !c.drivesHigh sel else if src = 6 then c.trigSince sel false else true
      if past then { c with pins := { c.pins with trigOut := Tbl.erase c.pins.trigOut x } } else c)

/-- The level at the ball of trigger output `x` (R248): low in bring-up, chip fault and thermal shutdown; else active or not, by POL. -/
def Core.trigPin (c : Core) (x : Nat) : Bool :=
  c.svc && !c.on Fd.CHP_FAULT_STS_FAULT && Bool.xor (c.pins.trigOut.any (fun k => k.1 == x)) (c.on (Fd.CHP_TRIG_OUT_CFG_POL x))

end Sys2Proof.Machine
end

