-- ==== Sys2Proof/Machine/Release.lean ====
section
/-!
DEFINITION. Timed release (R41, R119, R134, R137-R150, R236-R246): what each output does at a release tick.
-/
namespace Sys2Proof.Machine

/-- The value of an OCCULT register that governs this tick: a write acts from the tick after it (R145, R246). -/
def Core.occReg (c : Core) (x : Fld) : Nat :=
  match c.occOld.find? (fun e => e.1 == x.off && e.2.1 == c.now) with
  | some (_, _, v) => bitsOf v x.lo x.w
  | none => c.get x

/-- Does a span that starts at tick `f` include this tick? -/
def Core.since (c : Core) (f : Option Nat) : Bool :=
  match f with
  | some t => decide (t ≤ c.now)
  | none => false

/-- Region `r` is PARKED and its outputs are occulted: from P + 2 (R448). -/
def Core.parkOcc (c : Core) (r : Nat) : Bool := c.parked r && c.since ((c.rgn r).parkAt.map (fun p => p + 2))

/-- What a lane releases at this tick. -/
inductive Rel where
  | entry (e : QEntry)
  | fill (v : Cx)
  | zero
  | miss
  | ended
  | off
  deriving DecidableEq, Repr

/-- May queue `k` be released now: no exit of its source waits for its select (R119). -/
def Core.laneReady (c : Core) (k : Nat) : Bool :=
  match (c.lane k).src with
  | none => true
  | some g =>
    match (c.cell g).branch with
    | none => true
    | some b => !c.cellRuns g || decide (c.now + 17 < b.sT)

/-- Two components negated, -2^15 to 2^15 - 1 (R134). (log 25 DEDUCED) -/
def negZ (v : Cx) : Cx := (satS 16 (-v.1), satS 16 (-v.2))

/-- Queue `k` at release tick `now` (R41, R91, R93, R119, R123): its state after, what it releases, its markers due, and how many entries leave. Tagged entries due to which no
select applies are discarded, and zero is released as R91 gives, with no miss. (log 25 DEDUCED, 142 DEDUCED) -/
def Lane.release (l : Lane) (now : Nat) (zeroed : Bool) (role : Nat) : Lane × Rel × List MarkKind × Nat :=
  let st := now + 17
  let gone := l.entries.filter (fun e => decide (e.stamp ≤ st))
  let l1 := { l with entries := l.entries.filter (fun e => !decide (e.stamp ≤ st)), marks := l.marks.filter (fun k => !decide (k.stamp ≤ st)) }
  if l.act = false ∨ now < l.from_ then (l1, .off, [], gone.length)
  else if zeroed then ({ l1 with fill := none }, .zero, [], gone.length)
  else
    let ms := (l.marks.filter (fun k => k.ct == 0 && decide (k.stamp ≤ st))).map (fun k => k.kind)
    let f := ms.foldl (fun f k =>
      match k with
      | .fill v w p a => some (v, w, p, a)
      | .resume => none
      | _ => f) l.fill
    let l2 := { l1 with fill := f }
    if ms.contains .endm then ({ l2 with act := false, fill := none }, .ended, ms, gone.length)
    else
      match gone.find? (fun e => e.ct == 0 && e.stamp == st), f with
      | some e, _ => (l2, .entry e, ms, gone.length)
      | none, some (v, w, p, a) =>
        (l2, .fill (stampSample role v { stamp := st, sub := 0, ct := 0, xn := 0, ftw := w, poff := p, amp := a }).1, ms, gone.length)
      | none, none => (l2, if gone.any (fun e => (e.ct == 1 || e.ct == 2) && e.stamp == st) then .zero else .miss, ms, gone.length)

/-- The fill's samples of one tick at stamp `st`: the repeated sample through the NCO at each sub-tick (R123). (log 25 DEDUCED) -/
def fillTick (l : Lane) (role st : Nat) : List Cx :=
  match l.fill with
  | some (v, w, p, a) => (upFrom 0 3).map (fun i => (stampSample role v { stamp := st, sub := i, ct := 0, xn := 0, ftw := w, poff := p, amp := a }).1)
  | none => []

/-- Did a stage saturate in the fill of one tick (R123, R128)? -/
def fillSat (l : Lane) (role st : Nat) : Bool :=
  match l.fill with
  | some (v, w, p, a) => (upFrom 0 3).any (fun i => (stampSample role v { stamp := st, sub := i, ct := 0, xn := 0, ftw := w, poff := p, amp := a }).2)
  | none => false

/-- Releases queue `k`: credits return (R53), a miss counts (R41), and so does a tick of fill that saturates (R151). -/
def Core.relLane (c : Core) (k : Nat) : Core × Rel × List MarkKind :=
  let l := c.lane k
  let g := l.src.getD 0
  let y := l.release c.now (c.since (c.cell g).zeroAt) (c.role g)
  let c := (c.setLane k y.1).bookReturnN (queueBook k) y.2.2.2
  let c := if y.2.1 = .miss then (c.inc (Fd.CEL_LATE_CNT_LATE_MISS g) 1).late g else c
  let sat := (match y.2.1 with
    | .fill _ => fillSat y.1 (c.role g) (c.now + 17)
    | _ => false)
  let c := (c.stick (Fd.CEL_DRV_STS_MIX_SAT g) sat).inc (Fd.CEL_DRV_STS_SAT_CNT g) (b2n sat)
  (c, y.2.1, y.2.2.1)

/-- The three samples of a release; none for zero. -/
def Rel.samples (l : Lane) (role st : Nat) : Rel → List Cx
  | .entry e => e.smp
  | .fill _ => fillTick l role st
  | _ => []

/-! ### RF DACs -/

/-- A lock of DAC `i` of region `r` ends (R149). -/
def Core.unlock (c : Core) (r i g : Nat) (implicit : Bool) : Core :=
  let c := ((c.put (Fd.RGN_DAC_STS_LOCK_STATE r i) 0).put (Fd.RGN_DAC_STS_OWNER r i) 0).put (Fd.CEL_DRV_STS_LOCKED g) 0
  c.stick (Fd.CEL_DRV_STS_LOCK_IMPLICIT g) implicit

/-- The LOCK marker of cell `g` at DAC `i` of region `r` (R148). A lock granted to a cell already quarantined, in the two ticks in which its lanes still release, is broken as one
held at F (R150). (log 142 DEDUCED) -/
def Core.lockReq (c : Core) (r i g : Nat) : Core :=
  let stt := c.get (Fd.RGN_DAC_STS_LOCK_STATE r i)
  if stt = 0 then
    let c := match (c.cell g).qAt, (c.cell g).zeroAt with
      | some _, some z => c.modDac (8 * r + i) (fun o => { o with occFrom := some z, breakBy := some (z, g) })
      | _, _ => c
    (((c.put (Fd.RGN_DAC_STS_LOCK_STATE r i) 1).put (Fd.RGN_DAC_STS_OWNER r i) (g % 288)).put (Fd.RGN_DAC_EPOCH_EPOCH r i) (c.get Fd.CHP_RUN_EPOCH_EPOCH)).put
      (Fd.CEL_DRV_STS_LOCKED g) 1
  else if stt = 1 ∧ c.get (Fd.RGN_DAC_STS_OWNER r i) = g % 288 then c
  else c.lockDenied g

/-- Locks of DAC `i` of region `r` at this release tick (R148, R149): `ms` lists tone, source cell and due markers, tones rising. -/
def Core.locks (c : Core) (r i : Nat) (ms : List (Nat × Nat × List MarkKind)) : Core :=
  let c := ms.foldl (fun c k =>
    let own := c.get (Fd.RGN_DAC_STS_LOCK_STATE r i) == 1 && c.get (Fd.RGN_DAC_STS_OWNER r i) == k.2.1 % 288
    if own && k.2.2.contains .unlock then c.unlock r i k.2.1 false
    else if own && k.2.2.contains .endm then c.unlock r i k.2.1 true
    else c) c
  ms.foldl (fun c k => if k.2.2.contains .lock then c.lockReq r i k.2.1 else c) c

/-- The combined stream of one tick (R137, R139) from the contributing lanes: the three samples and whether a step saturated. -/
def combine (shift : Nat) (zone1 : Bool) (ls : List (List Cx)) : List Cx × Bool :=
  let at_ := fun (e : Nat) =>
    let xs := ls.map (fun l => let v := l.getD e (0, 0); ((floorShr v.1 2, floorShr v.2 2) : Cx))
    let t : Cx := (sumI (xs.map (fun x => x.1)), sumI (xs.map (fun x => x.2)))
    let u := cxNarrow 14 shift t
    let w : Cx := if zone1 then (u.1, satS 14 (-u.2)) else u
    (w, cxHits 14 shift t || (zone1 && satHits 14 (-u.2)))
  ([(at_ 0).1, (at_ 1).1, (at_ 2).1], (at_ 0).2 || (at_ 1).2 || (at_ 2).2)

/-- Are all samples of the stream within 98 % of full scale (R497)? (log 13 DEDUCED) -/
def within98 (full : Int) (l : List Int) : Bool := l.all (fun x => decide (100 * x ≤ 98 * full) && decide (-(98 * full) ≤ 100 * x))

/-- Are all samples of the complex stream within 98 % of full scale in magnitude (R128, R138)? (log 13 DEDUCED) -/
def mag98 (full : Int) (l : List Cx) : Bool := l.all (fun x => decide (10000 * (x.1 * x.1 + x.2 * x.2) ≤ 9604 * (full * full)))

/-- Does a value `v` (16 bits) keep the overshoot bound of R497, where the stream `l` (newest first, `2 ^ sh` of the value's units each) is one step: at most 1.2 % of full scale
beyond the step, or of the step where that is larger? (log 168 DEDUCED) -/
def overshootOk (sh : Nat) (l : List Int) (v : Int) : Bool :=
  match l with
  | [] => true
  | a :: _ =>
    match l.dropWhile (fun x => x == a) with
    | [] => true
    | b :: rest =>
      let a := a * 2 ^ sh
      let d := b * 2 ^ sh
      let most := 12 * max 32767 (max a d - min a d)
      !rest.all (fun x => x * 2 ^ sh == d) || (decide (1000 * (v - max a d) ≤ most) && decide (1000 * (min a d - v) ≤ most))

/-- Is the complex stream (newest first) a tone of a quarter of its sample rate, 375 MHz, which lies in the passband of both interpolators: every sample the one before it turned
by a quarter turn? -/
def quarterTone (h : List Cx) : Bool :=
  (h.zip (h.drop 1)).all (fun p => p.1 == (-p.2.2, p.2.1)) || (h.zip (h.drop 1)).all (fun p => p.1 == (p.2.2, -p.2.1))

/-- Is the square `p` of a magnitude that of `q` within the passband ripple of 0.02 dB and the images of R497 (together 0.31 % of the magnitude), and two codes of rounding?
(log 168 DEDUCED) -/
def rippleOk (p q : Int) : Bool :=
  decide (10000 * p ≤ 10063 * q + 10000 * 4 * 2 ^ 16) && decide (9937 * q ≤ 10000 * p + 10000 * 4 * 2 ^ 16)

/-- Does an interpolated value of the stream `h` (14 bits, newest first) keep the bounds of R497? A stream within 98 % of full scale does not saturate; a step overshoots by at most
1.2 % of full scale; a tone of the passband keeps its magnitude. (log 13 DEDUCED, 168 DEDUCED) -/
def rfBound (h : List Cx) (v : Cx) : Bool :=
  (!(within98 8191 (h.map (fun x => x.1)) && within98 8191 (h.map (fun x => x.2))) || !cxHits 16 0 v)
    && (!mag98 8191 h || decide (v.1 * v.1 + v.2 * v.2 ≤ 32767 * 32767))
    && overshootOk 2 (h.map (fun x => x.1)) v.1 && overshootOk 2 (h.map (fun x => x.2)) v.2
    && (!quarterTone h || rippleOk (v.1 * v.1 + v.2 * v.2) (16 * ((h.headD (0, 0)).1 * (h.headD (0, 0)).1 + (h.headD (0, 0)).2 * (h.headD (0, 0)).2)))

/-- The interpolated samples of one tick, in Q1.15 (R128, R138, R497): DC gain exactly 1, so a constant stream stays as it is; else the filter left open, of which a value that
breaks the bounds is not taken. (log 12 DESIGN CHOICE) -/
def rfInterp (h : List Cx) : List Cx :=
  match h with
  | [] => List.replicate 24 (0, 0)
  | a :: _ =>
    let dc : Cx := (4 * a.1, 4 * a.2)
    if h.all (fun x => x == a) then List.replicate 24 dc
    else (upFrom 0 24).map (fun k => let v := (Config.rfInterp h).getD k dc; if rfBound h v then v else dc)

/-- The DAC codes of one tick at stamp `st` (R128, R138, R139), and whether the interpolator or the mixer saturated. ZONE 1 mixes with the phase -ph_car. -/
def rfCodes (ftw poff : Nat) (zone1 : Bool) (h : List Cx) (st : Nat) : List Int × Bool :=
  let out := ((upFrom 0 24).zip (rfInterp h)).map (fun k =>
    let v := cxNarrow 16 0 k.2
    let ph := phase48 ftw poff (24 * st + k.1)
    let cs := ncoCs (if zone1 then (2 ^ 48 - ph) % 2 ^ 48 else ph)
    let y := floorShr (v.1 * cs.1 - v.2 * cs.2) 17
    (satS 14 y, cxHits 16 0 k.2 || satHits 14 y))
  (out.map (fun k => k.1), out.any (fun k => k.2))

/-- Does a foreground calibration of kind `kind` run on the unit of almanac entry `e` (R403)? -/
def Core.inFull (c : Core) (kind e : Nat) : Bool := c.cal.jobs.any (fun j => j.kind == kind && j.units.contains e)

/-- RF DAC `i` of region `r` is occulted at this release tick (R145). -/
def Core.dacOcc (c : Core) (r i : Nat) : Bool :=
  !c.svc || !c.dacOk r i || !c.on (Fd.RGN_DAC_CFG_EN r i) || bitAt (c.occReg (Fd.RGN_DAC_CTL_OCCULT r)) i || c.parkOcc r
    || c.since ((c.dac (8 * r + i)).occFrom) || c.pins.d3

/-- A broken lock that LOCK_RELEASE ends at this release tick or before: the DAC is FREE and its occulting ends (R291). (log 48 DEDUCED) -/
def Core.freeBroken (c : Core) (r i : Nat) : Core :=
  match (c.dac (8 * r + i)).freeAt with
  | some u =>
    if c.now < u then c
    else ((c.put (Fd.RGN_DAC_STS_LOCK_STATE r i) 0).put (Fd.RGN_DAC_STS_OWNER r i) 0).modDac (8 * r + i) (fun o => { o with occFrom := none, freeAt := none })
  | none => c

/-- RF DAC `i` of region `r` at a release tick (R134, R137-R150): lanes, locks and combiner for the stamp 17 ticks ahead; carrier mixing for the stamp 8 ticks ahead (R144), whose
codes are 0 while DAC_FULL runs (R403); DACMIX samples, which are the combiner's output, in ZONE 1 after the negation of Q of R139. (log 13 DEDUCED, 169 DESIGN CHOICE) -/
def Core.releaseDac (c : Core) (r i : Nat) : Core :=
  let d := 8 * r + i
  let st := c.now + 17
  let c := (c.breakDue r i).freeBroken r i
  let rel := (upFrom 0 16).foldl (fun (a : Core × List (Nat × Nat × Rel × List MarkKind)) t =>
    let k := toneKey r i t
    match (a.1.lane k).src with
    | none => a
    | some g => let y := a.1.relLane k; (y.1, a.2 ++ [(t, g, y.2.1, y.2.2)])) (c, [])
  let c := rel.1.locks r i (rel.2.map (fun k => (k.1, k.2.1, k.2.2.2)))
  let locked := c.get (Fd.RGN_DAC_STS_LOCK_STATE r i) == 1
  let owner := c.get (Fd.RGN_DAC_STS_OWNER r i)
  let ls := (rel.2.filter (fun k => !locked || k.2.1 % 288 == owner)).map (fun k =>
    let xs := k.2.2.1.samples (c.lane (toneKey r i k.1)) (c.role k.2.1) st
    if (c.frameNow k.2.1).2 then xs.map negZ else xs)
  let occ := c.dacOcc r i
  let mix := combine (c.get (if locked then Fd.RGN_DAC_CFG_LOCK_SHIFT r i else Fd.RGN_DAC_CFG_COMB_SHIFT r i)) (c.on (Fd.RGN_DAC_CFG_ZONE r i)) ls
  let c := (c.inc (Fd.RGN_DAC_CNT_COMB_SAT r i) (b2n (mix.2 && !occ))).setOn (Fd.RGN_DAC_STS_OCCULTED r i) (match (c.dac d).hist.find? (fun h => h.stamp == c.now) with
    | some h => h.occ
    | none => occ)
  let hist := ({ stamp := st, smp := mix.1, occ := occ, sat := mix.2 } : HistTick) :: ((c.dac d).hist.take 40)
  let past := hist.filter (fun h => decide (h.stamp ≤ c.now + 17))
  let here := hist.find? (fun h => h.stamp == c.now + 8)
  let hid : Bool := c.inFull 0x13 (almDac d) || (match here with
    | some h => h.occ
    | none => true)
  let ftw := c.get (Fd.RGN_DAC_FTW_LO_FTW_LO r i) + 2 ^ 32 * c.get (Fd.RGN_DAC_FTW_HI_FTW_HI r i)
  let y := rfCodes ftw (c.get (Fd.RGN_DAC_FTW_HI_POFF r i)) (c.on (Fd.RGN_DAC_CFG_ZONE r i)) (past.flatMap (fun h => h.smp.reverse)) (c.now + 8)
  let c := c.inc (Fd.RGN_DAC_CNT_OUT_SAT r i) (b2n (y.2 && !hid))
  let c := c.modDac d (fun o => { o with last := some c.now, hist := hist, stamp := c.now + 8, codes := if hid then List.replicate 24 0 else y.1 })
  match hist.find? (fun h => h.stamp == c.now) with
  | some h => c.acqSource r 2 i 0 (((upFrom 0 3).zip h.smp).map (fun k =>
      { tick := c.now, sub := k.1, spt := 3, i := k.2.1 * 4, q := k.2.2 * 4, ovr := false,
        ovrN := b2n h.sat, cal := false }))
  | none => c

/-! ### Baseband DACs -/

/-- Does an interpolated value of the stream `h` (newest first) keep the bounds of R497, as `rfBound`? A real tone of a quarter of the sample rate keeps its amplitude.
(log 13 DEDUCED, 168 DEDUCED) -/
def bbBound (h : List Int) (v : Int) : Bool :=
  let a := h.headD 0
  let b := (h.drop 1).headD 0
  !(within98 32767 h && satHits 16 v) && overshootOk 0 h v
    && (!(h.zip (h.drop 2)).all (fun p => p.1 == -p.2) || decide (10000 * (v * v) ≤ 10063 * (a * a + b * b) + 10000 * 4 * 2 ^ 16))

/-- The six values of one tick (R143, R497), as `rfInterp`. (log 12 DESIGN CHOICE) -/
def bbInterp (holds : Bool) (cur : List Int) (h : List Int) : List Int :=
  if holds then cur.flatMap (fun x => [x, x])
  else match h with
    | [] => List.replicate 6 0
    | a :: _ =>
      if h.all (fun x => x == a) then List.replicate 6 a
      else (upFrom 0 6).map (fun k => let v := (Config.bbInterp h).getD k a; if bbBound h v then v else a)

/-- Baseband DAC `m` of block `b` of region `r` is occulted at this release tick (R145). -/
def Core.bbOcc (c : Core) (r b m : Nat) : Bool :=
  !c.svc || !c.bbOk r b m || !c.on (Fd.BLK_BB_CFG_EN r b m) || bitAt (c.occReg (Fd.BLK_BB_CTL_OCCULT r b)) m || c.parkOcc r
    || c.since ((c.bb (32 * r + 2 * b + m)).occFrom) || c.pins.d3

/-- Baseband DAC `m` of block `b` of region `r` at a release tick (R143-R146): DC_OFFSET is added for the stamp 12 ticks ahead (R144), and the code is 0 while BB_FULL runs (R403).
(log 13 DEDUCED) -/
def Core.releaseBb (c : Core) (r b m : Nat) : Core :=
  let d := 32 * r + 2 * b + m
  let k := bbKey r b m
  let st := c.now + 17
  let y := c.relLane k
  let c := y.1
  let occ := c.bbOcc r b m
  let vs := y.2.1.samples (c.lane k) 3 st
  let smp := if vs.isEmpty then [(0, 0), (0, 0), (0, 0)] else vs
  let hist := ({ stamp := st, smp := smp, occ := occ, sat := false } : HistTick) :: ((c.bb d).hist.take 40)
  let here := hist.find? (fun h => h.stamp == c.now + 12)
  let hid : Bool := c.inFull 0x14 (almBb d) || (match here with
    | some h => h.occ
    | none => true)
  let cur := match here with
    | some h => h.smp.map (fun x => x.1)
    | none => [0, 0, 0]
  let holds := c.on (Fd.BLK_BB_CFG_INTERP r b m)
  let all := hist.flatMap (fun h => (h.smp.map (fun x => x.1)).reverse)
  let off := c.getS (Fd.BLK_BB_CFG_DC_OFFSET r b m)
  let xs := bbInterp holds cur all
  let narrow := xs.map (satS 16)
  let clip := xs.any (satHits 16) || narrow.any (fun x => satHits 16 (x + off))
  let c := c.inc (Fd.BLK_BB_CNT_SAT r b m) (b2n (clip && !hid))
  c.modBb d (fun o => { o with last := some c.now, hist := hist, stamp := c.now + 12,
                               codes := if hid then List.replicate 6 0 else narrow.map (fun x => satS 16 (x + off)) })

/-! ### Vector pins -/

/-- The driver state of a code (R239); a HOLD or a reserved code keeps it. Driver states: 0 low, 1 high, 2 high impedance. -/
def driverOf (old code : Nat) : Nat :=
  if code = 1 ∨ code = 8 then 0 else if code = 2 ∨ code = 9 then 1 else if 3 ≤ code ∧ code ≤ 7 then 2 else old

/-- Is a code a compare code? -/
def isCompare (code : Nat) : Bool := decide (4 ≤ code) && decide (code ≤ 9)

/-- The compare runs of a pin after the tick of stamp `st` (R241, R246): `code` as released (16 no entry), `occ` occulted, `cut` the source is quarantined or held, `fin` the lane
has ended. (log 154 DEDUCED) -/
def runStep (runs : List CRun) (st code : Nat) (occ cut fin : Bool) : List CRun :=
  match runs.reverse with
  | [] => if isCompare code && !fin then [{ s0 := st, se := st, inval := occ, gap := false, closed := false, fail := false }] else []
  | d :: older =>
    let put := fun (e : CRun) => (e :: older).reverse
    if d.closed then
      (if isCompare code && !fin then runs ++ [{ s0 := st, se := st, inval := occ, gap := false, closed := false, fail := false }] else runs)
    else if fin then put { d with closed := true }
    else if isCompare code then put { d with se := st, inval := d.inval || d.gap || occ, gap := false }
    else if cut then put { d with inval := true, closed := true }
    else if code = 16 then put { d with gap := true }
    else put { d with closed := true }

/-- Vector pin `w` of region `r` is occulted at this release tick for a cause of its own: its OCCULT bit, or the region PARKED (R246). -/
def Core.pinOcc (c : Core) (r w : Nat) : Bool := bitAt (c.occReg (Fd.VIO_CTL_OCCULT r)) w || c.parkOcc r

/-- Its source is quarantined or held at this release tick (R246). -/
def Core.srcOcc (c : Core) (r w : Nat) : Bool :=
  let g := r * 288 + c.get (Fd.VIO_PIN_CFG_SRC r w)
  (c.lane (vecKey r w)).src == some g && c.since (c.cell g).zeroAt

/-- The driver of an occulted pin (R246). -/
def Core.occDrv (c : Core) (r w : Nat) : Nat := if c.on (Fd.VIO_PIN_CFG_OCC_DRIVE r w) then 0 else 2

/-- Does the pin stand at REST at stamp `st` (R236, R245): it has no source, or the stamp lies outside the span of a shot? -/
def Core.vecRests (c : Core) (r w st : Nat) : Bool :=
  let h := (c.rgn r).shot
  !c.on (Fd.VIO_PIN_CFG_EN r w) || !h.inShot || h.d0.isSome || decide (st < h.ts)

/-- Vector pin `w` of region `r` at a release tick (R236-R246). In `sig` 17 stands for a tick occulted for a cause of the pin, 18 for one of its source. -/
def Core.releaseVec (c : Core) (r w : Nat) : Core :=
  let v := 8 * r + w
  let st := c.now + 17
  let y := c.relLane (vecKey r w)
  let c := y.1
  let rest := c.vecRests r w st
  let own := c.pinOcc r w
  let cut := !rest && c.srcOcc r w
  let occ := own || cut
  let code := match y.2.1 with
    | .entry e => e.code
    | .miss => 16
    | _ => 0
  let bad := decide (10 ≤ code) && decide (code ≤ 15)
  let code := if bad then 0 else code
  let fin := y.2.1 == .ended || y.2.1 == .off
  let drv := if occ then c.occDrv r w else if rest then c.restDrv r w else driverOf (c.vec v).drv code
  let shown := if own then 17 else if cut then 18 else if rest then 0 else code
  let here := match (c.vec v).sig.find? (fun k => k.1 == c.now) with
    | some k => decide (17 ≤ k.2.1)
    | none => occ
  let c := (c.stick (Fd.VIO_STS_BAD_CODE r w) bad).setOn (Fd.VIO_STS_OCCULTED r w) here
  c.modVec v (fun x => { x with drv := drv, last := some c.now, runs := runStep x.runs st code occ cut fin,
                                sig := (x.sig.filter (fun k => decide (c.now ≤ k.1 + 2))) ++ [(st, shown, drv)] })

/-! ### The command -/

/-- The lead of cell `g` is judged once in this tick (R45): a lost lead faults the cell. (log 38 DEDUCED) -/
def Core.leadCheck (c : Core) (m : Mems) (g : Nat) : Core :=
  c.unitOf m g (fun c =>
    let y := c.evalLead g
    if y.2 then (y.1.put (Fd.CEL_LEAD_STS_LEAD_LOST g) 1).faultCell m g [1] else y.1)

/-- The queues of an output. -/
def unitLanes : OutUnit → List Nat
  | .dac r i => (upFrom 0 16).map (toneKey r i)
  | .bb r b m => [bbKey r b m]
  | .vec r w => [vecKey r w]

/-- Does the output exist on this part? -/
def Core.unitOk (c : Core) : OutUnit → Bool
  | .dac r i => c.rOk r && decide (i < 8)
  | .bb r b m => c.bOk r b && decide (m < 2)
  | .vec r w => c.rOk r && decide (w < 8)

/-- Has the output released this tick already? -/
def Core.unitDone (c : Core) : OutUnit → Bool
  | .dac r i => (c.dac (8 * r + i)).last == some c.now
  | .bb r b m => (c.bb (32 * r + 2 * b + m)).last == some c.now
  | .vec r w => (c.vec (8 * r + w)).last == some c.now

/-- LANE_RELEASE (R41): every queue of the output releases the entry due at this tick. A queue whose source has an exit to resolve at this tick waits for EXIT_SELECT (R119). (log 131 DESIGN CHOICE) -/
def execLaneRelease (u : OutUnit) (s : State) : Host.Outcome State Fault Refusal :=
  s.onCore (fun m c =>
    if !c.svc || !c.running || !c.unitOk u || c.unitDone u || !(unitLanes u).all c.laneReady then c
    else
      let c := match u with
        | .dac r i => c.releaseDac r i
        | .bb r b n => c.releaseBb r b n
        | .vec r w => c.releaseVec r w
      (unitLanes u).foldl (fun c k =>
        match (c.lane k).src with
        | some g => c.leadCheck m g
        | none => c) c)

end Sys2Proof.Machine
end

