-- ==== Sys2Proof/Machine/Adc.lean ====
section
/-!
DEFINITION. Sampling (R153-R165, R39, R44, R400): the ADC macros, the band DDC, what reaches the READOUT cells and the acquisition channels.
-/
namespace Sys2Proof.Machine

/-! ### Slices (R153, R400) -/

/-- The slice that samples sub-tick `i` of input `inp` (R153). -/
def sliceOf (dual : Bool) (inp i : Nat) : Nat := if dual then 2 * i + inp else i

/-- The sums of one input's slices over one tick (R400): `prev` is the code of the sample before, if it belongs to the tick before. (log 16 DEDUCED) -/
def gatherSlices (dual : Bool) (inp : Nat) (prev : Option Int) (codes : List Int) (a : AdcSt) : AdcSt :=
  let n := codes.length
  let sl := fun (a : AdcSt) (k : Nat) (f : Slice → Slice) => { a with slices := Tbl.insert a.slices k (f (Tbl.get (fun _ => Slice.init) a.slices k)) }
  let a := ((upFrom 0 n).zip codes).foldl (fun a k => sl a (sliceOf dual inp k.1) (fun s => { s with n := s.n + 1, s1 := s.s1 + k.2, s2 := s.s2 + k.2 * k.2 })) a
  let a := ((upFrom 0 (n - 1)).zip (codes.zip (codes.drop 1))).foldl (fun a k => sl a (sliceOf dual inp k.1) (fun s => { s with sx := s.sx + k.2.1 * k.2.2 })) a
  match prev, codes.head? with
  | some p, some x => sl a (sliceOf dual inp (n - 1)) (fun s => { s with sx := s.sx + p * x })
  | _, _ => a

/-! ### What held at a stamp (R178, R211, R228) -/

/-- Was stamp `st` a tick of a calibration of macro `k` (R178)? -/
def Core.calAt (c : Core) (k st : Nat) : Bool := (((c.adc k).calLog.find? (fun e => decide (e.1 ≤ st))).map (fun e => e.2)).getD false

/-- MODE and EN of macro `j` of region `r` for samples stamped `st`: a swap changes them from the first stamp after it (R211). (log 144 DEDUCED) -/
def Core.adcModeAt (c : Core) (r j st : Nat) : Bool × Bool :=
  match (c.adc (4 * r + j)).before with
  | some (w, dual, en) => if st ≤ w then (dual, en) else (c.on (Fd.RGN_ADC_CFG_MODE r j), c.on (Fd.RGN_ADC_CFG_EN r j))
  | none => (c.on (Fd.RGN_ADC_CFG_MODE r j), c.on (Fd.RGN_ADC_CFG_EN r j))

/-- A code as the converter yields it: an input beyond the range gives the code at the limit on its side (R155). -/
def limitedCode (x : AdcCode) : AdcCode :=
  if x.ovr then { x with code := if x.code.toInt < 0 then BitVec.ofInt 12 (-2048) else BitVec.ofInt 12 2047 } else x

/-! ### Band DDC (R158-R160) -/

/-- The mixed samples of one stream over one tick, sub-tick 0 first (R158). (log 14 DESIGN CHOICE, 16 DEDUCED) -/
def bandMix (dual : Bool) (ftw poff st : Nat) (codes : List Int) : List (Int × Int) :=
  ((upFrom 0 codes.length).zip codes).map (fun k =>
    let cs := ncoCs (phaseHalf (ftw : Int) poff (48 * st + (if dual then 6 else 3) * k.1))
    (k.2 * 16 * cs.1, -(k.2 * 16 * cs.2)))

/-- The amplitude `b` at zero frequency of the real sine at the band centre whose mixed samples are `h` (R160): a sample x = 2 Re(b e^jph) mixes to m = x e^-jph, for which
|m|² = 2 Re(b m*), so the samples lie on the circle through zero about b. The least-squares centre; none where all samples lie on one line. (log 14 DESIGN CHOICE) -/
def sineCentre (h : List (Int × Int)) : Option (Int × Int) :=
  let t := fun (m : Int × Int) => m.1 * m.1 + m.2 * m.2
  let xx := sumI (h.map (fun m => m.1 * m.1))
  let xy := sumI (h.map (fun m => m.1 * m.2))
  let yy := sumI (h.map (fun m => m.2 * m.2))
  let tx := sumI (h.map (fun m => t m * m.1))
  let ty := sumI (h.map (fun m => t m * m.2))
  let det := xx * yy - xy * xy
  if det = 0 then none else some ((tx * yy - ty * xy) / (2 * det), (ty * xx - tx * xy) / (2 * det))

/-- Are the mixed samples `h` those of a sine of at least half of full scale at the band centre, each within one ADC code (2^19) of it? (log 14 DESIGN CHOICE) -/
def isSine (h : List (Int × Int)) (b : Int × Int) : Bool :=
  decide (2 ^ 56 ≤ b.1 * b.1 + b.2 * b.2)
    && h.all (fun m =>
      let t := m.1 * m.1 + m.2 * m.2
      let d := t - 2 * (b.1 * m.1 + b.2 * m.2)
      decide (d * d ≤ t * 2 ^ 38))

/-- One output of the band filter for the mixed samples `h`, newest first, of which the last 256 are held; `y` the value left open. A stream of zeros gives zero. A stream of a
period that divides 8 gives its mean, since every other line of it lies in the stopband (R159). A sine at the band centre gives its amplitude at zero frequency within 1 % (R160:
the filter rejects its image). (log 14 DESIGN CHOICE) -/
def bandLaw (h : List (Int × Int)) (y : Int × Int) : Int × Int :=
  if h.all (fun x => x == (0, 0)) then (0, 0)
  else if h.length < 256 then y
  else if (h.zip (h.drop 8)).all (fun p => p.1 == p.2) then (sumI ((h.take 8).map (fun m => m.1)) / 8, sumI ((h.take 8).map (fun m => m.2)) / 8)
  else
    match sineCentre h with
    | some b =>
      let d := (y.1 - b.1) * (y.1 - b.1) + (y.2 - b.2) * (y.2 - b.2)
      if isSine h b && !decide (10000 * d ≤ b.1 * b.1 + b.2 * b.2) then b else y
    | none => y

/-- The band samples of one tick (R159, R160): filter, narrowing, gain; and whether one saturated. (log 14 DESIGN CHOICE) -/
def bandOut (dual : Bool) (gain : Nat) (h : List (Int × Int)) : List Cx × Bool :=
  let n := if dual then 1 else 2
  let ys := (upFrom 0 n).map (fun e => bandLaw h ((Config.bandFilter (b2n dual) h).getD e (0, 0)))
  let zs := ys.map (fun y => ((floorShr y.1 15 * ((2 ^ gain : Nat) : Int), floorShr y.2 15 * ((2 ^ gain : Nat) : Int)) : Cx))
  (zs.map (cxNarrow 16 0), zs.any (cxHits 16 0))

/-! ### The integrator input (R39, R44) -/

/-- A band sample reaches the integrator of cell `g` (R44): integrated where its schedule has been posted; else the cell is late, and the sample waits in the buffer
of 64 ticks. On an overflow the sample that arrives is lost, and the MEASURE whose window contains its stamp delivers an invalid result. (log 17 DEDUCED, 29 DEDUCED,
143 DESIGN CHOICE) -/
def Core.bandArrive (c : Core) (m : Mems) (g : Nat) (b : BandSmp) : Core :=
  let x := c.cell g
  let o := x.ro
  let covered := (match o.posted with
    | some p => decide (b.stamp ≤ p)
    | none => false) || (match o.cover with
    | some w => decide (w ≤ b.stamp)
    | none => false)
  let past := match x.endAt with
    | some e => decide (e < b.stamp + 11)
    | none => false
  if !c.cellLive g || c.parked (cellR g) || x.zeroAt.isSome || decide (b.stamp < (c.rgn (cellR g)).shot.ts) || past then c
  else if covered then
    match o.winAt b.stamp with
    | some k => c.integrate m g k [b]
    | none => c
  else
    let c := c.late g
    if ((o.buf.map (fun k => k.stamp)).eraseDups.filter (fun t => t != b.stamp)).length < 64 then c.modRo g (fun o => { o with buf := o.buf ++ [b] })
    else c.modRo g (fun o => { o with lost := if o.lost.head? = some b.stamp then o.lost else b.stamp :: o.lost })

/-- The READOUT cells that listen to stream `x` of macro `j` of region `r` (R162). -/
def Core.listeners (c : Core) (r j x : Nat) : List Nat := (rgnCells r).filter (fun g => c.role g == 2 && c.chanOf g == (j, x))

/-- Does a listener have an exit to resolve before samples of this tick are checked (R119)? -/
def Core.selectPending (c : Core) (g : Nat) : Bool :=
  match (c.cell g).branch with
  | some b => c.cellRuns g && decide (b.sT + 11 ≤ c.now)
  | none => false

/-- One stream of a macro: `h` its mixed history, newest first, with this tick's samples. -/
def Core.bandStream (c : Core) (m : Mems) (r j x : Nat) (dual : Bool) (st : Nat) (h : List (Int × Int)) (ovr : List Bool) : Core :=
  let y := bandOut dual (c.get (if x = 0 then Fd.RGN_ADC_CFG_GAIN_A r j else Fd.RGN_ADC_CFG_GAIN_B r j)) h
  let c := c.stick (Fd.RGN_ADC_STS_BAND_SAT r j) y.2
  let cal := c.calAt (4 * r + j) st
  let nOvr := (ovr.filter id).length
  let bs := ((upFrom 0 y.1.length).zip y.1).map (fun k =>
    ({ stamp := st, e := k.1, i := k.2.1, q := k.2.2, ovr := ((ovr.drop (8 * k.1)).take 8).any id, cal := cal } : BandSmp))
  let c := (c.listeners r j x).foldl (fun c g => ((bs.foldl (fun c b => c.bandArrive m g b) c).schedFree g c.now).leadCheck m g) c
  c.acqSource r 1 j x (bs.map (fun b => { tick := st, sub := b.e, spt := if dual then 1 else 2, i := b.i, q := b.q, ovr := b.ovr, ovrN := nOvr, cal := cal }))

/-- ADC_SAMPLE (R163, R155, R39): the samples of stamp `now - 11` of macro `j` of region `r`, corrected for mismatch, as they reach the integrators: `a` of input A,
`b` of input B (DUAL). A macro out of service carries zero (R157); a channel on input B of an INTERLEAVED macro gets zero samples (R211). (log 16 DEDUCED, 17 DEDUCED,
131 DESIGN CHOICE, 144 DEDUCED) -/
def execAdcSample (r j : Nat) (a b : List AdcCode) (s : State) : Host.Outcome State Fault Refusal :=
  s.onCore (fun m c =>
    let k := 4 * r + j
    let st := c.now - 11
    let dual := (c.adcModeAt r j st).1
    let n := if dual then 8 else 16
    let work := c.adcOk r j && (c.adcModeAt r j st).2 && !c.pins.d3
    let take := fun (l : List AdcCode) => (upFrom 0 n).map (fun i => if work then (l.getD i { code := 0, ovr := false }) |> limitedCode else { code := 0, ovr := false })
    let busy := (c.listeners r j 0 ++ c.listeners r j 1).any c.selectPending
    if !c.svc || !c.running || !c.rOk r || decide (4 ≤ j) || decide (c.now < 11) || (c.adc k).last == some c.now || busy then c
    else
      let sa := take a
      let sb := if dual then take b else []
      let ca := sa.map (fun x => x.code.toInt)
      let cb := sb.map (fun x => x.code.toInt)
      let na := (sa.filter (fun x => x.ovr)).length
      let nb := (sb.filter (fun x => x.ovr)).length
      let c := ((c.inc (Fd.RGN_ADC_CNT_OVR_A r j) na).stick (Fd.RGN_ADC_STS_OVR_A r j) (decide (0 < na))).inc (Fd.RGN_ADC_CNT_OVR_B r j) nb
      let c := c.stick (Fd.RGN_ADC_STS_OVR_B r j) (decide (0 < nb))
      let prev := fun (x : Nat) => if (c.adc k).last = some (c.now - 1) then ((c.adc k).prev.find? (fun e => e.1 == x)).map (fun e => e.2) else none
      let gather := work && !c.on (Fd.RGN_ADC_STS_CAL r j)
      let c := c.modAdc k (fun z => if gather then gatherSlices dual 1 (prev 1) cb (gatherSlices dual 0 (prev 0) ca z) else z)
      let mixA := bandMix dual (c.get (Fd.RGN_ADC_FTW_LO_FTW_LO r j 0) + 2 ^ 32 * c.get (Fd.RGN_ADC_FTW_HI_FTW_HI r j 0)) (c.get (Fd.RGN_ADC_FTW_HI_POFF r j 0)) st ca
      let mixB := bandMix dual (c.get (Fd.RGN_ADC_FTW_LO_FTW_LO r j 1) + 2 ^ 32 * c.get (Fd.RGN_ADC_FTW_HI_FTW_HI r j 1)) (c.get (Fd.RGN_ADC_FTW_HI_POFF r j 1)) st cb
      let ha := if work then (mixA.reverse ++ (c.adc k).histA).take 256 else []
      let hb := if work then (mixB.reverse ++ (c.adc k).histB).take 256 else []
      let c := c.modAdc k (fun z => { z with last := some c.now, histA := ha, histB := hb,
                                             prev := [(0, ca.getLast?.getD 0), (1, cb.getLast?.getD 0)] })
      let cal := c.calAt k st
      let raw := fun (l : List AdcCode) (cnt : Nat) => ((upFrom 0 n).zip l).map (fun q =>
        ({ tick := st, sub := q.1, spt := n, i := q.2.code.toInt, q := 0, ovr := q.2.ovr, ovrN := cnt, cal := cal } : AcqSmp))
      let c := (c.acqSource r 0 j 0 (raw sa na)).bandStream m r j 0 dual st ha (sa.map (fun x => x.ovr))
      if dual then (c.acqSource r 0 j 1 (raw sb nb)).bandStream m r j 1 dual st hb (sb.map (fun x => x.ovr))
      else
        let none_ := fun (spt : Nat) => (upFrom 0 spt).map (fun i => ({ tick := st, sub := i, spt := spt, i := 0, q := 0, ovr := false, ovrN := 0, cal := cal } : AcqSmp))
        (c.acqSource r 0 j 1 (none_ n)).acqSource r 1 j 1 (none_ 2))

end Sys2Proof.Machine
end

