-- ==== Sys2Proof/Machine/Stack.lean ====
section
/-!
DEFINITION. The HBM stack as every unit reaches it (R306, R307, R312-R317, R320, R324): address mapping, the front and its queues, scheduling, activates, errors, reads and writes.
-/
namespace Sys2Proof.Machine

/-! ### Address mapping (R306, R307) -/

/-- BLOCKED layout is in force. -/
def Core.blocked (c : Core) : Bool := c.on Fd.HBM_CFG_PC_MODE
/-- The pseudo-channel of address `x`. -/
def Core.hPc (c : Core) (x : Nat) : Nat := pcOf c.blocked x
/-- The row of address `x`. -/
def Core.hRow (c : Core) (x : Nat) : Nat := if c.blocked then bitsOf x 15 15 else bitsOf x 19 15
/-- The base bank of address `x`. -/
def Core.hBase (c : Core) (x : Nat) : Nat := if c.blocked then bitsOf x 10 5 else bitsOf x 14 5
/-- The bank of address `x`: bit k is B[k] xor the parity of row and mask k (R307). -/
def Core.hBank (c : Core) (x : Nat) : Nat :=
  ((upFrom 0 5).map (fun k =>
    let par := xorAll (bitsUp (Nat.land (c.hRow x) (c.get (Fd.HBM_BANK_XOR_ROWMASK k))) 15)
    if Bool.xor (bitAt (c.hBase x) k) par then 2 ^ k else 0)).foldl (fun a b => a + b) 0

/-- The partition an address lies in, 0xF outside all (R309, R329). -/
def Core.hPart (c : Core) (x : Nat) : Nat :=
  match (upFrom 0 4).find? (fun p => decide (c.get (Fd.HBM_PART_BASE p) * 2 ^ 26 ≤ x) && decide (x < (c.get (Fd.HBM_PART_BASE p) + c.get (Fd.HBM_PART_SIZE p)) * 2 ^ 26)) with
  | some p => p
  | none => 0xF

/-! ### Requests -/

/-- Requests outstanding that each requester may have (R313). -/
def hLimit : HbmReq → Nat
  | .refill _ _ | .acq _ | .gatherer _ => 16
  | .resultDma => 32
  | .root | .bar4 => 64
  | .scrubber => 8

/-- Requests of a requester that are outstanding at the controller or on their way to it. -/
def Core.hOut (c : Core) (who : Nat) : Nat :=
  let n := fun (l : List HReq) => (l.filter (fun q => q.who == who)).length
  (c.hbmc.pcs.map (fun e => n e.2.q)).foldl (fun a b => a + b) 0 + n c.hbmc.held + n c.hbmc.ups

/-- The front holds no request. -/
def Core.frontEmpty (c : Core) : Bool := c.hbmc.pcs.all (fun e => e.2.q.isEmpty) && c.hbmc.held.isEmpty

/-- May a request have this address and length (R312, R316)? 32, 64 or 128 bytes, aligned, in one line of 128; a write of BAR4 any part of a line. (log 73 DESIGN CHOICE) -/
def hShape (q : HbmReq) (addr len : Nat) (write : Bool) : Bool :=
  decide (addr + len ≤ 2 ^ 34) && decide (1 ≤ len) && decide (addr % 128 + len ≤ 128)
    && ((len == 32 || len == 64 || len == 128) && addr % len == 0 || (write && q == HbmReq.bar4))

/-- WR_HIGH and WR_LOW in force (R327). -/
def Core.hMarks (c : Core) : Nat × Nat :=
  let h := c.get Fd.HBM_SCHED_WR_HIGH
  let l := c.get Fd.HBM_SCHED_WR_LOW
  if h ≤ l then (48, 16) else (h, l)

/-- Write drain of a pseudo-channel as its waiting requests stand (R315): it begins with WR_HIGH writes or when no read waits, and ends with WR_LOW or fewer. -/
def Core.hDrain (c : Core) (x : Pc) : Bool :=
  let w := (x.q.filter (fun r => r.write)).length
  if w = 0 then false
  else if x.q.length = w then true
  else if x.drain then decide (c.hMarks.2 < w) else decide (c.hMarks.1 ≤ w)

/-- A request is accepted by the front of its pseudo-channel (R313, R314, R316): its spine credit returns; a read that meets a waiting write of its row puts the bank in in-order mode. (log 65 DEDUCED) -/
def Core.hAccept (c : Core) (r : HReq) : Core :=
  let p := c.hPc r.addr
  let b := c.hBank r.addr
  let row := c.hRow r.addr
  let hits := ((c.pc p).q.filter (fun w => w.write && c.hBank w.addr == b && c.hRow w.addr == row)).map (fun w => w.seq)
  let enter := !r.write && !hits.isEmpty && !(c.pc p).inOrder.any (fun e => e.1 == b)
  let c := c.inc (Fd.HBM_PC_CNT1_IN_ORDER p) (b2n enter)
  c.modPc p (fun x =>
    let y : Pc := { x with q := x.q ++ [r], inOrder := if !r.write && !hits.isEmpty then Tbl.insert x.inOrder b (max (maxList 0 hits) (Tbl.get (fun _ => 0) x.inOrder b)) else x.inOrder }
    { y with drain := c.hDrain y })

/-- Book 0x6 for a request that reaches the front (R314): the credit in transit returns; a request without one shown in transit took and returns it now. (log 65 DEDUCED) -/
def Core.hCredit (c : Core) (p : Nat) : Core :=
  let k := bookKey 6 0 p
  if (c.book k).inflight = 0 then (c.bookIssue k).bookReturn k else c.bookReturn k

/-! ### Scheduling (R315, R316) -/

/-- A request has waited more than AGE_LIMIT controller cycles: 8/5 of a tick, 9/5 at 3.6 Gb/s (R29). (log 66 DEDUCED) -/
def Core.hAged (c : Core) (r : HReq) : Bool :=
  let n := if c.on Fd.HBM_STS_RATE_NOW then 9 else 8
  decide (c.get Fd.HBM_SCHED_AGE_LIMIT * 5 < (c.now - r.at_) * n)

/-- May request `r` be issued (R316)? In an in-order bank only the oldest request of the bank; a write not before an earlier read of its row. -/
def Core.hMay (c : Core) (x : Pc) (r : HReq) : Bool :=
  let b := c.hBank r.addr
  let older := x.q.filter (fun o => decide (o.seq < r.seq) && c.hBank o.addr == b)
  if x.inOrder.any (fun e => e.1 == b) then older.isEmpty
  else !(r.write && older.any (fun o => !o.write && c.hRow o.addr == c.hRow r.addr))

/-- The requests that the first rule which separates them picks (R315). -/
def separate : List (HReq → Bool) → List HReq → List HReq
  | [], l => l
  | f :: rest, l => if l.any f && l.any (fun x => !f x) then l.filter f else separate rest l

/-- The next request of pseudo-channel `p` (R315): among the oldest 64; then refill engines first, then the oldest. -/
def Core.hPick (c : Core) (p : Nat) : Option HReq :=
  let x := c.pc p
  let drain := c.hDrain x
  let cand := (x.q.take 64).filter (c.hMay x)
  let isOpen := fun (r : HReq) => x.rows.any (fun e => e.1 == c.hBank r.addr && e.2 == c.hRow r.addr)
  let l := separate [c.hAged, isOpen, fun r => r.write == drain] cand
  let fill := l.filter (fun r => decide (r.who < 128))
  (if fill.isEmpty then l else fill).head?

/-! ### Activates (R320) -/

/-- The entry with the lowest count, the first on a tie. -/
def leastAct : List (Nat × Nat × Nat) → Option (Nat × Nat × Nat)
  | [] => none
  | a :: rest =>
    match leastAct rest with
    | none => some a
    | some b => if b.2.2 < a.2.2 then some b else some a

/-- The first entry equal to `old` replaced. -/
def replaceAct (old new : Nat × Nat × Nat) : List (Nat × Nat × Nat) → List (Nat × Nat × Nat)
  | [] => []
  | a :: rest => if a = old then new :: rest else a :: replaceAct old new rest

/-- The activate-count table after an activate of a row, and whether the row's neighbours are refreshed. -/
def actStep (thr bank row : Nat) (t : List (Nat × Nat × Nat)) : List (Nat × Nat × Nat) × Bool :=
  let fin := fun (n : Nat) => if thr ≤ n then (0, true) else (n, false)
  match t.find? (fun e => e.1 == bank && e.2.1 == row) with
  | some e => let n := fin (e.2.2 + 1); (replaceAct e (bank, row, n.1) t, n.2)
  | none =>
    if t.length < 32 then let n := fin 1; (t ++ [(bank, row, n.1)], n.2)
    else match leastAct t with
      | none => (t, false)
      | some e => let n := fin (e.2.2 + 1); (replaceAct e (bank, row, n.1) t, n.2)

/-- The refresh window in ticks: 32 ms, 16 ms while HOT (R319). -/
def Core.refSpan (c : Core) : Nat := (if c.on Fd.HBM_STS_HOT then 16 else 32) * 1000 * ticksPerUs

/-- Pseudo-channel `p` at this tick: at the end of a refresh window a new one begins and every entry of the activate-count table is free (R319, R320). (log 72 DESIGN CHOICE) -/
def Core.refWin (c : Core) (p : Nat) : Core :=
  let x := c.pc p
  if c.now < x.winAt + c.refSpan then c
  else c.modPc p (fun x => { x with winAt := c.now - (c.now - x.winAt) % c.refSpan, due := [], acts := [] })

/-- A row is activated in pseudo-channel `p` (R320). After a refresh of its neighbours the bank is closed. -/
def Core.activate (c : Core) (p bank row : Nat) : Core :=
  let c := (c.refWin p).modPc p (fun x => { x with rows := Tbl.insert x.rows bank row })
  if c.on Fd.HBM_CFG_NEIGHBOR_EN then
    let y := actStep (max 256 (c.get Fd.HBM_CFG_ACT_THRESHOLD)) bank row (c.pc p).acts
    (c.modPc p (fun x => { x with acts := y.1, rows := if y.2 then Tbl.erase x.rows bank else x.rows })).inc (Fd.HBM_PC_CNT1_NEIGHBOR_REF p) (b2n y.2)
  else c

/-! ### Errors (R317) -/

/-- Does 64-bit word `w` of the stack share a byte with an access? -/
def hitsWord (addr len w : Nat) : Bool := decide (addr < 8 * w + 8) && decide (8 * w < addr + len)

/-- The first uncorrectable word of an access. -/
def hBad (m : Mems) (addr len : Nat) : Option Nat := m.ue.find? (hitsWord addr len)

/-- An uncorrectable word at `x` has been read; `off` the spool offset concerned. -/
def Core.hUe (c : Core) (x off : Nat) : Core :=
  let p := c.hPc x
  let c := c.inc (Fd.HBM_PC_CNT0_UE p) 1
  let c := if c.on Fd.HBM_STS_UE then c else (c.put Fd.HBM_ERR_ADDR_LO_ADDR_LO (x % 2 ^ 32)).put Fd.HBM_ERR_ADDR_HI_ADDR_HI (x / 2 ^ 32)
  (c.put Fd.HBM_STS_UE 1).raise 0x80 0 p x (c.hPart x + off * 2 ^ 32)

/-- Words with a bit error after a write: a word written whole has none. (log 129 DESIGN CHOICE) -/
def healed (ue : List Nat) (addr len : Nat) : List Nat := ue.filter (fun w => !(decide (addr ≤ 8 * w) && decide (8 * w + 8 ≤ addr + len)))

/-- Is the write less than whole 64-bit words (R316)? -/
def hPartial (addr len : Nat) : Bool := addr % 8 != 0 || len % 8 != 0

/-- Bytes written to the stack. (log 4 DESIGN CHOICE) -/
def hWrite (m : Mems) (addr : Nat) (data : List Byte) : Mems :=
  { m with hbm := wrBytes m.hbmFree m.hbm addr data, ue := healed m.ue addr data.length, ce := healed m.ce addr data.length }
/-- Bytes of the stack. (log 4 DESIGN CHOICE) -/
def hRead (m : Mems) (addr len : Nat) : List Byte := rdBytes m.hbmFree m.hbm addr len

/-- A bit error turns up in the word at `addr`: a single one (`corr`), or one that cannot be corrected. -/
def hFlaw (m : Mems) (addr : Nat) (corr ue : Bool) : Mems :=
  let w := addr / 8
  if ue then { m with ue := if m.ue.contains w then m.ue else insertUp w m.ue, ce := m.ce.filter (fun v => v != w) }
  else if corr && !m.ce.contains w && !m.ue.contains w then { m with ce := insertUp w m.ce } else m

/-- What a read counts and reports (R317): every word with a single-bit error is corrected and counted, every uncorrectable one counted and reported; `off` gives the spool offset
of a word. -/
def Core.hCounts (c : Core) (m : Mems) (addr len : Nat) (off : Nat → Nat) : Core :=
  let c := (m.ce.filter (hitsWord addr len)).foldl (fun c w => c.inc (Fd.HBM_PC_CNT0_CORR (c.hPc (8 * w))) 1) c
  (m.ue.filter (hitsWord addr len)).foldl (fun c w => c.hUe (8 * w) (off w)) c

/-- Bytes of the 64-byte pieces of `data` that hold an uncorrectable word, set to zero (R317). -/
def blank64 (m : Mems) (addr : Nat) (data : List Byte) : List Byte :=
  ((upFrom 0 data.length).zip data).map (fun e => if (hBad m ((addr + e.1) / 64 * 64) 64).isSome then 0 else e.2)

/-- Requester `who` gets the uncorrectable 64-byte pieces of what it reads as zero: an acquisition channel, the result DMA (R317). -/
def hBlanks (who : Nat) : Bool := (decide (128 ≤ who) && decide (who < 160)) || who == 168

/-! ### What a unit has to do at the stack -/

/-- The length of the first request of an access of `n` bytes at `a` (R312, R316): an aligned one of 128, 64 or 32 bytes; with `any` what lies in the line. (log 73 DESIGN CHOICE) -/
def hPiece (any : Bool) (a n : Nat) : Nat :=
  if any then min n (128 - a % 128) else if a % 128 = 0 ∧ 128 ≤ n then 128 else if a % 64 = 0 ∧ 64 ≤ n then 64 else 32

/-- The next request of a work: address, length, data of a write. The header of a backup copy follows when its data have been written (R409). -/
def HWork.next (w : HWork) : Option (Nat × Nat × Option (List Byte)) :=
  match w.todo with
  | [] => none
  | (a, n, d) :: rest =>
    if w.who = 169 ∧ backTag ≤ w.tag ∧ rest = [] ∧ w.out ≠ 0 then none
    else
      let k := hPiece (w.who == 170 && d.isSome) a n
      some (a, k, d.map (fun l => l.take k))

/-- The next request of `k` bytes has been made. -/
def HWork.took (w : HWork) (k : Nat) : HWork :=
  match w.todo with
  | [] => w
  | (a, n, d) :: rest => { w with out := w.out + 1, todo := if n ≤ k then rest else (a + k, n - k, d.map (fun l => l.drop k)) :: rest }

/-- Every request has been made and served. -/
def HWork.done (w : HWork) : Bool := w.todo.isEmpty && w.out == 0

/-- The `n` bytes at `a` that the reads of a work have brought. -/
def HWork.bytes (w : HWork) (a n : Nat) : List Byte :=
  (upFrom a n).map (fun x => match w.got.find? (fun e => decide (e.1 ≤ x) && decide (x < e.1 + e.2.length)) with
    | some e => e.2.getD (x - e.1) 0
    | none => 0)

/-- Requester `who` has the accesses `todo` to make for the purpose `tag`; the first byte read goes to spool offset `off`. -/
def Core.newWork (c : Core) (who tag off : Nat) (todo : List (Nat × Nat × Option (List Byte))) : Core :=
  { c with hbmc := { c.hbmc with jobs := c.hbmc.jobs + 1, works := c.hbmc.works ++ [{ id := c.hbmc.jobs + 1, who := who, tag := tag, todo := todo, out := 0, got := [], bad := false, off := off }] } }

/-- What requester `who` has to do for the purpose `tag`. -/
def Core.workOf (c : Core) (who tag : Nat) : Option HWork := c.hbmc.works.find? (fun w => w.who == who && w.tag == tag)

/-- The work whose next request requester `who` makes: the oldest with one to make. -/
def Core.workNext (c : Core) (who : Nat) : Option HWork := c.hbmc.works.find? (fun w => w.who == who && !w.todo.isEmpty)

/-- A work replaced. -/
def Core.setWork (c : Core) (w : HWork) : Core := { c with hbmc := { c.hbmc with works := c.hbmc.works.map (fun x => if x.id = w.id then w else x) } }

/-- A work that needs nothing more of its unit ends (R270, R317): the host's read is answered, poisoned where it met an uncorrectable word; the host's write and the gatherer's section
are in the stack. The root and the result DMA end theirs by their commands. (log 63 DESIGN CHOICE) -/
def Core.workEnd (c : Core) (w : HWork) : Core :=
  let drop := fun (c : Core) => { c with hbmc := { c.hbmc with works := c.hbmc.works.filter (fun x => x.id != w.id) } }
  if !w.done || w.who == 168 || w.who == 169 then c
  else if w.who ≠ 170 ∨ w.tag = 0 then drop c
  else if w.bad then (((drop c).inc Fd.PCI_BAR4_STS_RD_UE 1).emit (.readAns (w.bytes w.off w.tag) true)).emit (.aer 0)
  else (drop c).emit (.readAns (w.bytes w.off w.tag) false)

/-- Request `r` of a work has been served; a read has brought `data`. -/
def Core.workGot (c : Core) (r : HReq) (data : List Byte) (bad : Bool) : Core :=
  match c.hbmc.works.find? (fun w => w.id == r.job) with
  | none => c
  | some w =>
    let w := { w with out := w.out - 1, got := if r.write then w.got else w.got ++ [(r.addr, data)], bad := w.bad || bad }
    (c.setWork w).workEnd w

/-! ### Issue -/

/-- The spool offset of the 64 bytes that hold 64-bit word `w`, for a request whose data go to a spool (R317); else 0. -/
def Core.hSpoolOff (c : Core) (r : HReq) (w : Nat) : Nat :=
  let z := if 128 ≤ r.who ∧ r.who < 160 then (c.acq (r.who - 128)).spoolRing else c.get Fd.CHP_RESULT_CFG_SPOOL
  if r.write || !hBlanks r.who then 0 else (r.off + 8 * w / 64 * 64 - r.addr) % max 1 (c.ring z).s

/-- A read's data return to an acquisition channel (R223, R310). -/
def Core.acqBack (c : Core) (who addr : Nat) (data : List Byte) : Core := if 128 ≤ who ∧ who < 160 then c.acqGot (who - 128) addr data else c

/-- The front of pseudo-channel `p` after request `r` has been served. -/
def Core.hServed (c : Core) (p : Nat) (r : HReq) : Core :=
  let c := c.modPc p (fun x =>
    let y : Pc := { x with q := x.q.filter (fun o => o.seq != r.seq), inOrder := if r.write then x.inOrder.filter (fun e => e.2 != r.seq) else x.inOrder }
    { y with drain := c.hDrain y })
  if c.frontEmpty then { c with hbmc := { c.hbmc with idleAt := c.now } } else c

/-- The access of request `r` is made. `corr`: its first word has a single-bit error; `ue`: it is uncorrectable. -/
def hIssue (m : Mems) (c : Core) (p : Nat) (r : HReq) (corr ue : Bool) : Mems × Core :=
  let b := c.hBank r.addr
  let row := c.hRow r.addr
  let c := if (c.pc p).rows.any (fun e => e.1 == b && e.2 == row) then c else c.activate p b row
  let c := c.hServed p r
  let m := if r.write && !hPartial r.addr r.len then m else hFlaw m r.addr corr ue
  if r.write then
    if hPartial r.addr r.len then
      let c := c.hCounts m r.addr r.len (fun _ => 0)
      if (hBad m r.addr r.len).isSome then (m, (c.inc Fd.PCI_BAR4_STS_WR_DROP 1).workGot r [] true) else (hWrite m r.addr r.data, c.workGot r [] false)
    else (hWrite m r.addr r.data, c.workGot r [] false)
  else
    let c := c.hCounts m r.addr r.len (c.hSpoolOff r)
    let bad := (hBad m r.addr r.len).isSome
    let data := if bad && hBlanks r.who then blank64 m r.addr (hRead m r.addr r.len) else hRead m r.addr r.len
    let c := c.acqBack r.who r.addr data
    let c := if r.who < 128 then c.refillGot m (r.who / 16) (r.who % 16) r.addr data (!bad) else c
    (m, ({ c with hbmc := { c.hbmc with lastRd := some (r.who, r.addr, data, bad) } }).workGot r data bad)

/-- Pseudo-channel `p` is in a retraining pause. -/
def Core.paused (c : Core) (p : Nat) : Bool := c.hbmc.pausing && c.get Fd.HBM_STS_TRAIN_PC == p

end Sys2Proof.Machine
end

