-- ==== Sys2Proof/Machine/Shots.lean ====
section
/-!
DEFINITION. Shots, drains and the swap (R56, R57, R256-R264, R172, R192, R193, R297, R298): from a cell's beginning of a shot to the end of its drain.
-/
namespace Sys2Proof.Machine

/-! ### The beginning of a shot -/

/-- FMAX of a rail voltage in mV, in MHz (R48); between rows the lower row. -/
def fmax (mv : Nat) : Nat :=
  if 800 ≤ mv then 1400 else if 770 ≤ mv then 1350 else if 740 ≤ mv then 1250 else if 710 ≤ mv then 1160 else if 680 ≤ mv then 1080
  else if 650 ≤ mv then 1000 else 900

/-- The smallest voltage of the table with FMAX at or above `f` (R49). -/
def vmin (f : Nat) : Nat :=
  if f ≤ 900 then 620 else if f ≤ 1000 then 650 else if f ≤ 1080 then 680 else if f ≤ 1160 then 710 else if f ≤ 1250 then 740
  else if f ≤ 1350 then 770 else 800

/-- What a cell keeps from shot to shot (R264), everything else as at the beginning of a shot whose first stamp is `ts`. -/
def Cell.fresh (x : Cell) (ts start : Nat) (on : Bool) (seqStart : Nat) : Cell :=
  { Cell.init with
    phx := { Phx.clear with on := on, pc := start, flags := 16 },
    ctx := { SeqCtx.clear with pc := seqStart, stamp := ts, strm := x.ctx.strm },
    faulted := x.faulted, faultRun := x.faultRun, leadMin := x.leadMin, freqSet := x.freqSet, frameOps := x.frameOps, frLog := x.frLog, frBase := x.frBase,
    slots := (upFrom 0 8).map (fun k => (k, { WSlot.empty with seen := (x.slot k).seen })), stage := x.stage,
    ro := { Ro.clear with thr := x.ro.thr, lastOk := x.ro.lastOk, slots := x.ro.slots, nslot := x.ro.nslot, winNext := x.ro.winNext } }

/-- The queues of cell `g` become active (R41). (log 18 DEDUCED) -/
def Core.openLanes (c : Core) (g ts : Nat) : Core :=
  (c.cellLanes g).foldl (fun c k => c.setLane k { Lane.init with src := some g, act := true, from_ := ts - 17 }) c

/-- Cell `g` begins the shot with first stamp `ts` (R76, R93, R107, R260, R46). (log 18 DEDUCED, 38 DEDUCED, 40 DEDUCED) -/
def Core.beginCell (c : Core) (m : Mems) (ts g : Nat) : Core :=
  if c.role g = 0 then c
  else
    let r := cellR g
    let start := c.get (Fd.CEL_CFG_START g)
    let seqStart := pmWord m g (c.seqW g) % 4096
    let x := (c.cell g).fresh ts start (c.on (Fd.CEL_CFG_PHX_EN g)) seqStart
    let seen := c.busSeq - 1
    let x := { x with slots := (upFrom 0 8).map (fun k => (k, { WSlot.empty with seen := seen })) }
    let quar := (c.cell g).quarNext
    let c := (c.setCell g x).openLanes g ts
    let c := ((((c.put (Fd.CEL_STS_IN_HANDLER g) 0).put (Fd.CEL_STS_WAITING g) 0).put (Fd.CEL_STS_HALTED g) 0).put (Fd.CEL_SEQ_STS_PC g) 0).put (Fd.CEL_SEQ_STS_HOLD g) 0
    let c := c.put (Fd.CEL_SEQ_STS_SLOT_FULL g) 0
    if c.on (Fd.CEL_CTL_HOLD g) then
      (c.modCell g (fun x => { x with held := true, zeroAt := some (ts - 17), quarNext := quar })).modShot r (fun s => { s with quar := true })
    else
      let c := if x.freqSet then c
        else (c.put (Fd.CEL_LEAD_STS_FREQ g) (min 1250 (fmax (c.get (Fd.RGN_LEAD_STS_VDD_NOW r))))).modCell g (fun x => { x with freqSet := true })
      let c := ((c.put (Fd.CEL_STS_STATE g) 1).eccImage m g 0).1
      if quar then
        let c := c.stopCell g
        let c := c.modCell g (fun x => { x with qAt := some (ts - 19), zeroAt := some (ts - 17) })
        c.raise 0x20 3 g 0 0
      else c.feed m g

/-- Bytes that wait in record staging. (log 70 DEDUCED) -/
def Core.stagedBytes (c : Core) : Nat := (c.host.recs.map (fun r => r.data.length)).foldl (fun a b => a + b) 0

/-- The SLOT_BYTES of region `r` (R298). -/
def Core.slotBytes (c : Core) (r : Nat) : Nat :=
  8 * (((rgnCells r).filter (fun g => c.role g == 2)).map (fun g => c.get (Fd.CEL_RO_CFG_NSLOT g))).foldl (fun a b => a + b) 0

/-- The length of the section of region `r` in a shot record (R298). -/
def Core.secLen (c : Core) (r : Nat) : Nat := ceilDiv (64 + c.slotBytes r + 32 * c.get (Fd.RGN_SYND_CFG_NREC r)) 64 * 64

/-- Record staging can take one more record (R260): in every region that is not PARKED its slice of the RECORD partition has room for one of its sections (R310); without HBM the
on-die buffer of 256 KiB has room for the record (R312). (log 37 DEDUCED) -/
def Core.stageRoom (c : Core) : Bool :=
  let rs := c.regions.filter (fun r => !c.parked r)
  if c.on Fd.CHP_BOOT_STS_NO_HBM then decide (c.stagedBytes + 64 + (rs.map c.secLen).foldl (fun a b => a + b) 0 ≤ 2 ^ 18)
  else rs.all (fun r =>
    let used := (c.host.recs.map (fun d => ((d.secs.filter (fun e => e.1 == r)).map (fun e => e.2)).foldl (fun a b => a + b) 0)).foldl (fun a b => a + b) 0
    decide (used + c.secLen r ≤ c.get (Fd.HBM_PART_SIZE 2) * 2 ^ 23))

/-- The block supervisors of region `r` begin a shot (R446, R452): nothing has faulted in it so far. (log 42 DEDUCED) -/
def Core.beginBlocks (c : Core) (r : Nat) : Core :=
  (upFrom 0 16).foldl (fun c b =>
    (((c.put (Fd.BLK_SUP_STS_QUARANTINED r b) 0).put (Fd.BLK_SUP_STS_CAUSE r b) 0).put (Fd.BLK_SUP_STS_CELLS_Q r b) 0).modBlk (16 * r + b) (fun k => { k with qAt := none })) c

/-- Region `r` takes part in the shot with first stamp `ts`. -/
def Core.beginRgn (c : Core) (m : Mems) (ts r : Nat) : Core :=
  let y := (c.rgn r).synd
  let c := c.modRgn r (fun x => { x with shot := { RgnShot.init with inShot := true, ts := ts }, synd := { Synd.init with freeAt := y.freeAt, flits := y.flits } })
  let c := { c with lanes := c.lanes.filter (fun l => l.1 / 168 != r) }
  (rgnCells r).foldl (fun c g => c.beginCell m ts g) (c.beginBlocks r)

/-- A swap that comes before the next shot has not been made: its COMMIT was complete 16 ticks ago or more (R21, R256). -/
def Core.swapOwed (c : Core) : Bool :=
  match c.root.cC with
  | some cc => decide (cc + 16 < c.now)
  | none => false

/-- SHOT_BEGIN acts at this tick: a first stamp is known and 48 ticks away or less, and record staging has not delayed it past use (R260). -/
def Core.beginDue (c : Core) : Bool :=
  match c.ser.ts with
  | none => false
  | some t => c.svc && (c.runIs .armed || c.runIs .running) && !c.ser.stopping && !c.ser.shotOn && decide (t ≤ c.now + 48) && (c.ser.staged || decide (c.now < t))

/-- SHOT_BEGIN (R260): 48 ticks before its first stamp the cells of every region that is not PARKED begin the next shot of the series. While record staging has no
room it waits; the first stamp is then 48 ticks after the shot begins. A swap that is owed goes before it (R256). With every region PARKED there is no shot to begin: the series
ends (R448). (log 36 DEDUCED, 44 DEDUCED, 161 DEDUCED) -/
def execShotBegin (s : State) : Host.Outcome State Fault Refusal :=
  s.onCore (fun m c =>
    let y := c.ser
    match y.ts with
    | none => c
    | some t =>
      if !c.beginDue || c.swapOwed then c
      else if c.regions.all c.parked then c.seriesEnd
      else if !c.stageRoom then { c with ser := { y with staged := true } }
      else
        let ts := if y.staged then max t (c.now + 48) else t
        let rs := c.regions.filter (fun r => !c.parked r)
        let final := decide (y.count ≠ 0xFFFFFFFF) && decide (y.next + 1 = y.count)
        let c := c.enter (if final then .draining else .running)
        let c := ((c.put Fd.CHP_RUN_EPOCH_EPOCH y.next).put Fd.CHP_RUN_TS_LO_TS_LO (ts % 2 ^ 32)).put Fd.CHP_RUN_TS_HI_TS_HI (ts / 2 ^ 32)
        let c := (c.inc Fd.CHP_RUN_CNT_STAGE_WAIT (b2n y.staged)).inc Fd.THM_CNT_CAPPED_SHOTS (b2n (y.capped && ts == t))
        let mask := rs.foldl (fun a r => a + 2 ^ r) 0
        let c := { c with ser := { y with ts := none, lastTs := ts, begun := true, shotOn := true, cut := false, capped := false, mute := false, gen := c.get Fd.CHP_CFG_STS_GEN, present := mask },
                          bus := c.bus.filter (fun i => decide (c.now ≤ i.base + 64)) }
        let c := (c.regions.filter c.parked).foldl Core.noQuarRun c
        rs.foldl (fun c r => c.beginRgn m ts r) c)

/-- SHOT_FIRST_STAMP (R126, R175, R192, R214, R243, R263): at T_s the result slots are cleared, the watch slots empty, first failures forgotten, and on shot 0 the AT_RUN frame clear is made. -/
def execShotFirstStamp (r : Nat) (s : State) : Host.Outcome State Fault Refusal :=
  s.onCore (fun _ c =>
    let h := (c.rgn r).shot
    if !c.svc || !h.inShot || h.ts != c.now then c
    else
      let c := (rgnCells r).foldl (fun c g =>
        if c.role g = 2 then (c.modRo g (fun o => { o with slots := [], nslot := 0 })).put (Fd.CEL_RO_STS_SLOTS_USED g) 0 else c) c
      let c := (rgnCells r).foldl (fun c g =>
        if c.role g = 0 then c else (c.modCell g (fun x => { x with slots := (upFrom 0 8).map (fun k => (k, { WSlot.empty with seen := (x.slot k).seen })) })).slotBits g) c
      let c := (upFrom 0 8).foldl (fun c w => c.put (Fd.VIO_FIRST_VALID r w) 0) c
      let c := if c.ser.next = 0 ∧ c.get (Fd.RGN_SYND_CFG_FRAME_CLR r) = 2 then
          (rgnCells r).foldl (fun c g =>
            if c.on (Fd.CEL_FRAME_X g) || c.on (Fd.CEL_FRAME_Z g) then c.setFrame g false false else c) c
        else c
      c.acqShot r h.ts)

/-! ### The drain -/

/-- The tick by which cell `g` has ended its part of the shot with first stamp `ts` (R261); none: not yet known. (log 21 DEDUCED) -/
def Core.cellEnd (c : Core) (g ts : Nat) : Option Nat :=
  let x := c.cell g
  let a := if x.held then some ts else x.endAt
  match a, x.qAt with
  | some e, some f => some (min e (f + 2))
  | some e, none => some e
  | none, some f => some (f + 2)
  | none, none => if c.parked (cellR g) then ((c.rgn (cellR g)).parkAt).map (fun p => p + 2) else none

/-- D0 of region `r` (R261, R262), when it is known. -/
def Core.d0Of (c : Core) (r : Nat) : Option Nat :=
  let h := (c.rgn r).shot
  match h.cutAt with
  | some u => some u
  | none =>
    let es := (c.rgnActive r).map (fun g => c.cellEnd g h.ts)
    if es.all (fun e => e.isSome) then some (max h.ts (maxList h.ts (es.map (fun e => e.getD 0))) + 1) else none

/-- The drain of region `r` begins at D0 (R263): engines stop, the open round is cut, locks end, vector pins go to REST, and the credits of quarantined and held
cells return (R55), MANUAL values of DACs take effect (R408). -/
def Core.startDrain (c : Core) (m : Mems) (r d0 : Nat) : Core :=
  let c := c.gapVals r
  let c := (c.rgnActive r).foldl (fun c g =>
    let q := c.get (Fd.CEL_STS_STATE g) == 3
    let c := c.modCell g (fun x => { x with phx := { x.phx with on := false } })
    let c := ((c.put (Fd.CEL_DRV_STS_LOCKED g) 0).put (Fd.CEL_STS_WAITING g) 0).put (Fd.CEL_STS_IN_HANDLER g) 0
    let k := bookKey 1 r (g % 288)
    if q then c.bookReturnN k (c.book k).inflight else c.put (Fd.CEL_STS_STATE g) 0) c
  let c := c.cutRound m r
  let c := (upFrom 0 8).foldl (fun c i =>
    let c := c.breakDue r i
    ((c.put (Fd.RGN_DAC_STS_LOCK_STATE r i) 0).put (Fd.RGN_DAC_STS_OWNER r i) 0).modDac (8 * r + i) (fun o => { o with occFrom := none, freeAt := none, breakBy := none })) c
  let c := (upFrom 0 8).foldl (fun c w => c.vecRest r w) c
  let c := (upFrom (168 * r) 168).foldl (fun c k =>
    let l := c.lane k
    match l.src with
    | none => c
    | some g =>
      let b := queueBook k
      (c.setLane k { l with act := false, fill := none, entries := [], marks := [] }).bookReturnN b (if c.get (Fd.CEL_STS_STATE g) = 3 then (c.book b).inflight else l.entries.length)) c
  c.modShot r (fun h => { h with d0 := some d0, uR := max h.uR d0 })

/-- DRAIN_START (R261, R263); with the last region the chip drain begins (R56, R314). -/
def execDrainStart (r : Nat) (s : State) : Host.Outcome State Fault Refusal :=
  s.onCore (fun m c =>
    let h := (c.rgn r).shot
    match c.d0Of r with
    | none => c
    | some d => if !c.svc || !h.inShot || h.d0.isSome || decide (c.now < d) then c else (c.startDrain m r d).noteHold)

/-- The first unit of the listed book keys that is out of balance (R56): its key and counters. -/
def Core.firstBad (c : Core) (ok : Nat → Bool) : Option (Nat × Book) :=
  c.books.find? (fun e => ok e.1 && (decide (e.2.issued ≠ e.2.returned) || e.2.inflight != 0))

/-- LEDGER_CHECK (R56, R57): of the books of region `r`, or of the chip-level books. The frozen books of a PARKED region are not judged. (log 161 DEDUCED) -/
def execLedgerCheck (r : Option Nat) (s : State) : Host.Outcome State Fault Refusal :=
  s.onCore (fun m c =>
    match r with
    | some r =>
      let h := (c.rgn r).shot
      match h.d0 with
      | none => c
      | some d =>
        if !c.svc || !h.inShot || h.ledgered || decide (c.now < d + 24) then c
        else
          let c := c.modShot r (fun x => { x with ledgered := true })
          match (if c.parked r then none else c.firstBad (fun k => decide (bookCode k ≤ 5) && bookRgn k == r)) with
          | none => c
          | some (k, b) =>
            let unit := k % 512
            let c := if c.on (Fd.RGN_LEDGER_STS_MISMATCH r) then c
              else (((((c.put (Fd.RGN_LEDGER_STS_BOOK r) (bookCode k)).put (Fd.RGN_LEDGER_STS_UNIT r) unit).put (Fd.RGN_LEDGER_STS_MISMATCH r) 1).put
                      (Fd.RGN_LEDGER_ISSUED_ISSUED r) b.issued).put (Fd.RGN_LEDGER_RETURNED_RETURNED r) b.returned).put (Fd.RGN_LEDGER_INFLIGHT_IN_FLIGHT r) b.inflight
            let c := c.raise 0x10 1 r (bookCode k + unit * 2 ^ 16) (b.issued + b.returned * 2 ^ 32)
            (c.modShot r (fun x => { x with ledger := true })).park m r .ledger
    | none =>
      let rs := c.regions.filter (fun r => (c.rgn r).shot.inShot)
      let ds := rs.map (fun r => (c.rgn r).shot.d0)
      let last := maxList 0 (ds.map (fun d => d.getD 0))
      if !c.svc || !c.ser.shotOn || rs.isEmpty || !ds.all (fun d => d.isSome) || decide (c.now < last + 24) || c.ser.ledger == c.ser.next + 1 then c
      else
        let c := { c with ser := { c.ser with ledger := c.ser.next + 1 } }
        match c.firstBad (fun k => decide (6 ≤ bookCode k)) with
        | none => c
        | some (k, b) =>
          let unit := k % 512
          let c := if c.on Fd.CHP_LEDGER_STS_MISMATCH then c
            else (((((c.put Fd.CHP_LEDGER_STS_BOOK (bookCode k)).put Fd.CHP_LEDGER_STS_UNIT unit).put Fd.CHP_LEDGER_STS_MISMATCH 1).put
                    Fd.CHP_LEDGER_ISSUED_ISSUED b.issued).put Fd.CHP_LEDGER_RETURNED_RETURNED b.returned).put Fd.CHP_LEDGER_INFLIGHT_IN_FLIGHT b.inflight
          let c := c.raise 0x10 0 0 (bookCode k + unit * 2 ^ 16) (b.issued + b.returned * 2 ^ 32)
          let c := c.regions.foldl (fun c r => c.park m r .ledger) c
          let c := c.enter .parked
          { c with ser := { c.ser with shotOn := false } })

/-- The section of region `r` in the shot record (R298). -/
def Core.section (c : Core) (r : Nat) : List Byte :=
  let nrec := c.get (Fd.RGN_SYND_CFG_NREC r)
  let rounds := (c.rgn r).synd.rounds.take nrec
  let n := c.slotBytes r
  let head := toLE 1 r ++ toLE 1 nrec ++ toLE 2 rounds.length ++ toLE 4 n ++ List.replicate 56 0
  let cells := (rgnCells r).filter (fun g => c.role g == 2)
  let slots := cells.flatMap (fun g => (upFrom 0 (c.get (Fd.CEL_RO_CFG_NSLOT g))).flatMap (fun x =>
    toLE 8 (Tbl.get (fun _ => (0 : BitVec 64)) (c.cell g).ro.slots x).toNat))
  let recs := rounds.flatMap (roundRec (c.rgn r).shot.ts) ++ List.replicate (32 * (nrec - rounds.length)) 0
  let all := head ++ slots ++ recs
  all ++ List.replicate (ceilDiv all.length 64 * 64 - all.length) 0

/-- The result entry of the shot (R297) for a record of `len` bytes, without PHASE and SPOOL_OFF. -/
def Core.resultEntry (c : Core) (rs : List Nat) (len : Nat) : List Byte :=
  let mask := fun (f : RgnShot → Bool) => flagsOf 8 (fun r => rs.contains r && f (c.rgn r).shot)
  let led := mask (fun h => h.ledger)
  let und := mask (fun h => h.under)
  let lat := mask (fun h => h.late)
  let qua := mask (fun h => h.quar)
  let bad := led != 0 || und != 0 || lat != 0 || qua != 0 || c.ser.cut
  let parked := flagsOf 8 (fun r => c.rOk r && !rs.contains r)
  toLE 4 0 ++ toLE 4 c.ser.next ++ toLE 8 c.ser.lastTs ++ toLE 8 0 ++ toLE 4 len ++ toLE 1 (flagsOf 8 (fun r => rs.contains r)) ++ toLE 1 led
    ++ toLE 1 (b2n bad + 2 * b2n c.ser.cut + 4 * b2n c.ser.staged) ++ toLE 1 0 ++ toLE 1 und ++ toLE 1 lat ++ toLE 1 qua ++ toLE 1 parked
    ++ toLE 4 c.ser.gen ++ List.replicate 24 0

/-- The pieces (address, length) of the stack that `len` bytes from offset `o` of the RECORD slice of region `r` take; the slice is used round and round (R310). (log 151 DEDUCED) -/
def recPieces (c : Core) (r o len : Nat) : List (Nat × Nat) :=
  let size := c.get (Fd.HBM_PART_SIZE 2) * 2 ^ 23
  let base := c.get (Fd.HBM_PART_BASE 2) * 2 ^ 26 + r * size
  if o + len ≤ size then [(base + o, len)] else [(base + o, size - o), (base, o + len - size)]

/-- The offset in the RECORD slice of region `r` at which its next section goes: behind the newest one that waits there. -/
def Core.recNext (c : Core) (r : Nat) : Nat :=
  let size := c.get (Fd.HBM_PART_SIZE 2) * 2 ^ 23
  match (c.host.recs.filter (fun d => d.offs.any (fun e => e.1 == r))).getLast? with
  | some d => (Tbl.get (fun _ => 0) d.offs r + Tbl.get (fun _ => 0) d.secs r) % max 1 size
  | none => 0

/-- The accesses that write `data` to the pieces `l`, one after another. -/
def writesOf : List (Nat × Nat) → List Byte → List (Nat × Nat × Option (List Byte))
  | [], _ => []
  | (a, n) :: rest, data => (a, n, some (data.take n)) :: writesOf rest (data.drop n)

/-- The gatherer of region `r` writes the region's section to its RECORD slice (R310, R313); in NO_HBM the section waits in the on-die buffer (R312). -/
def Core.putSection (c : Core) (r : Nat) : Core :=
  let h := (c.rgn r).shot
  if c.on Fd.CHP_BOOT_STS_NO_HBM then c
  else c.newWork (160 + r) h.secOff 0 (writesOf (recPieces c r h.secOff h.section_.length) h.section_)

/-- When every region of the shot has gathered, its record is in staging (R260, R263). -/
def Core.formRecord (c : Core) : Core :=
  let rs := (upFrom 0 8).filter (bitAt c.ser.present)
  if rs.all (fun r => (c.rgn r).shot.gathered) then
    let body := rs.flatMap (fun r => (c.rgn r).shot.section_)
    let e := c.resultEntry rs (64 + body.length)
    let onDie := c.on Fd.CHP_BOOT_STS_NO_HBM
    let d : ShotRec := { secs := rs.map (fun r => (r, (c.rgn r).shot.section_.length)), offs := if onDie then [] else rs.map (fun r => (r, (c.rgn r).shot.secOff)),
                         entry := e, data := if onDie then e ++ body else e }
    if c.ser.mute then c else { c with host := { c.host with recs := c.host.recs ++ [d] } }
  else c

/-- All rounds of the shot of region `r` have finished. -/
def Core.roundsDone (c : Core) (r : Nat) : Bool := (c.rgn r).synd.opens.isEmpty && (c.rgn r).synd.rounds.all (fun d => d.fin)

/-- The thresholds of entry `x` of cell `g` in a drain (R172, R408): a MANUAL almanac entry gives the working thresholds and holds them; the loop runs; its result goes to the
almanac as the QUERY record of R173. -/
def thrDrain (m : Mems) (c : Core) (g x : Nat) : Mems × Core :=
  let e := almThresh g x
  let man := almManual m e
  let v := almV m e 0
  let c := if man then c.setThr g x { c.thr g x with t01 := BitVec.ofNat 16 v, t2 := BitVec.ofNat 16 (v / 2 ^ 16) } else c
  let y := c.thrUpdate m g x man
  let t := y.1.thr g x
  let a := if 0 < y.2.1 then almAccept m y.1 e (almTwo (t.t01.toNat + t.t2.toNat * 2 ^ 16) (t.upd + t.rej * 2 ^ 16)) else (m, y.1)
  if 0 < y.2.2 then almRefuse a.1 a.2 e else a

/-- DRAIN_GATHER (R91, R172, R175, R205, R263): results not delivered fill their slots, slots and round records are gathered, thresholds are updated. -/
def execDrainGather (r : Nat) (s : State) : Host.Outcome State Fault Refusal :=
  s.onBoth (fun m c =>
    let h := (c.rgn r).shot
    match h.d0 with
    | none => (m, c)
    | some d =>
      if !c.svc || !h.inShot || h.gathered || !h.ledgered || decide (c.now < d + 32) || !c.roundsDone r then (m, c)
      else
        let cells := (rgnCells r).filter (fun g => c.role g == 2)
        let c := cells.foldl (fun c g => c.flushWins m g) c
        let c := c.modShot r (fun x => { x with gathered := true, section_ := c.section r, secOff := c.recNext r })
        let c := if bitAt c.ser.present r then c.putSection r else c
        let y := cells.foldl (fun a g => (upFrom 0 8).foldl (fun a x => thrDrain a.1 a.2 g x) a) (m, c)
        (y.1, if bitAt y.2.ser.present r then y.2.formRecord else y.2))

/-- FRAME_DRAIN_APPLY (R192, R193): at Q the toggles of that tick, the EVERY_DRAIN clear and held `CEL_FRAME` writes apply, in that order. Q is D0, or the last write tick of the toggles
sent so far; a later toggle of the same shot moves Q, and clear and held value apply again there. (log 165 DEDUCED) -/
def execFrameDrainApply (r : Nat) (s : State) : Host.Outcome State Fault Refusal :=
  s.onCore (fun _ c =>
    let h := (c.rgn r).shot
    match h.d0 with
    | none => c
    | some d =>
      let q := max d (h.lastTog.getD 0)
      if !c.svc || h.framed || decide (c.now < q) then c
      else
        let c := (rgnCells r).foldl (fun c g =>
          let c := c.frameAct g
          let x := c.cell g
          if c.role g ≠ 1 ∧ c.role g ≠ 2 then (c.modCell g (fun x => { x with frameHeld := none })).put (Fd.CEL_FRAME_WR_HELD g) 0
          else
            let old := (c.on (Fd.CEL_FRAME_X g), c.on (Fd.CEL_FRAME_Z g))
            let new := match x.frameHeld with
              | some v => v
              | none => if c.get (Fd.RGN_SYND_CFG_FRAME_CLR r) = 1 then (false, false) else old
            let c := c.put (Fd.CEL_FRAME_WR_HELD g) 0
            if new = old then c else c.setFrame g new.1 new.2) c
        c.modShot r (fun x => { x with framed := true }))

/-! ### The swap -/

/-- A table with the keys of `p` taken from `b`. -/
def mixTbl {α : Type} [DecidableEq α] (d : Nat → α) (p : Nat → Bool) (a b : List (Nat × α)) : List (Nat × α) :=
  (b.filter (fun e => p e.1)).foldl (fun t e => Tbl.set d t e.1 e.2) (a.filter (fun e => !p e.1))

/-- Does a register offset belong to region `r`? -/
def offRgn (r o : Nat) : Bool := decide (rgnBase r ≤ o) && decide (o < rgnBase (r + 1))
/-- Does it belong to the chip? -/
def offChip (o : Nat) : Bool := decide (o < 0x1000000)

/-- The keys of the memories of region `r` at `size` bytes a region. -/
def inRgn (r size o : Nat) : Bool := o / size == r

/-- The items of region `r` change places between the sets (R257). (log 45 DEDUCED) -/
def swapMem (m : Mems) (r : Nat) : Mems :=
  let p := fun (size : Nat) (o : Nat) => inRgn r size o
  { m with pmA := mixTbl zeroByte (p (288 * 32768)) m.pmA m.pmS, pmS := mixTbl zeroByte (p (288 * 32768)) m.pmS m.pmA,
           dmcA := mixTbl zeroByte (p (288 * 4096)) m.dmcA m.dmcS, dmcS := mixTbl zeroByte (p (288 * 4096)) m.dmcS m.dmcA,
           mtA := mixTbl zeroByte (p (288 * 256)) m.mtA m.mtS, mtS := mixTbl zeroByte (p (288 * 256)) m.mtS m.mtA,
           syA := mixTbl zeroByte (p 327680) m.syA m.syS, syS := mixTbl zeroByte (p 327680) m.syS m.syA }

/-- The region of word `x` of a memory whose errors `Mems.flaw` lists as kind `k`; none for memories without a shadow copy (R63, R65). -/
def flawRgn (k x : Nat) : Option Nat :=
  if k % 8 = 1 then some (x / (288 * 4096))
  else if k % 8 = 2 ∧ x % 512 < 256 then some (x / (288 * 512))
  else if k % 8 = 4 then some (x / (288 * 16))
  else if k % 8 = 5 then some (x / 2560)
  else none

/-- The errors of the words of region `r` change places with their copies (R63, R65). -/
def swapFlaw (m : Mems) (r : Nat) : Mems :=
  { m with flaw := m.flaw.map (fun e => if flawRgn e.1 e.2.1 = some r then ((e.1 + 8) % 16, e.2) else e) }

/-- The SH fields of the registers of `p` change places. -/
def Core.swapRegs (c : Core) (p : Nat → Bool) : Core :=
  let mix := fun (a b : List (Nat × Word)) => (b.filter (fun e => p e.1)).foldr (fun e t => Tbl.insert t e.1 e.2) (a.filter (fun e => !p e.1))
  { c with act := mix c.act c.shd, shd := mix c.shd c.act }

/-- The swap tick W_r (R256), when it is known: `none` while the drain it belongs to has not come so far: thresholds are updated before the swap (R172). -/
def Core.swapAt (c : Core) (r : Nat) : Option Nat :=
  match c.root.cC with
  | none => none
  | some cc =>
    let h := (c.rgn r).shot
    let off := !c.shots || !c.ser.begun || !bitAt c.ser.present r
    if off then some (cc + 16)
    else match h.d0 with
      | none => none
      | some d => if c.roundsDone r && h.gathered then some (max (max (d + 64) (cc + 16)) (h.uR + 1)) else none

/-- A swap takes macro `a` out of service: a foreground calibration of it ends as NOT_RUN (R404). -/
def Core.fullOut (c : Core) (a : Nat) : Core :=
  if c.inFull 0x12 (almAdc a) then
    ({ c with cal := { c.cal with jobs := c.cal.jobs.map (fun (j : CalJob) => if j.kind = 0x12 ∧ j.units.contains (almAdc a) then { j with dead := almAdc a :: j.dead } else j) } }).setCal a false
  else c

/-- What a swap changes beside the items themselves (R157, R189, R46, R99): ADC macros that must settle, frame bits of cells that lose them, clocks that start anew, staged lines
that now lie in a block's resident area. A swap after the drain's end still makes it last 1,120 ticks. (log 45 DEDUCED, 146 DEDUCED) -/
def Core.swapEffects (old c : Core) (r : Nat) : Core :=
  let changed := (upFrom 0 4).filter (fun j => [Fd.RGN_ADC_CFG_MODE r j, Fd.RGN_ADC_CFG_EN r j, Fd.RGN_ADC_CFG_FS r j].any (fun f => old.get f != c.get f))
  let c := c.modShot r (fun h => { h with adcChg := !changed.isEmpty, swapped := true })
  let c := changed.foldl (fun c j => c.modAdc (4 * r + j) (fun a =>
    { a with settle := c.now + 1000, before := some (c.now, old.on (Fd.RGN_ADC_CFG_MODE r j), old.on (Fd.RGN_ADC_CFG_EN r j)) })) c
  let c := (changed.filter (fun j => !c.on (Fd.RGN_ADC_CFG_EN r j))).foldl (fun c j => c.fullOut (4 * r + j)) c
  let h := (c.rgn r).shot
  let c := match h.ended, h.d0 with
    | some e, some d =>
      if changed.isEmpty || !c.shots || h.inShot || !bitAt c.ser.present r || decide (d + 1120 ≤ e) then c
      else
        let c := (c.modShot r (fun h => { h with ended := some (d + 1120) })).inc Fd.CHP_RUN_CNT_DRAIN_LONG (b2n (decide (e ≤ d + 120)))
        { c with ser := { c.ser with lastEnd := if c.parked r then c.ser.lastEnd else max c.ser.lastEnd (d + 1120),
                                     ts := if c.parked r then c.ser.ts else c.ser.ts.map (fun t => max t (d + 1120)),
                                     capped := c.ser.capped && (c.parked r || c.ser.ts.all (fun t => decide (d + 1120 ≤ t))) } }
    | _, _ => c
  let c := (upFrom 0 16).foldl (fun c b =>
    let n := c.get (Fd.BLK_SEG_CFG_STAGE_LINES r b)
    if (c.blk (16 * r + b)).cache.any (fun l => decide (n ≤ l.place)) then
      (c.modBlk (16 * r + b) (fun k => { k with cache := k.cache.filter (fun l => decide (l.place < n)) })).stageUsed r b
    else c) c
  let c := (upFrom 0 8).foldl (fun c w => c.vecRest r w) c
  (rgnCells r).foldl (fun c g =>
    let c := if c.role g = 1 ∨ c.role g = 2 then c
      else if c.on (Fd.CEL_FRAME_X g) || c.on (Fd.CEL_FRAME_Z g) then
        ((c.modCell g (fun k => { k with frLog := [] })).put (Fd.CEL_FRAME_X g) 0).put (Fd.CEL_FRAME_Z g) 0
      else c
    let c := if c.role g = 0 then c.put (Fd.CEL_LEAD_STS_FREQ g) 0 else c
    if old.role g = 0 ∧ c.role g ≠ 0 then c.modCell g (fun x => { x with freqSet := false }) else c) c

/-- The epoch of the first shot on the new set (R257). -/
def Core.nextEpoch (c : Core) : Nat := if c.runIs .running && c.ser.begun then (if c.ser.shotOn then (c.ser.next + 1) % 2 ^ 32 else c.ser.next) else 0

/-- DM_WORK of cell `g` in a drain (R66), of an IDLE cell too. (log 166 DESIGN CHOICE) -/
def workMode (m : Mems) (c : Core) (swapped : Bool) (g : Nat) : Mems :=
  let w := c.get (Fd.CEL_CFG_WORK_MODE g)
  if w = 2 ∨ (w = 1 ∧ swapped = true) then
    { m with dmw := mixTbl zeroByte (fun o => o / 4096 == g) m.dmw m.dmcA }
  else if w = 3 then { m with dmw := clrBytes m.dmw (g * 4096) 4096 } else m

/-- Does region `r` swap with the chip (R256)? A region that is PARKED while the chip runs, but for one whose ledger check failed in this drain. -/
def Core.swapsWithChip (c : Core) (r : Nat) : Bool :=
  let h := (c.rgn r).shot
  c.parked r && c.shots && !(h.ledger && h.inShot)

/-- Region `r` swaps at this tick (R257). The work that R263 ties to the swap follows in DRAIN_POST_SWAP, or is done at once where that is over; outside any drain only the thresholds
are reloaded: DM_WORK is loaded in drains (R66). (log 45 DEDUCED) -/
def swapRgn (a : Mems × Core) (r : Nat) : Mems × Core :=
  let c := a.2
  let n := Core.swapEffects c (c.swapRegs (offRgn r)) r
  let m := swapFlaw (swapMem a.1 r) r
  let h := (c.rgn r).shot
  if c.shots && h.inShot && !h.posted then (m, n)
  else
    let n := (rgnCells r).foldl (fun n g => n.thrReload m g) n
    (if c.shots && bitAt c.ser.present r && h.posted then (rgnCells r).foldl (fun m g => workMode m n true g) m else m, n)

/-- The tick of a swap outside shots is that of a shot's beginning: the shot begins on the old set, and the swap waits for its drain (R256). -/
def Core.beginFirst (c : Core) : Bool := c.root.cC == some (c.now - 16) && decide (16 ≤ c.now) && c.beginDue

/-- SWAP (R256, R257): of region `r` at W_r, or of the chip-level items once every region has swapped. A PARKED region swaps with the chip while shots run, after the gathering of its
section where that is due by then. (log 45 DEDUCED) -/
def execSwap (r : Option Nat) (s : State) : Host.Outcome State Fault Refusal :=
  s.onBoth (fun m c =>
    match r with
    | some r =>
      match c.swapAt r with
      | none => (m, c)
      | some w =>
        if !c.svc || !c.rOk r || c.root.swapped.contains r || decide (c.now < w) || c.swapsWithChip r || c.beginFirst then (m, c)
        else
          let y := swapRgn (m, c) r
          (y.1, { y.2 with root := { y.2.root with swapped := r :: y.2.root.swapped, swapTick := max y.2.root.swapTick w } })
    | none =>
      let left := c.regions.filter (fun r => !c.root.swapped.contains r)
      let tick := max ((c.root.cC.getD 0) + 16) c.root.swapTick
      let owes := fun (r : Nat) => (c.rgn r).shot.inShot && !(c.rgn r).shot.gathered && ((c.rgn r).shot.d0.map (fun d => decide (d + 63 < c.now))).getD false
      let ready := left.all (fun r => c.swapsWithChip r && !owes r)
      if !c.svc || c.root.cC.isNone || decide (c.now < tick) || !ready || c.beginFirst then (m, c)
      else
        let y := left.foldl swapRgn (m, c)
        let c := y.2.swapRegs offChip
        let e := c.nextEpoch
        let c := c.put Fd.CHP_CFG_STS_GEN (c.get Fd.CHP_CFG_STS_GEN + 1)
        let c := (c.put Fd.CHP_SWAP_EPOCH_EPOCH e).put Fd.CHP_CFG_STS_SET_STATE 3
        let c := c.raise 0x11 0 0 (c.get Fd.CHP_CFG_STS_GEN) e
        (y.1, { c with root := { c.root with cC := none, swapped := [], ever := true, inPlay := [] } }))

/-- COPYBACK_END (R257, R65): the new active set has been copied into the shadow set. (log 7 DESIGN CHOICE) -/
def execCopybackEnd (s : State) : Host.Outcome State Fault Refusal :=
  s.onBoth (fun m c =>
    if !c.svc || c.get Fd.CHP_CFG_STS_SET_STATE != 3 then (m, c)
    else ({ m with pmS := m.pmA, dmcS := m.dmcA, mtS := m.mtA, syS := m.syA, flaw := m.flaw.filter (fun e => decide (e.1 < 8)) }, { c with shd := c.act }.put Fd.CHP_CFG_STS_SET_STATE 0))

/-! ### After the swap -/

/-- The end tick of the drain of region `r` that began at `d` (R263). -/
def Core.drainEndOf (c : Core) (r d : Nat) : Nat :=
  let h := (c.rgn r).shot
  max (max (d + 120) (h.uR + 57)) (if h.adcChg then d + 1120 else 0)

/-- The first stamp of the next shot after drains that end at `e` (R260, R422); none: the trigger gives it. (log 37 DEDUCED) -/
def Core.nextTs (c : Core) (e : Nat) : Option Nat :=
  if c.ser.mode = 3 then none else some (max (c.ser.lastTs + max c.ser.period c.capPeriod) e)

/-- The shot in progress is the last of its series. -/
def Core.lastShot (c : Core) : Bool := c.runIs .draining || c.ser.stopping

/-- The regions of the present shot that are not PARKED. -/
def Core.shotRgns (c : Core) : List Nat := ((upFrom 0 8).filter (bitAt c.ser.present)).filter (fun k => !c.parked k)

/-- The tick at which the cells of the next shot begin, with the drain ends that are known so far (R260). -/
def Core.nextBegin (c : Core) (e : Nat) : Option Nat :=
  if c.lastShot || !c.shotRgns.all (fun k => (c.rgn k).shot.d0.isSome) then none
  else (c.nextTs (maxList e (c.shotRgns.map (fun k => c.drainEndOf k (((c.rgn k).shot.d0).getD 0))))).map (fun t => t - 48)

/-- A swap before this tick falls into the drain of region `r` that began at `d` (R256, R263): before the drain's end and before the cells of the next shot begin. -/
def Core.swapLimit (c : Core) (r d : Nat) : Nat :=
  let e := c.drainEndOf r d
  match c.nextBegin e with
  | some t => min e t
  | none => e

/-- A quarantined cell is reset (R92), its pending events with it; every cell's stage ring is emptied (R100). (log 137 DEDUCED) -/
def Core.resetCell (c : Core) (g : Nat) : Core :=
  let q := c.get (Fd.CEL_STS_STATE g) == 3
  let c := c.modCell g (fun x => { x with stage := [], held := false, faulted := false, faultRun := if x.faulted then x.faultRun else 0 })
  if q then
    (((c.modCell g (fun x => { x with phx := Phx.clear, qAt := none, rin := [], gq := [], post := [] })).put (Fd.CEL_STS_STATE g) 0).put (Fd.CEL_STS_EV_PEND g) 0).inc (Fd.CEL_FAULT_QUAR_SHOTS g) 1
  else c

/-- The staging rings of block `b` of region `r` are invalidated (R446). -/
def Core.dropRing (c : Core) (r b : Nat) : Core := (c.modBlk (16 * r + b) (fun k => { k with cache := [] })).stageUsed r b

/-- DRAIN_POST_SWAP (R171, R66, R92, R100, R446): after the swap, where one is due in this drain. WORK_MODE acts on every cell of the region. (log 45 DEDUCED, 166 DESIGN CHOICE) -/
def execDrainPostSwap (r : Nat) (s : State) : Host.Outcome State Fault Refusal :=
  s.onBoth (fun m c =>
    let h := (c.rgn r).shot
    match h.d0 with
    | none => (m, c)
    | some d =>
      let due := match c.swapAt r with
        | some w => !h.swapped && decide (w < c.swapLimit r d) && !c.swapsWithChip r
        | none => false
      if !c.svc || !h.inShot || h.posted || !h.gathered || due || decide (c.now < d + 65) || decide (c.now ≤ h.uR) then (m, c)
      else
        let c := if h.swapped then (rgnCells r).foldl (fun c g => c.thrReload m g) c else c
        let m := (rgnCells r).foldl (fun m g => workMode m c h.swapped g) m
        let c := (rgnCells r).foldl (fun c g => c.resetCell g) c
        let c := (upFrom 0 16).foldl (fun c b =>
          if (c.blk (16 * r + b)).qAt.isSome then
            let c := (c.modBlk (16 * r + b) (fun k => { k with qAt := none })).dropRing r b
            [0, 1].foldl (fun c i => c.modBb (32 * r + 2 * b + i) (fun o => { o with occFrom := none })) c
          else c.put (Fd.BLK_SUP_STS_QUAR_RUN r b) 0) c
        let c := (upFrom 0 16).foldl (fun c b =>
          if (c.blk (16 * r + b)).cache.any (fun l => decide (65536 ≤ l.segid)) then c.dropPassed m r b else c) c
        (m, c.modShot r (fun x => { x with posted := true })))

/-- The tick at which the drain of region `r` is closed: its end, or 48 ticks before the next first stamp where the cells begin the next shot earlier (R260, R263). (log 44 DEDUCED) -/
def Core.drainCloses (c : Core) (r d : Nat) : Nat :=
  let e := c.drainEndOf r d
  if !c.shotRgns.all (fun k => (c.rgn k).shot.posted) then e
  else match c.nextBegin e with
    | some t => min e t
    | none => e

/-- DRAIN_END (R258, R260, R263, R422): the drain of region `r` ends at its latest end tick. After the last one of the regions not PARKED the series goes on; it ends with the drain
of every region. (log 44 DEDUCED) -/
def execDrainEnd (r : Nat) (s : State) : Host.Outcome State Fault Refusal :=
  s.onCore (fun _ c =>
    let h := (c.rgn r).shot
    match h.d0 with
    | none => c
    | some d =>
      let e := c.drainEndOf r d
      if !c.svc || !h.inShot || !h.posted || (!h.framed && decide (max d (h.lastTog.getD 0) ≤ c.now)) || decide (c.now < c.drainCloses r d) then c
      else
        let c := c.inc Fd.CHP_RUN_CNT_DRAIN_LONG (b2n (decide (d + 120 < e)))
        let c := c.modShot r (fun x => { x with inShot := false, ended := some e })
        let y := c.ser
        let rs := (upFrom 0 8).filter (bitAt y.present)
        let last := c.lastShot
        let live := rs.filter (fun r => !c.parked r)
        let open_ := (if last || live.isEmpty then c.regions else live).any (fun r => (c.rgn r).shot.inShot)
        if open_ || !y.shotOn then c
        else
          let end_ := maxList (if live.isEmpty then e else 0) (live.map (fun r => ((c.rgn r).shot.ended).getD 0))
          let next := (y.next + 1) % 2 ^ 32
          let cap := c.capPeriod
          let ts := c.nextTs end_
          let byCap := decide (y.mode ≠ 3) && decide (y.period < cap) && decide (end_ ≤ y.lastTs + cap)
          let c := { c with ser := { y with shotOn := false, next := next, lastEnd := end_, ts := ts, staged := false, capped := byCap } }
          if last then c.seriesEnd else c)

end Sys2Proof.Machine
end

