-- ==== Sys2Proof/Machine/Reset.lean ====
section
/-!
DEFINITION. What a reset of the device clears and keeps (R434, R437, R438), and the thermal shutdown (R425).
-/
namespace Sys2Proof.Machine

/-- The registers of the always-on island (R434): the sensor masks, FAILED with MASKED of every sensor, SHUTDOWNS; and WARM_CNT (R452). -/
def Core.aonRegs (c : Core) : List (Nat × Word) :=
  let n := Core.reset
  let n := ((n.put Fd.THM_MASK0_MASK (c.get Fd.THM_MASK0_MASK)).put Fd.THM_MASK1_MASK (c.get Fd.THM_MASK1_MASK)).put Fd.THM_MASK2_MASK (c.get Fd.THM_MASK2_MASK)
  let n := (upFrom 0 72).foldl (fun n s =>
    (n.setOn (Fd.THM_TEMP_FAILED s) (c.on (Fd.THM_TEMP_FAILED s))).setOn (Fd.THM_TEMP_MASKED s) (c.on (Fd.THM_TEMP_MASKED s))) n
  (n.put Fd.THM_CNT_SHUTDOWNS (c.get Fd.THM_CNT_SHUTDOWNS)).live

/-- The device right after a reset release with cause `cause` (R437). `aon`: VDD_AON stayed up, so the always-on island keeps its state. What the block has already
sent over PCIe and the level of its trigger inputs are outside this reset, and so is the JTAG port while VDD_AON stays up: an EXTEST, CLAMP or HIGHZ selected in it acts as JTAG_EN
was sampled at this release (R485). (log 115 DEDUCED, 122 DEDUCED) -/
def Core.restart (c : Core) (aon : Bool) (cause : Nat) (st : Straps) : Core :=
  let n := Core.reset
  let ir := c.pins.jtagIr
  let n : Core := { n with freeCtr := c.freeCtr, live := if aon then c.aonRegs else n.live,
                           host := { n.host with out := c.host.out },
                           thm := if aon then { n.thm with same := c.thm.same, cause := c.thm.cause } else n.thm,
                           pins := { n.pins with trigLvl := c.pins.trigRaw.map (fun e => (e.1, e.2.2)), trigRaw := c.pins.trigRaw.map (fun e => (e.1, 0, e.2.2)), straps := st, hold := if aon then c.pins.hold else true,
                                                 jtagIr := if aon then ir else n.pins.jtagIr, jtagData := if aon then c.pins.jtagData else n.pins.jtagData,
                                                 jtagPre := if aon then c.pins.jtagPre else n.pins.jtagPre,
                                                 jtagOut := if aon && st.jtagEn && (ir == 0 || ir == 4) then some c.pins.jtagPre else none,
                                                 jtagHiZ := aon && st.jtagEn && ir == 5 } }
  let n := n.put Fd.CHP_RST_STS_CAUSE cause
  n.put Fd.CHP_RST_STS_WARM_CNT (if aon then satAdd 0xFFFF (c.get Fd.CHP_RST_STS_WARM_CNT) 1 else 0)

/-- The memories after a reset: all cleared; the stack's contents stay or are lost (R437, R438). -/
def Mems.restart (m : Mems) (kept : Bool) : Mems :=
  let g := if kept then m else m.hbmGone
  { Mems.empty with hbm := g.hbm, hbmGen := g.hbmGen, hbmLoss := g.hbmLoss, ue := g.ue, ce := g.ce }

/-- Thermal shutdown caused by sensor `x` (R425): every unit outside the always-on island is held in reset, THERMTRIP_N is asserted; a CALIBRATE completes with ST_ABORTED (R404). The
stage and the cause of the present bring-up, the part and the state of the zones go on being readable over SMBus (R486). (log 115 DEDUCED) -/
def Core.thermTrip (c : Core) (x : Nat) : Core :=
  let c := c.cal.jobs.foldl (fun c j => c.refuse j.ring .aborted) c
  let n := c.restart true (c.get Fd.CHP_RST_STS_CAUSE) c.pins.straps
  let keep := [Fd.CHP_BOOT_STS, Fd.CHP_RST_STS, Fd.CHP_ID, Fd.CHP_REV, Fd.THM_CHIP_STS] ++ (upFrom 0 8).map (fun r => Fd.RGN_THERM_STS r)
  let n := keep.foldl (fun n o => n.setLiveW o (c.liveW o)) n
  let n := (upFrom 0 72).foldl (fun n s => n.setLiveW (Fd.THM_TEMP s) (c.liveW (Fd.THM_TEMP s))) n
  let n := n.inc Fd.THM_CNT_SHUTDOWNS 1
  { n with thm := { n.thm with shut := true, cause := x, cool := 0 }, pins := { n.pins with fuseDone := c.pins.fuseDone, hold := c.pins.hold, syncHigh := false } }

end Sys2Proof.Machine
end

