-- ==== Sys2Proof/Machine/Power.lean ====
section
/-!
DEFINITION. Lead loops and cell rails (R46-R51, R428, R429), handshakes (R52-R54), and the thermal supervisor (R416-R427).
-/
namespace Sys2Proof.Machine

/-! ### The lead loop -/

/-- The rail voltage whose FMAX limits the cells of region `r` (R47, R429): that of the last VR_ACK, or of a lower code driven since; a rise lifts it at its VR_ACK only.
(log 110 DEDUCED) -/
def Core.railLimit (c : Core) (r : Nat) : Nat := Tbl.get (fun _ => 0) c.thm.vrLim (r / 2)

/-- The limit of rail `p` becomes `mv`. -/
def Core.setRailLimit (c : Core) (p mv : Nat) : Core := { c with thm := { c.thm with vrLim := Tbl.insert c.thm.vrLim p mv } }

/-- LEAD_LO, LEAD_HI in force, and whether `RGN_LEAD_CTL` is invalid (R51). -/
def Core.leadBand (c : Core) (r : Nat) : Nat × Nat × Bool :=
  let lo := c.get (Fd.RGN_LEAD_CTL_LEAD_LO r)
  let hi := c.get (Fd.RGN_LEAD_CTL_LEAD_HI r)
  if 8 ≤ lo ∧ hi ≤ 120 ∧ lo + 16 ≤ hi then (lo, hi, false) else (24, 96, true)

/-- The cap of thermal step 2 on the cells of region `r` (R422), 1,400 MHz without one. (log 109 DEDUCED) -/
def Core.freqCap (c : Core) (r : Nat) : Nat :=
  if 2 ≤ c.get (Fd.RGN_THERM_STS_STEP r) ∨ 2 ≤ c.get Fd.THM_CHIP_STS_STEP then clampN 900 1400 (c.get Fd.THM_CAP_FCAP) else 1400

/-- The cells of region `r` that the loop sets: the non-IDLE ones of a region that is not PARKED (R46, R448). (log 109 DEDUCED) -/
def Core.loopCells (c : Core) (r : Nat) : List Nat := if c.parked r then [] else c.rgnActive r

/-- The frequency of a cell after an update of R49 with least lead `lead`, and its AT_FMAX, which stays `at_` without one. `lim` is FMAX(v_now), `cap` the thermal cap. -/
def leadStep (lo hi fstep lim cap f : Nat) (at_ : Bool) (lead : Option Int) : Nat × Bool :=
  match lead with
  | none => (min f cap, at_)
  | some l =>
    let f1 := if l < (lo : Int) then f + fstep * 25 else if (hi : Int) < l then f - fstep * 25 else f
    let f2 := clampN 900 (min (min 1400 lim) cap) f1
    (f2, f2 == lim && decide (l < (lo : Int)))

/-- LEAD_NOW of cell `g` is brought up to date, where its lead is evaluated (R43, R45), and the least lead of the period starts anew (R49, R50). (log 38 DEDUCED) -/
def Core.leadMeasure (c : Core) (g : Nat) : Core :=
  let c := match c.leadNow g with
    | some l => c.putS (Fd.CEL_LEAD_STS_LEAD_NOW g) (clampI (-128) 127 l)
    | none => c
  c.modCell g (fun x => { x with leadMin := none })

/-- v_target of R49 from the fastest frequency wanted; 620 mV with no active cell (R429). -/
def voltTarget (cells : List Nat) (fast head fstep : Nat) (anyMax : Bool) : Nat :=
  if cells.isEmpty then 620 else vmin (min (fast + head * 25 + (if anyMax then fstep * 25 else 0)) 1400)

/-- The rail request of R49: the new request and the count of updates that wanted it lower. -/
def voltStep (vstep hold target req lower : Nat) : Nat × Nat :=
  if req < target then (min (min (req + vstep * 5) target) 800, 0)
  else if target < req then
    if 2 ^ hold ≤ lower + 1 then (max (max (req - vstep * 5) target) 620, 0) else (req, lower + 1)
  else (req, 0)

/-- The VID code that gives at least a request in mV (R428). (log 109 DEDUCED) -/
def vidCode (mv : Nat) : Nat := min 36 (ceilDiv (mv - 620) 5)

/-- The request of rail `p` in mV: the larger of its regions' requests, 620 for a region that does not exist (R47). (log 109 DEDUCED) -/
def Core.railReq (c : Core) (p : Nat) : Nat :=
  let q := fun r => if c.exists_ r then (c.rgn r).lead.vReq else 620
  max (q (2 * p)) (q (2 * p + 1))

/-- Rail `p` is driven to its request (R47, R428): before it falls the cells above the new limit are lowered; a rising request waits for VR_ACK. (log 109 DEDUCED) -/
def Core.driveRail (c : Core) (p : Nat) : Core :=
  let mv := c.railReq p
  let code := vidCode mv
  let old := c.get (Fd.THM_VR_VID p)
  let wait := Tbl.get (fun _ => 0) c.thm.vrReq p
  let up := old < code ∨ (old = code ∧ c.railLimit (2 * p) < 620 + 5 * code ∧ !(c.thm.vrReq.any (fun e => e.1 == p)))
  if up then
    let c := (c.put (Fd.THM_VR_VID p) code).put (Fd.THM_VR_ACK p) 0
    { c with thm := { c.thm with vrReq := Tbl.insert c.thm.vrReq p (if old < code then c.now else max wait c.now) } }
  else if code < old then
    let lim := fmax (620 + 5 * code)
    let cells := c.rgnActive (2 * p) ++ c.rgnActive (2 * p + 1)
    let c := cells.foldl (fun c g => if lim < c.get (Fd.CEL_LEAD_STS_FREQ g) then c.put (Fd.CEL_LEAD_STS_FREQ g) lim else c) c
    let c := ((c.put (Fd.THM_VR_VID p) code).put (Fd.THM_VR_ACK p) 0).setRailLimit p (min (c.railLimit (2 * p)) (620 + 5 * code))
    { c with thm := { c.thm with vrReq := Tbl.erase c.thm.vrReq p } }
  else c

/-- The update period in ticks that a RATE stands for (R51). -/
def leadTicks (k : Nat) : Nat := if k = 0 then 50 else if k = 1 then 100 else if k = 2 then 500 else 2000

/-- The update period of region `r` in ticks: that of the RATE at its last update, since a write takes effect at the next one (R51). (log 108 DEDUCED) -/
def Core.leadPeriod (c : Core) (r : Nat) : Nat := leadTicks (c.rgn r).lead.rate

/-- Sets the frequency of cell `g`, whose clock has started. -/
def Core.setFreq (c : Core) (g f : Nat) : Core := if (c.cell g).freqSet then c.put (Fd.CEL_LEAD_STS_FREQ g) f else c

/-- The update of region `r` under the manual override (R50). A pair outside its limits changes nothing. (log 107 DEDUCED) -/
def Core.leadManual (c : Core) (r : Nat) : Core :=
  let f := c.get (Fd.RGN_LEAD_OVR_MAN_FREQ r)
  let v := c.get (Fd.RGN_LEAD_OVR_MAN_VDD r)
  let ok := 900 ≤ f ∧ f ≤ 1400 ∧ 620 ≤ v ∧ v ≤ 800
  let bad := (c.leadBand r).2.2 || decide (¬ ok) || decide (fmax v < f)
  let c := c.setOn (Fd.RGN_LEAD_STS_CFG_ERR r) bad
  if ok then
    let f := min (min (min f (fmax v)) (fmax (c.railLimit r))) (c.freqCap r)
    let c := (c.loopCells r).foldl (fun c g => (c.setFreq g f).put (Fd.CEL_LEAD_STS_AT_FMAX g) 0) c
    let c := (c.put (Fd.RGN_LEAD_STS_AT_FMAX_CNT r) 0).put (Fd.RGN_LEAD_STS_AT_VMAX r) 0
    c.modRgn r (fun x => { x with lead := { x.lead with vReq := v, lower := 0 } })
  else c

/-- The update of region `r` by the algorithm of R49. (log 107 DEDUCED) -/
def Core.leadAuto (c : Core) (r : Nat) : Core :=
  let band := c.leadBand r
  let fstep := max 1 (c.get (Fd.RGN_LEAD_CTL_FSTEP r))
  let lim := fmax (c.railLimit r)
  let cells := c.loopCells r
  let step := fun (g : Nat) => leadStep band.1 band.2.1 fstep lim (c.freqCap r) (c.get (Fd.CEL_LEAD_STS_FREQ g)) (c.on (Fd.CEL_LEAD_STS_AT_FMAX g))
    (if (c.cell g).endAt = none then (c.cell g).leadMin else none)
  let res := (cells.filter (fun g => (c.cell g).freqSet)).map (fun g => (g, step g))
  let n := (res.filter (fun e => e.2.2)).length
  let fast := maxList 0 (res.map (fun e => e.2.1))
  let d := (c.rgn r).lead
  let v := voltStep (max 1 (c.get (Fd.RGN_LEAD_CTL_VSTEP r))) (c.get (Fd.RGN_LEAD_CTL_LOWER_HOLD r))
             (voltTarget cells fast (c.get (Fd.RGN_LEAD_CTL_HEADROOM r)) fstep (decide (0 < n))) d.vReq d.lower
  let c := res.foldl (fun c e => (c.put (Fd.CEL_LEAD_STS_FREQ e.1) e.2.1).setOn (Fd.CEL_LEAD_STS_AT_FMAX e.1) e.2.2) c
  let c := (c.put (Fd.RGN_LEAD_STS_AT_FMAX_CNT r) n).setOn (Fd.RGN_LEAD_STS_AT_VMAX r) (v.1 == 800 && decide (0 < n))
  let c := c.setOn (Fd.RGN_LEAD_STS_CFG_ERR r) band.2.2
  c.modRgn r (fun x => { x with lead := { x.lead with vReq := v.1, lower := v.2 } })

/-- LEAD_LOOP_UPDATE (R46-R51, R429, R448): once each update period. A region that the part does not have requests 620 mV; the request of a PARKED region falls to it, whatever the
loop's controls. (log 107 DEDUCED, 108 DEDUCED) -/
def execLeadLoopUpdate (r : Nat) (s : State) : Host.Outcome State Fault Refusal :=
  s.onBoth (fun m c =>
    if !c.svc || decide (8 ≤ r) || decide (c.now < (c.rgn r).lead.last + c.leadPeriod r) then (m, c)
    else
      let c := c.modRgn r (fun x => { x with lead := { x.lead with last := c.now, rate := c.get (Fd.RGN_LEAD_CTL_RATE r) } })
      if !c.exists_ r then (m, c.driveRail (r / 2))
      else
        let c := (c.rgnActive r).foldl (fun c g => c.leadCheck m g) c
        let c := if c.parked r then c.leadAuto r
                 else if c.on (Fd.RGN_LEAD_OVR_MAN_EN r) then c.leadManual r
                 else if c.on (Fd.RGN_LEAD_CTL_EN r) && !c.on (Fd.RGN_LEAD_CTL_FREEZE r) then c.leadAuto r
                 else c.setOn (Fd.RGN_LEAD_STS_CFG_ERR r) (c.leadBand r).2.2
        let c := (c.rgnActive r).foldl Core.leadMeasure c
        let c := c.put (Fd.RGN_LEAD_STS_VDD_REQ r) (c.rgn r).lead.vReq
        let y := almAccept m c (almLead r) (almTwo (c.liveW (Fd.RGN_LEAD_STS r)) 0)
        (y.1, y.2.driveRail (r / 2)))

/-- VR_ACK (R428): the code driven is reached. (log 110 DEDUCED) -/
def execVrAck (p : Nat) (s : State) : Host.Outcome State Fault Refusal :=
  s.onCore (fun _ c =>
    if 4 ≤ p then c
    else
      let mv := 620 + 5 * c.get (Fd.THM_VR_VID p)
      let c := (((c.put (Fd.THM_VR_ACK p) 1).put (Fd.RGN_LEAD_STS_VDD_NOW (2 * p)) mv).put (Fd.RGN_LEAD_STS_VDD_NOW (2 * p + 1)) mv).setRailLimit p mv
      { c with thm := { c.thm with vrReq := Tbl.erase c.thm.vrReq p } })

/-- VR_TIMEOUT (R429): 100 µs after a rising request without VR_ACK. -/
def execVrTimeout (p : Nat) (s : State) : Host.Outcome State Fault Refusal :=
  s.onCore (fun _ c =>
    if c.thm.vrReq.any (fun e => e.1 == p && decide (e.2 + 100 * ticksPerUs ≤ c.now)) then
      let c := { c with thm := { c.thm with vrReq := Tbl.erase c.thm.vrReq p } }
      (c.put (Fd.THM_VR_TIMEOUT p) 1).raise 0x65 0 p (c.railReq p) 0
    else c)

/-! ### Handshakes -/

/-- Credits of a unit of a book (R54): a ring's pool is its size. -/
def Core.pool (c : Core) (book unit : Nat) : Nat := if book = 8 then c.ringSize (unit % 512) else poolOf book

/-- The counters of region-level books of a PARKED region are frozen (R448). -/
def Core.frozenBook (c : Core) (book unit : Nat) : Bool := decide (book ≤ 5) && c.parked (unit / 512)

/-- May the sender of a unit of a book ask at all (R21, R93)? A cell that is IDLE or held holds no credits. -/
def Core.senderOk (c : Core) (book unit : Nat) : Bool := book != 1 || c.cellAsks (unit / 512 * 288 + unit % 512)

/-- HANDSHAKE_REQUEST (R21, R52, R53): a sender with a credit issues a request. `unit` is region × 512 + the unit's number for a region-level book. -/
def execHandshakeRequest (book unit : Nat) (s : State) : Host.Outcome State Fault Refusal :=
  s.onCore (fun _ c =>
    let k := book * 65536 + unit
    if c.svc && decide (1 ≤ book) && decide (book ≤ 8) && decide (unit < 65536) && decide ((c.book k).inflight < c.pool book unit) && c.senderOk book unit
        && !c.frozenBook book unit then c.bookIssue k else c)

/-- How many of a unit's credits in flight are entries that still wait in a release queue (R40): they return when they are released. -/
def Core.bookHeld (c : Core) (book unit : Nat) : Nat := if book = 4 then (c.lane (unit / 512 * 168 + unit % 512)).entries.length else 0

/-- HANDSHAKE_ACK (R53, R339): an acknowledge returns the credit of a request in flight. Those of a transfer whose port was reset come first, and count in no book. (log 76 DEDUCED) -/
def execHandshakeAck (book unit : Nat) (s : State) : Host.Outcome State Fault Refusal :=
  s.onCore (fun _ c =>
    let k := book * 65536 + unit
    if c.svc && decide (1 ≤ book) && decide (book ≤ 8) && decide (unit < 65536) && !c.frozenBook book unit then
      if 0 < (c.book k).void then c.modBook k (fun b => { b with void := b.void - 1 })
      else if c.bookHeld book unit < (c.book k).inflight then c.bookReturn k else c
    else c)

/-! ### Zones -/

/-- The zone of sensor `s` (R419). -/
def zoneOf (s : Nat) : Nat := s / 8
/-- The sensors of zone `z`. -/
def zoneSensors (z : Nat) : List Nat := upFrom (8 * z) 8

/-- The fields of the control and the status of a zone (R419, R434). -/
def zWarnF (z : Nat) : Fld := if z < 8 then Fd.RGN_THERM_CTL_WARN z else Fd.THM_CHIP_CTL_WARN
/-- THROT. -/
def zThrotF (z : Nat) : Fld := if z < 8 then Fd.RGN_THERM_CTL_THROT z else Fd.THM_CHIP_CTL_THROT
/-- HYST. -/
def zHystF (z : Nat) : Fld := if z < 8 then Fd.RGN_THERM_CTL_HYST z else Fd.THM_CHIP_CTL_HYST
/-- GRACE. (log 112 DEDUCED) -/
def zGraceF (z : Nat) : Fld := if z < 8 then Fd.RGN_THERM_CTL_GRACE z else Fd.THM_CHIP_CTL_GRACE
/-- STEP. -/
def zStep (z : Nat) : Fld := if z < 8 then Fd.RGN_THERM_STS_STEP z else Fd.THM_CHIP_STS_STEP
/-- HELD. (log 114 DEDUCED) -/
def zHeld (z : Nat) : Fld := if z < 8 then Fd.RGN_THERM_STS_HELD z else Fd.THM_CHIP_STS_HELD
/-- WARN of the status. (log 111 DEDUCED) -/
def zWarned (z : Nat) : Fld := if z < 8 then Fd.RGN_THERM_STS_WARN z else Fd.THM_CHIP_STS_WARN
/-- REQUEST. -/
def zRequest (z : Nat) : Fld := if z < 8 then Fd.RGN_THERM_STS_REQUEST z else Fd.THM_CHIP_STS_REQUEST
/-- HOT_S. -/
def zHotS (z : Nat) : Fld := if z < 8 then Fd.RGN_THERM_STS_HOT_S z else Fd.THM_CHIP_STS_HOT_S
/-- HOT_T. -/
def zHotT (z : Nat) : Fld := if z < 8 then Fd.RGN_THERM_STS_HOT_T z else Fd.THM_CHIP_STS_HOT_T

/-- SHUT in °C, limited as R434 gives. -/
def Core.shutC (c : Core) : Nat := clampN 100 115 (c.get Fd.THM_CTL_SHUT)
/-- WARN of zone `z` in 0.25 °C. -/
def Core.zWarn (c : Core) (z : Nat) : Int := (4 * c.get (zWarnF z) : Nat)
/-- THROT of zone `z` in 0.25 °C, at most SHUT - 5. -/
def Core.zThrot (c : Core) (z : Nat) : Int := (4 * min (c.get (zThrotF z)) (c.shutC - 5) : Nat)
/-- HYST of zone `z` in 0.25 °C. -/
def Core.zHyst (c : Core) (z : Nat) : Int := (4 * max 1 (c.get (zHystF z)) : Nat)
/-- GRACE of zone `z` in sensor windows of 10 µs. -/
def Core.zGrace (c : Core) (z : Nat) : Nat := 10 * clampN 1 1000 (c.get (zGraceF z))

/-- Sensor `s` works: it exists, and is neither FAILED nor masked (R2, R418). -/
def Core.working (c : Core) (s : Nat) : Bool := c.sensorOk s && !c.on (Fd.THM_TEMP_FAILED s) && !c.on (Fd.THM_TEMP_MASKED s)
/-- The last reading of sensor `s`. -/
def Core.temp (c : Core) (s : Nat) : Int := c.getS (Fd.THM_TEMP_TEMP s)

/-- Sensor `s` works and has a reading. -/
def Core.readable (c : Core) (s : Nat) : Bool := c.working s && c.on (Fd.THM_TEMP_VALID s)

/-- The hottest working sensor of a list and its reading; on a tie the lowest number. -/
def Core.hottest (c : Core) : List Nat → Option (Nat × Int)
  | [] => none
  | s :: rest =>
    match c.hottest rest with
    | none => if c.readable s then some (s, c.temp s) else none
    | some (k, t) => if c.readable s && decide (t ≤ c.temp s) then some (s, c.temp s) else some (k, t)

/-- The zone's throttling is active (R423). -/
def Core.zActive (c : Core) (z : Nat) : Bool := c.on (zRequest z) || c.on (zStep z)

/-- The grace timer of zone `z` starts (R420, R424). (log 112 DEDUCED) -/
def Core.startGrace (c : Core) (z : Nat) : Core :=
  { c with thm := { c.thm with grace := Tbl.insert c.thm.grace z (c.zGrace z), low := Tbl.insert c.thm.low z true } }
/-- The grace timer of zone `z` stops. -/
def Core.stopGrace (c : Core) (z : Nat) : Core := { c with thm := { c.thm with grace := Tbl.erase c.thm.grace z, low := Tbl.erase c.thm.low z } }

/-- The channels of every region follow the steps in force (R422, R228): SUSPENDED at step 2 of their zone or of zone 8. -/
def Core.stepEffects (c : Core) : Core :=
  c.regions.foldl (fun c r =>
    if 2 ≤ c.get (Fd.RGN_THERM_STS_STEP r) ∨ 2 ≤ c.get Fd.THM_CHIP_STS_STEP then c.acqSuspend r else c.acqResume r) c

/-- The region not yet PARKED with the highest zone temperature, lowest number on a tie (R422). -/
def Core.hotRegion (c : Core) : Option Nat :=
  (c.regions.filter (fun r => !c.parked r)).foldl (fun a r =>
    match a with
    | none => some r
    | some b => if c.getS (zHotT b) < c.getS (zHotT r) then some r else some b) none

/-- What step 3 of zone `z` parks (R422): its region, which may have parked in this same tick for another cause (R447), or for zone 8 the hottest region left. -/
def Core.stepPark (c : Core) (z : Nat) : Option Nat :=
  if z < 8 then (if c.rOk z && !c.parkedOff z then some z else none) else c.hotRegion

/-- Step 3 of zone `z` parks what it parks (R422). -/
def Core.parkStep (c : Core) (m : Mems) (z : Nat) : Core :=
  match c.stepPark z with
  | some r => c.park m r .thermal
  | none => c

/-- Zone `z` goes to step `d` (R421, R422, R423): its effects, and EV_THERM_STEP where it is a change. -/
def Core.setStep (c : Core) (m : Mems) (z d : Nat) : Core :=
  let old := c.get (zStep z)
  let c := ((c.put (zStep z) d).showCap).stepEffects
  let p := if d = 3 ∧ old < 3 then c.stepPark z else none
  let c := if d = 3 ∧ old < 3 then c.parkStep m z else c
  c.raiseIf (d != old) 0x62 0 z d (twos 16 (c.getS (zHotT z)) + p.getD 0xFF * 2 ^ 16)

/-! ### A window -/

/-- The number of almanac entry THERM of sensor `s`, and its C25 and SLOPE (R406, R417). -/
def thermEntry (m : Mems) (s : Nat) : Nat × Int :=
  let e := rdN almByte m.alm (32 * (2 + s) + 16) 8
  (bitsOf e 0 20, sx 16 (bitsOf e 32 16))

/-- The reading of R416 from a count. (log 113 DESIGN CHOICE) -/
def sensorTemp (m : Mems) (s count : Nat) : Int :=
  let e := thermEntry m s
  100 + ((count : Int) - (e.1 : Int)) * e.2 / 2 ^ 16

/-- Sensor `s` forms a reading from `count` (R416, R418): the state, and how it failed in this window (0 not, bit 0 band, bit 1 stuck). (log 113 DESIGN CHOICE) -/
def Core.sensorRead (c : Core) (m : Mems) (s count : Nat) : Core × Nat :=
  let t := sensorTemp m s count
  let n := if c.on (Fd.THM_TEMP_VALID s) && c.get (Fd.THM_TEMP_COUNT s) == count then Tbl.get (fun _ => 0) c.thm.same s + 1 else 0
  let why := if c.on (Fd.THM_TEMP_FAILED s) then 0 else b2n (decide (t < -80) || decide (560 < t)) + (if 64 ≤ n then 2 else 0)
  let c := { c with thm := { c.thm with same := Tbl.insert c.thm.same s n } }
  let fr := c.free
  let c := if -2048 ≤ t ∧ t ≤ 2047 then c.putS (Fd.THM_TEMP_TEMP s) t else fr.2.put (Fd.THM_TEMP_TEMP s) fr.1
  let c := (c.put (Fd.THM_TEMP_VALID s) 1).put (Fd.THM_TEMP_COUNT s) count
  (c.stick (Fd.THM_TEMP_FAILED s) (why != 0), why)

/-- The sensors whose counts a window of `n` sensors brings: the part's; before the fuses have named the part, those of the part with `n` sensors (R2, R416). (log 176 DEDUCED) -/
def Core.windowSensors (c : Core) (n : Nat) : List Nat :=
  if c.pins.fuseDone then c.sensors else (upFrom 0 72).filter (fun s => n != 40 || decide (s < 32) || decide (64 ≤ s))

/-- Does the failure `f` (sensor, how, masked) hold its zone (R423)? Throttling is active there, and the sensor was the hottest at its last valid reading. -/
def Core.holds (c : Core) (f : Nat × Nat × Bool) : Bool :=
  let z := zoneOf f.1
  !f.2.2 && c.zActive z && c.get (zHotS z) == f.1

/-- Zone `z` is HELD because of sensor `s`, or for good with `s` = 255, which no sensor replaces (R423, R424). (log 114 DEDUCED) -/
def Core.hold (c : Core) (z s : Nat) : Core :=
  if Tbl.get (fun _ => 0) c.thm.heldBy z = 255 then c
  else { c.put (zHeld z) 1 with thm := { c.thm with heldBy := Tbl.insert c.thm.heldBy z s } }

/-- A zone with no working sensor that is not yet HELD for good (R424). (log 114 DEDUCED) -/
def Core.zoneBlind (c : Core) (z : Nat) : Bool := !(zoneSensors z).any c.working && Tbl.get (fun _ => 0) c.thm.heldBy z != 255

/-- The shutdown threshold of zone `z` in 0.25 °C (R423, R425). -/
def Core.shutAt (c : Core) (z : Nat) : Int := ((4 * (if c.on (zHeld z) then c.shutC - 8 else c.shutC) : Nat) : Int)

/-- Sensor `s` reads at or above SHUT, or above the lowered threshold of its HELD zone (R425). -/
def Core.overShut (c : Core) (s : Nat) : Bool :=
  c.working s && (if c.on (zHeld (zoneOf s)) then decide (c.shutAt (zoneOf s) < c.temp s) else decide (c.shutAt (zoneOf s) ≤ c.temp s))

/-- The working sensor that shuts the device down in this window: the hottest of them. -/
def Core.shutSensor (c : Core) : Option Nat :=
  (((upFrom 0 72).filter c.overShut).foldl (fun (a : Option Nat) s =>
    match a with
    | none => some s
    | some k => if c.temp k < c.temp s then some s else some k) none)

/-- The grace timer of zone `z` counts a window; `below`: the zone lay below THROT - HYST in it (R421). (log 112 DEDUCED) -/
def Core.graceWindow (c : Core) (z : Nat) (below : Bool) : Core :=
  if c.thm.grace.any (fun e => e.1 == z) then
    { c with thm := { c.thm with grace := Tbl.insert c.thm.grace z (Tbl.get (fun _ => 0) c.thm.grace z - 1),
                                 low := Tbl.insert c.thm.low z (Tbl.get (fun _ => true) c.thm.low z && below) } }
  else c

/-- Whether zone `z` stood at THROT or above in the latest window, by the threshold of that window (R419). -/
def Core.setHot (c : Core) (z : Nat) (b : Bool) : Core := { c with thm := { c.thm with hot := Tbl.insert c.thm.hot z b } }

/-- The zone temperature `h` reaches `t` from below: the zone was below it in the window before, or this is its first (R420). (log 111 DEDUCED) -/
def Core.reaches (c : Core) (z : Nat) (h t : Int) : Bool := decide (t ≤ h) && (!c.thm.hot.any (fun e => e.1 == z) || decide (c.getS (zHotT z) < t))

/-- Zone `z` is judged (R419, R420): hottest sensor, WARN, REQUEST, and the grace timer counts the window. (log 111 DEDUCED) -/
def Core.judgeZone (c : Core) (z : Nat) : Core :=
  match c.hottest (zoneSensors z) with
  | none => (c.graceWindow z true).setHot z false
  | some (s, h) =>
    let warn := c.reaches z h (c.zWarn z)
    let req := c.reaches z h (c.zThrot z) && !c.on (zRequest z)
    let c := (c.put (zHotS z) s).putS (zHotT z) h
    let c := if warn then c.put (zWarned z) 1 else if h < c.zWarn z - c.zHyst z then c.put (zWarned z) 0 else c
    let c := c.raiseIf warn 0x61 0 s (twos 64 h) z
    let runs := c.thm.grace.any (fun e => e.1 == z)
    let c := (c.graceWindow z (decide (h < c.zThrot z - c.zHyst z))).setHot z (decide (c.zThrot z ≤ h))
    if req then
      let c := (c.put (zRequest z) 1).raise 0x60 0 s (twos 64 h) 0
      if runs then c else c.startGrace z
    else c

/-- `HBM_STS.HOT` follows sensors 70 and 71 (R319). -/
def Core.stackHeat (c : Core) : Core :=
  let hot := fun (s : Nat) (t : Int) => c.working s && decide (t ≤ c.temp s)
  if hot 70 340 || hot 71 340 then c.put Fd.HBM_STS_HOT 1
  else if hot 70 320 || hot 71 320 then c else c.put Fd.HBM_STS_HOT 0

/-- A window in service or in bring-up (R418-R425, R427), with the sensors `fs` that failed in it and the zones `zs` of the part: zones become HELD; a working sensor may then shut
the device down, and nothing else of the window is signalled; else failures are, the zones are judged, and HELD zones go to step 3 with this window's temperatures. -/
def Core.windowJudge (m : Mems) (c : Core) (fs : List (Nat × Nat × Bool)) (zs : List Nat) : Mems × Core :=
  let held := (fs.filter c.holds).map (fun f => (zoneOf f.1, f.1))
  let blind := zs.filter c.zoneBlind
  let c := held.foldl (fun c h => c.hold h.1 h.2) c
  let c := blind.foldl (fun c z => (if c.thm.grace.any (fun e => e.1 == z) then c else c.startGrace z).hold z 255) c
  match c.shutSensor with
  | some x => ({ m.restart false with alm := m.alm }, c.thermTrip x)
  | none =>
    let c := fs.foldl (fun c f => c.raise 0x63 0 f.1 f.2.1 (b2n (held.contains (zoneOf f.1, f.1) || blind.contains (zoneOf f.1)))) c
    let c := zs.foldl Core.judgeZone c
    let c := (zs.filter (fun z => blind.contains z || held.any (fun h => h.1 == z))).foldl (fun c z => c.setStep m z 3) c
    (m, c.stackHeat)

/-- SENSOR_WINDOW (R2, R416-R425, R427): the counts of the part's sensors, in rising order, at the end of a window, from VDD_AON up (R441). (log 176 DEDUCED) -/
def execSensorWindow (counts : List Nat) (s : State) : Host.Outcome State Fault Refusal :=
  s.onBoth (fun m c =>
    let ss := c.windowSensors counts.length
    if counts.length ≠ ss.length then (m, c)
    else
      let y := (ss.zip counts).foldl (fun (a : Core × List (Nat × Nat × Bool)) e =>
        let masked := a.1.on (Fd.THM_TEMP_MASKED e.1)
        let b := a.1.sensorRead m e.1 (e.2 % 2 ^ 16)
        (b.1, if b.2 = 0 then a.2 else a.2 ++ [(e.1, b.2, masked)])) (c, [])
      let c := y.1
      if c.thm.shut then
        match (if c.thm.released then c.shutSensor else none) with
        | some x => (m, c.thermTrip x)
        | none =>
          let c := y.2.foldl (fun c f => c.raise 0x63 0 f.1 f.2.1 0) c
          let cold := ss.all (fun x => !c.working x || decide (c.temp x < 340))
          (m, { c with thm := { c.thm with cool := if cold then c.thm.cool + 1 else 0 } })
      else c.windowJudge m y.2 ((upFrom 0 9).filter (fun z => ss.contains (8 * z))))

/-- GRACE_EXPIRY (R421, R422): the grace timer of zone `z` has run out. (log 112 DEDUCED) -/
def execGraceExpiry (z : Nat) (s : State) : Host.Outcome State Fault Refusal :=
  s.onCore (fun m c =>
    if c.thm.shut || !c.thm.grace.any (fun e => e.1 == z && e.2 == 0) then c
    else
      let d := c.get (zStep z)
      let low := Tbl.get (fun _ => true) c.thm.low z
      let top := if c.on Fd.THM_CTL_PARK_EN then 3 else 2
      let hot := Tbl.get (fun _ => false) c.thm.hot z
      let c := c.startGrace z
      if c.on (zHeld z) then
        if z = 8 ∧ hot = true then c.parkStep m 8 else c
      else if hot && c.on Fd.THM_CTL_THROT_EN && decide (d < top) then c.setStep m z (d + 1)
      else if hot && z == 8 && d == 3 then c.parkStep m 8
      else if low then
        if 0 < d then c.setStep m z (d - 1) else (c.put (zRequest z) 0).stopGrace z
      else c)

/-- THM_MASK_WRITE (R15, R424, R427): a write of `THM_MASK0`, 1 or 2. (log 9 DESIGN CHOICE, 11 DEDUCED, 112 DEDUCED) -/
def execThmMaskWrite (i : Nat) (be : BitVec 4) (val : Word) (s : State) : Host.Outcome State Fault Refusal :=
  s.onCore (fun _ c =>
    let off := if i = 0 then Fd.THM_MASK0 else if i = 1 then Fd.THM_MASK1 else Fd.THM_MASK2
    if !c.bar0 off || decide (2 < i) || be == 0 then c
    else
      let w := c.enabled off be val
      let n := if i = 2 then 8 else 32
      let f := if i = 0 then Fd.THM_MASK0_MASK else if i = 1 then Fd.THM_MASK1_MASK else Fd.THM_MASK2_MASK
      let old := c.get f
      let y := c.written (decide (2 ^ n ≤ w)) w
      let v := y.1
      let c := y.2.put f v
      (upFrom 0 n).foldl (fun c k =>
        let x := 32 * i + k
        let set := bitAt v k
        let z := zoneOf x
        let first := set && !bitAt old k && c.sensorOk x
        let cause := first && c.on (zHeld z) && c.thm.heldBy.any (fun e => e.1 == z && e.2 == x)
        let hot := first && c.zActive z && c.get (zHotS z) == x && !c.on (Fd.THM_TEMP_FAILED x)
        let c := if c.sensorOk x then c.setOn (Fd.THM_TEMP_MASKED x) set else c
        let c := if cause then { c.put (zHeld z) 0 with thm := { c.thm with heldBy := Tbl.erase c.thm.heldBy z } } else c
        if cause || hot then c.startGrace z else c) c)

end Sys2Proof.Machine
end

