-- ==== Sys2Proof/Machine/Check.lean ====
section
/-!
DEFINITION. The checks of COMMIT (R253, R254): every function here reads the set that its `Mems` and `Core` show as active; `shadowView` shows the shadow set
as the active one.
-/
namespace Sys2Proof.Machine

/-- The shadow set in the place of the active set. -/
def shadowView (m : Mems) (c : Core) : Mems × Core :=
  ({ m with pmA := m.pmS, dmcA := m.dmcS, mtA := m.mtS, syA := m.syS }, { c with act := c.shd })

/-- A failing item (R254): INDEX, WORD, LEVEL (R255: 0 chip, 1 region, 2 block, 3 cell). -/
abbrev BadItem := Nat × Nat × Nat

/-- Does `a` come before `b`: ascending INDEX, then WORD (R254), then LEVEL? (log 34 DEDUCED) -/
def BadItem.before (a b : BadItem) : Bool :=
  if a.1 ≠ b.1 then decide (a.1 < b.1) else if a.2.1 ≠ b.2.1 then decide (a.2.1 < b.2.1) else decide (a.2.2 < b.2.2)

/-- The first failing item (R254). (log 34 DEDUCED) -/
def firstItem : List BadItem → Option BadItem
  | [] => none
  | a :: rest =>
    match firstItem rest with
    | none => some a
    | some b => if b.before a then some b else some a

/-- The enabled blocks, region and block number. -/
def Core.blocks (c : Core) : List (Nat × Nat) := c.regions.flatMap (fun r => ((upFrom 0 16).filter (c.bOk r)).map (fun b => (r, b)))
/-- The enabled non-IDLE cells. -/
def Core.active (c : Core) : List Nat := (c.blocks.flatMap (fun k => blkCells k.1 k.2)).filter (fun g => c.role g != 0)
/-- Is `g` a READOUT cell of the chip? -/
def Core.isRo (c : Core) (g : Nat) : Bool := decide (g < 2304) && c.role g == 2

/-- Failing items where `p` holds. (log 10 DEDUCED, 35 DEDUCED) -/
def itemIf (p : Bool) (index word level : Nat) : List BadItem := if p then [(index, word, level)] else []

/-! ### Codes 0x1 to 0x5 -/

/-- 0x1: uncorrectable errors in shadow copies (R65, R254): program memory, DM_CONST and measure table of a cell, syndrome memory of a region. -/
def check1 (m : Mems) : List BadItem :=
  m.flaw.flatMap (fun f =>
    let x := f.2.1
    itemIf (f.1 == 9 && f.2.2) (x / 4096) (x % 4096 / 2) 3 ++ itemIf (f.1 == 10 && f.2.2) (x / 512) (2048 + x % 512) 3 ++
    itemIf (f.1 == 12 && f.2.2) (x / 16) (2304 + x % 16) 3 ++ itemIf (f.1 == 13 && f.2.2) (x / 2560) (x % 2560) 1)

/-- 0x2: block port counts (R22), and a disabled cell that is given a role (R444). -/
def check2 (c : Core) : List BadItem :=
  c.blocks.flatMap (fun k =>
    let n := fun (x : Nat) => ((blkCells k.1 k.2).filter (fun g => c.role g == x)).length
    let off := (blkCells k.1 k.2).any (fun g => !c.cOk g && c.on (Fd.CEL_CFG_ROLE g))
    itemIf (decide (8 < n 1) || decide (8 < n 2) || decide (2 < n 3) || off) (16 * k.1 + k.2) 0 2)

/-- The tone a DRIVE cell feeds: DAC and tone. -/
def Core.toneOf (c : Core) (g : Nat) : Nat × Nat :=
  (c.get (Fd.BLK_TONE_ROUTE_DAC (cellR g) (cellB g) (cellC g)), c.get (Fd.BLK_TONE_ROUTE_TONE (cellR g) (cellB g) (cellC g)))

/-- 0x3: tone sources and band-stream fan-out (R24). -/
def check3 (c : Core) : List BadItem :=
  c.regions.flatMap (fun r =>
    let drive := ((rgnCells r).filter (fun g => c.role g == 1)).map c.toneOf
    let read := ((rgnCells r).filter (fun g => c.role g == 2)).map c.chanOf
    ((upFrom 0 8).flatMap (fun i => (upFrom 0 16).flatMap (fun t => itemIf (decide (1 < (drive.filter (fun k => k == (i, t))).length)) (8 * r + i) t 1)))
      ++ ((upFrom 0 4).flatMap (fun j => [0, 1].flatMap (fun x =>
           itemIf (decide (32 < (read.filter (fun k => k == (j, x))).length)) (4 * r + j) (0x100 + x) 1))))

/-- 0x4: routing (R136, R162). -/
def check4 (c : Core) : List BadItem :=
  c.active.flatMap (fun g =>
    let r := cellR g
    let b := cellB g
    let mBb := c.get (Fd.BLK_TONE_ROUTE_BB r b (cellC g))
    let twin := ((blkCells r b).any (fun h => decide (h < g) && c.role h == 3 && c.get (Fd.BLK_TONE_ROUTE_BB r b (cellC h)) == mBb))
    let ch := c.chanOf g
    let bad := if c.role g = 1 then !c.on (Fd.RGN_DAC_CFG_EN r (c.toneOf g).1)
      else if c.role g = 3 then twin || !c.on (Fd.BLK_BB_CFG_EN r b mBb)
      else !c.on (Fd.RGN_ADC_CFG_EN r ch.1) || (ch.2 == 1 && !c.on (Fd.RGN_ADC_CFG_MODE r ch.1))
    itemIf bad g 0 3)

/-- 0x5: engine program layout (R64, R87). -/
def check5 (c : Core) : List BadItem :=
  c.active.flatMap (fun g =>
    let split := c.get (Fd.CEL_CFG_PM_SPLIT g)
    let start := c.get (Fd.CEL_CFG_START g)
    itemIf (split == 0 || decide (split * 128 ≤ start) || (c.on (Fd.CEL_CFG_PHX_INLINE g) && !c.on (Fd.CEL_CFG_PHX_EN g))
      || (c.on (Fd.CEL_CFG_EV_EN g) && decide (start < 32))) g 0 3)

/-! ### The sequencer image -/

/-- SEQ_START of cell `g` (R106). -/
def seqStart (m : Mems) (c : Core) (g : Nat) : Nat := pmWord m g (c.seqW g) % 4096

/-- The instruction words of cell `g` that are not all zero, with their addresses: a word of zeros is NOP and passes every check. -/
def progWords (m : Mems) (c : Core) (g : Nat) : List (Nat × Nat) :=
  let t := m.pmA.filter (fun e => e.1 / 32768 == g)
  let xs := ((t.map (fun e => e.1 % 32768 / 8)).filter (fun x => decide (seqStart m c g ≤ x))).eraseDups
  xs.map (fun x => (x, rdN zeroByte t (g * 32768 + 8 * x) 8))

/-- Is the word zero outside the fields listed (lowest bit, width)? The opcode is always a field. -/
def onlyFields (w : Nat) (l : List (Nat × Nat)) : Bool := ((58, 6) :: l).foldl (fun x f => putBits x f.1 f.2 0) w == 0

/-- The fields that an opcode assigns (R108, R109, R132, R174, R191, R195); none for an unassigned opcode. -/
def sqFields (op : Nat) : Option (List (Nat × Nat)) :=
  let exit := [(48, 2), (42, 6), (41, 1), (28, 12)]
  if op = 0x00 ∨ op = 0x14 ∨ op = 0x15 ∨ op = 0x3F then some []
  else if op = 0x01 ∨ op = 0x03 then some ((50, 8) :: (0, 20) :: exit)
  else if op = 0x02 then some ((0, 20) :: exit)
  else if op = 0x04 then some [(50, 8), (49, 1), (48, 1), (28, 12), (0, 16)]
  else if op = 0x08 then some [(28, 12)]
  else if op = 0x09 then some [(56, 2), (28, 12), (0, 20)]
  else if op = 0x0A then some [(56, 2)]
  else if op = 0x0B then some [(56, 2), (54, 2)]
  else if op = 0x0C then some [(50, 8), (0, 16)]
  else if op = 0x10 then some [(0, 48)]
  else if op = 0x11 ∨ op = 0x12 ∨ op = 0x13 ∨ op = 0x1C then some [(0, 16)]
  else if op = 0x18 then some [(0, 2)]
  else if op = 0x1D then some [(0, 4)]
  else none

/-- Is watch slot `x` of cell `g` of KIND NONE? (log 35 DEDUCED) -/
def slotNone (m : Mems) (c : Core) (g x : Nat) : Bool := wKind (watchEntry m c g x) == 0

/-- The exit of a PLAY, GAP or MEASURE word is well formed (R108, R116, R124 items 4 and 5). (log 35 DEDUCED) -/
def exitOk (m : Mems) (c : Core) (g lo w : Nat) : Bool :=
  let cc := sqCc w
  let far := decide (lo ≤ sqTgt w)
  if sqXk w = 0 then cc == 0 && !sqDef w && sqTgt w == 0
  else if sqXk w = 1 then decide (8 ≤ cc) && decide (cc < 0x28) && far && (decide (0x20 ≤ cc) || !slotNone m c g (cc % 8))
  else if sqXk w = 2 then cc == 0 && !sqDef w && far
  else false

/-- R124 items 4 to 6 for one instruction word of cell `g`, with NSEG `n` and SEQ_START `lo`. (log 35 DEDUCED) -/
def instrOk (m : Mems) (c : Core) (g n lo w : Nat) : Bool :=
  let op := sqOp w
  match sqFields op with
  | none => false
  | some l =>
    onlyFields w l && roleMay op (c.role g)
      && (!(op == 1 || op == 2 || op == 3) || exitOk m c g lo w)
      && (!(op == 2 || op == 3) || decide (4 ≤ sqLow20 w))
      && (!(op == 1 || op == 0x0C) || decide (sqSeg w < n))
      && (!(op == 0x0C) || sqLow16 w != 0)
      && (!(op == 9 || op == 4) || decide (lo ≤ sqTgt w))
      && (!(op == 0x0B) || sqValue w != 3)
      && (!(op == 4) || (sqSeg w != 0 && sqLow16 w != 0 && (upFrom 0 8).all (fun x => !bitAt (sqSeg w) x || !slotNone m c g x)))

/-- R124 item 5 for watch slot entry `e`. -/
def slotOk (c : Core) (e : Nat) : Bool :=
  let k := wKind e
  let src := wSrc e
  if k = 0 then e == 0
  else decide (k ≤ 5) && decide (e < 2 ^ 19) && (wSub e == 0 || k == 2 || k == 3)
    && (!(k == 1) || c.isRo src) && (!(k == 2) || (decide (src < 2304) && c.role src != 0))

/-- The SEGIDs that the segment table of cell `g` references, by entry (R106). -/
def segRefs (m : Mems) (c : Core) (g : Nat) : List (Nat × Nat) := (upFrom 0 (min 256 (segCount m c g))).map (fun x => (x, segTab m c g x))

/-- The stream numbers that cell `g` names. -/
def streamsOf (m : Mems) (c : Core) (g : Nat) : List Nat :=
  ((segRefs m c g).map (fun e => dirEntry m e.2)).filterMap (fun d => if dirValid d && dirHome d == 3 then some (dirStream d) else none)

/-- R124 item 2 for one SEGTAB entry that names `id`. -/
def segOk (m : Mems) (c : Core) (g id : Nat) : Bool :=
  let d := dirEntry m id
  let r := cellR g
  let b := cellB g
  dirValid d
    && (if dirHome d = 0 then dirOwner d == g && decide (c.get (Fd.CEL_SEQ_CFG_STAGE_LINES g) ≤ dirLine d)
        else if dirHome d = 1 then dirOwner d == 16 * r + b && decide (c.get (Fd.BLK_SEG_CFG_STAGE_LINES r b) ≤ dirLine d)
        else if dirHome d = 3 then
          dirOwner d == g && !(c.active.any (fun h => decide (h < g) && (streamsOf m c h).contains (dirStream d)))
        else true)

/-- The SEGTAB entries of cell `g` that fail R124 items 2 and 3. -/
def segFails (m : Mems) (c : Core) (g : Nat) : List Nat :=
  let l := segRefs m c g
  let home := fun (e : Nat × Nat) => dirHome (dirEntry m e.2)
  let valid := l.filter (fun e => dirValid (dirEntry m e.2))
  let bad := (l.filter (fun e => !segOk m c g e.2)).map (fun e => e.1)
  let far := if c.get (Fd.CEL_SEQ_CFG_STAGE_LINES g) < 16 then (valid.filter (fun e => home e != 0)).map (fun e => e.1) else []
  let lib := if c.get (Fd.BLK_SEG_CFG_STAGE_LINES (cellR g) (cellB g)) < 64 then (valid.filter (fun e => home e == 2 || home e == 3)).map (fun e => e.1) else []
  bad ++ far ++ lib

/-- The image header of cell `g` is well formed (R124 item 1). -/
def headerOk (m : Mems) (c : Core) (g : Nat) : Bool :=
  let h := pmWord m g (c.seqW g)
  decide (c.seqW g + 69 ≤ h % 4096) && decide (bitsOf h 16 9 ≤ 256) && onlyFields (h % 2 ^ 58) [(0, 12), (16, 9)] && decide (h < 2 ^ 58)

/-- 0x6: sequencing (R124). -/
def check6 (m : Mems) (c : Core) : List BadItem :=
  c.active.flatMap (fun g =>
    let w0 := c.seqW g
    itemIf (!headerOk m c g) g w0 3
      ++ (upFrom 0 8).flatMap (fun x => itemIf (!slotOk c (watchEntry m c g x)) g (w0 + 1 + x / 2) 3)
      ++ (segFails m c g).map (fun x => (g, w0 + 5 + x / 4, 3))
      ++ (progWords m c g).flatMap (fun e => itemIf (!instrOk m c g (segCount m c g) (seqStart m c g) e.2) g e.1 3))

/-! ### Codes 0x7 to 0x9 -/

/-- 0x7: SETF range (R133) and RF DAC settings (R142). -/
def check7 (m : Mems) (c : Core) : List BadItem :=
  let cells := c.active.flatMap (fun g =>
    (progWords m c g).flatMap (fun e =>
      let f := sx 48 (bitsOf e.2 0 48)
      itemIf (sqOp e.2 == 0x10 && (decide (f < -0x0EEEEEEEEEEE) || decide (0x0EEEEEEEEEEE < f))) g e.1 3))
  let dacs := c.regions.flatMap (fun r => (upFrom 0 8).flatMap (fun i =>
    itemIf (c.get (Fd.RGN_DAC_CFG_MODE r i) == 3 || decide (4 < c.get (Fd.RGN_DAC_CFG_COMB_SHIFT r i)) || decide (4 < c.get (Fd.RGN_DAC_CFG_LOCK_SHIFT r i))
      || c.on (Fd.RGN_DAC_CFG_ZONE r i) != bitAt (c.get (Fd.RGN_DAC_FTW_HI_FTW_HI r i)) 15) (8 * r + i) 0 1))
  cells ++ dacs

/-- 0x8: band NCO range (R161). -/
def check8 (c : Core) : List BadItem :=
  c.regions.flatMap (fun r => (upFrom 0 4).flatMap (fun j => [0, 1].flatMap (fun x =>
    itemIf (c.on (Fd.RGN_ADC_CFG_EN r j) && (x == 0 || c.on (Fd.RGN_ADC_CFG_MODE r j))
      && decide (0xAAAAAAAAAAAA < c.get (Fd.RGN_ADC_FTW_LO_FTW_LO r j x) + 2 ^ 32 * c.get (Fd.RGN_ADC_FTW_HI_FTW_HI r j x))) (4 * r + j) x 1)))

/-- R179 items 2 and 3 for measure-table entry `e` of cell `g`. -/
def mtOk (m : Mems) (c : Core) (g e : Nat) : Bool :=
  let lim : Int := if c.on (Fd.RGN_ADC_CFG_MODE (cellR g) (c.chanOf g).1) then 0x044444444444 else 0x088888888888
  let wd := dirEntry m (segTab m c g (mtWseg e))
  mtDmode e != 3 && bitsOf e 93 3 == 0 && bitsOf e 140 4 == 0 && bitsOf e 240 16 == 0 && decide (mtNtap e ≤ 4096)
    && (!mtAdEn e || (decide (4 ≤ mtHist e) && decide (mtStep e ≤ 10)))
    && decide (mtLim e 0 ≤ mtLim e 1) && decide (mtLim e 2 ≤ mtLim e 3) && decide (mtFtw e ≤ lim) && decide (-lim ≤ mtFtw e)
    && (mtNtap e == 0 || (decide (mtWseg e < segCount m c g) && dirValid wd && dirHome wd == 0 && dirOwner wd == g && decide (mtNtap e ≤ dirLen wd * 6)))

/-- 0x9: readout settings (R179 items 1 to 4). -/
def check9 (m : Mems) (c : Core) : List BadItem :=
  (c.active.filter (fun g => c.role g == 2)).flatMap (fun g =>
    let named := ((progWords m c g).filter (fun e => sqOp e.2 == 3)).flatMap (fun e =>
      itemIf (decide (8 ≤ sqSeg e.2) || !mtOk m c g (mtEntry m g (sqSeg e.2))) g e.1 3)
    itemIf (decide (32 < c.get (Fd.CEL_RO_CFG_NSLOT g)) || decide (2 ^ 10 ≤ c.actW (Fd.CEL_RO_CFG g))) g 0 3 ++ named)

/-! ### Code 0xA -/

/-- R207 items 2 to 5 and 7 for region `r`: the failing WORDs. (log 33 DEDUCED) -/
def synFails (m : Mems) (c : Core) (r : Nat) : List Nat :=
  let ins := (upFrom 0 128).filter (fun u =>
    let e := synIn m r u
    (bitsOf e 12 2 != 0 && !c.isRo (bitsOf e 0 12)) || decide (2 ^ 14 ≤ e))
  let en := fun (k : Nat) => bitAt (chkWord m r k) 0
  let exps := fun (k : Nat) => bitAt (chkWord m r k) 2
  let chk := (upFrom 0 64).filter (fun k =>
    let w := chkWord m r k
    (en k && (chkIdx m r k).any (fun u => bitsOf (synIn m r u) 12 2 == 0))
      || (exps k && (!c.on (Fd.RGN_SYND_CFG_EXP_EN r) || (upFrom 0 k).any (fun j => exps j && bitsOf (chkWord m r j) 3 5 == bitsOf w 3 5)))
      || decide (2 ^ 8 ≤ w) || synRd m r (0x20C + 16 * k) 4 != 0)
  let imp := (upFrom 0 32).filter (fun x => bitsOf (impEntry m r x) 10 5 != 0)
  let posBad := fun (p : Nat) => decide (96 ≤ p) || (decide (p < 64) && !en p) || (decide (64 ≤ p) && !bitAt (impEntry m r (p - 64)) 15)
  let grp := (upFrom 0 8).filter (fun x =>
    decide (16 < grpWidth m r x) || decide (65536 < grpBase m r x + 2 ^ grpWidth m r x) || ((grpPos m r x).take 16).any posBad
      || (upFrom 0 16).any (fun i => decide (128 ≤ synRd m r (0x700 + 32 * x + i) 1)) || decide (32 ≤ synRd m r (0x712 + 32 * x) 1)
      || synRd m r (0x713 + 32 * x) 13 != 0)
  let tgt := (upFrom 0 128).filter (fun t =>
    let e := synRd m r (0x800 + 2 * t) 2
    (bitAt e 15 && !(decide (bitsOf e 0 12 < 2304) && (c.role (bitsOf e 0 12) == 1 || c.role (bitsOf e 0 12) == 2))) || bitsOf e 13 2 != 0)
  let cfg := if c.get (Fd.RGN_SYND_CFG_ERASE_MODE r) = 3 ∨ c.get (Fd.RGN_SYND_CFG_FRAME_CLR r) = 3 ∨ 16 < c.get (Fd.RGN_SYND_CFG_NREC r) then [0] else []
  ins ++ chk ++ imp ++ grp ++ tgt ++ cfg

/-- The cells that the used import entries of port `p` name, by entry. (log 82 DEDUCED) -/
def Core.imports (c : Core) (p : Nat) : List (Nat × Nat) :=
  ((upFrom 0 80).filter (fun e => c.on (Fd.CHP_DEC_IMPORT_EN p e))).map (fun e => (e, c.get (Fd.CHP_DEC_IMPORT_CELL p e)))

/-- 0xA: decision and syndrome tables (R207). (log 33 DEDUCED) -/
def checkA (m : Mems) (c : Core) : List BadItem :=
  let cells := c.active.flatMap (fun g =>
    (progWords m c g).flatMap (fun e => itemIf (sqOp e.2 == 0x1C && sqLow16 e.2 == 0) g e.1 3)
      ++ (upFrom 0 8).flatMap (fun x =>
        let e := watchEntry m c g x
        itemIf (wKind e == 3 && !((c.imports (wSub e)).any (fun i => i.2 == wSrc e))) g (c.seqW g + 1 + x / 2) 3))
  let rgns := c.regions.flatMap (fun r => (synFails m c r).map (fun w => (r, w, 1)))
  let ports := (upFrom 0 4).flatMap (fun p => (upFrom 0 80).flatMap (fun e =>
    itemIf ((c.on (Fd.CHP_DEC_EXPORT_EN p e) && !c.isRo (c.get (Fd.CHP_DEC_EXPORT_CELL p e)))
      || (c.on (Fd.CHP_DEC_IMPORT_EN p e) && (c.imports p).any (fun i => decide (i.1 < e) && i.2 == c.get (Fd.CHP_DEC_IMPORT_CELL p e)))) p e 0))
  cells ++ rgns ++ ports

/-! ### Codes 0xB and 0xC -/

/-- The regions that the part has. -/
def Core.partRegions (c : Core) : Nat := if bitAt (c.get Fd.CHP_CAPS_REGIONS) 7 then 8 else 4

/-- R249 item 3: the SEL of a trigger output lies outside the range of its SRC. -/
def Core.trigSelBad (c : Core) (src sel : Nat) : Bool :=
  if src = 7 then true
  else if src = 2 then decide (8 * c.partRegions ≤ sel)
  else if src = 3 then !c.isRo sel
  else if src = 4 then decide (4 * c.partRegions ≤ sel)
  else if src = 5 then decide (sel = 0) || decide (31 < sel)
  else if src = 6 then decide (3 < sel)
  else false

/-- 0xB: vector pins and triggers (R249). -/
def checkB (m : Mems) (c : Core) : List BadItem :=
  let pins := c.regions.flatMap (fun r => (upFrom 0 8).flatMap (fun w =>
    let src := c.get (Fd.VIO_PIN_CFG_SRC r w)
    itemIf ((c.on (Fd.VIO_PIN_CFG_EN r w) && (decide (287 < src) || c.role (r * 288 + src) != 3)) || c.get (Fd.VIO_PIN_CFG_REST r w) == 3
      || decide (c.get (Fd.VIO_PIN_THR_VTH r w) ≤ c.get (Fd.VIO_PIN_THR_VTL r w)) || decide (2 ^ 21 ≤ c.actW (Fd.VIO_PIN_CFG r w))
      || decide (2 ^ 16 ≤ c.actW (Fd.VIO_PIN_THR r w))) (8 * r + w) 0 1))
  let trigs := (upFrom 0 4).flatMap (fun x =>
    itemIf (decide (2 ^ 6 ≤ c.actW (Fd.CHP_TRIG_IN_CFG x))) x 0 0
      ++ itemIf (c.trigSelBad (c.get (Fd.CHP_TRIG_OUT_CFG_SRC x)) (c.get (Fd.CHP_TRIG_OUT_CFG_SEL x)) || decide (2 ^ 27 ≤ c.actW (Fd.CHP_TRIG_OUT_CFG x))) x 1 0)
  let slots := c.active.flatMap (fun g => (upFrom 0 8).flatMap (fun x =>
    let e := watchEntry m c g x
    itemIf ((wKind e == 4 && decide (8 * c.partRegions ≤ wSrc e)) || (wKind e == 5 && decide (3 < wSrc e))) g (c.seqW g + 1 + x / 2) 3))
  pins ++ trigs ++ slots

/-- The edges of the wait graph that leave cell `g` (R125). -/
def waitEdges (m : Mems) (c : Core) (g : Nat) : List Nat :=
  (((progWords m c g).filter (fun e => sqOp e.2 == 4)).flatMap (fun e =>
    ((upFrom 0 8).filter (bitAt (sqSeg e.2))).filterMap (fun x =>
      let s := watchEntry m c g x
      if (wKind s == 1 || wKind s == 2) && wSrc s != g then some (wSrc s) else none))).eraseDups

/-- The nodes reached from `todo` in a graph, `seen` being those already found; `fuel` bounds the number of nodes. -/
def reach (next : Nat → List Nat) : Nat → List Nat → List Nat → List Nat
  | 0, _, seen => seen
  | fuel + 1, todo, seen =>
    let new := ((todo.flatMap next).eraseDups).filter (fun x => !seen.contains x)
    if new.isEmpty then seen else reach next fuel new (seen ++ new)

/-- 0xC: the cells that lie on a cycle of the wait graph (R125). -/
def checkC (m : Mems) (c : Core) : List BadItem :=
  let g := c.active.map (fun a => (a, (waitEdges m c a).filter (fun b => decide (b < 2304) && c.role b != 0)))
  let t := g.filter (fun e => !e.2.isEmpty)
  let next := fun (a : Nat) => Tbl.get (fun _ => ([] : List Nat)) t a
  t.flatMap (fun e => itemIf ((reach next (t.length + 1) [e.1] []).contains e.1) e.1 0 3)

/-! ### The whole check -/

/-- The checks in the order of their codes; the answer is the code and the item of the first that fails. (log 34 DEDUCED) -/
def runChecks (m : Mems) (c : Core) : Option (Nat × BadItem) :=
  let try_ := fun (k : Nat) (l : List BadItem) => (firstItem l).map (fun i => (k, i))
  (try_ 1 (check1 m)).or <| (try_ 2 (check2 c)).or <| (try_ 3 (check3 c)).or <| (try_ 4 (check4 c)).or <| (try_ 5 (check5 c)).or <|
  (try_ 6 (check6 m c)).or <| (try_ 7 (check7 m c)).or <| (try_ 8 (check8 c)).or <| (try_ 9 (check9 m c)).or <| (try_ 0xA (checkA m c)).or <|
  (try_ 0xB (checkB m c)).or (try_ 0xC (checkC m c))

/-- `CHP_CFG_CHK` of an outcome (R255). -/
def chkWordOf : Option (Nat × BadItem) → Nat
  | none => 0
  | some (k, i) => k + i.2.2 * 2 ^ 4 + i.1 % 2 ^ 12 * 2 ^ 6 + i.2.1 % 2 ^ 12 * 2 ^ 18

/-- The SEGIDs that a set references (R253). -/
def ephemeris (m : Mems) (c : Core) : List Nat := (c.active.flatMap (fun g => (segRefs m c g).map (fun e => e.2))).eraseDups

end Sys2Proof.Machine
end

