-- ==== Sys2Proof/Machine/RegOps.lean ====
section
/-!
DEFINITION. Reads and writes of BAR0 registers as shared operations (R13, R15, R250-R252, R444, R454-R464): which windows answer, the shadow set, one word read, one word
written to the shadow copy or to a register without SH fields.
-/
namespace Sys2Proof.Machine

/-- Start of the shadow alias (R454). -/
def aliasBase : Nat := 0x2000000

/-- Does the window that holds normal offset `n` answer: not that of a disabled region or block (R444, R464)? -/
def Core.window (c : Core) (n : Nat) : Bool :=
  if n < 0x1000000 then true
  else
    let r := (n - 0x1000000) / 0x200000
    let o := (n - 0x1000000) % 0x200000
    if o < 0x10000 then c.rOk r else if o < 0x20000 then c.bOk r ((o - 0x10000) / 0x1000) else c.rOk r

/-- Bits of the registers of disabled converters that stay 0 in both sets (R444). -/
def Core.deadBits (c : Core) (n : Nat) : Nat :=
  if n < 0x1000000 then 0
  else
    let r := (n - 0x1000000) / 0x200000
    let b := ((n - 0x1000000) % 0x200000 - 0x10000) / 0x1000
    if (upFrom 0 8).any (fun i => n == Fd.RGN_DAC_CFG r i && !c.dacOk r i) then 2 ^ (Fd.RGN_DAC_CFG_EN r 0).lo
    else if (upFrom 0 4).any (fun j => n == Fd.RGN_ADC_CFG r j && !c.adcOk r j) then 2 ^ (Fd.RGN_ADC_CFG_EN r 0).lo
    else if [0, 1].any (fun k => n == Fd.BLK_BB_CFG r b k && !c.bbOk r b k) then 2 ^ (Fd.BLK_BB_CFG_EN r b 0).lo
    else 0

/-- Is normal offset `n` the register of some cell that lies `rel` bytes into the cell's registers? -/
def isCellReg (n rel : Nat) : Bool :=
  let o := (n - 0x1000000) % 0x200000
  let p := (o - 0x10000) % 0x1000
  decide (0x1000000 ≤ n) && decide (0x10000 ≤ o) && decide (0x100 ≤ p) && decide (p < 0x580) && (p - 0x100) % 0x40 == rel

/-- Shadowed registers whose reserved bits a check of COMMIT names (R254): the shadow copy keeps what was written to them. (log 10 DEDUCED) -/
def keepsReserved (n : Nat) : Bool :=
  if n < 0x1000000 then (upFrom 0 4).any (fun x => n == Fd.CHP_TRIG_IN_CFG x || n == Fd.CHP_TRIG_OUT_CFG x)
  else
    let r := (n - 0x1000000) / 0x200000
    let o := (n - 0x1000000) % 0x200000
    if o < 0x10000 then (upFrom 0 8).any (fun w => n == Fd.VIO_PIN_CFG r w || n == Fd.VIO_PIN_THR r w)
    else isCellReg n (Fd.CEL_RO_CFG 0 - celBase 0)

/-- SET_STATE (R252). -/
inductive SetState where
  | clean | checking | pending | copyback
  deriving DecidableEq, Repr

/-- The code of a state of the shadow set. -/
def SetState.code : SetState → Nat
  | .clean => 0 | .checking => 1 | .pending => 2 | .copyback => 3

/-- The shadow set is in a state. -/
def Core.setIs (c : Core) (x : SetState) : Bool := c.get Fd.CHP_CFG_STS_SET_STATE == x.code
/-- The shadow set enters a state. -/
def Core.setGo (c : Core) (x : SetState) : Core := c.put Fd.CHP_CFG_STS_SET_STATE x.code

/-- Bits `mask` of the SH register `n` of the shadow set written with `v` (R13, R15, R444), whatever SET_STATE. Reserved bits written as 1 leave the fields free. (log 9 DESIGN CHOICE, 10 DEDUCED) -/
def Core.shadowPut (c : Core) (n v mask : Nat) : Core :=
  match regAt n with
  | none => c
  | some row =>
    if !row.isSh || !c.window n then c
    else
      let fields := maskOf (fun _ => true) row.fields
      let bad := Nat.land (Nat.land v mask) (0xFFFFFFFF - fields) != 0
      let keep := keepsReserved n
      let fr := c.free
      let c := if bad && !keep then fr.2 else c
      let v := if bad && !keep then fr.1 else v
      let m := if keep then mask else Nat.land mask fields
      let w := mergeBits (c.shdW n) v m
      c.setShdW n (Nat.land w (0xFFFFFFFF - c.deadBits n))

/-- A register write that reaches SH fields (R252, R460, R462): to the shadow copy in CLEAN, else dropped with WR_DROP set. In the tick in which a LOAD_CONFIG of space REG has written
the register, the data of the LOAD_CONFIG stand. (log 8 DEDUCED, 175 DESIGN CHOICE) -/
def Core.shadowWrite (c : Core) (n v mask : Nat) : Core :=
  match regAt n with
  | none => c
  | some row =>
    if !c.window n || Nat.land (maskOf (fun a => a == Acc.sh) row.fields) mask = 0 then c
    else if c.setIs .clean then (if c.root.loadAt = c.now ∧ n ∈ c.root.loaded then c else c.shadowPut n v mask)
    else c.put Fd.CHP_CFG_STS_WR_DROP 1

/-- What a read at the shadow alias returns (R461). -/
def Core.shadowRead (c : Core) (n : Nat) : Nat :=
  match regAt n with
  | none => 0
  | some row =>
    if row.isSh && c.window n then
      Nat.land (if c.setIs .copyback then c.actW n else c.shdW n) (maskOf (fun a => a == Acc.sh) row.fields)
    else 0

/-- The active value of the SH fields of a register. -/
def Core.activeRead (c : Core) (n : Nat) : Nat :=
  match regAt n with
  | none => 0
  | some row => if row.isSh && c.window n then Nat.land (c.actW n) (maskOf (fun a => a == Acc.sh) row.fields) else 0

/-- Registers that return what a read of the first register of their group captured (R459). -/
def captured (n : Nat) : Bool :=
  [Fd.CHP_MERIDIAN_HI, Fd.CHP_RUN_TS_HI, Fd.TPT_CAP_M_HI, Fd.TPT_CAP_NT_LO, Fd.TPT_CAP_NT_HI, Fd.TPT_OFF_HI, Fd.TPT_OFF_FRAC, Fd.TPT_TXTS_HI,
   Fd.TPT_TXTS_FLG].contains n
/-- First registers of the capture groups (R459). (log 55 PRESUMED) -/
def captures (n : Nat) : Bool :=
  [Fd.CHP_MERIDIAN_LO, Fd.CHP_RUN_TS_LO, Fd.TPT_CAP_M_LO, Fd.TPT_OFF_LO, Fd.TPT_TXTS_LO].contains n

/-- Is a normal offset inside the MSI-X table (R454)? (log 55 PRESUMED) -/
def inMsix (n : Nat) : Bool := decide (0xF0000 ≤ n) && decide (n < 0xF1000)
/-- Is a normal offset inside the pending-bit array (R454)? -/
def inPba (n : Nat) : Bool := decide (0xF1000 ≤ n) && decide (n < 0xF1020)

/-- A word of the MSI-X table: of each entry the address, the data and Vector Control, whose mask bit is 1 after reset. (log 55 PRESUMED) -/
def Core.msixWord (c : Core) (off : Nat) : Nat := (Tbl.get (fun o => if o % 16 = 12 then (1 : Word) else 0) c.host.msix off).toNat

/-- The message of vector `v` is sent (R303), or its pending bit set while it is masked. (log 55 PRESUMED) -/
def Core.msixSend (c : Core) (v : Nat) : Core :=
  let w := fun k => c.msixWord (0xF0000 + 16 * v + 4 * k)
  if bitAt (w 3) 0 then { c with host := { c.host with pba := Nat.lor c.host.pba (2 ^ v) } }
  else ({ c with host := { c.host with pba := putBits c.host.pba v 1 0 } }).emit (.msix v (w 0 + 2 ^ 32 * w 1) (w 2))

/-- A word of the MSI-X table is written; a vector that is unmasked with its pending bit set is sent (R303). (log 55 PRESUMED) -/
def Core.msixWrite (c : Core) (off v mask : Nat) : Core :=
  let new := mergeBits (c.msixWord off) v mask
  let new := if off % 16 = 12 then new % 2 else if off % 16 = 0 then new / 4 * 4 else new
  let c := { c with host := { c.host with msix := Tbl.insert c.host.msix off (BitVec.ofNat 32 new) } }
  if off % 16 = 12 ∧ bitAt c.host.pba ((off - 0xF0000) / 16) = true then c.msixSend ((off - 0xF0000) / 16) else c

/-- What a read of the word at BAR0 offset `off` returns (R13, R15, R459, R461, R464). -/
def Core.readWord (c : Core) (off : Nat) : Nat :=
  if aliasBase ≤ off then c.shadowRead (off - aliasBase)
  else if inMsix off then c.msixWord off
  else if inPba off then c.host.pba / 2 ^ (8 * (off - 0xF1000)) % 2 ^ 32
  else if !c.window off then 0
  else if captured off then Tbl.get (fun _ => 0) c.host.capture off
  else
    match regAt off with
    | none => 0
    | some row =>
      if row.isSh then c.activeRead off
      else Nat.land (c.liveW off) (maskOf (fun a => a != Acc.wo && a != Acc.w1s) row.fields)

/-- The RC fields of the register at `off` of which a read with byte mask `mask` returns at least one byte are cleared (R457); not at the alias. -/
def Core.clearRc (c : Core) (off mask : Nat) : Core :=
  if aliasBase ≤ off ∨ c.window off = false then c
  else
    match regAt off with
    | none => c
    | some row =>
      row.fields.foldl (fun c f =>
        if f.acc = Acc.rc ∧ Nat.land ((2 ^ f.w - 1) * 2 ^ f.lo) mask ≠ 0 then c.put ⟨off, f.lo, f.w, f.acc⟩ 0 else c) c

/-- The mask of the bytes of the word at `w` that an access of `len` bytes at `off` covers. -/
def byteMask (off len w : Nat) : Nat :=
  ((upFrom 0 4).map (fun k => if off ≤ w + k ∧ w + k < off + len then 0xFF * 2 ^ (8 * k) else 0)).foldl (fun a b => a + b) 0

/-- The mask of the bytes of the word at `w` that a write of `len` bytes at `off` with byte enables `be`, bit 0 for its first byte, selects (R457). -/
def enabledMask (off len be w : Nat) : Nat :=
  ((upFrom 0 4).map (fun k => if off ≤ w + k ∧ w + k < off + len ∧ bitAt be (w + k - off) = true then 0xFF * 2 ^ (8 * k) else 0)).foldl (fun a b => a + b) 0

/-- An access BAR0 accepts: 1 to 8 bytes that do not cross an 8-byte boundary (R456). -/
def accOk (off len : Nat) : Bool := decide (1 ≤ len) && decide (off % 8 + len ≤ 8) && decide (off < 2 ^ 26)

/-- The words an access covers, lowest first (R456). -/
def accWords (off len : Nat) : List Nat := (upFrom 0 2).map (fun k => off / 8 * 8 + 4 * k) |>.filter (fun w => byteMask off len w != 0)

/-- The part of the value `val` written at `off` that falls on the word at `w`, in its place. -/
def wordPart (off val w : Nat) : Nat := if off ≤ w then val / 2 ^ (8 * (w - off)) % 2 ^ 32 else val * 2 ^ (8 * (off - w)) % 2 ^ 32

/-- Registers and fields that a command of their own writes: their bits are left out of REGISTER_WRITE. (log 11 DEDUCED) -/
def ownRow (n : Nat) : Nat :=
  if n < 0x1000000 then
    if (upFrom 0 64).any (fun k => n == Fd.CHP_RING_CFG k) || [Fd.THM_MASK0, Fd.THM_MASK1, Fd.THM_MASK2, Fd.HBM_PWR_CTL, Fd.CHP_RST_CTL, Fd.TPT_CORR].contains n
       || (upFrom 0 5).any (fun k => n == Fd.HBM_BANK_XOR k) || (upFrom 0 4).any (fun k => n == Fd.HBM_PART k) then 0xFFFFFFFF
    else if n = Fd.HBM_CFG then 2 ^ Fd.HBM_CFG_RATE.lo + 2 ^ Fd.HBM_CFG_PC_MODE.lo
    else 0
  else
    let r := (n - 0x1000000) / 0x200000
    let o := (n - 0x1000000) % 0x200000
    let b := (o - 0x10000) / 0x1000
    let p := (o - 0x10000) % 0x1000
    if o < 0x10000 then 0
    else if 0x100 ≤ p ∧ p < 0x580 then (if (p - 0x100) % 0x40 = Fd.CEL_FRAME 0 - celBase 0 then 0xFFFFFFFF else 0)
    else if n = Fd.BLK_ARB_PRI0 r b ∨ n = Fd.BLK_ARB_PRI1 r b then 0xFFFFFFFF
    else 0

/-- The register `n` without SH fields written with bits `mask` of `v` (R13, R457): RW fields take the bits, W1C fields are cleared by ones. Reserved bits written as 1
leave these fields free (R15); a register with neither, and CEL_FRAME, take nothing from such a write. Writes and hardware
changes of one tick act in the order of the queue. (log 8 DEDUCED, 9 DESIGN CHOICE, 175 DESIGN CHOICE) -/
def Core.liveWrite (c : Core) (n v mask : Nat) : Core :=
  match regAt n with
  | none => c
  | some row =>
    if row.isSh || !c.window n then c
    else
      let mask := Nat.land mask (0xFFFFFFFF - ownRow n)
      let fields := maskOf (fun _ => true) row.fields
      let rw := Nat.land mask (maskOf (fun a => a == Acc.rw) row.fields)
      let w1c := Nat.land mask (maskOf (fun a => a == Acc.w1c) row.fields)
      if rw = 0 ∧ w1c = 0 then c
      else
        let old := c.liveW n
        if Nat.land (Nat.land v mask) (0xFFFFFFFF - fields) != 0 then
          let fr := c.free
          fr.2.setLiveW n (mergeBits old fr.1 (rw + w1c))
        else c.setLiveW n (mergeBits (mergeBits old v rw) 0 (Nat.land w1c v))

end Sys2Proof.Machine
end

