-- ==== Sys2Proof/Machine/Slot.lean ====
section
/-!
DEFINITION. Commands in a ring's command slot (R279-R283, R292, R296): the start of a command, its refusals in the order of R280, the fields of a descriptor.
-/
namespace Sys2Proof.Machine

/-- Opcodes of descriptors (R283). -/
inductive CmdOp where
  | loadSegment | loadConfig | commit | run | stop | armCapture | postSpool | calibrate | query | fence | lockRelease
  deriving DecidableEq, Repr

/-- The code of an opcode. -/
def CmdOp.code : CmdOp → Nat
  | .loadSegment => 1 | .loadConfig => 2 | .commit => 3 | .run => 4 | .stop => 5 | .armCapture => 6 | .postSpool => 7 | .calibrate => 8 | .query => 9
  | .fence => 10 | .lockRelease => 11

/-- A field of a descriptor: `n` bits from bit `lo` of byte `b`. -/
def dField (d : Desc) (b lo n : Nat) : Nat := descBits d (8 * b + lo) n

/-- Is the descriptor zero outside its header fields and the fields listed (byte, bit, width) (R280, R283)? -/
def onlyBits (d : Desc) (l : List (Nat × Nat × Nat)) : Bool :=
  ([(0, 0, 3), (1, 0, 8), (2, 0, 16)] ++ l).foldl (fun (x : Nat) (f : Nat × Nat × Nat) => putBits x (8 * f.1 + f.2.1) f.2.2 0) d.toNat == 0

/-- Entries of completion ring `z` that the host has not returned (R275). -/
def Core.unread (c : Core) (z : Nat) : Nat := (c.devIdx z + c.ringSize z - (c.ring z).host) % c.ringSize z

/-- An entry of the COMPL ring of ring `n` is free for one more completion (R281). -/
def Core.complRoom (c : Core) (n : Nat) : Bool :=
  let z := c.get (Fd.CHP_RING_CFG_COMPL n)
  decide (c.unread z + (c.ring z).reserved + (c.ring z).comps.length + 1 < c.ringSize z)

/-- The command of opcode `op` that waits in the slot of ring `n` and may start (R279, R281); none starts during a rate change of the stack (R322). (log 47 DEDUCED) -/
def Core.waits (c : Core) (n : Nat) (op : CmdOp) : Option Desc :=
  match (c.ring n).cmd with
  | some k => if c.svc && !k.exec && !c.hbmIs .rateChange && descBits k.desc 8 8 == op.code && c.complRoom n then some k.desc else none
  | none => none

/-- The command of ring `n` starts: a completion entry is reserved and its start tick noted (R279, R281). (log 47 DEDUCED) -/
def Core.begin_ (c : Core) (n : Nat) : Core :=
  let z := c.get (Fd.CHP_RING_CFG_COMPL n)
  let c := c.modRing z (fun r => { r with reserved := r.reserved + 1 })
  c.modRing n (fun r => { r with cmd := r.cmd.map (fun k => { k with start := c.now }) })

/-- The command of ring `n` goes on after this step: it is in execution. -/
def Core.inExec (c : Core) (n : Nat) : Core := c.modRing n (fun r => { r with cmd := r.cmd.map (fun k => { k with exec := true }) })

/-- A command of opcode `op` in the slot of ring `n` runs; on a ring disabled before the start it completes with ST_ABORTED (R292). -/
def runCmd (m : Mems) (c : Core) (n : Nat) (op : CmdOp) (f : Mems → Core → Desc → Mems × Core) : Mems × Core :=
  match c.waits n op with
  | none => (m, c)
  | some d =>
    let c := c.begin_ n
    if c.on (Fd.CHP_RING_CFG_EN n) then f m c d else (m, c.refuse n .aborted)

/-- The command of opcode `op` that is in execution on ring `n`. -/
def Core.goes (c : Core) (n : Nat) (op : CmdOp) : Option Cmd :=
  match (c.ring n).cmd with
  | some k => if c.svc && k.exec && descBits k.desc 8 8 == op.code then some k else none
  | none => none

/-- The command of ring `n` is in execution; `data` are the bytes it carries on their way over the ports (R331), of tick `t`. -/
def Core.execWith (c : Core) (n t : Nat) (data : List Byte) : Core :=
  c.modRing n (fun r => { r with cmd := r.cmd.map (fun k => { k with exec := true, leg := 0, snap := some (t, data) }) })

/-- The bytes that a command carries. -/
def Cmd.data (k : Cmd) : List Byte := (k.snap.map (fun e => e.2)).getD []

/-- A LOAD_SEGMENT or LOAD_CONFIG of another ring than `n` is in execution: no load and no COMMIT starts (R279). -/
def Core.loading (c : Core) (n : Nat) : Bool := (upFrom 0 64).any (fun z => z != n && ((c.goes z .loadSegment).isSome || (c.goes z .loadConfig).isSome))

/-- The command of opcode `op` of ring `n` goes on as `go` says once it is in execution; before, it starts as `start` says. -/
def stepCmd (m : Mems) (c : Core) (n : Nat) (op : CmdOp) (start : Mems → Core → Desc → Mems × Core) (go : Mems → Core → Cmd → Mems × Core) : Mems × Core :=
  match c.goes n op with
  | some k => go m c k
  | none => runCmd m c n op start

/-- The command of ring `n` starts to carry `data` over the ports, and goes at once as far as they let it. -/
def carryCmd (m : Mems) (c : Core) (n t : Nat) (data : List Byte) (go : Mems → Core → Cmd → Mems × Core) : Mems × Core :=
  let c := c.execWith n t data
  match (c.ring n).cmd with
  | some k => go m c k
  | none => (m, c)

/-- The first refusal that applies, in the order given (R280). (log 50 DEDUCED) -/
def firstRefusal : List (Bool × Sts) → Option Sts
  | [] => none
  | (b, x) :: rest => if b then some x else firstRefusal rest

/-- The `len` bytes read from host memory; none where the read failed or brought fewer (R268). (log 54 DEDUCED) -/
def dataOf (data : Option (List Byte)) (len : Nat) : Option (List Byte) :=
  match data with
  | some l => if len ≤ l.length then some (l.take len) else none
  | none => none

/-- Is a number not a multiple of 64? -/
def mis64 (x : Nat) : Bool := x % 64 != 0

/-- Cell `g` exists for a command: its region and block are enabled (R4, R444). -/
def Core.cellTarget (c : Core) (g : Nat) : Bool := decide (g < 2304) && c.bOk (cellR g) (cellB g)

/-- The run-state is one in which a series is under way: ARMED, RUNNING or DRAINING. -/
def Core.inSeries (c : Core) : Bool := c.runIs .armed || c.runIs .running || c.runIs .draining

end Sys2Proof.Machine
end

