-- ==== Sys2Proof/Machine/Load.lean ====
section
/-!
DEFINITION. The commands that write the segment stores and the shadow set: LOAD_SEGMENT (R95-R103, R284), LOAD_CONFIG (R285) and profiles (R266, R267).
-/
namespace Sys2Proof.Machine

/-! ### LOAD_SEGMENT -/

/-- Lines of a segment of `len` granules (R95). -/
def segLines (len : Nat) : Nat := ceilDiv len 7

/-- The SEGIDs in play (R102). -/
def Core.inPlay (c : Core) (m : Mems) : List Nat :=
  let act := if c.inSeries then (c.active.filter (fun g => !c.parked (cellR g))).flatMap (fun g => (segRefs m c g).map (fun e => e.2)) else []
  (act ++ c.root.inPlay).eraseDups

/-- Do `n` lines from `line` of the store of home `home` and owner `owner` meet the lines of directory entry `e`? -/
def linesMeet (home owner line n e : Nat) : Bool :=
  dirValid e && dirHome e == home && home != 3 && dirOwner e == owner && decide (dirLine e < line + n) && decide (line < dirLine e + segLines (dirLen e))

/-- The fields of a LOAD_SEGMENT. -/
structure SegCmd where
  id     : Nat
  home   : Nat
  owner  : Nat
  line   : Nat
  len    : Nat
  stream : Nat
  bytes  : Nat
  addr   : Nat
  deriving DecidableEq, Repr

/-- The fields of a LOAD_SEGMENT descriptor (R284). (log 50 DEDUCED) -/
def segCmd (d : Desc) : SegCmd :=
  { id := dField d 8 0 16, home := dField d 10 0 2, owner := dField d 12 0 12, line := dField d 16 0 27, len := dField d 20 0 20,
    stream := dField d 24 0 8, bytes := dField d 28 0 32, addr := dField d 32 0 64 }

/-- The target of a LOAD_SEGMENT exists, and the fields that its home gives as zero are zero (R103). -/
def Core.segTarget (c : Core) (k : SegCmd) : Bool :=
  (k.home == 3 || k.stream == 0) &&
  (if k.home = 0 then c.cellTarget k.owner
   else if k.home = 1 then decide (k.owner < 128) && c.bOk (k.owner / 16) (k.owner % 16)
   else if k.home = 2 then k.owner == 0
   else c.cellTarget k.owner && k.line == 0)

/-- Lines of the LIBRARY partition (R310). -/
def Core.libLines (c : Core) : Nat := c.get (Fd.HBM_PART_SIZE 0) * 524288

/-- The length tests of R103. -/
def Core.segFits (c : Core) (k : SegCmd) : Bool :=
  let n := segLines k.len
  decide (4 ≤ k.len) && k.bytes == (if k.home = 3 then 0 else n * 128) &&
  (if k.home = 0 then decide (k.line + n ≤ 256) && decide (c.get (Fd.CEL_SEQ_CFG_STAGE_LINES k.owner) ≤ k.line)
   else if k.home = 1 then decide (k.line + n ≤ 4096) && decide (c.get (Fd.BLK_SEG_CFG_STAGE_LINES (k.owner / 16) (k.owner % 16)) ≤ k.line)
   else if k.home = 2 then c.on Fd.CHP_BOOT_STS_NO_HBM || decide (k.line + n ≤ c.libLines)
   else true)

/-- The stack address of the first line of a LIBRARY segment that a command loads (R310). -/
def Core.segBase (c : Core) (k : SegCmd) : Nat := c.get (Fd.HBM_PART_BASE 0) * 2 ^ 26 + k.line * 128

/-- Where a load's first byte stands in the memory of all owners, each owner holding `size` bytes (R96). -/
def SegCmd.place (k : SegCmd) (size : Nat) : Nat := k.owner * size + k.line * 128

/-- The data of a segment of a cell or block written to its store (R95, R96). -/
def segStore (m : Mems) (k : SegCmd) (data : List Byte) : Mems :=
  if k.home = 0 then { m with seg := wrBytes zeroByte m.seg (k.place 32768) data }
  else if k.home = 1 then { m with blk := wrBytes zeroByte m.blk (k.place 524288) data }
  else m

/-- The way of a load's data (R331, R332): from the endpoint over the spine; to a cell's or block's store over the spine again; into a block store two beats of its port a line,
under tokens of the store. (log 160 DEDUCED) -/
def SegCmd.legs (k : SegCmd) : List Leg :=
  let n := beatsOf k.bytes
  if k.home = 3 then []
  else if k.home = 2 then [.lane 9 n]
  else if k.home = 1 then [.lane 9 n, .lane 8 n, .port (.block (k.owner / 16) (k.owner % 16)) 18 (2 * n)]
  else [.lane 9 n, .lane 8 n]

/-- The lines of a SEGID leave every block's staging ring and refill engine (R100). -/
def Core.dropCached (c : Core) (id : Nat) : Core :=
  c.blocks.foldl (fun c k =>
    let b := c.blk (16 * k.1 + k.2)
    if b.cache.any (fun l => l.segid == id) || b.want.any (fun l => l.1 == id) || b.inbox.any (fun l => l.segid == id) then
      (c.modBlk (16 * k.1 + k.2) (fun x =>
        { x with cache := x.cache.filter (fun l => l.segid != id), want := x.want.filter (fun l => l.1 != id), inbox := x.inbox.filter (fun l => l.segid != id) })).stageUsed k.1 k.2
    else c) c

/-- The data of a LOAD_SEGMENT are in their store: the directory entry follows in one step (R284). -/
def segDone (m : Mems) (c : Core) (n : Nat) (k : SegCmd) : Mems × Core :=
  let gen := (dirGen (dirEntry m k.id) + 1) % 2 ^ 32
  let e := mkDir 1 k.home k.owner k.line k.len (if k.home = 3 then k.stream else 0) gen
  ({ m with dir := wrBytes zeroByte m.dir (k.id * 16) (toLE 16 e) }, (if k.home = 2 then c.dropCached k.id else c).complete n .ok gen 0)

/-- A LIBRARY load whose data have come to the root: the root writes the lines and reads each back; an uncorrectable one leaves VALID = 0 (R284, R317). -/
def segLib (m : Mems) (c : Core) (n : Nat) (k : SegCmd) (data : List Byte) : Mems × Core :=
  if c.on Fd.CHP_BOOT_STS_NO_HBM then (m, c.refuse n .hbm)
  else match c.workOf 169 (cmdTag n) with
    | none => (m, c.newWork 169 (cmdTag n) 0 [(c.segBase k, k.bytes, some data), (c.segBase k, k.bytes, none)])
    | some w =>
      if !w.done then (m, c)
      else if w.bad then ({ m with dir := wrBytes zeroByte m.dir (k.id * 16) (toLE 16 (putBits (dirEntry m k.id) 0 1 0)) }, (c.dropCached k.id).refuse n .hbm)
      else segDone m c n k

/-- A LOAD_SEGMENT in execution goes on: its data over the ports, then into their store, then the directory entry. -/
def segGo (m : Mems) (c : Core) (n : Nat) (x : Cmd) : Mems × Core :=
  let k := segCmd x.desc
  let y := c.goLegs n (k.legs.drop x.leg)
  if !y.2 then (m, y.1)
  else if k.home = 2 then segLib m y.1 n k x.data
  else segDone (segStore m k x.data) y.1 n k

/-- The refusal of a LOAD_SEGMENT, in the order of R280 (R102, R103, R284). (log 50 DEDUCED) -/
def Core.segRefusal (c : Core) (m : Mems) (d : Desc) (data : Option (List Byte)) : Option Sts :=
  let k := segCmd d
  let play := c.inPlay m
  firstRefusal [
    (!onlyBits d [(8, 0, 16), (10, 0, 2), (12, 0, 12), (16, 0, 27), (20, 0, 20), (24, 0, 8), (28, 0, 32), (32, 0, 64)] || !c.segTarget k, .target),
    (mis64 k.addr || mis64 k.bytes, .align),
    (!c.segFits k, .length),
    (play.contains k.id || play.any (fun i => linesMeet k.home k.owner k.line (segLines k.len) (dirEntry m i)), .segActive),
    (k.home == 2 && c.on Fd.CHP_BOOT_STS_NO_HBM, .hbm),
    (k.home != 3 && (dataOf data k.bytes).isNone, .aborted)]

/-- LOAD_SEGMENT (R102, R103, R279, R280, R284, R331). `data` is what the device reads from ADDR, none when that read fails. It starts while no COMMIT is checked and no other load is
in execution; then it goes on as its data move. (log 54 DEDUCED, 71 DEDUCED) -/
def execLoadSegment (n : Nat) (data : Option (List Byte)) (s : State) : Host.Outcome State Fault Refusal :=
  s.onBoth (fun m c =>
    match c.goes n .loadSegment with
    | some k => segGo m c n k
    | none =>
      if c.setIs .checking || c.loading n then (m, c)
      else runCmd m c n .loadSegment (fun m c d =>
        match c.segRefusal m d data with
        | some x => (m, c.refuse n x)
        | none => carryCmd m c n c.now ((dataOf data (segCmd d).bytes).getD []) (fun m c k => segGo m c n k)))

/-! ### LOAD_CONFIG -/

/-- The size of a configuration space (R285); none where the SPACE is not listed. -/
def spaceSize (sp : Nat) : Option Nat :=
  if sp = 0 then some (2 ^ 25) else if sp = 1 then some 32768 else if sp = 2 then some 4096 else if sp = 3 then some 256
  else if sp = 4 then some 327680 else none

/-- The unit of a space exists (R280, R285, R444). -/
def Core.unitTarget (c : Core) (sp u : Nat) : Bool :=
  if sp = 0 then true else if sp = 4 then decide (u < 8) && c.rOk u else c.cellTarget u

/-- Bytes `data` written from byte `o` of unit `u` of the shadow copy of a memory space. -/
def shadowMem (m : Mems) (sp u o : Nat) (data : List Byte) : Mems :=
  if sp = 1 then { m with pmS := wrBytes zeroByte m.pmS (u * 32768 + o) data }
  else if sp = 2 then { m with dmcS := wrBytes zeroByte m.dmcS (u * 4096 + o) data }
  else if sp = 3 then { m with mtS := wrBytes zeroByte m.mtS (u * 256 + o) data }
  else if sp = 4 then { m with syS := wrBytes zeroByte m.syS (u * 327680 + o) data }
  else m

/-- The words of the shadow memories that a write of `len` bytes from byte `o` of unit `u` of space `sp` makes good (R65): every word it writes. (log 129 DESIGN CHOICE) -/
def healWords (m : Mems) (sp u o len : Nat) : Mems :=
  let w := if sp = 1 then 8 else if sp = 4 then 128 else 16
  let base := if sp = 2 then u * 512 else u * ((spaceSize sp).getD 0 / w)
  let kind := if sp = 1 then 9 else if sp = 2 then 10 else if sp = 3 then 12 else 13
  { m with flaw := m.flaw.filter (fun e => !(e.1 == kind && decide (base + o / w ≤ e.2.1) && decide (e.2.1 < base + ceilDiv (o + len) w))) }

/-- Data written to the SH fields of the registers from BAR0 offset `o`. -/
def Core.shadowRegs (c : Core) : Nat → List Byte → Core
  | o, b0 :: b1 :: b2 :: b3 :: rest => (c.shadowPut o (fromLE [b0, b1, b2, b3]) 0xFFFFFFFF).shadowRegs (o + 4) rest
  | _, _ => c

/-- A LOAD_CONFIG of space REG has written `n` bytes from offset `o` in this tick: a register write of the same tick comes before it, whichever the block sees first (R460). -/
def Core.noteLoaded (c : Core) (o n : Nat) : Core :=
  let old := if c.root.loadAt = c.now then c.root.loaded else []
  { c with root := { c.root with loadAt := c.now, loaded := old ++ (upFrom 0 (n / 4)).map (fun k => o + 4 * k) } }

/-- The refusal of a LOAD_CONFIG of the spaces REG, PM, DMC, MT and SYND, in the order of R280. (log 54 DEDUCED) -/
def Core.cfgRefusal (c : Core) (d : Desc) (data : Option (List Byte)) : Option Sts :=
  let sp := dField d 8 0 4
  let o := dField d 16 0 32
  let len := dField d 20 0 32
  let addr := dField d 24 0 64
  firstRefusal [
    (!onlyBits d [(8, 0, 4), (12, 0, 32), (16, 0, 32), (20, 0, 32), (24, 0, 64)] || (spaceSize sp).isNone || !c.unitTarget sp (dField d 12 0 32), .target),
    (!c.setIs .clean, .state),
    (mis64 addr || mis64 o || mis64 len, .align),
    (len == 0 || decide ((spaceSize sp).getD 0 < o + len), .length),
    ((dataOf data len).isNone, .aborted)]

/-- The shadow copy takes `data` (R252, R285). -/
def cfgApply (m : Mems) (c : Core) (d : Desc) (data : List Byte) : Mems × Core :=
  let sp := dField d 8 0 4
  let u := dField d 12 0 32
  let o := dField d 16 0 32
  if sp = 0 then (m, (c.shadowRegs o data).noteLoaded o data.length) else (healWords (shadowMem m sp u o data) sp u o data.length, c)

/-- A LOAD_CONFIG in execution goes on: its data pass the spine from the endpoint to the root and from the root to their units (R331), and are written as `f` says.
(log 160 DEDUCED) -/
def cfgGo (f : Mems → Core → Desc → List Byte → Mems × Core) (m : Mems) (c : Core) (n : Nat) (x : Cmd) : Mems × Core :=
  let y := c.goLegs n ([Leg.lane 9 (beatsOf x.data.length), Leg.lane 8 (beatsOf x.data.length)].drop x.leg)
  if !y.2 then (m, y.1) else let z := f m y.1 x.desc x.data; (z.1, z.2.complete n .ok 0 0)

/-- A LOAD_CONFIG with or without a profile (`prof`) starts or goes on. -/
def cfgRun (prof : Bool) (m : Mems) (c : Core) (n : Nat) (data : Option (List Byte)) (ref : Mems → Core → Desc → Option Sts)
    (f : Mems → Core → Desc → List Byte → Mems × Core) : Mems × Core :=
  if ((c.ring n).cmd.map (fun k => dField k.desc 8 0 4 == 15)) != some prof then (m, c)
  else match c.goes n .loadConfig with
    | some k => cfgGo f m c n k
    | none =>
      if c.loading n then (m, c)
      else runCmd m c n .loadConfig (fun m c d =>
        match ref m c d with
        | some x => (m, c.refuse n x)
        | none => carryCmd m c n c.now ((dataOf data (dField d 20 0 32)).getD []) (fun m c k => cfgGo f m c n k))

/-- LOAD_CONFIG (R252, R279, R280, R285, R331) of the spaces REG, PM, DMC, MT and SYND. (log 54 DEDUCED) -/
def execLoadConfig (n : Nat) (data : Option (List Byte)) (s : State) : Host.Outcome State Fault Refusal :=
  s.onBoth (fun m c => cfgRun false m c n data (fun _ c d => c.cfgRefusal d data) cfgApply)

/-! ### Profiles -/

/-- The functions of R266. -/
inductive ProfFn where
  | cell | rfDac | bbDac | routing | adc | measure | synd | port
  deriving DecidableEq, Repr

/-- The function with a code. (log 49 DEDUCED) -/
def profFn (x : Nat) : Option ProfFn :=
  if x = 1 then some .cell else if x = 2 then some .rfDac else if x = 3 then some .bbDac else if x = 4 then some .routing
  else if x = 5 then some .adc else if x = 6 then some .measure else if x = 7 then some .synd else if x = 8 then some .port else none

/-- The unit of a profile record exists. -/
def Core.profUnit (c : Core) (f : ProfFn) (u : Nat) : Bool :=
  match f with
  | .cell | .routing | .measure => c.cellTarget u
  | .rfDac => decide (u < 64) && c.rOk (u / 8)
  | .bbDac => decide (u < 256) && c.bOk (u / 32) (u % 32 / 2)
  | .adc => decide (u < 32) && c.rOk (u / 4)
  | .synd => decide (u < 8) && c.rOk u
  | .port => decide (u < 4)

/-- The bits of fields. -/
def bitsOfFlds (l : List Fld) : Nat := (l.map (fun f => (2 ^ f.w - 1) * 2 ^ f.lo)).foldl (fun a b => a + b) 0

/-- The registers of a unit that hold fields of a function, with their basic and their expert fields (R94, R152, R181, R208). -/
def profRegs (f : ProfFn) (u : Nat) : List (Nat × Nat × Nat) :=
  match f with
  | .cell =>
    [(Fd.CEL_CFG u, bitsOfFlds [Fd.CEL_CFG_ROLE u, Fd.CEL_CFG_PHX_EN u, Fd.CEL_CFG_PHX_INLINE u],
      bitsOfFlds [Fd.CEL_CFG_PM_SPLIT u, Fd.CEL_CFG_START u, Fd.CEL_CFG_EV_EN u, Fd.CEL_CFG_WORK_MODE u]),
     (Fd.CEL_CTL u, bitsOfFlds [Fd.CEL_CTL_HOLD u], bitsOfFlds [Fd.CEL_CTL_QUAR_REQ u, Fd.CEL_CTL_HOST_EV u])]
  | .rfDac =>
    let r := u / 8
    let i := u % 8
    [(Fd.RGN_DAC_FTW_LO r i, bitsOfFlds [Fd.RGN_DAC_FTW_LO_FTW_LO r i], 0),
     (Fd.RGN_DAC_FTW_HI r i, bitsOfFlds [Fd.RGN_DAC_FTW_HI_FTW_HI r i], bitsOfFlds [Fd.RGN_DAC_FTW_HI_POFF r i]),
     (Fd.RGN_DAC_CFG r i, bitsOfFlds [Fd.RGN_DAC_CFG_ZONE r i, Fd.RGN_DAC_CFG_MODE r i],
      bitsOfFlds [Fd.RGN_DAC_CFG_COMB_SHIFT r i, Fd.RGN_DAC_CFG_LOCK_SHIFT r i, Fd.RGN_DAC_CFG_EN r i])]
  | .bbDac =>
    let r := u / 32
    let b := u % 32 / 2
    let k := u % 2
    [(Fd.BLK_BB_CFG r b k, bitsOfFlds [Fd.BLK_BB_CFG_DC_OFFSET r b k], bitsOfFlds [Fd.BLK_BB_CFG_INTERP r b k, Fd.BLK_BB_CFG_EN r b k])]
  | .routing =>
    let r := cellR u
    let b := cellB u
    let k := cellC u
    [(Fd.BLK_TONE_ROUTE r b k, bitsOfFlds [Fd.BLK_TONE_ROUTE_DAC r b k, Fd.BLK_TONE_ROUTE_TONE r b k, Fd.BLK_TONE_ROUTE_BB r b k], 0),
     (Fd.BLK_CHAN_ROUTE r b k, bitsOfFlds [Fd.BLK_CHAN_ROUTE_ADC r b k, Fd.BLK_CHAN_ROUTE_INPUT r b k], 0)]
  | .adc =>
    let r := u / 4
    let j := u % 4
    (Fd.RGN_ADC_CFG r j, bitsOfFlds [Fd.RGN_ADC_CFG_MODE r j, Fd.RGN_ADC_CFG_EN r j],
      bitsOfFlds [Fd.RGN_ADC_CFG_FS r j, Fd.RGN_ADC_CFG_GAIN_A r j, Fd.RGN_ADC_CFG_GAIN_B r j]) ::
    ([0, 1].flatMap (fun x =>
      [(Fd.RGN_ADC_FTW_LO r j x, bitsOfFlds [Fd.RGN_ADC_FTW_LO_FTW_LO r j x], 0),
       (Fd.RGN_ADC_FTW_HI r j x, bitsOfFlds [Fd.RGN_ADC_FTW_HI_FTW_HI r j x], bitsOfFlds [Fd.RGN_ADC_FTW_HI_POFF r j x])]))
  | .measure => [(Fd.CEL_RO_CFG u, bitsOfFlds [Fd.CEL_RO_CFG_NSLOT u], bitsOfFlds [Fd.CEL_RO_CFG_PHX_DELAY u])]
  | .synd =>
    [(Fd.RGN_SYND_CTL u, bitsOfFlds [Fd.RGN_SYND_CTL_EN u], bitsOfFlds [Fd.RGN_SYND_CTL_APPLY u]),
     (Fd.RGN_SYND_CFG u, 0, bitsOfFlds [Fd.RGN_SYND_CFG_ERASE_MODE u, Fd.RGN_SYND_CFG_EXP_PORT u, Fd.RGN_SYND_CFG_EXP_EN u, Fd.RGN_SYND_CFG_NREC u])]
  | .port =>
    (upFrom 0 80).flatMap (fun e =>
      [(Fd.CHP_DEC_EXPORT u e, bitsOfFlds [Fd.CHP_DEC_EXPORT_CELL u e, Fd.CHP_DEC_EXPORT_EN u e], 0),
       (Fd.CHP_DEC_IMPORT u e, bitsOfFlds [Fd.CHP_DEC_IMPORT_CELL u e, Fd.CHP_DEC_IMPORT_EN u e], 0)])

/-- The bits of the tables in the word at byte `o` of a syndrome configuration memory (R194, R200). -/
def syndBits (o : Nat) : Nat :=
  if o < 0x200 then 0x3FFF
  else if o < 0x600 then (if o % 16 < 8 then 0xFFFFFFFF else if o % 16 < 12 then 0xFF else 0)
  else if o < 0x640 then 0x83FF83FF
  else if o < 0x700 then 0
  else if o < 0x800 then (if o % 32 < 16 then 0x7F7F7F7F else if o % 32 < 20 then 0x1FFFFF else 0)
  else if o < 0x900 then 0x9FFF9FFF
  else if 0x10000 ≤ o ∧ o < 0x50000 then 0xC000FFFF
  else 0

/-- The basic bits of the word at byte `o` of a memory space in a unit (R94, R181, R208): of program memory the
engine's words and the fields of the sequencer's header, watch slots and segment table (R106, R111); of the measure table the measurement fields; of the syndrome memory the bits of its tables. 0: no basic field of the function lies there. -/
def profMem (m : Mems) (c : Core) (f : ProfFn) (u sp o : Nat) : Nat :=
  match f with
  | .cell =>
    let w := 8 * (shadowView m c).2.seqW u
    if sp ≠ 1 ∨ 32768 ≤ o then 0
    else if o < w then 0xFFFFFFFF
    else if o = w then 0x01FF0FFF
    else if w + 8 ≤ o ∧ o < w + 40 then 0x7FFFF
    else if w + 40 ≤ o ∧ o < w + 552 then 0xFFFFFFFF
    else 0
  | .measure => if sp = 3 ∧ o < 256 then (if o % 32 < 8 ∨ (12 ≤ o % 32 ∧ o % 32 < 16) then 0xFFFFFFFF else if o % 32 = 8 then 0x1FFFFFFF else 0) else 0
  | .synd => if sp = 4 then syndBits o else 0
  | _ => 0

/-- An entry of a profile record: SPACE, LOC, IMAGE. -/
structure ProfEnt where
  sp    : Nat
  loc   : Nat
  image : Nat
  deriving DecidableEq, Repr

/-- A record of 256 bytes (R266): FUNC, NENT, UNIT and its entries. -/
structure ProfRec where
  func : Nat
  nent : Nat
  unit : Nat
  ents : List ProfEnt
  deriving DecidableEq, Repr

/-- The little-endian number of `n` bytes at `o` of a list of bytes. -/
def leAt (l : List Byte) (o n : Nat) : Nat := fromLE ((l.drop o).take n)

/-- The record that 256 bytes hold. -/
def profRec (l : List Byte) : ProfRec :=
  let n := leAt l 1 1
  { func := leAt l 0 1, nent := n, unit := leAt l 4 4,
    ents := (upFrom 0 (min n 31)).map (fun x =>
      { sp := bitsOf (leAt l (8 + 8 * x) 4) 28 4, loc := bitsOf (leAt l (8 + 8 * x) 4) 0 26, image := leAt l (12 + 8 * x) 4 }) }

/-- The records that data hold. (log 49 DEDUCED) -/
def profRecs (data : List Byte) : List ProfRec := (upFrom 0 (data.length / 256)).map (fun i => profRec ((data.drop (256 * i)).take 256))

/-- The basic and expert bits of the word that an entry names; none where it lies outside the unit or holds no basic field (R267). -/
def entBits (m : Mems) (c : Core) (f : ProfFn) (u : Nat) (e : ProfEnt) : Option (Nat × Nat) :=
  if e.loc % 4 ≠ 0 then none
  else if e.sp = 0 then
    match (profRegs f u).find? (fun k => k.1 == e.loc) with
    | some k => if k.2.1 = 0 then none else some k.2
    | none => none
  else
    let b := profMem m c f u e.sp e.loc
    if b = 0 then none else some (b, 0)

/-- Does a record name only targets that exist? (log 49 DEDUCED) -/
def recTarget (m : Mems) (c : Core) (k : ProfRec) : Bool :=
  match profFn k.func with
  | none => false
  | some f => c.profUnit f k.unit && k.ents.all (fun e => (entBits m c f k.unit e).isSome)

/-- The word of a register after a profile: basic bits from `image`, expert bits at reset, other functions' fields kept, reserved bits zero (R267). -/
def Core.profReg (c : Core) (n basic expert image : Nat) : Core :=
  let others := match regAt n with
    | some row => Nat.land (maskOf (fun _ => true) row.fields) (0xFFFFFFFF - basic - expert)
    | none => 0
  c.shadowPut n (Nat.lor (Nat.land image basic) (Nat.land (regReset n) expert)) (0xFFFFFFFF - others)

/-- A record expands into the shadow set (R267). (log 49 DEDUCED) -/
def profApply (m : Mems) (c : Core) (k : ProfRec) : Mems × Core :=
  match profFn k.func with
  | none => (m, c)
  | some f =>
    let y := k.ents.foldl (fun (a : Mems × Core) e =>
      match entBits m c f k.unit e with
      | none => a
      | some b =>
        if e.sp = 0 then (a.1, a.2.profReg e.loc b.1 b.2 e.image)
        else (healWords (shadowMem a.1 e.sp k.unit e.loc (toLE 4 (Nat.land e.image b.1))) e.sp k.unit e.loc 4, a.2)) (m, c)
    let rest := (profRegs f k.unit).filter (fun w => w.2.2 != 0 && !k.ents.any (fun e => e.sp == 0 && e.loc == w.1))
    (y.1, rest.foldl (fun c w =>
      c.shadowPut w.1 (Nat.land (regReset w.1) w.2.2) w.2.2) y.2)

/-- The refusal of a LOAD_CONFIG of space PROFILE, in the order of R280 (R266, R267). (log 49 DEDUCED) -/
def profRefusal (m : Mems) (c : Core) (d : Desc) (data : Option (List Byte)) : Option Sts :=
  let o := dField d 16 0 32
  let len := dField d 20 0 32
  let addr := dField d 24 0 64
  let recs := profRecs ((dataOf data len).getD [])
  firstRefusal [
    (!onlyBits d [(8, 0, 4), (12, 0, 32), (16, 0, 32), (20, 0, 32), (24, 0, 64)] || !recs.all (recTarget m c), .target),
    (!c.setIs .clean, .state),
    (mis64 addr || mis64 o || mis64 len, .align),
    (o != 0 || len == 0 || len % 256 != 0 || recs.any (fun k => k.nent == 0 || decide (31 < k.nent)), .length),
    ((dataOf data len).isNone, .aborted)]

/-- LOAD_CONFIG_PROFILE (R266, R267, R285): LOAD_CONFIG of space PROFILE. (log 49 DEDUCED) -/
def execLoadConfigProfile (n : Nat) (data : Option (List Byte)) (s : State) : Host.Outcome State Fault Refusal :=
  s.onBoth (fun m c => cfgRun true m c n data (fun m c d => profRefusal m c d data) (fun m c _ l => (profRecs l).foldl (fun (a : Mems × Core) k => profApply a.1 a.2 k) (m, c)))

end Sys2Proof.Machine
end

