-- ==== Sys2Proof/Machine/Command.lean ====
section
/-!
DEFINITION. The commands COMMIT, RUN, STOP, ARM_CAPTURE, POST_SPOOL, FENCE and LOCK_RELEASE (R252, R253, R259, R262, R286-R291, R300).
-/
namespace Sys2Proof.Machine

/-! ### COMMIT -/

/-- COMMIT is accepted: the set is CHECKING until COMMIT_COMPLETE (R252). -/
def commitStart (n : Nat) (only : Bool) (m : Mems) (c : Core) : Mems × Core :=
  if ((c.ring n).cmd.map (fun k => dField k.desc 8 0 1)) != some (b2n only) then (m, c)
  else if c.loading n then (m, c)
  else runCmd m c n .commit (fun m c d =>
    match firstRefusal [(!onlyBits d [(8, 0, 1)], .target), (!c.setIs .clean, .state)] with
    | some x => (m, c.refuse n x)
    | none => (m, ({ c.setGo .checking with root := { c.root with commit := some (n, only, c.now) } }).inExec n))

/-- COMMIT (R252, R286). -/
def execCommit (n : Nat) (s : State) : Host.Outcome State Fault Refusal := s.onBoth (commitStart n false)

/-- COMMIT_CHECK_ONLY (R286): COMMIT with CHECK_ONLY = 1. -/
def execCommitCheckOnly (n : Nat) (s : State) : Host.Outcome State Fault Refusal := s.onBoth (commitStart n true)

/-- COMMIT_COMPLETE (R253, R286): the checks have run over the shadow set; its outcome, and what becomes of the set. (log 7 DESIGN CHOICE) -/
def execCommitComplete (s : State) : Host.Outcome State Fault Refusal :=
  s.onCore (fun m c =>
    match c.root.commit with
    | none => c
    | some (n, only, _) =>
      if !c.svc then c
      else
        let v := shadowView m c
        let out := runChecks v.1 v.2
        let word := chkWordOf out
        let c := { c.setLiveW Fd.CHP_CFG_CHK word with root := { c.root with commit := none } }
        match out with
        | some (k, _) => ((c.put Fd.CHP_CFG_STS_CHK_FAIL 1).setGo .clean).complete n (if k = 0xC then .waitCycle else .check) word c.now
        | none =>
          if only then (c.setGo .clean).complete n .ok 0 c.now
          else
            let c := c.setGo .pending
            ({ c with root := { c.root with cC := some c.now, swapped := [], inPlay := ephemeris v.1 v.2 } }).complete n .ok 0 c.now)

/-! ### RUN and STOP -/

/-- The streams that the active set names are all bound to enabled HOST_WRITE spools (R302). -/
def Core.streamsBound (c : Core) (m : Mems) : Bool :=
  (c.active.flatMap (streamsOf m c)).all (fun z => c.on (Fd.CHP_STREAM_MAP_EN z) && c.hostSpool (c.get (Fd.CHP_STREAM_MAP_RING z)))

/-- A calibration that holds a RUN is in progress: DAC_FULL or BB_FULL (R404). -/
def Core.dacCal (c : Core) : Bool := c.cal.jobs.any (fun j => j.kind == 0x13 || j.kind == 0x14)

/-- A series starts: streams are bound and begin at granule 0, no shot has begun (R104, R259, R302). -/
def Core.startSeries (c : Core) (count mode trig period : Nat) (ts : Option Nat) : Core :=
  let c : Core := { c with cells := c.cells.map (fun (e : Nat × Cell) => (e.1, ({ e.2 with ctx := { e.2.ctx with strm := [] } } : Cell))) }
  let c := c.blocks.foldl (fun c k =>
    let b := c.blk (16 * k.1 + k.2)
    if b.cache.any (fun l => decide (65536 ≤ l.segid)) || b.inbox.any (fun l => decide (65536 ≤ l.segid)) then
      (c.modBlk (16 * k.1 + k.2) (fun x => { x with cache := x.cache.filter (fun l => decide (l.segid < 65536)), inbox := x.inbox.filter (fun l => decide (l.segid < 65536)) })).stageUsed k.1 k.2
    else c) c
  let binds := ((upFrom 0 256).filter (fun z => c.on (Fd.CHP_STREAM_MAP_EN z))).map (fun z => (z, c.get (Fd.CHP_STREAM_MAP_RING z)))
  let c := { c with host := { c.host with binds := binds } }
  { c.enter .armed with ser := { Series.init with count := count, mode := mode, trig := trig, period := period, ts := ts, lastEnd := c.ser.lastEnd } }

/-- A RUN in the slot of ring `n` is held; `settle`: by converters that settle, so that the end of settling is its arrival (R431). -/
def Core.holdRun (c : Core) (n : Nat) (settle : Bool) : Core :=
  if (c.waits n .run).isSome then c.modRing n (fun r => { r with cmd := r.cmd.map (fun k => { k with settle := settle }) }) else c

/-- RUN (R258, R259, R287, R302, R404, R431). While converters settle or an RF or baseband DAC is calibrated it is held: it reaches the chip afterwards, and the end of settling is then
its arrival tick; a first stamp that has passed by then becomes the earliest one. (log 47 DEDUCED) -/
def execRun (n : Nat) (s : State) : Host.Outcome State Fault Refusal :=
  s.onBoth (fun m c =>
    if c.now < c.pins.settleTo then (m, c.holdRun n true)
    else if c.dacCal then (m, c.holdRun n false)
    else runCmd m c n .run (fun m c d =>
      let base := if ((c.ring n).cmd.map (fun k => k.settle)).getD false then c.pins.settleTo else c.now
      let count := dField d 8 0 32
      let mode := dField d 12 0 2
      let tick := dField d 24 0 64
      let exist := (upFrom 0 8).filter c.rOk
      let ref := firstRefusal [
        (!onlyBits d [(8, 0, 32), (12, 0, 4), (16, 0, 32), (24, 0, 64)] || !c.streamsBound m, .target),
        (!c.runIs .idle || exist.all c.parked || !c.root.ever, .state),
        (count == 0 || (mode == 1 && decide (tick < base + 256)), .length)]
      match ref with
      | some x => (m, c.refuse n x)
      | none =>
        let ts := if mode = 0 then some (max (base + 256) (c.now + 48)) else if mode = 1 then some tick else none
        (m, (c.startSeries count mode (dField d 12 2 2) (dField d 16 0 32) ts).complete n .ok (ts.getD 0) 0)))

/-- Cell `g` of a shot that STOP with CUT ends at U = now (R262): held from U, its lanes release zero from U + 2, its MEASUREs deliver invalid. (log 46 DEDUCED) -/
def Core.cutCell (c : Core) (g : Nat) : Core :=
  let c := c.modCell g (fun x =>
    { x with held := true, zeroAt := some (match x.zeroAt with
                                           | some z => min z (c.now + 2)
                                           | none => c.now + 2),
             phx := { x.phx with on := false }, ro := { x.ro with wins := x.ro.wins.map (fun w => { w with dead := true }) } })
  if c.cellLive g then c.put (Fd.CEL_STS_STATE g) 0 else c

/-- The shot in progress is cut short (R262): D0 = U + 32 in every region that has not begun its drain. (log 46 DEDUCED) -/
def Core.cutShot (c : Core) : Core :=
  let rs := c.regions.filter (fun r => (c.rgn r).shot.inShot && (c.rgn r).shot.d0.isNone)
  let c := rs.foldl (fun c r => ((c.rgnActive r).foldl Core.cutCell c).modShot r (fun h => { h with cutAt := some (c.now + 32) })) c
  if rs.isEmpty then c else { c.put Fd.CHP_RUN_STS_CUT 1 with ser := { c.ser with cut := true } }

/-- STOP takes effect in ARMED or RUNNING (R262): from ARMED, or between two shots, the series ends at once. (log 46 DEDUCED) -/
def Core.stopNow (c : Core) (cut : Bool) : Core :=
  if c.runIs .armed || !c.ser.shotOn then c.seriesEnd
  else
    let c := (c.stopSeries).enter .draining
    if cut then c.cutShot else c

/-- STOP with a value of CUT. (log 46 DEDUCED) -/
def stopWith (n : Nat) (cut : Bool) (m : Mems) (c : Core) : Mems × Core :=
  if ((c.ring n).cmd.map (fun k => dField k.desc 8 0 1)) != some (b2n cut) then (m, c)
  else runCmd m c n .stop (fun m c d =>
    match firstRefusal [(!onlyBits d [(8, 0, 1)], .target), (!(c.runIs .armed || c.runIs .running), .state)] with
    | some x => (m, c.refuse n x)
    | none =>
      let c := { c with ser := { c.ser with stopRings := c.ser.stopRings ++ [Fin.ofNat 64 n] } }
      (m, (c.inExec n).stopNow cut))

/-- STOP (R262, R287) with CUT = 0: it completes when the chip is IDLE. -/
def execStop (n : Nat) (s : State) : Host.Outcome State Fault Refusal := s.onBoth (stopWith n false)

/-- STOP_CUT (R262, R287): STOP with CUT = 1. -/
def execStopCut (n : Nat) (s : State) : Host.Outcome State Fault Refusal := s.onBoth (stopWith n true)

/-! ### ARM_CAPTURE -/

/-- Bits of a register that no field holds. (log 50 DEDUCED) -/
def reservedOf (n : Nat) : Nat :=
  match regAt n with
  | some row => 0xFFFFFFFF - maskOf (fun _ => true) row.fields
  | none => 0xFFFFFFFF

/-- ARM_CAPTURE (R230, R288): the command is judged at its start by its descriptor and the run-state, and reaches the region two ticks later (R279), where the channel's configuration
is checked, and it arms and completes. (log 53 DEDUCED) -/
def execArmCapture (n : Nat) (s : State) : Host.Outcome State Fault Refusal :=
  s.onBoth (fun m c => runCmd m c n .armCapture (fun m c d =>
    let ch := dField d 8 0 5
    let keep := dField d 9 0 1 == 1
    let r := ch / 4
    let h := ch % 4
    let given := (upFrom 0 10).map (fun i => dField d (12 + 4 * i) 0 32)
    let img := if keep then c.acqRegs r h else given
    let resv := !keep && ((acqOffs r h).zip given).any (fun e => Nat.land e.2 (reservedOf e.1) != 0)
    let chk := c.armCheck ch img
    let ref := firstRefusal [
      (!onlyBits d ([(8, 0, 5), (9, 0, 1)] ++ (upFrom 0 10).map (fun i => (12 + 4 * i, 0, 32))) || resv || !c.rOk r || (c.runIs .parked && chk == .target), .target),
      (c.runIs .parked, .state)]
    match ref with
    | some x => (m, c.refuse n x)
    | none =>
      (m, (c.modAcq ch (fun a => { a with arming := a.arming ++ [{ at_ := c.now + 2, img := given, keep := keep, ring := n }] })).inExec n)))

/-! ### POST_SPOOL -/

/-- The channels, streams or results to which spool `z` is bound so that RESET is refused (R300, R384). (log 51 DEDUCED) -/
def Core.spoolBound (c : Core) (m : Mems) (z : Nat) : Bool :=
  (upFrom 0 32).any (fun ch => c.acqState ch != 0 && (c.acq ch).ring == z)
    || (c.on Fd.CHP_RESULT_CFG_EN && c.get Fd.CHP_RESULT_CFG_SPOOL == z && !c.runIs .idle)
    || (c.on Fd.TPT_CFG_EN && c.get Fd.TPT_CFG_RX_SPOOL == z)
    || (c.inPlay m).any (fun i =>
        let e := dirEntry m i
        dirValid e && dirHome e == 3 &&
          (if c.inSeries then c.host.binds.contains (dirStream e, z)
           else c.on (Fd.CHP_STREAM_MAP_EN (dirStream e)) && c.get (Fd.CHP_STREAM_MAP_RING (dirStream e)) == z))

/-- Address and length of a scatter entry (R299). (log 51 DEDUCED) -/
def scatter (d : Desc) : Nat × Nat := (dField d 8 0 64, dField d 16 0 32)

/-- The phase expected `k` entries after index `i` with phase `ph` on a ring of `size` entries (R274). (log 51 DEDUCED) -/
def phaseAt (size i ph k : Nat) : Nat := if (i + k) / size % 2 = 1 then 1 - ph else ph

/-- S summed over the spools other than `z`. -/
def Core.otherSpools (c : Core) (z : Nat) : Nat :=
  (((upFrom 0 64).filter (fun n => n != z)).map (fun n => ((c.ring n).segs.map (fun e => e.2)).foldl (fun a b => a + b) 0)).foldl (fun a b => a + b) 0

/-- The fields of a POST_SPOOL (R289): the spool, RESET, COUNT. -/
def spoolOf (d : Desc) : Nat × Bool × Nat := (dField d 8 0 6, dField d 9 0 1 == 1, dField d 12 0 32)

/-- The index and the phase of the first entry that a POST_SPOOL takes (R300). (log 51 DEDUCED) -/
def Core.spoolFrom (c : Core) (d : Desc) : Nat × Nat :=
  let z := (spoolOf d).1
  if (spoolOf d).2.1 then (0, 1) else (c.devIdx z, c.get (Fd.CHP_RING_STS_DEV_PHASE z))

/-- How the reading of a POST_SPOOL's entries stands (R274): all are taken, reads are still to come, the last had a wrong phase, or failed. -/
inductive SpoolRead where
  | all | more | wrong | failed
  deriving DecidableEq, Repr

/-- Entries are read in order from index `first` (R274): those taken so far, `got`, with the new ones, and how the reading stands. -/
def spoolReads (size first ph want : Nat) : List Desc → List Fetch → List Desc × SpoolRead
  | got, [] => (got, if want ≤ got.length then .all else .more)
  | got, e :: rest =>
    if want ≤ got.length then (got, .all)
    else
      match e with
      | .failed => (got, .failed)
      | .entry d => if descBits d 0 1 = phaseAt size first ph got.length then spoolReads size first ph want (got ++ [d]) rest else (got, .wrong)

/-- A POST_SPOOL that names no spool, or that the spool's state refuses, takes no entry (R280, R289, R300); nor does it from a spool that an error has stopped (R276). (log 157
DESIGN CHOICE) -/
def Core.spoolRefusal (c : Core) (m : Mems) (d : Desc) : Option Sts :=
  let (z, reset, count) := spoolOf d
  firstRefusal [
    (!onlyBits d [(8, 0, 6), (9, 0, 1), (12, 0, 32)] || !c.ringIs z .spool, .target),
    ((reset && c.spoolBound m z) || (!reset && c.hostSpool z), .state), (count == 0, .length), ((c.ring z).stopped, .aborted)]

/-- POST_SPOOL of ring `n` ends with the entries `got` taken; `err` is the ring error of the one that could not be (R276, R280, R289, R296, R300). (log 51 DEDUCED) -/
def Core.spoolEnd (c : Core) (n : Nat) (d : Desc) (got : List Desc) (err : Option Nat) : Core :=
  let (z, reset, count) := spoolOf d
  let size := c.ringSize z
  let r := c.ring z
  let segs := if reset then [] else r.segs
  let fp := c.spoolFrom d
  let new := got.map scatter
  let total : Nat := ((segs ++ new).map (fun e => e.2)).foldl (fun a b => a + b) 0
  let ref := firstRefusal [
    (new.any (fun e => mis64 e.1 || mis64 e.2), .align),
    (decide (size < segs.length + count) || new.any (fun e => e.2 == 0) || decide (2 ^ 41 < total) || decide (2 ^ 41 < total + c.otherSpools z), .length)]
  match ref, err with
  | some x, _ => c.refuse n x
  | none, some k => (c.ringErr z k ((fp.1 + got.length) % size)).refuse n .aborted
  | none, none =>
    let c := (c.put (Fd.CHP_RING_STS_DEV_INDEX z) ((fp.1 + count) % size)).put (Fd.CHP_RING_STS_DEV_PHASE z) (phaseAt size fp.1 fp.2 count)
    let fresh := reset || r.s == 0
    let c := c.modRing z (fun r =>
      { r with segs := segs ++ new, s := if fresh then total else r.s, sNew := if fresh then none else some total,
               p := if fresh then 0 else r.p, c := if fresh then 0 else r.c, dirty := true })
    c.complete n .ok total 0

/-- The POST_SPOOL in execution of another ring than `n` that takes entries from spool `z`. -/
def Core.spoolTaker (c : Core) (z n : Nat) : Option Nat :=
  (upFrom 0 64).find? (fun k => k != n && (c.ring k).cmd.any (fun x => x.exec && descBits x.desc 8 8 == CmdOp.postSpool.code && (spoolOf x.desc).1 == z))

/-- The entries of `reads` are taken for the POST_SPOOL of ring `n` (R274, R300): it ends, waits for further reads, or fetches an entry with a wrong phase again 1 µs later. -/
def Core.spoolTake (c : Core) (n : Nat) (d : Desc) (got : List Desc) (reads : List Fetch) : Core :=
  let (z, _, count) := spoolOf d
  let size := c.ringSize z
  let fp := c.spoolFrom d
  let y := spoolReads size fp.1 fp.2 (min count size) got reads
  let hold := c.modRing n (fun r => { r with cmd := r.cmd.map (fun k => { k with exec := true, taken := y.1 }) })
  match y.2 with
  | .all => c.spoolEnd n d y.1 none
  | .failed => c.spoolEnd n d y.1 (some 3)
  | .more => hold
  | .wrong => hold.modRing z (fun r => { r with retry := 1, retryAt := c.now + ticksPerUs })

/-- POST_SPOOL (R274, R279, R289, R300, R331): it starts, or goes on with the entries it has not read yet; `reads` are the next entries as read from the spool's ring, of which as many
come as the endpoint passes over the spine. One spool serves one POST_SPOOL at a time. (log 51 DEDUCED) -/
def execPostSpool (n : Nat) (reads : List Fetch) (s : State) : Host.Outcome State Fault Refusal :=
  s.onBoth (fun m c =>
    match (c.ring n).cmd with
    | none => (m, c)
    | some k =>
      let z := (spoolOf k.desc).1
      if k.exec then
        if descBits k.desc 8 8 = CmdOp.postSpool.code ∧ c.svc = true ∧ (c.ring z).retry = 0 then
          (let y := c.laneTake 9 reads; (m, y.1.spoolTake n k.desc k.taken y.2)) else (m, c)
      else if (c.spoolTaker z n).isSome then (m, c)
      else runCmd m c n .postSpool (fun m c d =>
        match c.spoolRefusal m d with
        | some x => (m, c.refuse n x)
        | none => let y := c.laneTake 9 reads; (m, y.1.spoolTake n d [] y.2)))

/-- An entry of spool `z` that had a wrong phase `k` times is read again (R274). -/
def Core.spoolRetry (c : Core) (z k : Nat) (e : Fetch) : Core :=
  let again := c.modRing z (fun r => { r with retry := 0 })
  match c.spoolTaker z 64 with
  | none => again
  | some n =>
    match (c.ring n).cmd with
    | none => again
    | some x =>
      let fp := c.spoolFrom x.desc
      let wrong : Bool := match e with
        | .entry d => descBits d 0 1 != phaseAt (c.ringSize z) fp.1 fp.2 x.taken.length
        | .failed => false
      if !c.ringIs z .spool then again.refuse n .aborted
      else if !wrong then again.spoolTake n x.desc x.taken [e]
      else if 16 ≤ k then again.spoolEnd n x.desc x.taken (some 2)
      else c.modRing z (fun r => { r with retry := k + 1, retryAt := c.now + ticksPerUs })

/-! ### FENCE -/

/-- Every command the FENCE waits for has completed, and the waits it selects hold (R290). (log 47 DEDUCED) -/
def Core.fenceHolds (c : Core) (k : Cmd) : Bool :=
  k.deps.all (fun e => decide (e.2 ≤ (c.ring e.1).done))
    && (dField k.desc 16 0 1 == 0 || c.setIs .clean) && (dField k.desc 16 1 1 == 0 || c.runIs .idle)

/-- FENCE (R290): it starts, or, once started, is judged again; it completes when everything it waits for holds. (log 47 DEDUCED) -/
def execFence (n : Nat) (s : State) : Host.Outcome State Fault Refusal :=
  s.onBoth (fun m c =>
    match (c.ring n).cmd with
    | none => (m, c)
    | some k =>
      if k.exec then
        if descBits k.desc 8 8 = CmdOp.fence.code ∧ c.fenceHolds k = true then (m, c.complete n .ok (c.now - k.start) 0) else (m, c)
      else runCmd m c n .fence (fun m c d =>
        if !onlyBits d [(8, 0, 64), (16, 0, 2), (20, 0, 32)] then (m, c.refuse n .target)
        else if c.fenceHolds k then (m, c.complete n .ok 0 0)
        else (m, c.inExec n)))

/-- FENCE_TIMEOUT (R290): TIMEOUT µs have passed since the FENCE started. -/
def execFenceTimeout (n : Nat) (s : State) : Host.Outcome State Fault Refusal :=
  s.onCore (fun _ c =>
    match (c.ring n).cmd with
    | none => c
    | some k =>
      let t := dField k.desc 20 0 32
      if k.exec && descBits k.desc 8 8 == CmdOp.fence.code && t != 0 && decide (k.start + t * ticksPerUs ≤ c.now) && !c.fenceHolds k then c.refuse n .aborted
      else c)

/-! ### LOCK_RELEASE -/

/-- LOCK_RELEASE (R279, R291): U is the tick after the command reaches the region. (log 48 DEDUCED) -/
def execLockRelease (n : Nat) (s : State) : Host.Outcome State Fault Refusal :=
  s.onBoth (fun m c => runCmd m c n .lockRelease (fun m c d =>
    let k := dField d 8 0 6
    let r := k / 8
    let i := k % 8
    let only := dField d 9 0 1 == 1
    let c := c.breakDue r i
    let st := c.get (Fd.RGN_DAC_STS_LOCK_STATE r i)
    let own := c.get (Fd.RGN_DAC_STS_OWNER r i)
    let ref := firstRefusal [
      (!onlyBits d [(8, 0, 6), (9, 0, 1)] || !c.dacOk r i, .target),
      (!c.shots || st == 0 || (st == 1 && only), .state)]
    match ref with
    | some x => (m, c.refuse n x)
    | none =>
      let u := c.now + 3
      let g := r * 288 + own
      let c := if st = 1 then
          (match c.mainLane g with
           | some q => c.modLane q (fun l => { l with marks := l.marks ++ [{ kind := .unlock, stamp := u + 17, ct := 0, xn := 0, late := false, from_ := none }] })
           | none => c)
        else c.modDac k (fun o => { o with freeAt := some u })
      (m, c.complete n .ok (u % 2 ^ 32 + st * 2 ^ 32 + own * 2 ^ 40) 0)))

end Sys2Proof.Machine
end

