-- ==== Sys2Proof/Machine/Query.lean ====
section
/-!
DEFINITION. QUERY (R289): what it copies, when its snapshot is taken, and QUERY_DRAIN_SNAPSHOT for the ones that wait for a drain.
-/
namespace Sys2Proof.Machine

/-- The fields of a QUERY. -/
structure QCmd where
  q     : Nat
  sp    : Nat
  unit  : Nat
  off   : Nat
  bytes : Nat
  addr  : Nat
  deriving DecidableEq, Repr

/-- The fields of a QUERY descriptor (R289). (log 52 DEDUCED) -/
def qCmd (d : Desc) : QCmd :=
  { q := dField d 8 0 4, sp := dField d 9 0 4, unit := dField d 12 0 32, off := dField d 16 0 32, bytes := dField d 20 0 32, addr := dField d 24 0 64 }

/-- The space and unit of a QUERY exist (R289). (log 52 DEDUCED) -/
def Core.qTarget (c : Core) (m : Mems) (k : QCmd) : Bool :=
  if k.q = 1 then decide (k.unit < 65536)
  else if k.q = 2 ∨ k.q = 3 then c.cellTarget k.unit
  else if k.q = 4 ∨ k.q = 5 then (spaceSize k.sp).isSome && c.unitTarget k.sp k.unit
  else if k.q = 6 then decide (k.unit < 65536) && dirValid (dirEntry m k.unit) && dirHome (dirEntry m k.unit) != 3
  else k.q == 7

/-- The size of the space of a QUERY (R289, R405). -/
def qSize (m : Mems) (k : QCmd) : Nat :=
  if k.q = 1 ∨ k.q = 3 then 64 else if k.q = 2 then 4096 else if k.q = 4 ∨ k.q = 5 then (spaceSize k.sp).getD 0
  else if k.q = 6 then segLines (dirLen (dirEntry m k.unit)) * 128 else 2 ^ 20

/-- The region for whose drain a QUERY waits; none for one that is answered at once (R289). -/
def Core.qRegion (c : Core) (m : Mems) (k : QCmd) : Option Nat :=
  let e := dirEntry m k.unit
  let r := if k.q = 2 ∨ (k.q = 5 ∧ (k.sp = 1 ∨ k.sp = 2 ∨ k.sp = 3)) then some (cellR k.unit)
    else if k.q = 6 ∧ (c.inPlay m).contains k.unit = true then
      (if dirHome e = 0 then some (cellR (dirOwner e)) else if dirHome e = 1 then some (dirOwner e / 16) else none)
    else none
  match r with
  | some r => if c.shots && !c.parked r then some r else none
  | none => none

/-- The bytes of the registers from BAR0 offset `o`, read with `f`. -/
def regBytes (f : Nat → Nat) (o n : Nat) : List Byte := (upFrom 0 (n / 4)).flatMap (fun k => toLE 4 (f (o + 4 * k)))

/-- The record of R173 for entry `x` of cell `g`. -/
def Core.discRec (c : Core) (g x : Nat) : List Byte :=
  let t := c.thr g x
  toLE 2 t.t01.toNat ++ toLE 2 t.t2.toNat ++ toLE 2 t.upd ++ toLE 2 t.rej

/-- Where the data of a segment lie: its memory and the byte of line 0. -/
def Core.segPlace (c : Core) (m : Mems) (e : Nat) : (Nat → Byte) × List (Nat × Byte) × Nat :=
  if dirHome e = 0 then (zeroByte, m.seg, dirOwner e * 32768 + dirLine e * 128)
  else if dirHome e = 1 then (zeroByte, m.blk, dirOwner e * 524288 + dirLine e * 128)
  else (m.hbmFree, m.hbm, c.get (Fd.HBM_PART_BASE 0) * 2 ^ 26 + dirLine e * 128)

/-- The bytes a QUERY copies (R252, R289). -/
def Core.qData (c : Core) (m : Mems) (k : QCmd) : List Byte :=
  if k.q = 1 then ((toLE 16 (dirEntry m k.unit) ++ List.replicate 48 0).drop k.off).take k.bytes
  else if k.q = 2 then rdBytes zeroByte m.dmw (k.unit * 4096 + k.off) k.bytes
  else if k.q = 3 then (((upFrom 0 8).flatMap (c.discRec k.unit)).drop k.off).take k.bytes
  else if k.q = 4 ∨ k.q = 5 then
    let act := k.q == 5 || c.setIs .copyback
    if k.sp = 0 then regBytes (if act then c.activeRead else c.shadowRead) k.off k.bytes
    else if k.sp = 1 then rdBytes zeroByte (if act then m.pmA else m.pmS) (k.unit * 32768 + k.off) k.bytes
    else if k.sp = 2 then rdBytes zeroByte (if act then m.dmcA else m.dmcS) (k.unit * 4096 + k.off) k.bytes
    else if k.sp = 3 then rdBytes zeroByte (if act then m.mtA else m.mtS) (k.unit * 256 + k.off) k.bytes
    else rdBytes zeroByte (if act then m.syA else m.syS) (k.unit * 327680 + k.off) k.bytes
  else if k.q = 6 then
    let p := c.segPlace m (dirEntry m k.unit)
    rdBytes p.1 p.2.1 (p.2.2 + k.off) k.bytes
  else rdBytes almByte m.alm k.off k.bytes

/-- The words of a cell's memories that a QUERY reads: the cell, the kind of memory, the first word, how many (R65). -/
def Core.qWords (c : Core) (m : Mems) (k : QCmd) : Option (Nat × Nat × Nat × Nat) :=
  let sh := if k.q = 5 ∨ c.setIs .copyback = true then 0 else 8
  if k.q = 2 then some (k.unit, 2, k.unit * 512 + 256 + k.off / 16, k.bytes / 16)
  else if k.q = 6 ∧ dirHome (dirEntry m k.unit) = 0 then
    some (dirOwner (dirEntry m k.unit), 3, (dirOwner (dirEntry m k.unit) * 32768 + dirLine (dirEntry m k.unit) * 128 + k.off) / 16, k.bytes / 16)
  else if k.q ≠ 4 ∧ k.q ≠ 5 then none
  else if k.sp = 1 then some (k.unit, 1 + sh, k.unit * 4096 + k.off / 8, k.bytes / 8)
  else if k.sp = 2 then some (k.unit, 2 + sh, k.unit * 512 + k.off / 16, k.bytes / 16)
  else if k.sp = 3 then some (k.unit, 4 + sh, k.unit * 16 + k.off / 16, k.bytes / 16)
  else none

/-- Does a QUERY read an almanac entry with an uncorrectable error: one of configuration-root memory (R405, R449)? -/
def qRootBad (m : Mems) (k : QCmd) : Bool := k.q == 7 && (upFrom (k.off / 32) (k.bytes / 32)).any (fun e => flawAt m 6 e == some true)

/-- What a QUERY's reads of a cell's memories count (R65). -/
def Core.qCount (c : Core) (m : Mems) (k : QCmd) : Core :=
  match c.qWords m k with
  | some (g, kind, x, n) => (c.eccReads m g kind x n).1
  | none => c

/-- Does a QUERY read a LIBRARY segment? -/
def Core.qLib (_ : Core) (m : Mems) (k : QCmd) : Bool := k.q == 6 && dirHome (dirEntry m k.unit) == 2

/-- The stack address it reads from. -/
def Core.qAddr (c : Core) (m : Mems) (k : QCmd) : Nat := (c.segPlace m (dirEntry m k.unit)).2.2 + k.off

/-- The bytes from `o` to `o + n` of BAR0 that lie in the window of region `r` (R454). -/
def rgnPart (r o n : Nat) : Nat := min (o + n) (rgnBase (r + 1)) - max o (rgnBase r)

/-- The way of a QUERY's data out of their units (R331): a block's data over its region's port and the spine, registers and the syndrome memory as the region supervisor's; chip-level data
and the stack's need none. (log 160 DEDUCED) -/
def qLegs (m : Mems) (k : QCmd) : List Leg :=
  let n := beatsOf k.bytes
  let way := fun (r x n : Nat) => [Leg.port (.region r) x n, Leg.lane r n]
  let cell := fun (g : Nat) => way (cellR g) (cellB g) n
  if k.q = 2 ∨ k.q = 3 then cell k.unit
  else if k.q = 4 ∨ k.q = 5 then
    (if k.sp = 0 then ((upFrom 0 8).filter (fun r => decide (0 < rgnPart r k.off k.bytes))).flatMap (fun r => way r 21 (beatsOf (rgnPart r k.off k.bytes)))
     else if k.sp = 4 then way k.unit 21 n else cell k.unit)
  else if k.q = 6 then
    (let e := dirEntry m k.unit
     if dirHome e = 0 then cell (dirOwner e) else if dirHome e = 1 then way (dirOwner e / 16) (dirOwner e % 16) n else [])
  else []

/-- A QUERY whose snapshot has been taken goes on: its data go to the host buffer and it completes with the snapshot tick. A LIBRARY read that HBM cannot answer completes with ST_HBM
(R317). (log 52 DEDUCED) -/
def qGo (m : Mems) (c : Core) (n : Nat) (x : Cmd) : Mems × Core :=
  let k := qCmd x.desc
  match x.snap with
  | none => (m, c)
  | some (t, data) =>
    if c.qLib m k || (c.workOf 169 (cmdTag n)).isSome then
      if c.on Fd.CHP_BOOT_STS_NO_HBM then (m, c.refuse n .hbm)
      else match c.workOf 169 (cmdTag n) with
        | none => (m, c.newWork 169 (cmdTag n) (c.qAddr m k) [(c.qAddr m k, k.bytes, none)])
        | some w => if !w.done then (m, c) else if w.bad then (m, c.refuse n .hbm) else (m, (c.emit (.write k.addr (w.bytes w.off k.bytes))).complete n .ok t 0)
    else
      let y := c.goLegs n ((qLegs m k).drop x.leg)
      if y.2 then (m, (y.1.emit (.write k.addr data)).complete n .ok t 0) else (m, y.1)

/-- The snapshot of a QUERY of ring `n` at tick `t` (R252, R289). -/
def qSnap (m : Mems) (c : Core) (n t : Nat) (k : QCmd) : Mems × Core :=
  carryCmd m (c.qCount m k) n t (if c.qLib m k then [] else c.qData m k) (fun m c x => qGo m c n x)

/-- The refusal of a QUERY, in the order of R280. -/
def Core.qRefusal (c : Core) (m : Mems) (d : Desc) : Option Sts :=
  let k := qCmd d
  firstRefusal [
    (!onlyBits d [(8, 0, 4), (9, 0, 4), (12, 0, 32), (16, 0, 32), (20, 0, 32), (24, 0, 64)] || !c.qTarget m k, .target),
    (mis64 k.addr || mis64 k.off || mis64 k.bytes, .align),
    (k.bytes == 0 || decide (qSize m k < k.off + k.bytes), .length)]

/-- QUERY (R280, R289, R331, R449). One that waits for a drain is held until its snapshot; then it goes on as its data move. (log 47 DEDUCED, 71 DEDUCED, 129 DESIGN CHOICE) -/
def execQuery (n : Nat) (s : State) : Host.Outcome State Fault Refusal :=
  s.onBoth (fun m c => stepCmd m c n .query (fun m c d =>
    match c.qRefusal m d with
    | some x => (m, c.refuse n x)
    | none =>
      if qRootBad m (qCmd d) then (m, (c.inExec n).chipFault m 2)
      else if (c.qRegion m (qCmd d)).isSome then (m, c.inExec n) else qSnap m c n c.now (qCmd d)) (fun m c x => qGo m c n x))

/-- QUERY_DRAIN_SNAPSHOT (R289): the snapshot of a held QUERY, at D0 + 32 of a drain that the QUERY came before, ahead of the swap and of the DM_WORK treatment; or at once
when the region has stopped running shots. (log 52 DEDUCED) -/
def execQueryDrainSnapshot (n : Nat) (s : State) : Host.Outcome State Fault Refusal :=
  s.onBoth (fun m c =>
    match c.goes n .query with
    | none => (m, c)
    | some x =>
      let k := qCmd x.desc
      if x.snap.isSome then (m, c)
      else match c.qRegion m k with
        | none => qSnap m c n c.now k
        | some r =>
          let h := (c.rgn r).shot
          match h.d0 with
          | none => (m, c)
          | some d =>
            if h.inShot && !h.swapped && !h.posted && decide (x.start ≤ d + 32) && decide (d + 32 ≤ c.now) then qSnap m c n (d + 32) k else (m, c))

end Sys2Proof.Machine
end

