-- ==== Sys2Proof/Machine/Jobs.lean ====
section
/-!
DEFINITION. CALIBRATE in progress (R404, R411, R412): units that end, the report, the completion.
-/
namespace Sys2Proof.Machine

/-- The outcome of a unit of a CALIBRATE (R412). -/
inductive CalEnd where
  | applied | failed | notRun
  deriving DecidableEq, Repr

/-- The code of an outcome. -/
def CalEnd.code : CalEnd → Nat
  | .applied => 0 | .failed => 1 | .notRun => 2

/-- A unit's entry in the report (R412): as stored, or with the values `v` measured, and its outcome in bits [4:3] of bytes 4-7. -/
def calEntry (m : Mems) (e : Nat) (out : CalEnd) (v : Option AlmVal) : List Byte :=
  let old := rdBytes almByte m.alm (32 * e) 32
  let sts := putBits (almSts m e) 3 2 out.code
  let vals := match v with
    | some x => toLE 4 x.v0.toNat ++ toLE 4 x.v1.toNat ++ toLE 4 x.v2.toNat ++ toLE 4 x.v3.toNat
    | none => old.drop 16
  old.take 4 ++ toLE 4 sts ++ (old.drop 8).take 8 ++ vals

/-- A unit's end inserted in ascending order of its entry. -/
def calInsert (x : Nat × Nat × List Byte) : List (Nat × Nat × List Byte) → List (Nat × Nat × List Byte)
  | [] => [x]
  | y :: rest => if x.1 ≤ y.1 then x :: y :: rest else y :: calInsert x rest

/-- The report of a CALIBRATE (R412), cut at BYTES. -/
def calReport (j : CalJob) (end_ : Nat) : List Byte :=
  let failed := (j.ended.filter (fun e => e.2.1 == 1)).length
  let notRun := (j.ended.filter (fun e => e.2.1 == 2)).length
  let trunc := decide (j.bytes < 64 + 32 * j.ended.length)
  let head := toLE 1 j.kind ++ toLE 1 j.level ++ toLE 2 0 ++ toLE 4 j.index ++ toLE 4 j.ended.length ++ toLE 4 failed ++ toLE 4 notRun
    ++ toLE 1 (b2n trunc + 2 * b2n j.dry) ++ toLE 3 0 ++ toLE 8 j.start ++ toLE 8 end_ ++ List.replicate 24 0
  (head ++ j.ended.flatMap (fun e => e.2.2)).take j.bytes

/-- A CALIBRATE whose every unit has ended reports and completes (R412). (log 99 DEDUCED) -/
def Core.jobEnd (c : Core) (j : CalJob) : Core :=
  let failed := (j.ended.filter (fun e => e.2.1 == 1)).length
  let c := if j.bytes = 0 then c else c.emit (.write j.addr (calReport j c.now))
  c.complete j.ring .ok failed c.now

/-- The calibrations in progress without those that have ended, which complete. -/
def Core.jobsEnd (c : Core) : Core :=
  let fin := c.cal.jobs.filter (fun j => j.units.isEmpty)
  let c := { c with cal := { c.cal with jobs := c.cal.jobs.filter (fun j => !j.units.isEmpty) } }
  (fin.foldl Core.jobEnd c).calBusy

/-- Unit `e` of ring `n`'s CALIBRATE has ended with an outcome; `v` what was measured, where that is not what is stored. -/
def Core.unitEnd (c : Core) (m : Mems) (n e : Nat) (out : CalEnd) (v : Option AlmVal) : Core :=
  let jobs := c.cal.jobs.map (fun j =>
    if j.ring = n ∧ j.units.contains e = true then { j with units := j.units.filter (fun u => u != e), ended := calInsert (e, out.code, calEntry m e out v) j.ended } else j)
  ({ c with cal := { c.cal with jobs := jobs } }).jobsEnd

/-- The rings whose CALIBRATE of `kind` still waits for unit `e`. -/
def Core.jobRings (c : Core) (kind e : Nat) : List Nat := (c.cal.jobs.filter (fun j => j.kind == kind && j.units.contains e)).map (fun j => j.ring)

/-- Unit `e` has ended for every CALIBRATE of `kind` that waits for it. -/
def Core.unitEndAll (c : Core) (m : Mems) (kind e : Nat) (out : CalEnd) (v : Option AlmVal) : Core :=
  (c.jobRings kind e).foldl (fun c n => c.unitEnd m n e out v) c

end Sys2Proof.Machine
end

