-- ==== Sys2Proof/Machine/Hbm.lean ====
section
/-!
DEFINITION. The HBM controller (R304-R329): address mapping, requests and their scheduling, refresh and the activate-count table, scrubbing, retraining, rate change,
mapping and partition writes, self-refresh.
-/
namespace Sys2Proof.Machine

/-! ### Requests -/

/-- The way of a requester to the controller (R331): its region's port, and its place at the spine. -/
def hbmPath : HbmReq → Option (Nat × Nat) × Nat
  | .refill r b => (some (r, b), r)
  | .acq ch => (some (ch / 4, 16 + ch % 4), ch / 4)
  | .gatherer r => (some (r, 20), r)
  | .root => (none, 8)
  | .bar4 => (none, 9)
  | .resultDma => (none, 10)
  | .scrubber => (none, 11)

/-- A request moves over the port of region `r` as its requester `k`, in one beat and under a credit of the book that covers it (R331-R333). -/
def Core.overPort (c : Core) (r k : Nat) : Option Core :=
  if c.arbRoom (.region r) k 1 = 0 ∨ (k < 16 ∧ c.credit (bookKey 2 r k) = false) then none
  else
    let c := (c.moveBeats (.region r) k 0 1).1
    some (if k < 16 then c.bookPass (bookKey 2 r k) 1 else c)

/-- A request for pseudo-channel `p` moves over a spine lane that requester `x` holds, in one beat and under credits of books 0x3 and 0x6 (R314, R331-R333); none does while the
chip-drain hold stands. -/
def Core.overSpine (c : Core) (x p : Nat) : Option Core :=
  if c.hbmHold || !c.credit (bookKey 6 0 p) || (decide (x < 8) && !c.credit (bookKey 3 x 0)) then none
  else match c.laneOf x with
    | none => none
    | some a =>
      let c := ((c.modArb (arbKey a) (fun s => { s with bound := some p })).moveBeats a x 0 1).1
      some ((if x < 8 then c.bookPass (bookKey 3 x 0) 1 else c).hCredit p)

/-- Is request `r` for a read of `addr` on its way or at the controller? -/
def Core.readOut (c : Core) (who addr : Nat) : Bool :=
  let l := c.hbmc.ups ++ c.hbmc.held ++ c.hbmc.pcs.flatMap (fun e => e.2.q)
  l.any (fun r => r.who == who && r.addr == addr && !r.write)

/-- The request that requester `who` has to make next for a work is made, if it is this one. -/
def Core.workAsk (c : Core) (who addr len : Nat) (write : Bool) (data : List Byte) : Option (Core × Nat × Nat) :=
  match c.workNext who with
  | none => none
  | some w =>
    if w.next = some (addr, len, if write then some data else none) then
      some (c.setWork (w.took len), w.id, w.off + (((w.got.map (fun e => e.2.length)).foldl (fun a b => a + b) 0)))
    else none

/-- Is this a request that requester `q` has to make (R309, R310, R313)? A refill engine reads lines it wants, a channel moves its staged bytes, the scrubber's reads are SCRUB's, the
others do what their works say. The block, the work, and the spool offset of what is read. (log 148 DESIGN CHOICE) -/
def Core.hMakes (c : Core) (m : Mems) (q : HbmReq) (addr len : Nat) (write : Bool) (data : List Byte) : Option (Core × Nat × Nat) :=
  match q with
  | .refill r b =>
    if !write && len == 128 && (c.blk (16 * r + b)).want.any (fun w => c.libAddr m w.1 w.2 == addr) && !c.readOut (hreqId q) addr then some (c, 0, 0) else none
  | .acq ch => (c.acqAsk ch addr len write data).map (fun d => (d, 0, c.acqOff ch))
  | .scrubber => none
  | _ => c.workAsk (hreqId q) addr len write data

/-- Request `r`, which stands before the spine, goes to the controller's front if a lane can take it (R313, R314): numbered in the order of arrival, from its tick. -/
def Core.hArrive (c : Core) (x : Nat) (r : HReq) : Option (HReq × Core) :=
  (c.overSpine x (c.hPc r.addr)).map (fun c => ({ r with seq := c.hbmc.seq, at_ := c.now }, { c with hbmc := { c.hbmc with seq := c.hbmc.seq + 1 } }))

/-- A request of `q` that has passed its region's port and stands before the spine. -/
def Core.upOf (c : Core) (q : HbmReq) (addr len : Nat) (write : Bool) (data : List Byte) : Option HReq :=
  c.hbmc.ups.find? (fun r => r.who == hreqId q && r.addr == addr && r.len == len && r.write == write && r.data == data)

/-- A request of `q` is made, or goes on: its shape, its requester's limit, its purpose, its region's port, the spine (R312-R316, R331). The block, and the request where it has come to
the controller. (log 65 DEDUCED, 73 DESIGN CHOICE) -/
def Core.hTake (c : Core) (m : Mems) (q : HbmReq) (addr len : Nat) (write : Bool) (data : List Byte) : Core × Option HReq :=
  let x := (hbmPath q).2
  match c.upOf q addr len write data with
  | some r =>
    (match c.hArrive x r with
     | none => (c, none)
     | some y => ({ y.2 with hbmc := { y.2.hbmc with ups := y.2.hbmc.ups.erase r } }, some y.1))
  | none =>
    if !hShape q addr len write || (write && data.length != len) || decide (hLimit q ≤ c.hOut (hreqId q)) then (c, none)
    else match c.hMakes m q addr len write data with
      | none => (c, none)
      | some (d, job, off) =>
        let r : HReq := { who := hreqId q, addr := addr, len := len, write := write, data := data, seq := 0, at_ := 0, job := job, off := off }
        match (hbmPath q).1 with
        | none =>
          (match d.hArrive x r with
           | none => (c, none)
           | some y => (y.2, some y.1))
        | some (g, k) =>
          match d.overPort g k with
          | none => (c, none)
          | some d =>
            match d.hArrive x r with
            | some y => (y.2, some y.1)
            | none => ({ d with hbmc := { d.hbmc with ups := d.hbmc.ups ++ [r] } }, none)

/-- A BAR4 write that no run-state or partition lets in (R270, R311). -/
def Core.bar4Drops (c : Core) (addr : Nat) : Bool := c.inSeries || (c.hPart addr == 1 || c.hPart addr == 2 || c.hPart addr == 3)

/-- HBM_REQUEST (R313, R314, R316, R331): a request passes its region's port, or arrives at the front of a stack that is ACTIVE or in a rate change.
(log 65 DEDUCED, 73 DESIGN CHOICE) -/
def execHbmRequest (q : HbmReq) (addr len : Nat) (write : Bool) (data : List Byte) (s : State) : Host.Outcome State Fault Refusal :=
  s.onCore (fun m c =>
    if !(c.hbmIs .active || c.hbmIs .rateChange) then c
    else match c.hTake m q addr len write data with
      | (c, none) => c
      | (c, some r) => c.hAccept r)

/-- HBM_ACCESS_ISSUE (R315-R317): the pseudo-channel issues its next access. -/
def execHbmAccessIssue (p : Nat) (corr ue : Bool) (s : State) : Host.Outcome State Fault Refusal :=
  s.onBoth (fun m c =>
    if !(c.hbmIs .active || c.hbmIs .srEntry) || c.paused p then (m, c)
    else match c.hPick p with
      | none => (m, c)
      | some r => hIssue m c p r corr ue)

/-! ### Refresh and scrub -/

/-- HBM_REFRESH (R319, R320, R326): a refresh of a bank. One falls due 8,192 times in each refresh window; it is done, or, in a pause or in self-refresh entry, postponed, never more
than 8 of a bank; else a postponed one is made up. (log 72 DESIGN CHOICE) -/
def execHbmRefresh (p bank : Nat) (s : State) : Host.Outcome State Fault Refusal :=
  s.onCore (fun _ c =>
    if 16 ≤ p ∨ 32 ≤ bank then c
    else
      let c := c.refWin p
      let x := c.pc p
      let n := Tbl.get (fun _ => 0) x.due bank
      let d := Tbl.get (fun _ => 0) x.debt bank
      let shut := (c.hbmIs .active && c.paused p) || c.hbmIs .srEntry
      let close := fun (x : Pc) => { x with rows := Tbl.erase x.rows bank }
      if n < 8192 ∧ x.winAt + n * c.refSpan / 8192 ≤ c.now then
        let c := c.modPc p (fun x => { x with due := Tbl.insert x.due bank (n + 1) })
        if shut && decide (d < 8) then c.modPc p (fun x => { x with debt := Tbl.insert x.debt bank (d + 1) }) else c.modPc p close
      else if c.hbmIs .active && !shut && decide (0 < d) then
        c.modPc p (fun x => { close x with debt := if d = 1 then Tbl.erase x.debt bank else Tbl.insert x.debt bank (d - 1) })
      else c)

/-- The tick at which the next word of the scrubber's pass is due (R318): the pass takes SCRUB_PERIOD hours, 0 acting as 1, at an even pace. (log 150 DESIGN CHOICE) -/
def Core.scrubDue (c : Core) : Nat := c.hbmc.scrubAt + c.hbmc.scrubX / 8 * (max 1 (c.get Fd.HBM_CFG_SCRUB_PERIOD) * 3600 * 1000000 * ticksPerUs) / 2 ^ 31

/-- SCRUB (R314, R317, R318, R331): the scrubber reads the next word in ascending x, once its turn has come and no request waits at the front, in a beat of its spine lane; a
corrected word is written back in a second one. An uncorrectable one is latched and left. (log 150 DESIGN CHOICE) -/
def execScrub (corr ue : Bool) (s : State) : Host.Outcome State Fault Refusal :=
  s.onBoth (fun m c =>
    let x := c.hbmc.scrubX
    let p := c.hPc x
    if !c.hbmIs .active || !c.on Fd.HBM_CFG_SCRUB_EN || !c.frontEmpty || c.paused p || decide (c.now < c.scrubDue) then (m, c)
    else
      let f := hFlaw m x corr ue
      let fix := f.ce.contains (x / 8)
      match (c.overSpine 11 p).bind (fun d => if fix then d.overSpine 11 p else some d) with
      | none => (m, c)
      | some d =>
        let d := if (d.pc p).rows.any (fun e => e.1 == d.hBank x && e.2 == d.hRow x) then d else d.activate p (d.hBank x) (d.hRow x)
        let d := d.hCounts f x 8 (fun _ => 0)
        let pass := max 1 (c.get Fd.HBM_CFG_SCRUB_PERIOD) * 3600 * 1000000 * ticksPerUs
        ({ f with ce := f.ce.filter (fun w => w != x / 8) },
         { d with hbmc := { d.hbmc with idleAt := c.now, scrubX := (x + 8) % 2 ^ 34, scrubAt := if x + 8 = 2 ^ 34 then c.hbmc.scrubAt + pass else c.hbmc.scrubAt } }))

/-! ### Retraining (R321) -/

/-- The gathering in progress is discarded; its pseudo-channel starts again (R322, R326). -/
def Core.dropGather (c : Core) : Core :=
  if c.on Fd.HBM_STS_GATHERING then
    { (c.put Fd.HBM_STS_GATHERING 0).calBusy with hbmc := { c.hbmc with pauses := 0, nextPc := c.get Fd.HBM_STS_TRAIN_PC } }
  else c

/-- RETRAIN_PAUSE (R321, R408): a pause of the pseudo-channel whose turn it is starts; a MANUAL value that has waited for it takes effect. -/
def execRetrainPause (p : Nat) (s : State) : Host.Outcome State Fault Refusal :=
  s.onCore (fun _ c =>
    let h := c.hbmc
    let g := c.on Fd.HBM_STS_GATHERING
    let turn := if g then c.get Fd.HBM_STS_TRAIN_PC else h.nextPc
    let asked := !(c.jobRings 5 (almHbm p)).isEmpty
    if !c.svc || !(c.on Fd.HBM_TRAIN_CTL_EN || asked) || !c.hbmIs .active || h.pausing || h.rateDue || decide (4 ≤ h.pauses) || p != turn || decide (c.now < h.pauseAt) then c
    else
      let c := (if g then c else ((c.put Fd.HBM_STS_GATHERING 1).put Fd.HBM_STS_TRAIN_PC p).calBusy).forceWaits (fun e => e == almHbm p)
      { c with hbmc := { h with pausing := true, cycleAt := if !g && p == 0 then c.now else h.cycleAt } })

/-- A rate change starts: the gathering is discarded, every request is held (R322). -/
def Core.startRate (c : Core) : Core :=
  let c := c.dropGather.hbmGo .rateChange
  { c with hbmc := { c.hbmc with rateDue := false } }

/-- RETRAIN_PAUSE_END (R319, R321, R322, R326): requests of the pseudo-channel go on, postponed refreshes are done, and a rate change that waits proceeds. -/
def execRetrainPauseEnd (s : State) : Host.Outcome State Fault Refusal :=
  s.onCore (fun _ c =>
    let h := c.hbmc
    if !h.pausing then c
    else
      let p := c.get Fd.HBM_STS_TRAIN_PC
      let c := c.modPc p (fun x => { x with rows := x.rows.filter (fun e => !x.debt.any (fun d => d.1 == e.1)), debt := [] })
      let gap := max 1 (c.get Fd.HBM_TRAIN_CTL_PAUSE_GAP) * ticksPerUs
      let c : Core := { c with hbmc := { c.hbmc with pausing := false, pauses := if c.on Fd.HBM_STS_GATHERING then h.pauses + 1 else 0, pauseAt := c.now + gap } }
      if h.rateDue then c.startRate else c)

/-- The gathering has ended: the next pseudo-channel follows, after the last one the next cycle (R321); one that a CALIBRATE waits for comes first (R411). (log 69 DEDUCED) -/
def Core.gatherDone (c : Core) (p : Nat) : Core :=
  let period := max 1 (c.get Fd.HBM_TRAIN_CTL_RETRAIN_PERIOD) * 1000 * ticksPerUs
  let h := c.hbmc
  let asked := (c.cal.jobs.filter (fun j => j.kind == 5)).flatMap (fun j => j.units.filter (fun e => e != almHbm p))
  { (c.put Fd.HBM_STS_GATHERING 0).calBusy with
      hbmc := { h with pauses := 0, nextPc := (match asked with
                                               | e :: _ => e - almHbm 0
                                               | [] => (p + 1) % 16), pauseAt := if p = 15 then h.cycleAt + period else h.pauseAt } }

/-- RETRAIN_APPLY (R321, R408): after the fourth pause the result `val` with eye `eye` is applied, refused, or under FREEZE only checked. A MANUAL entry is not retrained. (log 69 DEDUCED) -/
def execRetrainApply (val : AlmVal) (eye : Nat) (s : State) : Host.Outcome State Fault Refusal :=
  s.onBoth (fun m c =>
    if !c.on Fd.HBM_STS_GATHERING || c.hbmc.pausing || decide (c.hbmc.pauses < 4) then (m, c)
    else
      let p := c.get Fd.HBM_STS_TRAIN_PC
      let e := almHbm p
      let far := !delaysNear (c.get Fd.HBM_TRAIN_CTL_MAX_STEP) val.v0.toNat (c.forced m e).v0.toNat
      let small := decide (eye < c.get Fd.HBM_TRAIN_CTL_MIN_EYE)
      if almManual m e then (m, (c.gatherDone p).unitEndAll m 5 e .applied none)
      else if far || small then
        let y := almRefuse m c e
        let c := (y.2.put Fd.HBM_STS_TRAIN_FAIL 1).raise 0x81 0 p (b2n far + 2 * b2n small) 0
        (y.1, (c.gatherDone p).unitEndAll y.1 5 e .failed none)
      else if c.on Fd.HBM_TRAIN_CTL_FREEZE then (m, (c.gatherDone p).unitEndAll m 5 e .notRun none)
      else
        let y := almAccept m c e val
        (y.1, (y.2.gatherDone p).unitEndAll y.1 5 e .applied none))

/-! ### The copies of the almanac's backup (R409, R410) -/

/-- The address of copy `k`. -/
def Core.copyAddr (c : Core) (k : Nat) : Nat := c.get (Fd.HBM_PART_BASE 3) * 2 ^ 26 + k * 2 ^ 21
/-- Bytes of the header of a copy as a number. -/
def Core.copyHead (c : Core) (m : Mems) (k off len : Nat) : Nat := fromLE (hRead m (c.copyAddr k + off) len)
/-- GEN of copy `k`. -/
def Core.copyGen (c : Core) (m : Mems) (k : Nat) : Nat := c.copyHead m k 4 4
/-- Copy `k` holds an uncorrectable word. -/
def Core.copyUe (c : Core) (m : Mems) (k : Nat) : Bool := (hBad m (c.copyAddr k) (64 + 2 ^ 20)).isSome
/-- Copy `k` is valid but for uncorrectable words: MAGIC, PART and CRC. -/
def Core.copyGood (c : Core) (m : Mems) (k : Nat) : Bool :=
  c.copyHead m k 0 4 == 0x414C4D31 && c.copyHead m k 8 2 == c.get Fd.CHP_ID_PART && c.copyHead m k 12 4 == crc32 (hRead m (c.copyAddr k + 64) (2 ^ 20))
/-- Copy `k` is valid (R410). -/
def Core.copyValid (c : Core) (m : Mems) (k : Nat) : Bool := !c.copyUe m k && c.copyGood m k

/-- Is generation `a` newer than `b`, modulo 2^32? -/
def newerGen (a b : Nat) : Bool := a != b && decide ((a + 2 ^ 32 - b) % 2 ^ 32 < 2 ^ 31)

/-- The valid copy with the newer GEN (R410). (log 96 DESIGN CHOICE) -/
def Core.newestCopy (c : Core) (m : Mems) : Option Nat :=
  match c.copyValid m 0, c.copyValid m 1 with
  | true, true => some (if newerGen (c.copyGen m 1) (c.copyGen m 0) then 1 else 0)
  | true, false => some 0
  | false, true => some 1
  | false, false => none

/-- `CAL_STS` shows the newest valid copy of those for which `there` holds (R413). -/
def Core.showBackup (c : Core) (m : Mems) (there : Nat → Bool) : Core :=
  let ok := fun (k : Nat) => there k && c.copyValid m k
  let k := if ok 0 && ok 1 then (if newerGen (c.copyGen m 1) (c.copyGen m 0) then 1 else 0) else if ok 1 then 1 else 0
  if ok 0 || ok 1 then (c.put Fd.CAL_STS_BACKUP_VALID 1).put Fd.CAL_STS_BACKUP_GEN (c.copyGen m k % 2 ^ 16)
  else (c.put Fd.CAL_STS_BACKUP_VALID 0).put Fd.CAL_STS_BACKUP_GEN 0

/-- The copies of the almanac's backup are lost: none is valid (R413). -/
def Core.noBackup (c : Core) : Core := (c.put Fd.CAL_STS_BACKUP_VALID 0).put Fd.CAL_STS_BACKUP_GEN 0

/-! ### Rate change (R322) -/

/-- HBM_RATE_CHANGE (R322, R326): a write that changes `HBM_CFG.RATE`. -/
def execHbmRateChange (rate : Bool) (s : State) : Host.Outcome State Fault Refusal :=
  s.onCore (fun _ c =>
    if !c.svc then c
    else if c.hbmIs .rateChange then c.put Fd.HBM_STS_CFG_ERR 1
    else if c.get Fd.HBM_CFG_RATE == b2n rate then c
    else if !(c.runIs .idle || c.runIs .parked) || !(c.hbmIs .active || c.hbmIs .selfRefresh) || c.hbmc.rateDue then c.put Fd.HBM_STS_CFG_ERR 1
    else
      let c : Core := { c with hbmc := { c.hbmc with rateDue := true, oldRate := c.get Fd.HBM_CFG_RATE } }
      let c := c.setOn Fd.HBM_CFG_RATE rate
      if c.hbmIs .selfRefresh then (c.hbmGo .srExit).put Fd.HBM_PWR_CTL_STANDBY 0
      else if c.hbmc.pausing then c
      else c.startRate)

/-- The stack is lost for good: NO_HBM (R322, R413, R445), and with it the almanac's backup and the shot records whose sections it held. (log 70 DEDUCED) -/
def noHbm (m : Mems) (c : Core) : Mems × Core :=
  let n := ((c.hbmGo .off).put Fd.CHP_BOOT_STS_NO_HBM 1).noBackup
  (m.hbmGone,
   { n with hbmc := { HbmCtl.init with seq := c.hbmc.seq, jobs := c.hbmc.jobs, holdD0 := c.hbmc.holdD0, heldCyc := c.hbmc.heldCyc },
            host := { n.host with recs := n.host.recs.filter (fun d => d.offs.isEmpty) } })

/-- Training results are stored in the almanac. -/
def storeAll (m : Mems) (c : Core) (lo hi : Nat) (res : List CalMeas) : Mems × Core :=
  (res.filter (fun k => decide (lo ≤ k.entry) && decide (k.entry < hi))).foldl (fun a k => almResult a.1 a.2 k.entry k.ok k.val) (m, c)

/-- RATE_CHANGE_DONE (R322): full training at the new rate ends; where it fails the old rate is trained, where that fails too the chip is in NO_HBM. (log 70 DEDUCED) -/
def execRateChangeDone (okNew okOld : Bool) (res : List CalMeas) (s : State) : Host.Outcome State Fault Refusal :=
  s.onBoth (fun m c =>
    if !c.hbmIs .rateChange then (m, c)
    else
      let period := max 1 (c.get Fd.HBM_TRAIN_CTL_RETRAIN_PERIOD) * 1000 * ticksPerUs
      if okNew || okOld then
        let c := if okNew then c else c.put Fd.HBM_CFG_RATE c.hbmc.oldRate
        let c := (c.put Fd.HBM_STS_RATE_NOW (c.get Fd.HBM_CFG_RATE)).hbmGo .active
        let y := storeAll m c 96 112 res
        let c : Core := { y.2 with hbmc := { y.2.hbmc with nextPc := 0, pauses := 0, pauseAt := c.now + period, idleAt := c.now,
                                                           pcs := y.2.hbmc.pcs.map (fun (e : Nat × Pc) => (e.1, ({ e.2 with rows := [] } : Pc))) } }
        (y.1, c.raise 0x82 0 0 (c.get Fd.HBM_STS_RATE_NOW) (if okNew then 0 else 1))
      else
        let y := noHbm m c
        (y.1, y.2.raise 0x82 0 0 (c.get Fd.HBM_STS_RATE_NOW) 2))

/-! ### Mapping and partitions (R308, R309) -/

/-- Every LIBRARY entry of the directory for which `p` holds gets VALID = 0; how many that were. -/
def dropLibrary (m : Mems) (p : Nat → Bool) : Mems × Nat :=
  let ids := (m.dir.map (fun e => e.1 / 16)).eraseDups
  let hit := ids.filter (fun i => dirValid (dirEntry m i) && dirHome (dirEntry m i) == 2 && p (dirEntry m i))
  ({ m with dir := hit.foldl (fun t i => wrBytes zeroByte t (i * 16) (toLE 16 (putBits (dirEntry m i) 0 1 0))) m.dir }, hit.length)

/-- May the mapping change (R308, R326)? -/
def Core.mapOk (c : Core) : Bool := c.runIs .idle && (upFrom 0 32).all (fun ch => c.acqState ch == 0) && c.host.recs.isEmpty && !c.hbmIs .rateChange

/-- The partitions do not overlap, lie inside the stack and are not empty, but for LIBRARY (R309). -/
def partsOk (l : List (Nat × Nat)) : Bool :=
  let n := l.length
  (upFrom 0 n).all (fun p =>
    let a := l.getD p (0, 0)
    decide (a.1 + a.2 ≤ 256) && (p == 0 || decide (1 ≤ a.2)) &&
    (upFrom 0 p).all (fun q => let b := l.getD q (0, 0); a.2 == 0 || b.2 == 0 || decide (a.1 + a.2 ≤ b.1) || decide (b.1 + b.2 ≤ a.1)))

/-- The contents of the stack become undefined (R308): every LIBRARY entry is invalid and the almanac backup is due. (log 4 DESIGN CHOICE) -/
def stackUndefined (m : Mems) (c : Core) : Mems × Core :=
  let m := (dropLibrary m (fun _ => true)).1
  (m.hbmGone, { c.noBackup with cal := { c.cal with backNow := true } })

/-- HBM_MAPPING_WRITE (R15, R308-R310): a write of `HBM_CFG` that changes PC_MODE, of a bank mask, or of a partition. (log 9 DESIGN CHOICE, 11 DEDUCED) -/
def execHbmMappingWrite (off : Nat) (be : BitVec 4) (val : Word) (s : State) : Host.Outcome State Fault Refusal :=
  s.onBoth (fun m c =>
    if !c.bar0 off || be == 0 then (m, c)
    else
      let w := c.enabled off be val
      let y := c.written (decide ((if off = Fd.HBM_CFG then 2 ^ 28 else if (upFrom 0 5).any (fun k => off == Fd.HBM_BANK_XOR k) then 2 ^ 15 else 2 ^ 17) ≤ w)) w
      let v := y.1
      let c := y.2
      if c.hbmIs .rateChange then (m, c.put Fd.HBM_STS_CFG_ERR 1)
      else if off = Fd.HBM_CFG then
        let b := bitsOf v Fd.HBM_CFG_PC_MODE.lo 1
        if b = c.get Fd.HBM_CFG_PC_MODE then (m, c)
        else if c.mapOk then stackUndefined m (c.put Fd.HBM_CFG_PC_MODE b)
        else (m, c.put Fd.HBM_STS_CFG_ERR 1)
      else match (upFrom 0 5).find? (fun k => off == Fd.HBM_BANK_XOR k) with
        | some k =>
          let x := bitsOf v 0 15
          if x = c.get (Fd.HBM_BANK_XOR_ROWMASK k) then (m, c)
          else if c.mapOk then stackUndefined m (c.put (Fd.HBM_BANK_XOR_ROWMASK k) x)
          else (m, c.put Fd.HBM_STS_CFG_ERR 1)
        | none =>
          match (upFrom 0 4).find? (fun p => off == Fd.HBM_PART p) with
          | none => (m, c)
          | some p =>
            let new := (bitsOf v 0 8, bitsOf v 8 9)
            let now := (upFrom 0 4).map (fun q => (c.get (Fd.HBM_PART_BASE q), c.get (Fd.HBM_PART_SIZE q)))
            if now.getD p (0, 0) = new then (m, c)
            else if c.mapOk && partsOk ((upFrom 0 4).map (fun q => if q = p then new else now.getD q (0, 0))) then
              let m := if p = 0 then (dropLibrary m (fun _ => true)).1 else m
              let c := (c.put (Fd.HBM_PART_BASE p) new.1).put (Fd.HBM_PART_SIZE p) new.2
              (m, if p = 3 then c.showBackup m (fun _ => true) else c)
            else (m, c.put Fd.HBM_STS_CFG_ERR 1))

/-! ### Self-refresh (R323-R326) -/

/-- Entry to self-refresh begins with a mask of pseudo-channels to keep. (log 120 DEDUCED) -/
def Core.srEnter (c : Core) (standby : Bool) (keep : Nat) : Core :=
  let c := c.dropGather.hbmGo .srEntry
  { c with hbmc := { c.hbmc with standby := standby, keep := keep, wake := false, retry := false } }

/-- In D3hot the stack enters self-refresh (R431): from ACTIVE, between pauses and rate changes, at once; after a cancelled entry once the front has been empty for IDLE_TIME, as
R324 gives. (log 120 DEDUCED) -/
def Core.srForD3 (c : Core) : Core :=
  let free := c.hbmIs .active && !c.hbmc.pausing && !c.hbmc.rateDue
  let still := c.frontEmpty && decide (c.hbmc.idleAt + max 1 (c.get Fd.HBM_PWR_CTL_IDLE_TIME) * ticksPerUs ≤ c.now)
  if free && (c.pins.srDue == 1 || (c.pins.srDue == 2 && still)) then { c with pins := { c.pins with srDue := 2 } }.srEnter false 0xFFFF else c

/-- STANDBY (R15, R323, R326, R457): a write of `HBM_PWR_CTL`; STANDBY is written where its byte is enabled. (log 9 DESIGN CHOICE, 11 DEDUCED) -/
def execStandby (be : BitVec 4) (val : Word) (s : State) : Host.Outcome State Fault Refusal :=
  s.onCore (fun _ c =>
    if !c.bar0 Fd.HBM_PWR_CTL || be == 0 then c
    else
      let w := c.enabled Fd.HBM_PWR_CTL be val
      let y := c.written (bitsOf w 12 4 != 0) w
      let v := y.1
      let c := y.2
      let c := ((c.put Fd.HBM_PWR_CTL_AUTO_SR (bitsOf v 1 1)).put Fd.HBM_PWR_CTL_IDLE_TIME (bitsOf v 2 10)).put Fd.HBM_PWR_CTL_KEEP_MASK (bitsOf v 16 16)
      if !bitAt be.toNat 0 then c
      else if bitAt v 0 then
        if c.runIs .idle && (upFrom 0 32).all (fun ch => c.acqState ch == 0) && c.host.recs.isEmpty && c.hbmIs .active then
          (c.put Fd.HBM_PWR_CTL_STANDBY 1).srEnter true (bitsOf v 16 16)
        else c.put Fd.HBM_STS_STBY_REFUSED 1
      else if !c.on Fd.HBM_PWR_CTL_STANDBY then c
      else
        let c := c.put Fd.HBM_PWR_CTL_STANDBY 0
        if c.hbmIs .selfRefresh then c.hbmGo .srExit
        else if c.hbmIs .srEntry then { c with hbmc := { c.hbmc with wake := true } }
        else { c with hbmc := { c.hbmc with retry := false, standby := false } })

/-- AUTO_SR_ENTRY (R323): the front has held no request for IDLE_TIME. -/
def execAutoSrEntry (s : State) : Host.Outcome State Fault Refusal :=
  s.onCore (fun _ c =>
    let t := max 1 (c.get Fd.HBM_PWR_CTL_IDLE_TIME) * ticksPerUs
    if c.svc && c.on Fd.HBM_PWR_CTL_AUTO_SR && c.hbmIs .active && c.frontEmpty && decide (c.hbmc.idleAt + t ≤ c.now) && !c.hbmc.pausing && !c.hbmc.rateDue then c.srEnter false 0xFFFF
    else c)

/-- SR_ENTRY_DONE (R323, R324): the waiting requests are served, the banks are closed; a request that came after the commit point starts exit, and ends STANDBY. (log 7 DESIGN CHOICE) -/
def execSrEntryDone (s : State) : Host.Outcome State Fault Refusal :=
  s.onCore (fun _ c =>
    if !c.hbmIs .srEntry || !c.hbmc.pcs.all (fun e => e.2.q.isEmpty) then c
    else
      let c : Core := { c with hbmc := { c.hbmc with pcs := c.hbmc.pcs.map (fun (e : Nat × Pc) => (e.1, ({ e.2 with rows := [] } : Pc))) } }
      if c.hbmc.wake || !c.hbmc.held.isEmpty then (c.hbmGo .srExit).put Fd.HBM_PWR_CTL_STANDBY 0
      else { c with pins := { c.pins with srDue := 0 } }.hbmGo .selfRefresh)

/-- SR_HELD_REQUEST (R324): a request arrives while the stack is in or on its way into or out of self-refresh. (log 67 DESIGN CHOICE) -/
def execSrHeldRequest (q : HbmReq) (addr len : Nat) (write : Bool) (data : List Byte) (s : State) : Host.Outcome State Fault Refusal :=
  s.onCore (fun m c =>
    if !(c.hbmIs .srEntry || c.hbmIs .selfRefresh || c.hbmIs .srExit) then c
    else match c.hTake m q addr len write data with
      | (c, none) => c
      | (c, some r) =>
        let z := c.srArrive
        if z.2 then { z.1 with hbmc := { z.1.hbmc with held := z.1.hbmc.held ++ [r] } } else z.1.hAccept r)

/-- STANDBY_RETRY (R324): after a cancelled STANDBY entry the front has been empty for 1 µs. -/
def execStandbyRetry (s : State) : Host.Outcome State Fault Refusal :=
  s.onCore (fun _ c =>
    if c.svc && c.hbmc.retry && c.on Fd.HBM_PWR_CTL_STANDBY && c.hbmIs .active && c.frontEmpty && decide (c.hbmc.idleAt + ticksPerUs ≤ c.now) && !c.hbmc.pausing then c.srEnter true c.hbmc.keep
    else c)

/-- Has a LIBRARY entry a line in a pseudo-channel of `lost` (R325)? -/
def Core.libLost (c : Core) (lost e : Nat) : Bool :=
  let a := c.get (Fd.HBM_PART_BASE 0) * 2 ^ 26 + dirLine e * 128
  (upFrom 0 (segLines (dirLen e))).any (fun k => bitAt lost (c.hPc (a + 128 * k)))

/-- The stack's contents after exit: what the lost pseudo-channels held is undefined (R325). (log 4 DESIGN CHOICE, 68 DEDUCED) -/
def stackLost (m : Mems) (c : Core) (lost : Nat) : Mems :=
  if lost = 0 then m
  else
    let keep := fun (x : Nat) => !bitAt lost (c.hPc x)
    { m with hbmLoss := (c.blocked, lost) :: m.hbmLoss, ue := m.ue.filter (fun w => keep (8 * w)), ce := m.ce.filter (fun w => keep (8 * w)), hbm := m.hbm.filter (fun e => keep e.1) }

/-- Exit issues one all-bank refresh to each kept channel (R324): its banks are closed, and each has a postponed refresh less. -/
def Core.exitRefresh (c : Core) (lost : Nat) : Core :=
  (upFrom 0 16).foldl (fun c p =>
    if bitAt lost p && bitAt lost (if p % 2 = 0 then p + 1 else p - 1) then c
    else c.modPc p (fun x => { x with rows := [], debt := (x.debt.map (fun d => (d.1, d.2 - 1))).filter (fun d => decide (0 < d.2)) })) c

/-- Has copy `k` of the almanac's backup a line in a lost pseudo-channel (R325, R409)? -/
def Core.backLost (c : Core) (lost k : Nat) : Bool := (upFrom 0 8193).any (fun i => bitAt lost (c.hPc (c.copyAddr k + 128 * i)))

/-- SR_EXIT_DONE (R324, R325): the kept channels are refreshed, lost pseudo-channels are recorded, LIBRARY entries in them become invalid, held requests are served; a rate change that waits starts. (log 7 DESIGN CHOICE) -/
def execSrExitDone (s : State) : Host.Outcome State Fault Refusal :=
  s.onBoth (fun m c =>
    if !c.hbmIs .srExit then (m, c)
    else
      let stby := c.hbmc.standby
      let lost := if stby then 0xFFFF - c.hbmc.keep % 2 ^ 16 else 0
      let y := if lost = 0 then (m, 0) else dropLibrary m (c.libLost lost)
      let m := stackLost y.1 c lost
      let c := c.hbmGo .active
      let c := if stby then (c.put Fd.HBM_STS_LOST_MASK lost).raise 0x83 0 0 lost y.2 else c
      let back := lost != 0 && (c.backLost lost 0 || c.backLost lost 1)
      let c := if back && c.on Fd.CAL_STS_BACKUP_VALID then c.showBackup m (fun k => !c.backLost lost k) else c
      let held := c.hbmc.held
      let c : Core := { c with cal := { c.cal with backNow := c.cal.backNow || back },
                               hbmc := { c.hbmc with held := [], standby := false, wake := false, keep := 0xFFFF, idleAt := c.now } }
      let c := held.foldl Core.hAccept (c.exitRefresh lost)
      (m, if c.hbmc.rateDue then c.startRate else c))

end Sys2Proof.Machine
end

