-- ==== Sys2Proof/Machine/Host.lean ====
section
/-!
DEFINITION. The host interface: fetching of descriptors, doorbells, ring enabling, completions, events, write-backs, interrupts, shot records, stream records, the HBM aperture
(R270-R282, R292-R303, R311).
-/
namespace Sys2Proof.Machine

/-! ### Fetching (R274, R276, R279, R281, R282) -/

/-- May the device fetch the next entry of ring `n`? -/
def Core.mayFetch (c : Core) (n : Nat) : Bool :=
  c.svc && (c.ringIs n .command || (c.ringIs n .tptTx && c.on Fd.TPT_CFG_EN && c.get Fd.TPT_CFG_TX_RING == n))
    && !(c.ring n).stopped && !c.on (Fd.CHP_RING_STS_HALTED n) && c.devIdx n != (c.ring n).host && (c.ring n).cmd.isNone

/-- The KIND values that CALIBRATE assigns (R411). -/
def calKinds : List Nat := [0x01, 0x05, 0x10, 0x11, 0x12, 0x13, 0x14, 0x30, 0x31]

/-- No command of R283 and R411: it completes with ST_TARGET. (log 58 DEDUCED) -/
def unassigned (d : Desc) : Bool :=
  let op := descBits d 8 8
  op == 0 || decide (11 < op) || (op == CmdOp.calibrate.code && !calKinds.contains (dField d 8 0 8))

/-- The ring positions that a FENCE waits for (R290). (log 47 DEDUCED) -/
def Core.fenceDeps (c : Core) (d : Desc) : List (Nat × Nat) :=
  if descBits d 8 8 = CmdOp.fence.code then ((upFrom 0 64).filter (fun k => bitAt (dField d 8 0 64) k)).map (fun k => (k, (c.ring k).fetched)) else []

/-- A fetched entry with the right phase is taken: a command goes into the ring's slot and DEV_INDEX passes it, so that book 0x8 has it issued and returned (R54, R282);
a frame joins the frames to send. (log 43 DEDUCED) -/
def Core.takeEntry (c : Core) (n : Nat) (d : Desc) : Core :=
  let i := c.devIdx n
  let c := c.modRing n (fun r => { r with retry := 0 })
  if c.ringIs n .tptTx then
    let c := c.advIdx n
    if c.on Fd.TPT_STS_LINK_UP then { c with tpt := { c.tpt with txq := c.tpt.txq ++ [(n, i, d)] } } else c.inc Fd.TPT_CNT1_TX_DROP 1
  else
    let deps := c.fenceDeps d
    let c := ((c.bookIssue (bookKey 8 0 n)).advIdx n).bookReturn (bookKey 8 0 n)
    let c := c.modRing n (fun r => { r with fetched := r.fetched + 1, cmd := some { desc := d, index := i, start := 0, exec := false, deps := deps, taken := [] } })
    if unassigned d then (c.begin_ n).refuse n .target else c

/-- What comes of reading the entry at DEV_INDEX: `k` reads with a wrong phase went before. -/
def Core.fetched (c : Core) (n k : Nat) (e : Fetch) : Core :=
  match e with
  | .failed => (c.modRing n (fun r => { r with retry := 0 })).ringErr n 3 (c.devIdx n)
  | .entry d =>
    if descBits d 0 1 = c.get (Fd.CHP_RING_STS_DEV_PHASE n) then
      if c.ringIs n .command && unassigned d && !c.complRoom n then c else c.takeEntry n d
    else if 16 ≤ k then (c.modRing n (fun r => { r with retry := 0 })).ringErr n 2 (c.devIdx n)
    else c.modRing n (fun r => { r with retry := k + 1, retryAt := c.now + ticksPerUs })

/-- A fetch of ring `n` is due: it may fetch and no entry of it waits to be fetched again. -/
def Core.fetchDue (c : Core) (n : Nat) : Bool := c.mayFetch n && (c.ring n).retry == 0

/-- Is it the turn of ring `n` (R279)? No ring between the one served last and it, going round, has a fetch due. (log 158 DEDUCED) -/
def Core.myTurn (c : Core) (n : Nat) : Bool :=
  (upFrom 1 63).all (fun d =>
    let k := (c.host.turn + d) % 64
    !c.fetchDue k || k == n || decide ((n + 63 - c.host.turn) % 64 < (k + 63 - c.host.turn) % 64))

/-- What the device has read passes the spine to the root, a beat of the endpoint's lane for each entry (R331): then `f`. -/
def Core.inwards (c : Core) (f : Core → Core) : Core :=
  match c.laneTake 9 [()] with
  | (c, []) => c
  | (c, _) => f c

/-- DESCRIPTOR_FETCH (R274, R279, R282, R331, R383): the device fetches the entry at DEV_INDEX of the COMMAND ring, or the TPT_TX ring, whose turn it is. (log 58 DEDUCED) -/
def execDescriptorFetch (n : Nat) (e : Fetch) (s : State) : Host.Outcome State Fault Refusal :=
  s.onCore (fun _ c => if c.fetchDue n && c.myTurn n then c.inwards (fun c => ({ c with host := { c.host with turn := n } }).fetched n 0 e) else c)

/-- PHASE_RETRY (R274, R300): a microsecond after an entry with the wrong phase it is fetched again, 16 times at most; on a SPOOL ring for the POST_SPOOL that takes it. -/
def execPhaseRetry (n : Nat) (e : Fetch) (s : State) : Host.Outcome State Fault Refusal :=
  s.onCore (fun _ c =>
    let r := c.ring n
    if r.retry = 0 ∨ c.now < r.retryAt then c
    else if c.svc && c.get (Fd.CHP_RING_CFG_KIND n) == RingKind.spool.code then c.inwards (fun c => c.spoolRetry n r.retry e)
    else if c.mayFetch n then c.inwards (fun c => c.fetched n r.retry e) else c)

/-! ### Doorbells (R276, R299) -/

/-- The way from offset `a` forward to `b` in a spool of `s` bytes. -/
def spoolDist (s a b : Nat) : Nat := if a ≤ b then b - a else b + s - a

/-- A spool offset committed on ring `n` (R276, R299). (log 56 DEDUCED) -/
def Core.commitSpool (c : Core) (n v : Nat) : Core :=
  let r := c.ring n
  let dev := c.devSpool n
  let ok := decide (v < r.s) && v % 64 == 0
    && (if dev then decide (spoolDist r.s r.c v ≤ r.used) else decide (spoolDist r.s r.p v ≤ r.free))
  if ok then c.modRing n (fun r => if dev then { r with c := v, dbLast := v } else { r with p := v, dbLast := v }) else c.ringErr n 1 v

/-- An index committed on ring `n` (R276). (log 56 DEDUCED) -/
def Core.commitIndex (c : Core) (n v : Nat) : Core :=
  if v < c.ringSize n then c.modRing n (fun r => { r with host := v, dbLast := v }) else c.ringErr n 1 v

/-- A read of the doorbell page of ring `n` (R276): at 0x000 the last committed value, at 0x008 DEV_INDEX or the device's spool offset; zero elsewhere. -/
def Core.doorbellRead (c : Core) (n off len : Nat) : List Byte :=
  let r := c.ring n
  let dev := if c.ringIs n .spool then (if c.devSpool n then r.p else r.c) else c.devIdx n
  (upFrom off len).map (fun b => (toLE 8 r.dbLast ++ toLE 8 dev).getD b 0)

/-- DOORBELL (R276): an access of `len` bytes at `off` of the doorbell page of ring `n`: a write of `val`, or a read (`none`). A write off the register, or on a disabled ring, has
no effect. (log 56 DEDUCED) -/
def execDoorbell (n off len : Nat) (val : Option (BitVec 64)) (s : State) : Host.Outcome State Fault Refusal :=
  s.onCore (fun _ c =>
    match val with
    | none => if !c.svc || c.pins.d3 then c.emit .unsupported else if 64 ≤ n ∨ 8 < len ∨ len = 0 then c else c.emit (.readAns (c.doorbellRead n off len) false)
    | some val =>
    if !c.svc || c.pins.d3 then c.emit .unsupported
    else if 64 ≤ n ∨ 8 < off + len ∨ len = 0 ∨ c.on (Fd.CHP_RING_CFG_EN n) = false then c
    else if c.ringIs n .spool then
      let r := c.ring n
      let old := match r.dbLow with
        | some l => l
        | none => r.dbLast % 2 ^ 32
      let new := putBits old (8 * off) (8 * len) val.toNat
      if off ≤ 4 ∧ off + len = 8 then (c.modRing n (fun r => { r with dbLow := none })).commitSpool n (new % 2 ^ 41)
      else if off < 4 then c.modRing n (fun r => { r with dbLow := some (new % 2 ^ 32) })
      else c
    else if off = 0 ∧ len = 4 then c.commitIndex n (val.toNat % 2 ^ 16)
    else c)

/-! ### Enabling (R272, R273, R281) -/

/-- Does the configuration of ring `n` pass the check that sets EN (R273), in NO_TIME also R388? -/
def Core.ringCheck (c : Core) (n : Nat) : Bool :=
  let k := c.get (Fd.CHP_RING_CFG_KIND n)
  let e := c.get (Fd.CHP_RING_CFG_SIZE_EXP n)
  let z := c.get (Fd.CHP_RING_CFG_COMPL n)
  !(c.on Fd.CHP_BOOT_STS_NO_TIME && (k == RingKind.tptTx.code || k == RingKind.tptRx.code)) && c.ringBase n % 4096 == 0 && c.ringWb n % 64 == 0 && k != 7 && decide (4 ≤ e) && decide (e ≤ 16)
    && (k != RingKind.command.code || (z != n && c.ringIs z .completion))

/-- Ring `n` comes into service (R273). (log 58 DEDUCED) -/
def Core.ringOn (c : Core) (n : Nat) : Core :=
  let c := ((((c.put (Fd.CHP_RING_CFG_EN n) 1).put (Fd.CHP_RING_STS_DEV_INDEX n) 0).put (Fd.CHP_RING_STS_DEV_PHASE n) 1).put (Fd.CHP_RING_STS_ERROR n) 0).put
    (Fd.CHP_RING_STS_ERR_CAUSE n) 0
  c.modRing n (fun r => { r with host := 0, dbLow := none, dbLast := 0, retry := 0, stopped := false, p := 0, c := 0, s := 0, sNew := none, segs := [], dirty := false })

/-- RING_ENABLE (R15, R272, R273): a write of `CHP_RING_CFG`. (log 9 DESIGN CHOICE, 11 DEDUCED, 58 DEDUCED) -/
def execRingEnable (n : Nat) (be : BitVec 4) (val : Word) (s : State) : Host.Outcome State Fault Refusal :=
  s.onCore (fun _ c =>
    if !c.bar0 (Fd.CHP_RING_CFG n) || decide (64 ≤ n) || be == 0 then c
    else
      let fr := c.free
      let w := c.enabled (Fd.CHP_RING_CFG n) be val
      let bad := decide (2 ^ 25 ≤ w)
      let c := if bad then fr.2 else c
      let v := if bad then fr.1 else w
      let field := fun (f : Fld) => bitsOf v f.lo f.w
      let c1 := (c.put (Fd.CHP_RING_CFG_VECTOR n) (field (Fd.CHP_RING_CFG_VECTOR n))).put (Fd.CHP_RING_CFG_IRQ_EN n) (field (Fd.CHP_RING_CFG_IRQ_EN n))
      let fixed := [Fd.CHP_RING_CFG_KIND n, Fd.CHP_RING_CFG_SIZE_EXP n, Fd.CHP_RING_CFG_DIR n, Fd.CHP_RING_CFG_COMPL n]
      if c.on (Fd.CHP_RING_CFG_EN n) then
        (c1.stick (Fd.CHP_RING_STS_CFG_ERR n) (fixed.any (fun f => field f != c.get f))).setOn (Fd.CHP_RING_CFG_EN n) (bitAt v 0)
      else
        let c2 := fixed.foldl (fun c f => c.put f (field f)) c1
        if !bitAt v 0 then c2
        else if c2.ringCheck n then c2.ringOn n
        else c2.put (Fd.CHP_RING_STS_CFG_ERR n) 1)

/-- RESUME (R281): HALTED is cleared. -/
def execResume (n : Nat) (s : State) : Host.Outcome State Fault Refusal :=
  s.onCore (fun _ c => if c.svc && decide (n < 64) then c.put (Fd.CHP_RING_STS_HALTED n) 0 else c)

/-! ### What the device writes -/

/-- The 32 bytes of a completion entry, PHASE 0 (R292). -/
def compBytes (k : Comp) : List Byte :=
  toLE 4 (k.opcode * 2 ^ 8 + k.tag * 2 ^ 16) ++ toLE 4 (k.status + k.ring * 2 ^ 8 + k.index * 2 ^ 16) ++ toLE 8 k.res0 ++ toLE 8 k.res1 ++ toLE 8 k.stamp

/-- The ring `n` is an enabled ring of a kind with room for one more entry. -/
def Core.canWrite (c : Core) (n : Nat) (k : RingKind) : Bool := c.svc && c.ringIs n k && c.devRoom n

/-- COMPLETION_WRITE (R275, R292, R303): the oldest completion that waits is written to COMPLETION ring `n`. (log 57 DEDUCED) -/
def execCompletionWrite (n : Nat) (s : State) : Host.Outcome State Fault Refusal :=
  s.onCore (fun _ c =>
    match (c.ring n).comps with
    | [] => c
    | k :: rest =>
      if c.canWrite n .completion then
        (c.modRing n (fun r => { r with comps := rest, intNow := r.intNow || (k.int && c.on (Fd.CHP_RING_CFG_IRQ_EN n)) })).putEntry n (compBytes k)
      else c)

/-- WRITE_BACK (R277): the write-back record of ring `n` is written after a change. -/
def execWriteBack (n : Nat) (s : State) : Host.Outcome State Fault Refusal :=
  s.onCore (fun _ c => if c.svc && decide (n < 64) && c.on (Fd.CHP_RING_CFG_EN n) && (c.ring n).dirty then c.writeBack n else c)

/-- Is an interrupt of ring `n` due (R303)? (log 57 DEDUCED) -/
def Core.irqDue (c : Core) (n : Nat) : Bool :=
  let r := c.ring n
  let t := c.get (Fd.CHP_RING_IRQ_TIME n)
  decide (1 ≤ r.unsig) && (r.intNow || decide (max 1 (c.get (Fd.CHP_RING_IRQ_COUNT n)) ≤ r.unsig) || (t != 0 && decide (r.oldest + t * ticksPerUs ≤ c.now)))

/-- RING_INTERRUPT (R277, R303): ring `n` signals its vector, its write-back record first. (log 55 PRESUMED, 57 DEDUCED) -/
def execRingInterrupt (n : Nat) (s : State) : Host.Outcome State Fault Refusal :=
  s.onCore (fun _ c =>
    let signals := [RingKind.completion, .event, .result, .spool, .tptRx].any (fun k => c.ringIs n k)
    if c.svc && signals && c.on (Fd.CHP_RING_CFG_IRQ_EN n) && c.irqDue n then
      let c := if (c.ring n).dirty then c.writeBack n else c
      (c.msixSend (c.get (Fd.CHP_RING_CFG_VECTOR n))).modRing n (fun r => { r with unsig := 0, intNow := false })
    else c)

/-- The 32 bytes of an event entry, PHASE 0 (R294). -/
def evtBytes (e : Evt) : List Byte :=
  toLE 4 (e.level * 2 ^ 8 + e.code * 2 ^ 16) ++ toLE 4 e.index ++ toLE 8 e.stamp ++ toLE 8 e.arg0 ++ toLE 8 e.arg1

/-- EVENT_WRITE (R294): EV_OVERFLOW first where events have been dropped and there is room again; else the oldest event is written, or dropped and counted. (log 7 DESIGN CHOICE, 59 DEDUCED) -/
def execEventWrite (s : State) : Host.Outcome State Fault Refusal :=
  s.onCore (fun _ c =>
    let n := c.get Fd.CHP_EVT_CFG_RING
    let room := c.on Fd.CHP_EVT_CFG_EN && c.canWrite n .event
    let h := c.host
    if room && h.ovfCnt != 0 then
      ({ c with host := { h with ovfCnt := 0 } }).putEntry n
        (evtBytes { code := 0x0002, level := 0, index := 0, stamp := c.now, arg0 := h.ovfCnt, arg1 := h.ovfFirst })
    else match h.evq with
      | [] => c
      | e :: rest =>
        if room then ({ c with host := { h with evq := rest } }).putEntry n (evtBytes e)
        else
          ({ c with host := { h with evq := rest, ovfCnt := h.ovfCnt + 1, ovfFirst := if h.ovfCnt = 0 then e.stamp else h.ovfFirst } }).inc
            Fd.CHP_EVT_STS_DROPPED 1)

/-- The bytes of a record that stand in the stack: by region the pieces of its section in its RECORD slice (R310). -/
def Core.recSpans (c : Core) (d : ShotRec) : List (Nat × Nat) := d.offs.flatMap (fun e => recPieces c e.1 e.2 (Tbl.get (fun _ => 0) d.secs e.1))

/-- The length of a shot record (R297). -/
def ShotRec.bytes (d : ShotRec) : Nat := d.data.length + (if d.offs.isEmpty then 0 else (d.secs.map (fun e => e.2)).foldl (fun a b => a + b) 0)

/-- The gatherers have written every section of the record. -/
def Core.recWritten (c : Core) (d : ShotRec) : Bool := d.offs.all (fun e => (c.workOf (160 + e.1) e.2).isNone)

/-- RESULT_DELIVERY (R297, R299, R310, R313, R317): the result DMA reads the oldest shot record out of staging, once the spool has room for it; when its bytes have come, uncorrectable
64 bytes as zero, it is written to the result spool and announced on the result ring. (log 37 DEDUCED) -/
def execResultDelivery (s : State) : Host.Outcome State Fault Refusal :=
  s.onCore (fun _ c =>
    let n := c.get Fd.CHP_RESULT_CFG_RING
    let z := c.get Fd.CHP_RESULT_CFG_SPOOL
    match c.host.recs with
    | [] => c
    | d :: rest =>
      let put := fun (c : Core) (l : List Byte) =>
        let p := (c.ring z).p
        let c : Core := { c with host := { c.host with recs := rest } }
        (c.spoolWrite z l).putEntry n (d.entry.take 16 ++ toLE 8 p ++ d.entry.drop 24)
      if !c.on Fd.CHP_RESULT_CFG_EN || !c.canWrite n .result || !c.devSpool z || (c.ring z).stopped || c.spoolHeld z 32 || decide ((c.ring z).free < d.bytes) then c
      else if d.offs.isEmpty then put c d.data
      else match c.workOf 168 0 with
        | none =>
          if c.recWritten d then c.newWork 168 0 ((c.ring z).p + d.data.length) ((c.recSpans d).map (fun e => (e.1, e.2, none))) else c
        | some w => if w.done then put (c.dropWork 168 0) (d.data ++ (c.recSpans d).flatMap (fun e => w.bytes e.1 e.2)) else c)

/-! ### Streams (R104, R105, R301, R302) -/

/-- Does the owner of stream `z` hold line `k` already, its block or the cell itself (R301)? -/
def Core.streamHeld (c : Core) (g z k : Nat) : Bool :=
  let b := c.blk (16 * cellR g + cellB g)
  b.cache.any (fun l => l.segid == 65536 + z && l.line == k) || b.inbox.any (fun l => l.segid == 65536 + z && l.line == k)
    || (c.cell g).stage.any (fun l => l.segid == 65536 + z && l.line == k)

/-- The staging ring of the block of cell `g` has a line for one more record: LIBRARY lines give way (R100, R301). -/
def Core.streamRoom (c : Core) (g : Nat) : Bool :=
  let b := c.blk (16 * cellR g + cellB g)
  decide ((b.cache.filter (fun l => decide (65536 ≤ l.segid))).length + b.inbox.length < c.get (Fd.BLK_SEG_CFG_STAGE_LINES (cellR g) (cellB g)))

/-- STREAM_RECORD (R268, R301, R302, R331): the distributor takes the record at C of HOST_WRITE spool `n` and passes its line over the spine, in a beat of the endpoint's lane, to the
refill engine of its owner's block. A record that could not be read (`none`) is taken, and its line has not arrived. (log 59 DEDUCED, 61 DEDUCED) -/
def execStreamRecord (n : Nat) (rec : Option (List Byte)) (s : State) : Host.Outcome State Fault Refusal :=
  s.onCore (fun m c =>
    let r := c.ring n
    let take := fun (c : Core) => c.modRing n (fun r => { r with c := if r.c + 192 < r.s then r.c + 192 else r.c + 192 - r.s, dirty := true })
    let l := rec.getD (List.replicate 192 0)
    let z := fromLE (l.take 1)
    let k := fromLE ((l.drop 8).take 6)
    if !c.svc || !c.hostSpool n || !c.inSeries || !c.host.binds.any (fun e => e.2 == n) || l.length != 192 || decide (r.used < 192) || r.stopped then c
    else if rec.isNone then take c
    else if !c.host.binds.contains (z, n) then (take c).ringErr n 4 r.c
    else match streamOwner m c z with
      | none => take c
      | some g =>
        if c.streamPassed m z k || c.streamHeld g z k then take c
        else if !c.streamRoom g then c
        else match c.laneTake 9 [()] with
          | (c, []) => c
          | (c, _) =>
            (take c).modBlk (16 * cellR g + cellB g) (fun b => { b with inbox := b.inbox ++ [{ segid := 65536 + z, line := k, data := l.drop 64 }] }))

/-! ### The aperture (R270, R311, R317, R324) -/

/-- BAR4_ACCESS (R270, R311, R313): a host write of `data` at `addr`, or a read of as many bytes as `data` has. The endpoint has the accesses to make; it answers a read when its
data have come. (log 62 DESIGN CHOICE, 63 DESIGN CHOICE) -/
def execBar4Access (addr : Nat) (write : Bool) (data : List Byte) (s : State) : Host.Outcome State Fault Refusal :=
  s.onCore (fun _ c =>
    let len := data.length
    let a := addr / 32 * 32
    if !c.svc || c.pins.d3 || c.on Fd.CHP_BOOT_STS_NO_HBM || decide (2 ^ 34 < addr + len) then c.emit .unsupported
    else if write && c.bar4Drops addr then c.inc Fd.PCI_BAR4_STS_WR_DROP 1
    else if len = 0 then c
    else if write then c.newWork 170 0 addr [(addr, len, some data)]
    else c.newWork 170 len addr [(a, ceilDiv (addr + len - a) 32 * 32, none)])

end Sys2Proof.Machine
end

