-- ==== Sys2Proof/Machine/Arbiter.lean ====
section
/-!
DEFINITION. The arbiters (R331-R343): grants, bursts, starvation, the watchdog, priorities.
-/
namespace Sys2Proof.Machine

/-- The first requester after `last`, in ascending order, wrapping (R334). (log 74 DEDUCED) -/
def nextAfter (n last : Nat) (reqs : List Nat) : Option Nat := ((upFrom 1 n).map (fun k => (last + k) % n)).find? (fun x => reqs.contains x)

/-- Another lane of the spine is granted to requester `x` (R334). -/
def Core.holdsLane (c : Core) (a : Arb) (x : Nat) : Bool :=
  match a with
  | .chip _ => (upFrom 0 4).any (fun l => (c.arb (arbKey (.chip l))).owner == some x)
  | _ => false

/-- The requester an arbiter grants in cycle `n` (R334, R335): the highest priority, then round robin, an owner whose burst expires in this cycle last. Before the first grant
requester 0 comes first. (log 74 DEDUCED) -/
def Core.arbPick (c : Core) (a : Arb) (n : Nat) (reqs : List Nat) : Option Nat :=
  let rs := reqs.filter (fun x => !c.holdsLane a x)
  let top := maxList 0 (rs.map (c.arbPri a))
  let rs := rs.filter (fun x => c.arbPri a x == top)
  let out := fun (x : Nat) => (c.arb (arbMem a)).former.contains (x, n)
  match nextAfter (arbN a) (Tbl.get (fun _ => arbN a - 1) (c.arb (arbMem a)).last top) (rs.filter (fun x => !out x)) with
  | some x => some x
  | none => rs.find? out

/-- Requester `x` is granted the port in cycle `n`, for pseudo-channel `p` on the spine (R333, R337). -/
def Core.arbGive (c : Core) (a : Arb) (n x : Nat) (p : Option Nat) : Core :=
  let c := (c.modArb (arbMem a) (fun y => { y with last := Tbl.insert y.last (c.arbPri a x) x })).endWaitOf a n x
  let c := c.modArb (arbKey a) (fun y => { y with owner := some x, bound := p, since := n, beats := 0, next := n, idle := c.arbCount a n })
  match a with
  | .block _ _ => c
  | .region r => c.inc (Fd.RGN_ARB_GRANTS_GRANTS r x) 1
  | .chip _ => c.inc (Fd.CHP_ARB_GRANTS_GRANTS x) 1

/-- Owner of this port, still asking in the requests `xs`. -/
def Core.owned (c : Core) (a : Arb) (xs : List Nat) : Bool :=
  match (c.arb (arbKey a)).owner with
  | some x => xs.contains x
  | none => false

/-- The lanes of the spine below this one are all held by requesters that still ask: lane 0 decides first (R334). -/
def Core.lanesBelow (c : Core) (a : Arb) (xs : List Nat) : Bool :=
  match a with
  | .chip l => (upFrom 0 l).all (fun k => c.owned (.chip k) xs)
  | _ => true

/-- Requesters that ask and are not granted wait from cycle `n` on (R337). -/
def Core.arbWait (c : Core) (a : Arb) (n : Nat) (xs : List Nat) : Core :=
  xs.foldl (fun c x =>
    if c.holdsLane a x || (c.arb (arbKey a)).owner == some x || (c.arb (arbMem a)).waits.any (fun e => e.1 == x) then c
    else c.modArb (arbMem a) (fun y => { y with waits := Tbl.insert y.waits x (c.arbCount a n) })) c

/-- The grant of an arbiter's port ends in cycle `n` as by a burst expiry: its owner comes last of its priority in the decisions of that cycle, on every lane of the spine (R335). -/
def Core.expire (c : Core) (a : Arb) (n : Nat) : Core :=
  let s := c.arb (arbKey a)
  (c.setArb (arbKey a) s.release).modArb (arbMem a) (fun y => { y with former := s.owner.toList.map (fun x => (x, n)) ++ y.former.filter (fun e => e.2 == n) })

/-- The port as cycle `n` finds it with the requests `xs` (R333, R337, R341): waits of those that ask no longer end, an owner that asks no longer loses the port, and in the
chip-drain hold an owner with a request for the stack does, as by a burst expiry. -/
def Core.arbSettle (c : Core) (a : Arb) (n : Nat) (xs : List Nat) : Core :=
  let c := ((c.arb (arbMem a)).waits.map (fun e => e.1)).foldl (fun c x => if xs.contains x then c else c.endWaitOf a n x) c
  let s := c.arb (arbKey a)
  if s.bound.isSome && c.hbmHold then c.expire a n
  else if c.owned a xs then c
  else c.setArb (arbKey a) s.release

/-- The refill engine of block `b` of region `r`, granted the block port, writes the lines it has received into the staging ring, as long as it can move beats (R332). -/
def Core.postLines (r b : Nat) : Nat → Mems × Core → Mems × Core
  | 0, a => a
  | k + 1, (m, c) =>
    match (c.blk (16 * r + b)).inbox with
    | [] => (m, c)
    | l :: rest =>
      if (c.stagePlace m r b).isNone then (m, c)
      else
        let y := c.moveBeats (.block r b) 18 0 2
        if !y.2 then (m, y.1)
        else
          let c := y.1.modBlk (16 * r + b) (fun k => { k with inbox := rest })
          let z := c.stagePut m r b l.segid l.line l.data
          Core.postLines r b k (z.1, z.2.1)

/-- The lines the refill engine has received go into the staging ring. -/
def Core.refillPost (c : Core) (m : Mems) (a : Arb) : Mems × Core :=
  match a with
  | .block r b => Core.postLines r b 64 (m, c)
  | _ => (m, c)

/-- ARB_GRANT (R332-R337, R341): cycle `n` of an arbiter, with the requests `reqs`, each on the spine with the pseudo-channel it is bound for. A requester that may not ask is not
requesting, nor one that the watchdog has reset in this cycle. A free port is granted; lanes below decide first; a refill engine that owns its block's port moves its lines.
(log 74 DEDUCED, 75 DEDUCED) -/
def execArbGrant (a : Arb) (n : Nat) (reqs : List (Nat × Option Nat)) (s : State) : Host.Outcome State Fault Refusal :=
  s.onBoth (fun m c =>
    if !c.arbRuns a || !c.arbIn a n then (m, c)
    else
      let rs := reqs.filter (fun e => c.mayAsk a e.1 e.2 && !(c.arb (arbMem a)).bitten.contains (e.1, n))
      let xs := rs.map (fun e => e.1)
      let open_ := rs.filter (fun e => !(e.2.isSome && c.hbmHold))
      let free := open_.map (fun e => e.1)
      let c := c.arbSettle a n xs
      let c := if (c.arb (arbKey a)).owner.isSome || !c.lanesBelow a free then c
        else match c.arbPick a n free with
          | none => c
          | some x => c.arbGive a n x ((open_.find? (fun e => e.1 == x)).bind (fun e => e.2))
      (c.arbWait a n xs).refillPost m a)

/-- BURST_EXPIRY (R335): in the cycle of `q`, after the one in which the owner moved its BURST-th beat, its grant ends; it comes last of its priority in the decision of that cycle. -/
def execBurstExpiry (q : ArbCycle) (s : State) : Host.Outcome State Fault Refusal :=
  s.onCore (fun _ c =>
    let a := q.arb
    let n := q.cycle
    let y := c.arb (arbKey a)
    match y.owner with
    | none => c
    | some x =>
      if c.arbRuns a && c.arbIn a n && decide (y.next ≤ n) && decide (c.arbBurst a x ≤ y.beats) then c.expire a n else c)

/-- STARVE (R337, R338, R341): in cycle `n` the wait of requester `x` has reached STARVE_LIMIT. (log 75 DEDUCED) -/
def execStarve (a : Arb) (x n : Nat) (s : State) : Host.Outcome State Fault Refusal :=
  s.onCore (fun _ c =>
    match (c.arb (arbMem a)).waits.find? (fun e => e.1 == x) with
    | none => c
    | some (_, w) =>
      let wait := c.arbCount a n - w
      if !c.arbRuns a || !c.arbIn a n || decide (wait < c.arbStarve a) then c
      else
        let v := c.get (starveF a)
        (c.put (starveF a) (Nat.lor v (2 ^ x))).raiseIf (!bitAt v x) 0x51 (arbName a).1 (arbName a).2 x wait)

/-- The bite recorded (R339, R342, R343). -/
def Core.arbBite (c : Core) (a : Arb) (x : Nat) : Core :=
  match a with
  | .block r b => (c.inc (Fd.BLK_ARB_CNT_BITES r b) 1).put (Fd.BLK_ARB_CNT_LAST_X r b) x
  | .region r => c.put (Fd.RGN_ARB_WDOG_LAST_X r) x
  | .chip _ => c.put Fd.CHP_ARB_WDOG_LAST_X x

/-- The command of ring `n`, if one is in execution, completes with ST_ABORTED; what it had at the stack is dropped. -/
def Core.abortRing (c : Core) (n : Nat) : Core :=
  if ((c.ring n).cmd.map (fun k => k.exec)).getD false then c.refuse n .aborted else c

/-- What a port reset loses (R339, R340): the owner's partial transfers. Of a refill engine that is the line it was writing, which no cell gets; a command whose data were on their way
completes with ST_ABORTED; an acquisition beat stays in the record memory. (log 76 DEDUCED) -/
def Core.loseTransfer (c : Core) (a : Arb) (x : Nat) : Core :=
  let cut := (c.arb (arbMem a)).parts.filter (fun e => e.1 % 32 == x)
  let c := c.modArb (arbMem a) (fun y => { y with parts := y.parts.filter (fun e => e.1 % 32 != x) })
  let c := cut.foldl (fun c e => if 32 ≤ e.1 then c.abortRing (e.1 / 32 - 1) else c) c
  match a with
  | .block r b => if x = 18 ∧ cut.any (fun e => e.1 == 18) = true then c.modBlk (16 * r + b) (fun k => { k with inbox := k.inbox.drop 1 }) else c
  | _ => c

/-- ARB_WATCHDOG (R55, R339, R340): in the cycle of `q` the owner has held its grant for LIMIT cycles without moving a beat: the grant ends, the partial transfer is lost and the owner's
port is reset. (log 75 DEDUCED, 76 DEDUCED) -/
def execArbWatchdog (q : ArbCycle) (s : State) : Host.Outcome State Fault Refusal :=
  s.onCore (fun _ c =>
    let a := q.arb
    let n := q.cycle
    let y := c.arb (arbKey a)
    match y.owner with
    | none => c
    | some x =>
      if !c.arbRuns a || !c.arbIn a n || !c.arbArmed a || decide (c.arbCount a (n + 1) < y.idle + c.arbLimit a) then c
      else
        let c := ((c.setArb (arbKey a) y.release).modArb (arbMem a) (fun z => { z with bitten := [(x, n)] })).loseTransfer a x
        let c := match portBook a x with
          | some k => c.bookReset k
          | none => c
        (c.arbBite a x).raise 0x50 (arbName a).1 (arbName a).2 x 0)

/-- PRIORITY_WRITE (R15, R336, R342): a write of `BLK_ARB_PRI0` (`reg` 0) or `BLK_ARB_PRI1` (1); it acts at the next decision. (log 9 DESIGN CHOICE) -/
def execPriorityWrite (r b reg : Nat) (be : BitVec 4) (val : Word) (s : State) : Host.Outcome State Fault Refusal :=
  s.onCore (fun _ c =>
    let off := if reg = 0 then Fd.BLK_ARB_PRI0 r b else Fd.BLK_ARB_PRI1 r b
    let w := c.enabled off be val
    if !c.bar0 off || !c.bOk r b || decide (2 ≤ reg) || be == 0 then c
    else if reg = 0 then c.put (Fd.BLK_ARB_PRI0_PRI_C r b) w
    else
      let fr := c.free
      let bad := decide (64 ≤ w)
      let c := if bad then fr.2 else c
      let v := if bad then fr.1 else w
      (c.put (Fd.BLK_ARB_PRI1_PRI_C r b) (bitsOf v 0 4)).put (Fd.BLK_ARB_PRI1_PRI_REFILL r b) (bitsOf v 4 2))

end Sys2Proof.Machine
end

