-- ==== Sys2Proof/Machine/Sorzil.lean ====
section
/-!
DEFINITION. The Sorzil link (R345-R373): flits, sending and accepting, retry, training, recovery, equalisation, the meridian check.
-/
namespace Sys2Proof.Machine

/-! ### Flits (R351-R354) -/

/-- Flit types (R352). -/
inductive FlitType where
  | dec | def_ | time | link | idle
  deriving DecidableEq, Repr

/-- The code of a flit type. -/
def FlitType.code : FlitType → Nat
  | .dec => 0 | .def_ => 1 | .time => 2 | .link => 3 | .idle => 4

/-- The CRC of bits [271:0] of a flit. (log 60 DEDUCED) -/
def flitCrc (x : Nat) : Nat := crcBits 16 0x1021 0xFFFF (bitsUp x 272)

/-- A flit of a type with SEQ, send tick and payload. (log 60 DEDUCED) -/
def mkFlit (t : FlitType) (seq tick load : Nat) : BitVec 288 :=
  let x := t.code + seq % 128 * 2 ^ 3 + tick % 64 * 2 ^ 10 + load % 2 ^ 256 * 2 ^ 16
  BitVec.ofNat 288 (x + flitCrc x * 2 ^ 272)

/-- TYPE of a flit. -/
def fType (f : BitVec 288) : Nat := bitsOf f.toNat 0 3
/-- SEQ of a flit. -/
def fSeq (f : BitVec 288) : Nat := bitsOf f.toNat 3 7
/-- STICK of a flit. -/
def fStick (f : BitVec 288) : Nat := bitsOf f.toNat 10 6
/-- PAYLOAD of a flit. -/
def fLoad (f : BitVec 288) : Nat := bitsOf f.toNat 16 256

/-- A flit with a good CRC, an assigned TYPE and zero where zero is required (R352-R354, R198). (log 60 DEDUCED) -/
def flitOk (f : BitVec 288) : Bool :=
  let t := fType f
  bitsOf f.toNat 272 16 == flitCrc (f.toNat % 2 ^ 272) && decide (t ≤ 4)
    && (decide (t ≤ 1) || fSeq f == 0)
    && (if t = 1 then bitsOf (fLoad f) 11 5 == 0 && fLoad f / 2 ^ 80 == 0
        else if t = 2 then fLoad f / 2 ^ 100 == 0
        else if t = 3 then fLoad f / 2 ^ 14 == 0
        else if t = 4 then fLoad f == 0 else true)

/-- States of a port (R371). -/
inductive PortSt where
  | down | training | up | recovery
  deriving DecidableEq, Repr

/-- The code of a port state. -/
def PortSt.code : PortSt → Nat
  | .down => 0 | .training => 1 | .up => 2 | .recovery => 3

/-- Port `p` is in a state. -/
def Core.portIs (c : Core) (p : Nat) (x : PortSt) : Bool := c.get (Fd.SZL_PORT_STS_STATE p) == x.code

/-- Port `p` enters a state; every change raises EV_SZL_LINK (R368). A port that comes UP ends NO_MESH (R445). -/
def Core.portGo (c : Core) (p : Nat) (x : PortSt) : Core :=
  if c.portIs p x then c
  else
    let c := c.put (Fd.SZL_PORT_STS_STATE p) x.code
    let c := if x = .up then c.put Fd.CHP_BOOT_STS_NO_MESH 0 else c
    c.raise 0x90 7 p x.code (c.get (Fd.SZL_PORT_STS_TX_MASK p) + c.get (Fd.SZL_PORT_STS_RX_MASK p) * 2 ^ 8)

/-! ### Sending (R355-R357, R361) -/

/-- A lane that has loaded its seed (R348). -/
def TxLine.init (seed : Nat) : TxLine := { prbs := seed, last := false, run := 0, debt := 0, full := false, bip := 0, pos := 0 }

/-- One line bit (R349): after 31 identical ones a stuff bit follows, its complement, which delays the lane by one UI (R350). -/
def TxLine.put (x : TxLine) (b : Bool) : TxLine :=
  let n := if b = x.last then x.run + 1 else 1
  if n = 31 then { x with last := !b, run := 1, debt := x.debt + 1, full := x.full || decide (256 ≤ x.debt + 1) } else { x with last := b, run := n }

/-- One data bit (R348): XORed with the output of x^31 + x^28 + 1, which advances by one; it counts in the parity of R351. (log 152 DESIGN CHOICE) -/
def TxLine.data (x : TxLine) (b : Bool) : TxLine :=
  let o := (bitAt x.prbs 30).xor (bitAt x.prbs 27)
  let l := b.xor o
  { x with prbs := (2 * x.prbs + b2n o) % 2 ^ 31, bip := Nat.xor x.bip (b2n l * 2 ^ (x.pos % 8)), pos := x.pos + 1 }.put l

/-- The alignment marker of lane `l` of port `p` (R351): not scrambled; the parity starts anew after it. -/
def TxLine.marker (x : TxLine) (p l : Nat) : TxLine :=
  let am := 0x4B3CD2 + l * 2 ^ 24 + p * 2 ^ 27 + x.bip * 2 ^ 30
  { (bitsUp am 48).foldl TxLine.put x with bip := 0, pos := 0 }

/-- Lane `l` of a port. -/
def Port.modLine (x : Port) (l : Nat) (f : TxLine → TxLine) : Port :=
  { x with lines := x.lines.zipIdx.map (fun e => if e.2 = l then f e.1 else e.1) }

/-- Unit `u` leaves port `p` on the active lane whose turn it is, of `lanes` in ascending order (R351); after every 512 units on each lane all of them send a marker. -/
def Port.sendUnit (p : Nat) (lanes : List Nat) (x : Port) (u : Nat) : Port :=
  if lanes = [] then x
  else
    let x := { x.modLine (lanes.getD (x.unitNo % lanes.length) 0) (fun y => (bitsUp u 48).foldl TxLine.data y) with unitNo := x.unitNo + 1 }
    if x.unitNo % (512 * lanes.length) = 0 then lanes.foldl (fun x l => x.modLine l (fun y => y.marker p l)) x else x

/-- The time of one flit passes without one (R350): each lane repays up to 48 UI for every unit it would have carried. (log 152 DESIGN CHOICE) -/
def Port.repay (lanes : List Nat) (x : Port) : Port :=
  (upFrom 0 6).foldl (fun x i => x.modLine (lanes.getD ((x.unitNo + i) % lanes.length) 0) (fun y => { y with debt := y.debt - 48, full := y.full && decide (48 < y.debt) })) x

/-! ### Receiving (R348, R349, R351) -/

/-- A receive lane that has loaded the seed of its transmitter. -/
def RxLine.init (seed : Nat) : RxLine := { prbs := seed, last := false, run := 0, bip := 0, pos := 0 }

/-- One line bit: the bit after 31 identical ones is removed (R349). The lane, the bit if it stays, and 1 if the removed bit equals the run. -/
def RxLine.bit (x : RxLine) (b : Bool) : RxLine × List Bool × Nat :=
  if x.run = 31 then ({ x with last := b, run := 1 }, [], b2n (b == x.last))
  else ({ x with last := b, run := if b = x.last then x.run + 1 else 1 }, [b], 0)

/-- Line bits in order: the lane, the bits that stay, the stuff errors. -/
def RxLine.take (x : RxLine) (l : List Bool) : RxLine × List Bool × Nat :=
  l.foldl (fun a b => let y := a.1.bit b; (y.1, a.2.1 ++ y.2.1, a.2.2 + y.2.2)) (x, [], 0)

/-- Descrambling (R348): the generator advances once for every bit, as the transmitter's; the line bits count in the parity of R351. -/
def RxLine.data (x : RxLine) : List Bool → RxLine × List Bool
  | [] => (x, [])
  | b :: rest =>
    let o := (bitAt x.prbs 30).xor (bitAt x.prbs 27)
    let y := ({ x with prbs := (2 * x.prbs + b2n o) % 2 ^ 31, bip := Nat.xor x.bip (b2n b * 2 ^ (x.pos % 8)), pos := x.pos + 1 }).data rest
    (y.1, b.xor o :: y.2)

/-- A unit's line bits: the lane, its 48 bits, and the stuff errors. A unit with a stuff error, or of another length, is corrupt: no bits. -/
def RxLine.unit (x : RxLine) (l : List Bool) : RxLine × Option (List Bool) × Nat :=
  let t := x.take l
  let d := t.1.data t.2.1
  (d.1, if t.2.2 = 0 ∧ t.2.1.length = 48 then some d.2 else none, t.2.2)

/-- An alignment marker's line bits, which are not scrambled: the lane, whose parity starts anew, the marker, and the stuff errors. -/
def RxLine.marker (x : RxLine) (l : List Bool) : RxLine × Option Nat × Nat :=
  let t := x.take l
  ({ t.1 with bip := 0, pos := 0 }, if t.2.2 = 0 ∧ t.2.1.length = 48 then some (ofBits t.2.1) else none, t.2.2)

/-- The physical receive lanes of port `p` in use, in the order of their logical numbers (R351). -/
def Core.rxLanes (c : Core) (p : Nat) : List Nat :=
  (upFrom 0 6).flatMap (fun k => (upFrom 0 6).filter (fun l => c.on (Fd.SZL_LANE_STS_ACTIVE p l) && c.get (Fd.SZL_LANE_STS_LOGICAL p l) == k))

/-- Bits at the balls of receive lane `l` of port `p`, put right for its polarity (R363). -/
def Core.upright (c : Core) (p l : Nat) (b : List Bool) : List Bool := if c.on (Fd.SZL_LANE_STS_POL_INV p l) then b.map not else b

/-- Receive lane `l` of port `p`. -/
def Port.rxLine (x : Port) (l : Nat) : RxLine := x.rx.getD l (RxLine.init 0)

/-- The same, replaced. -/
def Port.setRx (x : Port) (l : Nat) (y : RxLine) : Port := { x with rx := x.rx.set l y }

/-- One unit of port `p`'s receive stream, of which unit k comes in on active lane k mod N (R351); `b` its bits at the balls. -/
def Core.rxUnit (c : Core) (p : Nat) (lanes : List Nat) (b : List Bool) : Core × Option (List Bool) :=
  let l := lanes.getD ((c.port p).rxNo % lanes.length) 0
  let y := ((c.port p).rxLine l).unit (c.upright p l b)
  ((c.modPort p (fun x => { x.setRx l y.1 with rxNo := x.rxNo + 1 })).inc (Fd.SZL_LANE_CNT_STUFF_ERR p l) y.2.2, y.2.1)

/-- The six units of a flit come in at port `p`, each with the bits its lane has received, in the order in which deskewing puts them (R348, R349, R351, R352); none where a unit is
corrupt, which its CRC shows. (log 170 DEDUCED) -/
def Core.rxFlit (c : Core) (p : Nat) (units : List (List Bool)) : Core × Option (BitVec 288) :=
  let lanes := c.rxLanes p
  if lanes = [] then (c, none)
  else
    let y := (units.take 6).foldl (fun (a : Core × List (Option (List Bool))) b => let z := a.1.rxUnit p lanes b; (z.1, a.2 ++ [z.2])) (c, [])
    (y.1, if y.2.length = 6 ∧ y.2.all Option.isSome = true then some (BitVec.ofNat 288 (ofBits (y.2.flatMap (fun u => u.getD [])))) else none)

/-! ### Flits that start -/

/-- A flit passes onto the lanes of port `p`: bits [48u + 47:48u] travel in unit u (R352). -/
def Port.send (p : Nat) (lanes : List Nat) (f : BitVec 288) (x : Port) : Port :=
  { (upFrom 0 6).foldl (fun x i => Port.sendUnit p lanes x (bitsOf f.toNat (48 * i) 48)) x with sent := x.sent ++ [f] }

/-- The active transmit lanes of port `p` (R351, R371). -/
def Core.txLanes (c : Core) (p : Nat) : List Nat := (upFrom 0 6).filter (bitAt (c.get (Fd.SZL_PORT_STS_TX_MASK p)))

/-- Does a transmit lane of port `p` hold unpaid delay (R350), or has one reached 256 UI and not repaid it? -/
def Core.owes (c : Core) (p : Nat) : Bool := (c.port p).lines.any (fun y => decide (0 < y.debt))
/-- A transmit lane has reached 256 UI of delay and not repaid it (R350): the port starts no new flit. -/
def Core.mustRepay (c : Core) (p : Nat) : Bool := (c.port p).lines.any (fun y => y.full)

/-- A flit starts on the wire. -/
def Core.wire (c : Core) (p : Nat) (f : BitVec 288) : Core := c.modPort p (Port.send p (c.txLanes p) f)

/-- The time of one flit passes without one: the port repays delay (R350). -/
def Core.leaveOut (c : Core) (p : Nat) : Core := c.modPort p (Port.repay (c.txLanes p))

/-- A LINK flit is sent (R353). -/
def Core.sendLink (c : Core) (p : Nat) (nak : Bool) : Core :=
  let load := (c.port p).ackTx % 128 + b2n nak * 2 ^ 7 + c.get (Fd.SZL_PORT_STS_RX_MASK p) * 2 ^ 8
  (c.wire p (mkFlit .link 0 c.now load)).modPort p (fun x =>
    { x with nakDue := if nak then false else x.nakDue, linkFirst := false, sinceLink := 0, lastLink := c.now, nakSeq := if nak then some (x.expSeq, c.now) else x.nakSeq })

/-- The next express flit of virtual lane `v` that may start: not past its send tick + 12, and fewer than 96 flits unacknowledged. (log 79 DEDUCED) -/
def Core.readyFlit (c : Core) (p v : Nat) : Option TxFlit :=
  if 96 ≤ (c.port p).replay.length ∨ c.on Fd.CHP_FAULT_STS_FAULT then none
  else match (c.port p).txq.find? (fun f => f.v == v) with
    | some f => if c.now ≤ f.tick + 12 then some f else none
    | none => none

/-- A new express flit starts: it takes the next SEQ, its credit returns, the replay buffer keeps it (R356, R361). -/
def Core.startFlit (c : Core) (p : Nat) (f : TxFlit) : Core :=
  let q := (c.port p).seq
  let g : TxFlit := { f with seq := q }
  let c := c.modPort p (fun x => { x with txq := x.txq.erase f, replay := x.replay ++ [g], seq := (q + 1) % 128 })
  (c.wire p (mkFlit (if f.v = 0 then .dec else .def_) q f.tick f.load)).flitCredit p f.v

/-- TIME_EXP in force (R371). -/
def Core.timeExp (c : Core) (p : Nat) : Nat :=
  let e := c.get (Fd.SZL_PORT_CFG_TIME_EXP p)
  if 10 ≤ e ∧ e ≤ 24 then e else 16

/-- A TIME flit is sent (R354): its send time is the present tick, at an eighth the model leaves free. (log 80 DESIGN CHOICE) -/
def Core.sendTime (c : Core) (p : Nat) : Core :=
  let fr := c.free
  let c := fr.2
  let d := match (c.port p).lastD with
    | some d => 2 ^ 67 + twos 32 (clampI (-(2 ^ 31)) (2 ^ 31 - 1) d) * 2 ^ 68
    | none => 0
  (c.wire p (mkFlit .time 0 c.now ((c.now * 8 + fr.1 % 8) % 2 ^ 67 + d))).modPort p (fun x => { x with timeAt := c.now + 2 ^ c.timeExp p })

/-- FLIT_SEND (R350, R355, R356, R360, R361, R363, R370): at a flit boundary the ready flit that stands highest starts: the LINK flit that is the first of all, a NAK, a flit to
resend, DEC, DEF, LINK, TIME, IDLE. In a chip fault no DEC or DEF starts. An IDLE flit is left out while a lane owes delay, and no flit starts while a lane that reached 256 UI of
delay has not repaid it. -/
def execFlitSend (p : Nat) (s : State) : Host.Outcome State Fault Refusal :=
  s.onCore (fun _ c =>
    let x := c.port p
    if !c.svc || !c.portIs p .up then c
    else if c.mustRepay p then c.leaveOut p
    else if x.linkFirst then c.sendLink p false
    else if x.nakDue then c.sendLink p true
    else match (if c.on Fd.CHP_FAULT_STS_FAULT then [] else x.resend) with
      | f :: rest =>
        (c.wire p (mkFlit (if f.v = 0 then .dec else .def_) f.seq f.tick f.load)).modPort p (fun x => { x with resend := rest })
      | [] =>
        match c.readyFlit p 0, c.readyFlit p 1 with
        | some f, _ => c.startFlit p f
        | none, some f => c.startFlit p f
        | none, none =>
          if 32 ≤ x.sinceLink ∨ x.lastLink + 16 ≤ c.now then c.sendLink p false
          else if x.timeAt ≤ c.now then c.sendTime p
          else if c.owes p then c.leaveOut p
          else c.wire p (mkFlit .idle 0 c.now 0))

/-- SEND_LATE (R357): an express flit whose transmission has not started by its send tick + 12 is discarded at the queue. -/
def execSendLate (p v : Nat) (s : State) : Host.Outcome State Fault Refusal :=
  s.onCore (fun _ c =>
    match (c.port p).txq.find? (fun f => f.v == v) with
    | none => c
    | some f =>
      if !c.svc || decide (c.now ≤ f.tick + 12) then c
      else ((c.modPort p (fun x => { x with txq := x.txq.erase f })).flitCredit p v).inc (Fd.SZL_PORT_CNT1_SEND_LATE p) 1)

/-- What a port that leaves UP drops (R367): queued express flits, with their credits, those that wait for a credit, and the replay buffer. -/
def Core.portDrop (c : Core) (p : Nat) : Core :=
  let q := (c.port p).txq
  let c := q.foldl (fun c f => c.bookReturn (bookKey 7 0 (2 * p + f.v))) c
  let n := q.length + (c.port p).want.length
  (c.modPort p (fun x => { x with txq := [], want := [], replay := [], resend := [], nakIn := false, nakCnt := 0, nakDue := false })).inc (Fd.SZL_PORT_CNT1_SEND_DROP p) n

/-- Port `p` goes DOWN: its lanes are in electrical idle (R362, R368). (log 83 DEDUCED) -/
def Core.portDown (c : Core) (p : Nat) : Core :=
  let c := c.portDrop p
  let c := (c.put (Fd.SZL_PORT_STS_TX_MASK p) 0).put (Fd.SZL_PORT_STS_RX_MASK p) 0
  let c := (upFrom 0 6).foldl (fun c l => c.put (Fd.SZL_LANE_STS_ACTIVE p l) 0) c
  (c.modPort p (fun x => { x with downAt := c.now })).portGo p .down

/-- Port `p` enters RECOVERY (R367). -/
def Core.portRecover (c : Core) (p : Nat) : Core := (c.portDrop p).portGo p .recovery

/-! ### Accepting (R358, R360, R187, R188, R199) -/

/-- A flit or a marker is bad, or a flit is out of order: the flit is discarded and the SEQ expected is asked for again, once in 32 ticks (R360). (log 77 DEDUCED) -/
def Core.badFlit (c : Core) (p : Nat) : Core :=
  let x := c.port p
  let again := match x.nakSeq with
    | some (q, t) => q == x.expSeq && decide (c.now < t + 32)
    | none => false
  (c.inc (Fd.SZL_PORT_CNT0_CRC_ERR p) 1).modPort p (fun x => { x with nakDue := x.nakDue || !again })

/-- The send tick that STICK stands for (R358): the tick nearest the present one, the earlier on a tie. -/
def rebuildSend (now stick : Nat) : Nat :=
  let d := (now + 64 - stick % 64) % 64
  if d ≤ 32 then now - d else now + 64 - d

/-- A decision flit accepted in order (R187, R188): it is discarded when its ready tick has passed, by its send tick or, for a decision posted late (R168), by its latch tick. -/
def Core.takeDec (c : Core) (p load : Nat) (late : Bool) : Core :=
  if late || decide (rebuild c.now (load % 65536) + 22 ≤ c.now) then c.inc (Fd.CHP_DEC_STS_REMOTE_LATE p) 1
  else (c.inc (Fd.CHP_DEC_STS_FLITS_RX p) 1).modPort p (fun x => { x with hold := x.hold ++ [(rebuild c.now (load % 65536), load)] })

/-- A defect flit accepted in order (R199): it is held for every region; late, it is discarded and counts in the regions that import from its sender. (log 82 DEDUCED) -/
def Core.takeDef (c : Core) (m : Mems) (p load ready : Nat) (late : Bool) : Core :=
  let f : DefFlit := { port := p, rgn := bitsOf load 0 3, no := bitsOf load 3 8, dfx := bitsOf load 16 32, era := bitsOf load 48 32, tick := ready }
  c.regions.foldl (fun c r =>
    if late then (if (impNeeds m r).contains (f.port, f.rgn) then c.inc (Fd.RGN_SYND_CNT2_IMPORT_LATE r) 1 else c)
    else c.modRgn r (fun x => { x with synd := { x.synd with flits := x.synd.flits ++ [f] } })) c

/-- A flit of port `p` in UP state comes in, and is good and of a type that the command takes; any other has its effect here (R360). -/
def Core.onFlit (c : Core) (p : Nat) (units : List (List Bool)) (takes : Nat → Bool) (f : Core → BitVec 288 → Core) : Core :=
  if !c.svc || !c.portIs p .up then c
  else
    let y := c.rxFlit p units
    match y.2 with
    | none => y.1.badFlit p
    | some flit => if !flitOk flit then y.1.badFlit p else if takes (fType flit) then f y.1 flit else y.1

/-- A good DEC or DEF flit (R358, R360): one with the SEQ expected is accepted; one behind it (by less than half the range) is a duplicate. (log 77 DEDUCED) -/
def Core.takeFlit (c : Core) (m : Mems) (p : Nat) (flit : BitVec 288) : Core :=
  let x := c.port p
  if fSeq flit ≠ x.expSeq then (if 64 ≤ (fSeq flit + 128 - x.expSeq) % 128 then c else c.badFlit p)
  else
    let c := c.modPort p (fun x => { x with expSeq := (x.expSeq + 1) % 128, ackTx := fSeq flit, sinceLink := x.sinceLink + 1 })
    let ready := rebuildSend c.now (fStick flit) + 20
    let late := decide (ready ≤ c.now) || decide (c.now + 20 < ready)
    if fType flit = 0 then c.takeDec p (fLoad flit) late else c.takeDef m p (fLoad flit) ready late

/-- FLIT_ACCEPT (R348, R349, R351, R352, R358, R360): the line bits of a flit have been received. A DEC or DEF flit is taken in SEQ order; an IDLE flit says nothing. -/
def execFlitAccept (p : Nat) (units : List (List Bool)) (s : State) : Host.Outcome State Fault Refusal :=
  s.onCore (fun m c => c.onFlit p units (fun t => decide (t ≤ 1)) (fun c flit => c.takeFlit m p flit))

/-- The replay buffer without the flits that ACKSEQ covers. (log 79 DEDUCED) -/
def ackDrop (ack : Nat) (l : List TxFlit) : List TxFlit := if l.any (fun f => f.seq == ack) then (l.dropWhile (fun f => f.seq != ack)).drop 1 else l

/-- A good LINK flit (R353, R361): ACKSEQ frees the replay buffer; a NAK asks for a replay, the fourth in a row for one SEQ puts the port into RECOVERY. (log 78 DEDUCED) -/
def Core.takeLink (c : Core) (p : Nat) (flit : BitVec 288) : Core :=
  let ack := bitsOf (fLoad flit) 0 7
  let want := (ack + 1) % 128
  let c := c.put (Fd.SZL_PORT_STS_TX_MASK p) (bitsOf (fLoad flit) 8 6)
  let c := c.modPort p (fun x => { x with replay := ackDrop ack x.replay, resend := ackDrop ack x.resend })
  if !bitAt (fLoad flit) 7 then c
  else
    let n := if (c.port p).nakWhich = want then (c.port p).nakCnt + 1 else 1
    let c := c.modPort p (fun x => { x with nakIn := true, nakWhich := want, nakCnt := n })
    if 4 ≤ n then c.portRecover p else c

/-- LINK_FLIT_RX (R353, R360, R361): a LINK flit has been received. -/
def execLinkFlitRx (p : Nat) (units : List (List Bool)) (s : State) : Host.Outcome State Fault Refusal :=
  s.onCore (fun _ c => c.onFlit p units (fun t => t == FlitType.link.code) (fun c flit => c.takeLink p flit))

/-- REPLAY (R361, R370): after a NAK every flit still held is sent again, with its SEQ and STICK; in a chip fault it waits. (log 79 DEDUCED) -/
def execReplay (p : Nat) (s : State) : Host.Outcome State Fault Refusal :=
  s.onCore (fun _ c =>
    if !c.svc || !c.portIs p .up || !(c.port p).nakIn || c.on Fd.CHP_FAULT_STS_FAULT then c
    else (c.modPort p (fun x => { x with nakIn := false, resend := x.replay })).inc (Fd.SZL_PORT_CNT0_REPLAYS p) 1)

/-- A good TIME flit (R354, R369): `arrival` is the arrival time of the flit's first line bit less the fixed delays of both sides, in eighths of a tick. (log 81 DEDUCED) -/
def Core.takeTime (c : Core) (p arrival : Nat) (flit : BitVec 288) : Core :=
  let d : Int := (arrival : Int) - (bitsOf (fLoad flit) 0 67 : Int)
  let c := c.modPort p (fun x => { x with lastD := some d })
  if !bitAt (fLoad flit) 67 then c
  else
    let rem : Int := sx 32 (bitsOf (fLoad flit) 68 32)
    let off : Int := clampI (-32768) 32767 (floorShr (d - rem) 1)
    let fl := (clampI 0 65535 (floorShr (d + rem) 1)).toNat
    let c := (c.putS (Fd.SZL_TIME_OFFSET p) off).put (Fd.SZL_TIME_FLIGHT p) fl
    let bad := decide (off ≤ -6) || decide (6 ≤ off)
    let first := bad && !c.on (Fd.SZL_PORT_STS_OFFSET_ERR p)
    let c := (c.stick (Fd.SZL_PORT_STS_OFFSET_ERR p) bad).stick (Fd.SZL_PORT_STS_FLIGHT_ERR p) (decide (32 < fl))
    c.raiseIf first 0x92 7 p (twos 64 off) fl

/-- TIME_FLIT_RX (R354, R369): a TIME flit has been received. -/
def execTimeFlitRx (p : Nat) (units : List (List Bool)) (arrival : Nat) (s : State) : Host.Outcome State Fault Refusal :=
  s.onCore (fun _ c => c.onFlit p units (fun t => t == FlitType.time.code) (fun c flit => c.takeTime p arrival flit))

/-- Does the marker `a` carry MARK, the lane's number and the neighbour's port (R351)? -/
def Core.markerOk (c : Core) (p l a : Nat) : Bool :=
  bitsOf a 0 24 == 0x4B3CD2 && bitsOf a 24 3 == c.get (Fd.SZL_LANE_STS_LOGICAL p l) && bitsOf a 27 2 == c.get (Fd.SZL_PORT_STS_PEER_PORT p)

/-- ALIGNMENT_MARKER (R349, R351, R360, R367): the line bits of a marker have been received on physical lane `l`. Its BIP is held against the parity of the lane's line bits since
the marker before. (log 78 DEDUCED) -/
def execAlignmentMarker (p l : Nat) (bits : List Bool) (s : State) : Host.Outcome State Fault Refusal :=
  s.onCore (fun _ c =>
    if !c.svc || !c.portIs p .up || !c.on (Fd.SZL_LANE_STS_ACTIVE p l) then c
    else
      let old := (c.port p).rxLine l
      let y := old.marker (c.upright p l bits)
      let a := y.2.1.getD 0
      let c := (c.modPort p (fun x => x.setRx l y.1)).inc (Fd.SZL_LANE_CNT_STUFF_ERR p l) y.2.2
      if c.markerOk p l a then
        let c := c.modPort p (fun x => { x with markErr := Tbl.erase x.markErr l })
        if bitsOf a 30 8 = old.bip then c
        else
          (c.inc (Fd.SZL_LANE_CNT_BIP_ERR p l) 1).modPort p (fun x =>
            { x with bipErr := x.bipErr.filter (fun e => decide (c.now < e.2 + 1000 * ticksPerUs)) ++ [(l, c.now)] })
      else
        (c.modPort p (fun x => { x with markErr := Tbl.insert x.markErr l (Tbl.get (fun _ => 0) x.markErr l + 1) })).badFlit p)

/-! ### Training (R363, R364) -/

/-- MIN_LANES in force (R371). -/
def Core.minLanes (c : Core) (p : Nat) : Nat :=
  let n := c.get (Fd.SZL_PORT_CFG_MIN_LANES p)
  if 3 ≤ n ∧ n ≤ 6 then n else 4

/-- The CRC of bits [87:0] of a training set. (log 60 DEDUCED) -/
def tsCrc (x : Nat) : Nat := crcBits 8 0x07 0x00 (bitsUp x 88)

/-- A training set (R363): KIND, TXLANE, TXPORT, NODE_ID, SEED, RXMASK, with its CRC and FILL. -/
def tsWord (kind lane port node seed mask : Nat) : BitVec 192 :=
  let x := 0xE34AB1 + kind * 2 ^ 24 + lane * 2 ^ 26 + port * 2 ^ 29 + node * 2 ^ 32 + seed * 2 ^ 48 + mask * 2 ^ 80
  BitVec.ofNat 192 (x + tsCrc x * 2 ^ 88 + (2 * (2 ^ 96 - 1) / 3) * 2 ^ 96)

/-- Is a lane whose training set reads `t` at the balls inverted: MARK comes in complemented (R363)? -/
def tsInverted (t : BitVec 192) : Bool := bitsOf t.toNat 0 24 == 2 ^ 24 - 1 - 0xE34AB1

/-- A training set put right for its lane's polarity. -/
def tsUpright (inv : Bool) (t : BitVec 192) : Nat := if inv then (~~~t).toNat else t.toNat

/-- A training set of a KIND with MARK and a good CRC (R363). -/
def tsGood (kind t : Nat) : Bool := bitsOf t 0 24 == 0xE34AB1 && bitsOf t 24 2 == kind && bitsOf t 88 8 == tsCrc (t % 2 ^ 88)

/-- Is physical lane `l` inverted (R363)? -/
def trInv (tr : PortTrain) (l : Nat) : Bool := tsInverted (tr.ts1.getD l 0)

/-- The training set TS1 or TS2 of physical lane `l`, put right. -/
def trTs (tr : PortTrain) (kind l : Nat) : Nat := tsUpright (trInv tr l) ((if kind = 1 then tr.ts1 else tr.ts2).getD l 0)

/-- Physical lane `l` has locked and reads a good TS1. -/
def trReads (tr : PortTrain) (l : Nat) : Bool := bitAt tr.locked.toNat l && tsGood 1 (trTs tr 1 l)

/-- TXLANE of physical lane `l`. -/
def trLane (tr : PortTrain) (l : Nat) : Nat := bitsOf (trTs tr 1 l) 26 3

/-- The lanes that fit a map: `rev` is the reversed one. (log 84 DEDUCED) -/
def mapLanes (tr : PortTrain) (excl : Nat) (rev : Bool) : List Nat :=
  (upFrom 0 6).filter (fun l => trReads tr l && !bitAt excl l && trLane tr l == (if rev then 5 - l else l))

/-- TXPORT and NODE_ID of the neighbour, from the first lane that reads a TS1. -/
def trPeer (tr : PortTrain) : Nat × Nat :=
  let t := trTs tr 1 (((upFrom 0 6).filter (trReads tr)).headD 0)
  (bitsOf t 29 2, bitsOf t 32 16)

/-- RXMASK of the neighbour, from the TS2 of the first of `lanes`. -/
def trMask (tr : PortTrain) (lanes : List Nat) : Nat := bitsOf (trTs tr 2 (lanes.headD 0)) 80 6

/-- The seed that lane `l`'s transmitter has chosen, from its TS2. -/
def trSeed (tr : PortTrain) (l : Nat) : Nat := bitsOf (trTs tr 2 l) 48 31

/-- `n` fresh free values. -/
def Core.frees (c : Core) (n : Nat) : List Nat × Core := ((upFrom 0 n).map (fun i => Config.freeNat (c.freeCtr + i)), { c with freeCtr := c.freeCtr + n })

/-- Do equaliser values lie within their ranges and the limits of `SZL_EQ_LIM` (R365)? (log 84 DEDUCED) -/
def Core.eqInLimits (c : Core) (p : Nat) (v : List Int) : Bool :=
  let ctle := v.getD 0 0
  let d1 := v.getD 1 0
  let lim : Int := min 63 (c.get (Fd.SZL_EQ_LIM_DFE1_LIM p))
  decide ((c.get (Fd.SZL_EQ_LIM_CTLE_MIN p) : Int) ≤ ctle) && decide (ctle ≤ (c.get (Fd.SZL_EQ_LIM_CTLE_MAX p) : Int)) && decide (-lim ≤ d1) && decide (d1 ≤ lim)
    && (v.drop 2).all (fun d => decide (-31 ≤ d) && decide (d ≤ 31))

/-- The equaliser fields of a lane: CTLE and the five taps. -/
def eqFields (p l : Nat) : List Fld :=
  [Fd.SZL_LANE_EQ_CTLE p l, Fd.SZL_LANE_EQ_DFE1 p l, Fd.SZL_LANE_EQ_DFE2 p l, Fd.SZL_LANE_EQ_DFE3 p l, Fd.SZL_LANE_EQ_DFE4 p l, Fd.SZL_LANE_EQ2_DFE5 p l]

/-- Checked equaliser values of lane `l` with the eye they were found with (R365, R372, R408). -/
def eqAccept (m : Mems) (c : Core) (p l : Nat) (v : List Int) (eyeH eyeW : Nat) : Mems × Core :=
  let c := ((eqFields p l).zip v).foldl (fun c e => c.putS e.1 e.2) c
  almAccept m c (almSzl p l)
    { v0 := BitVec.ofNat 32 (c.liveW (Fd.SZL_LANE_EQ p l)), v1 := BitVec.ofNat 32 (min 255 eyeH + min 63 eyeW * 2 ^ 8),
      v2 := BitVec.ofNat 32 (c.liveW (Fd.SZL_LANE_EQ2 p l)), v3 := 0 }

/-- Initial adaptation of an active lane (R363): the values it finds and their eye are open (free values within their ranges). They are checked before they apply (R365, R392);
values that fail are discarded. (log 83 DEDUCED) -/
def laneEq (m : Mems) (c : Core) (p l : Nat) : Mems × Core :=
  if c.on (Fd.SZL_LANE_EQ_MAN p l) then (m, c)
  else
    let f := c.frees 8
    let z := fun (i n : Nat) => f.1.getD i 0 % n
    let tap := fun (i n : Nat) => (z i (2 * n + 1) : Int) - (n : Int)
    let v : List Int := [(z 0 16 : Int), tap 1 63, tap 2 31, tap 3 31, tap 4 31, tap 5 31]
    if !f.2.eqInLimits p v || decide (z 7 64 < c.get (Fd.SZL_EQ_LIM_SEE_MIN p)) then almRefuse m f.2 (almSzl p l)
    else eqAccept m f.2 p l v (z 6 256) (z 7 64)

/-- What training finds is entered: masks, map, neighbour, lanes (R363, R364). -/
def Core.trained (c : Core) (p : Nat) (tr : PortTrain) (rev : Bool) (lanes : List Nat) : Core :=
  let peer := trPeer tr
  let c := (c.put (Fd.SZL_PORT_STS_TX_MASK p) (trMask tr lanes)).put (Fd.SZL_PORT_STS_RX_MASK p) (flagsOf 6 (fun l => lanes.contains l))
  let c := ((c.setOn (Fd.SZL_PORT_STS_REVERSED p) rev).put (Fd.SZL_PORT_STS_PEER_PORT p) peer.1).put (Fd.SZL_PORT_PEER_PEER_ID p) peer.2
  let c := (upFrom 0 6).foldl (fun c l =>
    let c := c.setOn (Fd.SZL_LANE_STS_ACTIVE p l) (lanes.contains l)
    if !trReads tr l then c
    else
      let c := (c.setOn (Fd.SZL_LANE_STS_POL_INV p l) (trInv tr l)).put (Fd.SZL_LANE_STS_LOGICAL p l) (trLane tr l)
      if lanes.contains l || bitAt (c.port p).excl l then c else c.put (Fd.SZL_LANE_STS_DROP_CAUSE p l) 5) c
  let wrong := peer.1 != (p + 2) % 4
  (c.stick (Fd.SZL_PORT_STS_ORIENT_ERR p) wrong).raiseIf wrong 0x94 7 p peer.1 peer.2

/-- Scrambler seeds: not zero, taken from the free-running generator (R348). (log 15 DESIGN CHOICE) -/
def Core.newSeeds (c : Core) : List (BitVec 31) :=
  (upFrom 0 6).map (fun l => let v := Config.freeSeed (6 * c.freeCtr + l); if v = 0 then 1 else v)

/-- The training sets that port `p` sends on its lanes (R363): TS1; where lanes fit, TS2 with the seeds and the lanes received; with a TS2 from each of those, TS3 on the lanes the
neighbour receives, one entry for the 16 of a lane. (log 171 DEDUCED) -/
def Core.tsSent (c : Core) (p : Nat) (seeds : List (BitVec 31)) (lanes tx : List Nat) : List (Nat × BitVec 192) :=
  let node := c.get Fd.SZL_NODE_ID
  let mask := flagsOf 6 (fun l => lanes.contains l)
  let ts := fun (k l : Nat) => (l, tsWord k l p node (if k = 1 then 0 else (seeds.getD l 0).toNat) (if k = 1 then 0 else mask))
  (upFrom 0 6).map (ts 1) ++ (if lanes = [] then [] else (upFrom 0 6).map (ts 2)) ++ tx.map (ts 3)

/-- The last step of training (R363): with the receive lanes at their transmitters' seeds, a marker comes in on every lane and then a good LINK flit. The block, and whether both
have come. -/
def Core.firstFlit (c : Core) (p : Nat) (tr : PortTrain) (lanes : List Nat) : Core × Bool :=
  let ams := lanes.map (fun l => (l, ((c.port p).rxLine l).marker (c.upright p l (tr.ams.getD l []))))
  let good := ams.all (fun e => c.markerOk p e.1 (e.2.2.1.getD 0))
  let y := (c.modPort p (fun x => ams.foldl (fun x e => x.setRx e.1 e.2.1) x)).rxFlit p tr.link
  (y.1, good && (match y.2 with
    | some f => flitOk f && fType f == FlitType.link.code
    | none => false))

/-- Port `p` trains with what its receiver hears (R363): it comes UP, or stays DOWN. (log 83 DEDUCED) -/
def trainPort (m : Mems) (c : Core) (p : Nat) (tr : PortTrain) : Mems × Core :=
  let seeds := c.newSeeds
  let c := c.free.2
  if !tr.heard then (m, (c.modPort p (fun x => { x with ts := c.tsSent p seeds [] [] })).portDown p)
  else
    let excl := (c.port p).excl
    let dir := mapLanes tr excl false
    let rev := mapLanes tr excl true
    let isRev := decide (dir.length < rev.length)
    let lanes := if isRev then rev else dir
    let heard2 := lanes.all (fun l => tsGood 2 (trTs tr 2 l))
    let tx := if heard2 then (upFrom 0 6).filter (bitAt (trMask tr lanes)) else []
    let ts := c.tsSent p seeds lanes tx
    let c := c.trained p tr isRev lanes
    let n := c.minLanes p
    let x := c.port p
    let c := c.setPort p { Port.init with sent := x.sent, hold := x.hold, excl := x.excl, downAt := x.downAt, ts := ts, seeds := seeds, linkFirst := true, timeAt := c.now,
                                          lines := seeds.zipIdx.map (fun e => (TxLine.init e.1.toNat).marker p e.2), rx := (upFrom 0 6).map (fun l => RxLine.init (trSeed tr l)) }
    let y := c.firstFlit p tr lanes
    if lanes.length < n ∨ tx.length < n ∨ y.2 = false then (m, (c.modPort p (fun _ => { x with ts := ts })).portDown p)
    else
      let z := lanes.foldl (fun (a : Mems × Core) l => laneEq a.1 a.2 p l) (m, y.1)
      (z.1, z.2.portGo p .up)

/-- PORT_TRAINING (R362-R364): training of port `p` ends. (log 84 DEDUCED) -/
def execPortTraining (p : Nat) (tr : PortTrain) (s : State) : Host.Outcome State Fault Refusal :=
  s.onBoth (fun m c => if c.svc && c.portIs p .training then trainPort m c p tr else (m, c))

/-- LANE_FAIL (R367): receive lane `l` fails for a cause of R372 that the port has seen: 1 loss of CDR lock, 2 two marker errors in a row, 3 a low eye in three periods, 4 too many
BIP errors in a millisecond. -/
def execLaneFail (p l : Nat) (cause : Nat) (s : State) : Host.Outcome State Fault Refusal :=
  s.onCore (fun _ c =>
    let x := c.port p
    let seen := if cause = 1 then true
      else if cause = 2 then decide (2 ≤ Tbl.get (fun _ => 0) x.markErr l)
      else if cause = 3 then decide (3 ≤ Tbl.get (fun _ => 0) x.eyeLow l)
      else if cause = 4 then decide (c.get (Fd.SZL_EQ_LIM_BIP_MAX p) < (x.bipErr.filter (fun e => e.1 == l && decide (c.now < e.2 + 1000 * ticksPerUs))).length)
      else false
    if !c.svc || !c.portIs p .up || !c.on (Fd.SZL_LANE_STS_ACTIVE p l) || !seen then c
    else
      let c := (c.put (Fd.SZL_LANE_STS_ACTIVE p l) 0).put (Fd.SZL_LANE_STS_DROP_CAUSE p l) cause
      let c := c.raise 0x91 7 p l cause
      (c.modPort p (fun x => { x with excl := Nat.lor x.excl (2 ^ l) })).portRecover p)

/-- RECOVERY_END (R367): retraining without the failed lanes ends, UP or DOWN. -/
def execRecoveryEnd (p : Nat) (tr : PortTrain) (s : State) : Host.Outcome State Fault Refusal :=
  s.onBoth (fun m c => if c.svc && c.portIs p .recovery then trainPort m c p tr else (m, c))

/-- PORT_RETRY (R362, R371): RETRY ms after it went DOWN an enabled port trains again, with all lanes. (log 85 DEDUCED) -/
def execPortRetry (p : Nat) (s : State) : Host.Outcome State Fault Refusal :=
  s.onCore (fun _ c =>
    let x := c.port p
    let wait := max 1 (c.get (Fd.SZL_PORT_CFG_RETRY p)) * 1000 * ticksPerUs
    if c.svc && c.portIs p .down && c.on (Fd.SZL_PORT_CFG_EN p) && !x.downReq && decide (x.downAt + wait ≤ c.now) then
      (c.modPort p (fun x => { x with excl := 0 })).portGo p .training
    else c)

/-- RETRAIN (R367, R368, R371): a write of `SZL_PORT_CTL.RETRAIN`: training from step 1 with all lanes. -/
def execRetrain (p : Nat) (s : State) : Host.Outcome State Fault Refusal :=
  s.onCore (fun _ c =>
    if c.svc && decide (p < 4) && c.on (Fd.SZL_PORT_CFG_EN p) then
      ((c.portDrop p).modPort p (fun x => { x with excl := 0, downReq := false })).portGo p .training
    else c)

/-- DOWN (R368): a write of `SZL_PORT_CTL.DOWN`; the port stays DOWN until RETRAIN. -/
def execDown (p : Nat) (s : State) : Host.Outcome State Fault Refusal :=
  s.onCore (fun _ c => if c.svc && decide (p < 4) then (c.portDown p).modPort p (fun x => { x with downReq := true }) else c)

/-! ### Equalisation (R365, R366) -/

/-- One step from `a` towards `b`. -/
def towards (a b : Int) : Int := if a < b then a + 1 else if b < a then a - 1 else a

/-- EQ_UPDATE (R365, R366): an update period of lane `l` ends. `est` are the values that the LMS estimate points to (CTLE, DFE1-DFE5), `eyeH` and `eyeW` what the seeing monitor
has found. (log 84 DEDUCED, 85 DEDUCED) -/
def execEqUpdate (p l : Nat) (est : List Int) (eyeH eyeW : Nat) (s : State) : Host.Outcome State Fault Refusal :=
  s.onBoth (fun m c =>
    let x := c.port p
    let period := 2 ^ c.get (Fd.SZL_EQ_CTL_RATE p) * 10 * ticksPerUs
    if !c.svc || !c.portIs p .up || !c.on (Fd.SZL_LANE_STS_ACTIVE p l) || decide (c.now < Tbl.get (fun _ => 0) x.eqAt l + period) then (m, c)
    else
      let low := decide (eyeW < c.get (Fd.SZL_EQ_LIM_SEE_MIN p))
      let c := (c.put (Fd.SZL_LANE_STS_EYE_H p l) (min 255 eyeH)).put (Fd.SZL_LANE_STS_EYE_W p l) (min 63 eyeW)
      let c := c.modPort p (fun x => { x with eqAt := Tbl.insert x.eqAt l c.now,
                                              eyeLow := if low then Tbl.insert x.eyeLow l (Tbl.get (fun _ => 0) x.eyeLow l + 1) else Tbl.erase x.eyeLow l })
      if !c.on (Fd.SZL_EQ_CTL_EN p) || c.on (Fd.SZL_LANE_EQ_MAN p l) then (m, c)
      else
        let fs := eqFields p l
        let cur : List Int := fs.map (fun f => if f.w = 4 then (c.get f : Int) else c.getS f)
        let new := (cur.zip est).map (fun e => towards e.1 e.2) ++ cur.drop est.length
        let inLim := c.eqInLimits p new
        if !inLim || low then
          let y := almRefuse m c (almSzl p l)
          (y.1, y.2.raise 0x93 7 p l (b2n (!inLim) + 2 * b2n low))
        else if c.on (Fd.SZL_EQ_CTL_FREEZE p) then (m, c)
        else eqAccept m c p l new eyeH eyeW)

end Sys2Proof.Machine
end

