-- ==== Sys2Proof/Machine/TimePort.lean ====
section
/-!
DEFINITION. The time port (R375-R390): network time and its servo, frames and their stamps, pulse per second.
-/
namespace Sys2Proof.Machine

/-! ### Network time (R377, R378, R381, R382) -/

/-- OFF in force at tick `t`, in 2^-32 ns: a change at tick U governs from U + 1. (log 88 DEDUCED) -/
def Core.offAt (c : Core) (t : Nat) : Int :=
  match (c.tpt.offLog.filter (fun e => decide (t ≤ e.1))).getLast? with
  | some e => e.2
  | none => c.tpt.off

/-- Network time, in 2^-32 ns, at `q` quarters of a nanosecond of the meridian (a tick is eight). -/
def Core.ntAt (c : Core) (q : Nat) : Int := (q : Int) * 2 ^ 30 + c.offAt (q / 8)

/-- The stamp of an instant (R379): whole nanoseconds modulo 2^32. -/
def Core.stampAt (c : Core) (q : Nat) : Nat := twos 32 (floorShr (c.ntAt q) 32)

/-- The log of OFF with its value before a change at this tick; stamps reach back 8,192 ticks at most (RX_LAT). -/
def Core.offKept (c : Core) : List (Nat × Int) :=
  let l := c.tpt.offLog.filter (fun e => decide (c.now ≤ e.1 + 8192))
  if l.any (fun e => e.1 == c.now) then l else (c.now, c.tpt.off) :: l

/-- OFF changes at this tick: it governs from the next one. Until SET has made network time valid it stays 0 (R378). (log 87 DEDUCED, 88 DEDUCED) -/
def Core.setOff (c : Core) (x : Int) : Core :=
  if !c.on Fd.TPT_STS_NT_VALID || decide (x = c.tpt.off) then c else { c with tpt := { c.tpt with off := sx 96 (twos 96 x), offLog := c.offKept } }

/-- A second in 2^-32 ns. -/
def secUnits : Int := 1000000000 * 2 ^ 32

/-- Network time plus DELAY at the start of tick `t`, with OFF `x`. -/
def Core.ppsTime (c : Core) (t : Nat) (x : Int) : Int := (2 * t : Nat) * 2 ^ 32 + x + c.getS Fd.TPT_PPS_DLY_DELAY * 2 ^ 32

/-- The second that it has reached. -/
def Core.secAt (c : Core) (t : Nat) (x : Int) : Int := c.ppsTime t x / secUnits

/-- PPS_OUT follows network time (R386). -/
def Core.ppsNet (c : Core) : Bool := c.on Fd.TPT_PPS_CFG_OUT_EN && !c.on Fd.TPT_PPS_CFG_OUT_SRC && c.on Fd.TPT_STS_NT_VALID

/-- Does a change of OFF to `x` at this tick carry network time forward past a second boundary that has not been pulsed and that no instant of this tick reaches (R386)? -/
def Core.ppsPast (c : Core) (x : Int) : Bool :=
  let t := c.now + 1
  c.ppsNet && decide (c.tpt.off < x) && decide ((c.ppsTime t c.tpt.off - 1) / secUnits < c.secAt t x) && !c.tpt.secs.contains (c.secAt t x)

/-- OFF becomes `x`; past a second boundary the pulse of that second starts at the next tick (R386). -/
def Core.moveOff (c : Core) (x : Int) : Core :=
  let c := if c.ppsPast x then { c with tpt := { c.tpt with jumpAt := some (c.now + 1) } } else c
  c.setOff x

/-- A correction of OFF; one past a second boundary sets PPS_STEP (R386). -/
def Core.correct (c : Core) (x : Int) : Core := (c.stick Fd.TPT_STS_PPS_STEP (c.ppsPast x)).moveOff x

/-- DRIFT of the present tick is added to OFF, once a tick. -/
def Core.driftTick (c : Core) : Core :=
  if c.tpt.driftAt = some c.now then c
  else
    let c := c.moveOff (c.tpt.off + c.getS Fd.TPT_DRIFT_DRIFT)
    { c with tpt := { c.tpt with driftAt := some c.now } }

/-- DRIFT_TICK (R377): each tick DRIFT is added to OFF. (log 88 DEDUCED) -/
def execDriftTick (s : State) : Host.Outcome State Fault Refusal := s.onCore (fun _ c => if c.svc && c.running then c.driftTick else c)

/-- The servo handles a measured error `x` (R381): it is refused in HOLD or beyond LIMIT, else applied. A write of `TPT_DRIFT` in the same tick takes effect, and not the servo's value
(R460). (log 172 DEDUCED) -/
def Core.servo (c : Core) (x : Int) : Core :=
  if c.on Fd.TPT_STS_HOLD then c.inc Fd.TPT_CNT2_REFUSED 1
  else if c.get Fd.TPT_JUMP_LIMIT < x.natAbs then
    (((c.put Fd.TPT_STS_HOLD 1).putS Fd.TPT_HELD_HELD x).inc Fd.TPT_CNT2_REFUSED 1).raise 0x70 0 0 (twos 64 x) 0
  else
    let y := x * 2 ^ 32
    let d := clampI (-(2 ^ 31 - 1)) (2 ^ 31 - 1) (c.getS Fd.TPT_DRIFT_DRIFT - floorShr y (c.get Fd.TPT_SERVO_CTL_KI_SHIFT))
    let c := c.correct (c.tpt.off - floorShr y (c.get Fd.TPT_SERVO_CTL_KP_SHIFT))
    if c.tpt.driftWr = some c.now then c else c.putS Fd.TPT_DRIFT_DRIFT d

/-- TPT_CORR (R381, R382): a measured error `e` is submitted to the servo, which handles it once a SET and an ACCEPT of this tick have acted. (log 88 DEDUCED) -/
def execTptCorr (be : BitVec 4) (e : Word) (s : State) : Host.Outcome State Fault Refusal :=
  s.onCore (fun _ c =>
    if !c.bar0 Fd.TPT_CORR || !c.svc || !c.on Fd.TPT_SERVO_CTL_EN || be == 0 then c
    else { c with tpt := { c.tpt with corrs := c.tpt.corrs ++ [(e &&& BitVec.ofNat 32 (enMask be)).toInt] } })

/-- ACCEPT (R382): the held error is applied in full and HOLD ends. Outside HOLD there is nothing to apply. (log 87 DEDUCED) -/
def execAccept (s : State) : Host.Outcome State Fault Refusal :=
  s.onCore (fun _ c =>
    if c.svc && c.on Fd.TPT_STS_HOLD then (c.correct (c.tpt.off - c.getS Fd.TPT_HELD_HELD * 2 ^ 32)).put Fd.TPT_STS_HOLD 0 else c)

/-- SET (R378, R382): OFF is loaded, with a zero fraction; HOLD ends. (log 87 DEDUCED) -/
def execSet (s : State) : Host.Outcome State Fault Refusal :=
  s.onCore (fun _ c =>
    if !c.svc then c
    else
      let v := sx 64 (c.get Fd.TPT_SET_LO_SET + c.get Fd.TPT_SET_HI_SET * 2 ^ 32) * 2 ^ 32
      let c := (c.stick Fd.TPT_STS_PPS_STEP (c.ppsPast v)).moveOff v
      ((c.put Fd.TPT_STS_NT_VALID 1).setOff v).put Fd.TPT_STS_HOLD 0)

/-! ### Frames (R375, R376, R383-R385) -/

/-- Byte `i` of a frame. -/
def fb (f : List Byte) (i : Nat) : Nat := (f.getD i 0).toNat
/-- The 16-bit big-endian field at byte `i`. -/
def fb16 (f : List Byte) (i : Nat) : Nat := fb f i * 256 + fb f (i + 1)

/-- One 802.1Q tag is present. -/
def tagged (f : List Byte) : Bool := fb16 f 12 == 0x8100
/-- Where the Ethertype stands. -/
def etherAt (f : List Byte) : Nat := if tagged f then 16 else 12
/-- The Ethertype. -/
def ether (f : List Byte) : Nat := fb16 f (etherAt f)

/-- Where the UDP header of a UDP/IPv4 frame stands. -/
def udpAt (f : List Byte) : Option Nat :=
  let a := etherAt f + 2
  if ether f = 0x0800 ∧ fb f a / 16 = 4 ∧ fb f (a + 9) = 17 then some (a + fb f a % 16 * 4) else none

/-- The destination port of a UDP/IPv4 frame. -/
def udpPort (f : List Byte) : Option Nat := (udpAt f).map (fun u => fb16 f (u + 2))

/-- Where the PTP header of a recognised PTP event message stands (R375). -/
def ptpAt (f : List Byte) : Option Nat :=
  let a := if ether f = 0x88F7 then some (etherAt f + 2) else if udpPort f = some 319 then (udpAt f).map (fun u => u + 8) else none
  match a with
  | some x => if fb f x % 16 ≤ 3 then some x else none
  | none => none

/-- Frame bytes without FCS that a frame may have (R375, R383). (log 86 DEDUCED) -/
def lenOk (n : Nat) (vlan : Bool) : Bool := decide (60 ≤ n) && decide (n ≤ (if vlan then 1518 else 1514))

/-- A transmit stamp joins the queue, or is dropped when 16 wait (R385). -/
def Core.pushStamp (c : Core) (x : TxStamp) : Core :=
  if 16 ≤ c.tpt.txts.length then (c.put Fd.TPT_STS_TX_STAMP_OVF 1).inc Fd.TPT_CNT2_TXTS_DROP 1
  else
    let c := { c with tpt := { c.tpt with txts := c.tpt.txts ++ [x] } }
    (c.put Fd.TPT_STS_TXTS_LEVEL c.tpt.txts.length).raiseIf (c.on Fd.TPT_CFG_TXTS_EV) 0x71 0 0 x.ns (x.seqId + x.tag * 2 ^ 16)

/-- The stamps whose instant lies in this tick or earlier are taken and join the queue (R379, R385): at the tick's end, so that a pop of this tick acts first. (log 88 DEDUCED) -/
def Core.takeStamps (c : Core) : Core :=
  let due := c.tpt.stamps.filter (fun e => decide (e.1 / 8 ≤ c.now))
  if due.isEmpty then c
  else
    due.foldl (fun c e => c.pushStamp { e.2 with ns := c.stampAt e.1 })
      { c with tpt := { c.tpt with stamps := c.tpt.stamps.filter (fun e => !decide (e.1 / 8 ≤ c.now)) } }

/-- What a tick's end brings in the time port: the errors submitted are judged, the stamps taken. -/
def Core.timeEnd (c : Core) : Core :=
  let es := c.tpt.corrs
  (if es.isEmpty then c else es.foldl Core.servo { c with tpt := { c.tpt with corrs := [] } }).takeStamps

/-- TX_FRAME (R379, R383, R385): the oldest fetched entry of the TPT_TX ring is sent; `frame` is what was read from host memory, `quarter` the quarters of a nanosecond in this
tick at which the timestamp point is reached inside. Its stamp is taken when the instant that TX_LAT corrects to has come. (log 91 DEDUCED) -/
def execTxFrame (frame : Option (List Byte)) (quarter : Nat) (s : State) : Host.Outcome State Fault Refusal :=
  s.onCore (fun _ c =>
    match c.tpt.txq with
    | [] => c
    | (n, i, d) :: rest =>
      if !c.svc || c.on Fd.CHP_BOOT_STS_NO_TIME || c.on Fd.CHP_FAULT_STS_FAULT then c
      else
        let c := { c with tpt := { c.tpt with txq := rest } }
        let len := dField d 16 0 11
        if !lenOk len (dField d 0 2 1 == 1) || !c.on Fd.TPT_STS_LINK_UP then c.inc Fd.TPT_CNT1_TX_DROP 1
        else match dataOf frame len with
          | none => c.ringErr n 3 i
          | some f =>
            let c := ({ c with tpt := { c.tpt with sent := c.tpt.sent ++ [f ++ toLE 4 (crc32 f)] } }).inc Fd.TPT_CNT1_TX_FRAMES 1
            if dField d 0 1 1 = 0 then c
            else
              let p := ptpAt f
              let x : TxStamp := { ns := 0, tag := dField d 2 0 16, ptp := p.isSome,
                                   seqId := match p with
                                            | some x => fb16 f (x + 30)
                                            | none => 0,
                                   mtype := match p with
                                            | some x => fb f x % 16
                                            | none => 0 }
              { c with tpt := { c.tpt with stamps := c.tpt.stamps ++ [(c.now * 8 + quarter % 8 + c.get Fd.TPT_LAT_TX_LAT, x)] } })

/-- Is a good received frame delivered (R375, R376)? -/
def Core.rxWanted (c : Core) (f : List Byte) : Bool :=
  let pause := ether f == 0x8808 && fb16 f (etherAt f + 2) == 1
  let ptp := ether f == 0x88F7 || udpPort f == some 319 || udpPort f == some 320
  !pause && (!c.on Fd.TPT_CFG_PTP_ONLY || ptp)

/-- RX_FRAME (R376, R379, R384): a frame, given without its FCS, has been received; `quarter` as for TX_FRAME. (log 86 DEDUCED) -/
def execRxFrame (frame : List Byte) (fcsOk : Bool) (quarter : Nat) (s : State) : Host.Outcome State Fault Refusal :=
  s.onCore (fun _ c =>
    let n := frame.length
    let z := c.get Fd.TPT_CFG_RX_SPOOL
    let ring := c.get Fd.TPT_CFG_RX_RING
    let pad := ceilDiv n 64 * 64
    if !c.svc || !c.on Fd.TPT_CFG_EN || !c.on Fd.TPT_STS_LINK_UP then c
    else if !fcsOk then c.inc Fd.TPT_CNT2_FCS_ERR 1
    else if n < 60 then c
    else if !lenOk n (tagged frame) || !c.rxWanted frame || !c.devSpool z || (c.ring z).stopped || c.spoolHeld z 33 || decide ((c.ring z).free < pad) || !c.canWrite ring .tptRx then c.inc Fd.TPT_CNT0_RX_DROP 1
    else
      let ns := c.stampAt (c.now * 8 + quarter % 8 - c.get Fd.TPT_LAT_RX_LAT)
      let p := ptpAt frame
      let mt := match p with
        | some x => fb frame x % 16
        | none => 0
      let sq := match p with
        | some x => fb16 frame (x + 30)
        | none => 0
      let off := (c.ring z).p
      let w := 2 * b2n p.isSome + 4 * b2n (tagged frame) + mt * 2 ^ 4 + sq * 2 ^ 16
      let c := c.spoolWrite z (frame ++ List.replicate (pad - n) 0)
      (c.putEntry ring (toLE 4 w ++ toLE 4 ns ++ toLE 8 off ++ toLE 8 n ++ toLE 8 c.now ++ List.replicate 32 0)).inc Fd.TPT_CNT0_RX_FRAMES 1)

/-- The head of the stamp queue is taken and captured (R385): what a read of `TPT_TXTS_LO` returns. Of an empty queue only VALID = 0 is stated: the rest is free. (log 89 DESIGN CHOICE) -/
def Core.popStamp (c : Core) : Nat × Core :=
  let keep := fun (c : Core) (hi flg : Nat) =>
    ({ c with host := { c.host with capture := Tbl.insert (Tbl.insert c.host.capture Fd.TPT_TXTS_HI hi) Fd.TPT_TXTS_FLG flg } } : Core)
  match c.tpt.txts with
  | [] =>
    let f1 := c.free
    let f2 := f1.2.free
    let f3 := f2.2.free
    (f1.1 % 2 ^ 32, keep f3.2 (f2.1 % 2 ^ 32) (f3.1 % 32))
  | x :: rest =>
    let c := { c with tpt := { c.tpt with txts := rest } }
    (x.ns, keep (c.put Fd.TPT_STS_TXTS_LEVEL rest.length) (x.seqId + x.tag * 2 ^ 16) (x.mtype + 16 * b2n x.ptp + 32))

/-- TXTS_POP (R385): a read of `TPT_TXTS_LO`. (log 89 DESIGN CHOICE) -/
def execTxtsPop (s : State) : Host.Outcome State Fault Refusal :=
  s.onCore (fun _ c =>
    if !c.bar0 Fd.TPT_TXTS_LO then c.emit .unsupported
    else
      let y := c.popStamp
      y.2.emit (.readAns (toLE 4 y.1) false))

/-! ### Pulse per second and the link (R386-R390) -/

/-- The pulse that starts now: its edge in 1/24 tick and the second it marks, if one starts (R386). -/
def Core.ppsStart (c : Core) : Option (Nat × Option Int) :=
  if c.on Fd.TPT_PPS_CFG_OUT_SRC then (if c.running && c.now % 500000000 == 0 then some (c.now * 24, none) else none)
  else if !c.on Fd.TPT_STS_NT_VALID then none
  else
    let x := c.offAt c.now
    let here := c.secAt c.now x
    if c.tpt.jumpAt = some c.now ∧ c.tpt.secs.contains here = false then some (c.now * 24, some here)
    else
      let nt := c.ppsTime c.now x
      let k := -((-nt) / secUnits)
      let d := k * secUnits - nt
      if d < 2 * 2 ^ 32 ∧ c.tpt.secs.contains k = false then some (c.now * 24 + ((d * 24 + 2 ^ 32) / (2 * 2 ^ 32)).toNat, some k) else none

/-- PPS_OUT (R386, R388): a pulse starts at a second boundary that lies in this tick, or after a step past one. -/
def execPpsOut (s : State) : Host.Outcome State Fault Refusal :=
  s.onCore (fun _ c =>
    if !c.svc || !c.on Fd.TPT_PPS_CFG_OUT_EN || c.on Fd.CHP_FAULT_STS_FAULT then c
    else match c.ppsStart with
      | none => c
      | some (e, k) =>
        let secs := match k with
          | some n => n :: c.tpt.secs
          | none => c.tpt.secs
        { c with tpt := { c.tpt with ppsHigh := true, ppsEdge := e, ppsEnd := e + 24 * (max 1 (c.get Fd.TPT_PPS_CFG_WIDTH) * 1000 * ticksPerUs), jumpAt := none, secs := secs } })

/-- PPS_PULSE_END (R386): WIDTH ms run out in this tick. -/
def execPpsPulseEnd (s : State) : Host.Outcome State Fault Refusal :=
  s.onCore (fun _ c => if c.tpt.ppsHigh && decide (c.tpt.ppsEnd / 24 ≤ c.now) then { c with tpt := { c.tpt with ppsHigh := false } } else c)

/-- The level at the ball of PPS_OUT (R386, R388). (log 90 DEDUCED) -/
def Core.ppsPin (c : Core) : Bool :=
  c.svc && !c.on Fd.CHP_FAULT_STS_FAULT && c.tpt.ppsHigh && c.on Fd.TPT_PPS_CFG_OUT_EN && (c.on Fd.TPT_PPS_CFG_OUT_SRC || c.on Fd.TPT_STS_NT_VALID)

/-- PPS_IN (R387): a rising edge in nanosecond `ns` (0 or 1) of this tick. (log 90 DEDUCED) -/
def execPpsIn (ns : Nat) (s : State) : Host.Outcome State Fault Refusal :=
  s.onCore (fun _ c =>
    if !c.svc || !c.on Fd.TPT_PPS_CFG_IN_EN then c
    else
      let x := c.stampAt (c.now * 8 + ns % 2 * 4)
      let c := ((c.put Fd.TPT_PPS_IN_NS_NS x).inc Fd.TPT_PPS_IN_CNT_EDGES 1).put Fd.TPT_STS_IN_SEEN 1
      c.raiseIf (c.on Fd.TPT_CFG_PPS_EV) 0x73 0 0 x (c.get Fd.TPT_PPS_IN_CNT_EDGES))

/-- TIME_LINK_CHANGE (R388-R390): block lock or remote fault has changed LINK_UP. (log 91 DEDUCED) -/
def execTimeLinkChange (up : Bool) (s : State) : Host.Outcome State Fault Refusal :=
  s.onCore (fun _ c =>
    if !c.svc || c.on Fd.CHP_BOOT_STS_NO_TIME || c.on Fd.TPT_STS_LINK_UP == up then c
    else (c.setOn Fd.TPT_STS_LINK_UP up).raise 0x72 0 0 (b2n up) 0)

end Sys2Proof.Machine
end

