-- ==== Sys2Proof/Machine/Calibrate.lean ====
section
/-!
DEFINITION. Calibration (R391-R413): collimation, slice mismatch correction, foreground calibrations, the almanac's backup, CALIBRATE.
-/
namespace Sys2Proof.Machine

/-! ### Collimation (R394-R398) -/

/-- The unclamped target of channel `k` of region `r` (R395). -/
def Core.collSum (c : Core) (r k : Nat) : Int := c.getS (Fd.RGN_COLL_STS_TRACK r k) + c.getS (Fd.RGN_COLL_TRIM_USER r k) + c.getS Fd.CAL_COLL_CHIP_CHIP
/-- TARGET of channel `k` of region `r` (R395). -/
def Core.collTarget (c : Core) (r k : Nat) : Int := clampI (-1535) 1535 (c.collSum r k)

/-- MOVING and CLAMP follow the target (R395, R397). -/
def Core.collShow (c : Core) (r k : Nat) : Core :=
  let x := c.collSum r k
  let out := decide (x < -1535) || decide (1535 < x)
  let first := out && !c.on (Fd.RGN_COLL_STS_CLAMP r k)
  let c := c.setOn (Fd.RGN_COLL_STS_MOVING r k) (c.getS (Fd.RGN_COLL_STS_APPLIED r k) != c.collTarget r k)
  (c.stick (Fd.RGN_COLL_STS_CLAMP r k) out).raiseIf first 0xA1 1 r (almColl r k) (twos 64 x)

/-- The almanac values of a collimation channel (R408). -/
def Core.collVal (c : Core) (r k : Nat) (track : Int) : AlmVal :=
  almTwo (twos 12 track + c.get (Fd.RGN_COLL_TRIM_USER r k) * 2 ^ 12) (c.get (Fd.RGN_COLL_STS_APPLIED r k))

/-- MEAS_EXP and JUMP in force (R399). -/
def Core.collRound (c : Core) (r : Nat) : Nat × Nat :=
  let e := c.get (Fd.RGN_COLL_CTL_MEAS_EXP r)
  (2 ^ (if 4 ≤ e ∧ e ≤ 12 then e else 6) * ticksPerUs, max 1 (c.get (Fd.RGN_COLL_CTL_JUMP r)))

/-- COLL_MEASURE (R392, R396, R411): the collimator has measured TRACK `track` for channel `k` of region `r`, once a round while EN = 1, at once for a CALIBRATE. While EN = 0 it
measures nothing: the channels of a CALIBRATE end as NOT_RUN. (log 94 DEDUCED) -/
def execCollMeasure (r k : Nat) (track : Int) (s : State) : Host.Outcome State Fault Refusal :=
  s.onBoth (fun m c =>
    let e := almColl r k
    let rings := c.jobRings 0x10 e
    let rd := c.collRound r
    let due := c.on (Fd.RGN_COLL_CTL_EN r) && (match c.cal.measAt.find? (fun x => x.1 == 52 * r + k) with
                                               | some x => decide (x.2 + rd.1 ≤ c.now)
                                               | none => true)
    if !c.svc || !c.rOk r || decide (52 ≤ k) || !(due || !rings.isEmpty) then (m, c)
    else if !c.on (Fd.RGN_COLL_CTL_EN r) then (m, c.unitEndAll m 0x10 e .notRun none)
    else
      let c := { c with cal := { c.cal with measAt := Tbl.insert c.cal.measAt (52 * r + k) c.now } }
      let old := c.getS (Fd.RGN_COLL_STS_TRACK r k)
      let ok := decide (-1535 ≤ track) && decide (track ≤ 1535) && decide ((track - old).natAbs ≤ rd.2)
      let held := c.on (Fd.RGN_COLL_CTL_FREEZE r) || c.on (Fd.RGN_COLL_TRIM_MAN r k) || almManual m e
      let dry := (c.cal.jobs.filter (fun j => j.kind == 0x10 && j.units.contains e)).any (fun j => j.dry)
      let meas := c.collVal r k track
      if dry then (m, c.unitEndAll m 0x10 e (if ok then .applied else .failed) (some meas))
      else if !ok then
        let y := almRefuse m c e
        (y.1, y.2.unitEndAll y.1 0x10 e .failed none)
      else if held then (m, c.unitEndAll m 0x10 e .notRun none)
      else
        let c := (c.putS (Fd.RGN_COLL_STS_TRACK r k) track).collShow r k
        let y := almAccept m c e meas
        (y.1, y.2.unitEndAll y.1 0x10 e .applied none))

/-- The step opportunity of region `r` that has come (R397): D0 + 40 of its drain, or, while the chip is not RUNNING or DRAINING or the region is PARKED, a tick
that is a multiple of 500. (log 94 DEDUCED) -/
def Core.stepTick (c : Core) (r : Nat) : Option Nat :=
  if c.shots && !c.parked r then
    match (c.rgn r).shot.d0 with
    | some d => if d + 40 ≤ c.now then some (d + 40) else none
    | none => none
  else if c.running && c.now % 500 == 0 then some c.now else none

/-- Takes a step opportunity under key `k`, thinned by RATE: whether it is one not yet taken, and whether the step is taken (R397). (log 94 DEDUCED) -/
def Core.opportunity (c : Core) (r k rate : Nat) : Core × Bool × Bool :=
  match c.stepTick r with
  | none => (c, false, false)
  | some t =>
    if t < Tbl.get (fun _ => 0) c.cal.oppAt k then (c, false, false)
    else
      let n := Tbl.get (fun _ => 0) c.cal.opp k + 1
      let c := { c with cal := { c.cal with opp := Tbl.insert c.cal.opp k n, oppAt := Tbl.insert c.cal.oppAt k (t + 1) } }
      (c, true, n % 16 ^ rate == 0)

/-- COLL_STEP (R397): at a step opportunity APPLIED of every channel of region `r` moves one tap towards TARGET. (log 94 DEDUCED) -/
def execCollStep (r : Nat) (s : State) : Host.Outcome State Fault Refusal :=
  s.onCore (fun _ c =>
    if !c.svc || !c.rOk r then c
    else
      let y := c.opportunity r r (c.get (Fd.RGN_COLL_CTL_RATE r))
      if !y.2.2 then y.1
      else (upFrom 0 52).foldl (fun c k =>
        (c.putS (Fd.RGN_COLL_STS_APPLIED r k) (towards (c.getS (Fd.RGN_COLL_STS_APPLIED r k)) (c.collTarget r k))).collShow r k) y.1)

/-! ### Slice mismatch (R400-R402) -/

/-- The sign of a number. -/
def sgn (x : Int) : Int := if x < 0 then -1 else if 0 < x then 1 else 0

/-- The slices that sample input `inp` in order of sub-tick (R153, R400). -/
def sliceGroup (dual : Bool) (inp : Nat) : List Nat := if dual then (upFrom 0 8).map (fun i => 2 * i + inp) else upFrom 0 16

/-- A value stepped by `d` unless that carries it beyond `lim`, and whether it was refused (R401). -/
def limStep (lim x d : Int) : Int × Bool := if x + d < -lim ∨ lim < x + d then (x, true) else (x + d, false)

/-- Slice `k` of a macro. -/
def AdcSt.slice (a : AdcSt) (k : Nat) : Slice := Tbl.get (fun _ => Slice.init) a.slices k

/-- The update of the slices of a group (R400, R401): each slice with its new values and whether a step was refused; and whether there was too little signal. -/
def misGroup (a : AdcSt) (pow : Nat) (ks : List Nat) : List (Nat × Slice × Bool) × Bool :=
  let n := ks.length
  let var := fun (k : Nat) => let s := a.slice k; s.s2 / (s.n : Int) - (s.s1 / (s.n : Int)) * (s.s1 / (s.n : Int))
  let cor := fun (k : Nat) => let s := a.slice k; s.sx / (s.n : Int)
  let sum := sumI (ks.map var)
  let low := decide (sum < ((pow * pow * n : Nat) : Int))
  let step := fun (i : Nat) =>
    let k := ks.getD i 0
    let p := ks.getD ((i + n - 1) % n) 0
    let s := a.slice k
    let o := limStep 512 s.off (-(sgn (16 * s.s1 / (s.n : Int))))
    let g := if low then (s.gain, false) else limStep 1966 s.gain (-(sgn (var k * (n : Int) - sum)))
    let w := if low then (s.skew, false) else limStep 63 s.skew (-(sgn (cor p - cor k)))
    (k, ({ s with off := o.1, gain := g.1, skew := w.1 } : Slice), o.2 || g.2 || w.2)
  ((upFrom 0 n).map step, low)

/-- The almanac values of a slice (R408). -/
def sliceVal (s : Slice) : AlmVal := almTwo (twos 16 s.off + twos 16 s.gain * 2 ^ 16) (twos 8 s.skew)
/-- A slice with the values of an almanac entry. -/
def Slice.load (s : Slice) (v0 v1 : Nat) : Slice := { s with off := Sys2Proof.Machine.sx 16 (bitsOf v0 0 16), gain := Sys2Proof.Machine.sx 16 (bitsOf v0 16 16), skew := Sys2Proof.Machine.sx 8 (bitsOf v1 0 8) }
/-- Values stored in an entry whose FAILED stays as it is. -/
def almStore (m : Mems) (c : Core) (e : Nat) (v : AlmVal) : Mems × Core :=
  if !c.almExists e then (m, c) else (almPut m c.now e (putBits (almSts m e) 0 2 AlmState.measured.code) v, c.almTouched)

/-- MANUAL slices of macro `a` take the values of their entries (R408). -/
def Core.misManual (c : Core) (m : Mems) (a : Nat) : Core :=
  (upFrom 0 16).foldl (fun c k =>
    let e := almMis a k
    if almManual m e then c.modAdc a (fun z => { z with slices := Tbl.insert z.slices k ((z.slice k).load (almV m e 0) (almV m e 1)) }) else c) c

/-- MIS_UPDATE (R400-R402, R408): at a step opportunity the mismatch values of macro `j` of region `r` are stepped. (log 95 DEDUCED) -/
def execMisUpdate (r j : Nat) (s : State) : Host.Outcome State Fault Refusal :=
  s.onBoth (fun m c =>
    let a := 4 * r + j
    if !c.svc || !c.adcOk r j then (m, c)
    else
      let y := c.opportunity r (64 + a) (c.get (Fd.RGN_MIS_CTL_RATE r))
      if !y.2.1 then (m, y.1)
      else
        let c := y.1.misManual m a
        let ce := c.get (Fd.RGN_MIS_CTL_CNT_EXP r)
        let need := 2 ^ (if 10 ≤ ce ∧ ce ≤ 24 then ce else 16)
        let z := c.adc a
        if !y.2.2 || !c.on (Fd.RGN_MIS_CTL_EN r) || c.on (Fd.RGN_MIS_CTL_FREEZE r) || c.on (Fd.RGN_ADC_STS_CAL r j)
            || (upFrom 0 16).any (fun k => decide ((z.slice k).n < need)) then (m, c)
        else
          let dual := c.on (Fd.RGN_ADC_CFG_MODE r j)
          let pow := c.get (Fd.RGN_MIS_CTL_POW_MIN r)
          let gs := if dual then [misGroup z pow (sliceGroup true 0), misGroup z pow (sliceGroup true 1)] else [misGroup z pow (sliceGroup false 0)]
          let new := (gs.flatMap (fun g => g.1)).filter (fun e => !almManual m (almMis a e.1))
          let x := new.foldl (fun (x : Mems × Core) e =>
            let n := almMis a e.1
            let c := x.2.modAdc a (fun z => { z with slices := Tbl.insert z.slices e.1 e.2.1 })
            if e.2.2 then
              let p := almStore x.1 c n (sliceVal e.2.1)
              almRefuse p.1 p.2 n
            else almAccept x.1 c n (sliceVal e.2.1)) (m, c)
          let c := (x.2.stick (Fd.RGN_MIS_STS_REJ r j) (new.any (fun e => e.2.2))).stick (Fd.RGN_MIS_STS_POW_LOW r j) (gs.any (fun g => g.2))
          (x.1, (c.inc (Fd.RGN_MIS_STS_UPDATES r j) 1).clearSums a))

/-! ### The almanac's backup (R409, R410) -/

/-- May the root begin a backup now (R409): not in NO_HBM, in STANDBY or in a rate change, and one at a time? (log 98 DEDUCED) -/
def Core.backupOk (c : Core) : Bool :=
  !c.on Fd.CHP_BOOT_STS_NO_HBM && !c.on Fd.HBM_PWR_CTL_STANDBY && !c.hbmIs .rateChange && !c.hbmc.works.any (fun w => w.who == 169 && decide (backTag ≤ w.tag))

/-- A backup begins under a tag (R409): the store as it stands goes to the copy with the older GEN, header last. The first GEN, with no valid copy to follow, is open.
(log 96 DESIGN CHOICE) -/
def Core.backupStart (c : Core) (m : Mems) (tag : Nat) : Core :=
  let new := c.newestCopy m
  let fr := c.free
  let gen := match new with
    | some k => (c.copyGen m k + 1) % 2 ^ 32
    | none => fr.1 % 2 ^ 32
  let c := match new with
    | some _ => c
    | none => fr.2
  let k := match new with
    | some k => 1 - k
    | none => 0
  let data := rdBytes almByte m.alm 0 (2 ^ 20)
  let head := toLE 4 0x414C4D31 ++ toLE 4 gen ++ toLE 2 (c.get Fd.CHP_ID_PART) ++ toLE 2 0 ++ toLE 4 (crc32 data) ++ toLE 8 c.now ++ List.replicate 40 0
  ({ c with cal := { c.cal with dirty := false, backNow := false, backing := some (k, gen) } }).newWork 169 tag 0
    [(c.copyAddr k + 64, 2 ^ 20, some data), (c.copyAddr k, 64, some head)]

/-- The backup under a tag has been written, header and all (R409, R413, R415). -/
def Core.backupEnd (c : Core) (tag : Nat) : Core :=
  match c.cal.backing with
  | none => c.dropWork 169 tag
  | some (k, gen) =>
    let c := c.dropWork 169 tag
    let c := ({ c with cal := { c.cal with backAt := c.now, backing := none } }).raise 0xA2 0 0 k 0
    (c.put Fd.CAL_STS_BACKUP_VALID 1).put Fd.CAL_STS_BACKUP_GEN (gen % 2 ^ 16)

/-- ALMANAC_BACKUP (R409): a backup that is due, by its period or at once (R308, R325), begins; one that has been written is done. -/
def execAlmanacBackup (s : State) : Host.Outcome State Fault Refusal :=
  s.onCore (fun m c =>
    let period := max 1 (c.get Fd.CAL_CTL_BACKUP_PERIOD) * 1000000 * ticksPerUs
    let due := c.cal.backNow || (c.on Fd.CAL_CTL_BACKUP_EN && c.cal.dirty && decide (c.cal.backAt + period ≤ c.now))
    match c.workOf 169 backTag with
    | some w => if c.svc && w.done then c.backupEnd backTag else c
    | none => if c.svc && due && c.backupOk then c.backupStart m backTag else c)

/-! ### CALIBRATE (R289, R404, R411, R412) -/

/-- The entries of COLL channels `ks` of a region. -/
def collEntries (r : Nat) (ks : List Nat) : List Nat := ks.map (almColl r)

/-- The almanac entries that CALIBRATE of a kind covers at a level and index; none where the level is not listed or the unit does not exist (R4, R411). -/
def Core.calUnits (c : Core) (kind level index : Nat) : Option (List Nat) :=
  let one := fun (l : List Nat) => if level = 0 ∧ index = 0 then some l else none
  let rs := fun (f : Nat → List Nat) =>
    if level = 0 then (if index = 0 then some (c.regions.flatMap f) else none) else if c.rOk index then some (f index) else none
  if kind = 1 then one [0]
  else if kind = 5 then (if level = 0 ∧ index < 16 then some [almHbm index] else none)
  else if kind = 0x10 then
    (if level ≤ 1 then rs (fun r => collEntries r (upFrom 0 52))
     else if level = 4 then (if c.rOk (index / 8) then some (collEntries (index / 8) [index % 8]) else none)
     else if level = 5 then (if c.rOk (index / 4) then some (collEntries (index / 4) [8 + index % 4]) else none)
     else if level = 6 then (if c.bOk (index / 32) (index % 32 / 2) then some (collEntries (index / 32) [12 + index % 32]) else none)
     else none)
  else if kind = 0x11 then
    let f := fun (a : Nat) => (upFrom 0 16).map (almMis a)
    (if level ≤ 1 then rs (fun r => (upFrom 0 4).flatMap (fun j => f (4 * r + j))) else if level = 5 ∧ c.rOk (index / 4) = true then some (f index) else none)
  else if kind = 0x12 then
    (if level ≤ 1 then rs (fun r => (upFrom 0 4).map (fun j => almAdc (4 * r + j))) else if level = 5 ∧ c.rOk (index / 4) = true then some [almAdc index] else none)
  else if kind = 0x13 then
    (if level ≤ 1 then rs (fun r => (upFrom 0 8).map (fun i => almDac (8 * r + i))) else if level = 4 ∧ c.rOk (index / 8) = true then some [almDac index] else none)
  else if kind = 0x14 then
    let f := fun (r b : Nat) => [almBb (32 * r + 2 * b), almBb (32 * r + 2 * b + 1)]
    (if level ≤ 1 then rs (fun r => ((upFrom 0 16).filter (c.bOk r)).flatMap (f r))
     else if level = 2 ∧ c.bOk (index / 16) (index % 16) = true then some (f (index / 16) (index % 16))
     else if level = 6 ∧ c.bOk (index / 32) (index % 32 / 2) = true then some [almBb index] else none)
  else if level = 0 then some [] else none

/-- The OPTIONS bits a kind lists (R411). -/
def calOptions (kind : Nat) : Nat :=
  if kind = 0x01 ∨ kind = 0x10 ∨ kind = 0x12 ∨ kind = 0x13 ∨ kind = 0x14 then 1 else if kind = 0x11 then 2 else if kind = 0x30 then 2 ^ 64 - 64 else 0

/-- The refusal of a CALIBRATE with the units it names (R280, R289, R293, R296, R411). -/
def Core.calRefusal (c : Core) (units : Option (List Nat)) (kind : Nat) (d : Desc) : Option Sts :=
  let opt := dField d 16 0 64
  let bytes := dField d 24 0 32
  let addr := dField d 32 0 64
  let service := kind != 0x13 && kind != 0x14
  let count := dField d 12 0 32
  firstRefusal [
    (!onlyBits d [(8, 0, 8), (9, 0, 3), (12, 0, 32), (16, 0, 64), (24, 0, 32), (32, 0, 64)] || Nat.land opt (2 ^ 64 - 1 - calOptions kind) != 0 || units.isNone, .target),
    (c.runIs .parked || (!service && !c.runIs .idle), .state),
    (mis64 addr || mis64 bytes, .align),
    ((bytes == 0 && addr != 0) || (kind == 0x30 && (count == 0 || decide (32768 < count))), .length)]

/-- A CALIBRATE of a kind in the slot of ring `n` runs (R280, R289, R293, R411); one that is not refused waits while a unit of it is in calibration (R404), or `hold`. -/
def calRun (n kind : Nat) (hold : Bool) (m : Mems) (c : Core) (f : Mems → Core → Desc → CalJob → Mems × Core) : Mems × Core :=
  match (c.ring n).cmd with
  | none => (m, c)
  | some k =>
    let units := c.calUnits kind (dField k.desc 9 0 3) (dField k.desc 12 0 32)
    let units := if kind = 0x30 then (if dField k.desc 9 0 3 = 0 then some [] else none) else units
    let busy := c.cal.jobs.any (fun j => j.kind == kind && j.units.any (fun e => (units.getD []).contains e))
    if dField k.desc 8 0 8 ≠ kind ∨ (busy || hold) = true ∧ c.calRefusal units kind k.desc = none then (m, c)
    else runCmd m c n .calibrate (fun m c d =>
      let opt := dField d 16 0 64
      let bytes := dField d 24 0 32
      let addr := dField d 32 0 64
      let count := dField d 12 0 32
      match c.calRefusal units kind d with
      | some x => (m, c.refuse n x)
      | none =>
        f m c d { ring := n, kind := kind, level := dField d 9 0 3, index := count, units := units.getD [], dry := calOptions kind == 1 && bitAt opt 0,
                  start := c.now, ended := [], addr := addr, bytes := bytes, tag := 0, dead := [] })

/-- A calibration is in progress; a command without units ends at once. -/
def Core.addJob (c : Core) (j : CalJob) : Core :=
  if j.units.isEmpty then c.jobEnd j else (({ c with cal := { c.cal with jobs := c.cal.jobs ++ [j] } }).inExec j.ring).calBusy

/-- CALIBRATE_MON (R234, R411): the monitor's self-calibration starts: its sequence pauses, every result is STALE. (log 100 DEDUCED) -/
def execCalibrateMon (n : Nat) (s : State) : Host.Outcome State Fault Refusal :=
  s.onBoth (fun m c => calRun n 0x01 false m c (fun m c _ j =>
    (m, (c.addJob j).monCalStart)))

/-- CALIBRATE_HBM (R321, R411): a retraining cycle starts at a pseudo-channel. In NO_HBM there is none. (log 98 DEDUCED) -/
def execCalibrateHbm (n : Nat) (s : State) : Host.Outcome State Fault Refusal :=
  s.onBoth (fun m c => calRun n 0x05 false m c (fun m c _ j =>
    if c.on Fd.CHP_BOOT_STS_NO_HBM then (m, c.refuse n .hbm)
    else
      let c := c.addJob j
      (m, if c.on Fd.HBM_STS_GATHERING then c else { c with hbmc := { c.hbmc with nextPc := j.index, pauseAt := c.now } })))

/-- CALIBRATE_COLL (R396, R411): a round of the named channels; COLL_MEASURE ends each. -/
def execCalibrateColl (n : Nat) (s : State) : Host.Outcome State Fault Refusal := s.onBoth (fun m c => calRun n 0x10 false m c (fun m c _ j => (m, c.addJob j)))

/-- CALIBRATE_MIS (R400, R407, R411): with RESET the slices take their FACTORY values, but for MANUAL ones, and gathering starts again. (log 95 DEDUCED) -/
def execCalibrateMis (n : Nat) (s : State) : Host.Outcome State Fault Refusal :=
  s.onBoth (fun m c => calRun n 0x11 false m c (fun m c d j =>
    let reset := bitAt (dField d 16 0 64) 1
    let y := j.units.foldl (fun (a : Mems × Core) e =>
      let mac := (e - 1024) / 16
      let k := (e - 1024) % 16
      match a.2.cal.factory.find? (fun f => f.1 == e) with
      | some f =>
        if reset && !almManual a.1 e then
          (almPut a.1 a.2.now e AlmState.factory.code f.2,
           (a.2.modAdc mac (fun z => { z with slices := Tbl.insert z.slices k ((z.slice k).load f.2.v0.toNat f.2.v1.toNat) })).almTouched)
        else a
      | none => a) (m, c)
    let c := if reset then (j.units.map (fun e => (e - 1024) / 16)).eraseDups.foldl Core.clearSums y.2 else y.2
    (y.1, c.jobEnd { j with units := [], ended := j.units.map (fun e => (e, 0, calEntry y.1 e .applied none)) })))

/-- ADC_FULL (R403, R411): the macros switch to an internal reference; CAL is 1. -/
def execAdcFull (n : Nat) (s : State) : Host.Outcome State Fault Refusal :=
  s.onBoth (fun m c => calRun n 0x12 false m c (fun m c _ j =>
    (m, j.units.foldl (fun c e => c.setCal (e - 1536) true) (c.addJob j))))

/-- DAC_FULL (R403, R411): foreground calibration of RF DACs. -/
def execDacFull (n : Nat) (s : State) : Host.Outcome State Fault Refusal := s.onBoth (fun m c => calRun n 0x13 false m c (fun m c _ j => (m, c.addJob j)))

/-- BB_FULL (R403, R411): foreground calibration of baseband DACs. -/
def execBbFull (n : Nat) (s : State) : Host.Outcome State Fault Refusal := s.onBoth (fun m c => calRun n 0x14 false m c (fun m c _ j => (m, c.addJob j)))

/-- Is `x` within ±10 % of `f` (R403)? -/
def within10 (x f : Nat) : Bool := decide (10 * x ≤ 11 * f) && decide (9 * f ≤ 10 * x)

/-- The values of slice `v` lie within the limits of R401. -/
def misLimits (v : AlmVal) : Bool :=
  let o := sx 16 (bitsOf v.v0.toNat 0 16)
  let g := sx 16 (bitsOf v.v0.toNat 16 16)
  let w := sx 8 (bitsOf v.v1.toNat 0 8)
  decide (o.natAbs ≤ 512) && decide (g.natAbs ≤ 1966) && decide (w.natAbs ≤ 63)

/-- The FACTORY value of an entry. -/
def Core.factoryVal (c : Core) (e : Nat) : AlmVal := ((c.cal.factory.find? (fun f => f.1 == e)).map (fun f => f.2)).getD { v0 := 0, v1 := 0, v2 := 0, v3 := 0 }

/-- The checks of R403 on the values of a foreground calibration. -/
def Core.fullOk (c : Core) (e : Nat) (v : AlmVal) : Bool :=
  let f := c.factoryVal e
  if e < 1568 then within10 v.v1.toNat f.v1.toNat
  else if e < 1632 then
    within10 (bitsOf v.v0.toNat 0 16) (bitsOf f.v0.toNat 0 16)
      && [v.v1, v.v2, v.v3].all (fun w => (upFrom 0 4).all (fun i => decide ((sx 8 (bitsOf w.toNat (8 * i) 8)).natAbs ≤ 127)))
  else within10 (bitsOf v.v0.toNat 0 16) (bitsOf f.v0.toNat 0 16) && decide ((sx 16 (bitsOf v.v0.toNat 16 16)).natAbs ≤ 2048)

/-- The tick at which the calibration of unit `e` ends (R391, R404): one of a macro that settles starts when the settling ends. -/
def Core.fullEnd (c : Core) (j : CalJob) (e : Nat) : Nat :=
  if j.kind = 0x12 then max j.start (c.adc (e - 1536)).settle + 500 * ticksPerUs else j.start + (if j.kind = 0x13 then 2000 else 1000) * ticksPerUs

/-- Is the unit of entry `e` out of service, so that its calibration ends as NOT_RUN (R404)? -/
def Core.fullOff (c : Core) (e : Nat) : Bool :=
  if e < 1568 then !c.on (Fd.RGN_ADC_CFG_EN ((e - 1536) / 4) ((e - 1536) % 4))
  else if e < 1632 then !c.on (Fd.RGN_DAC_CFG_EN ((e - 1568) / 8) ((e - 1568) % 8))
  else !c.on (Fd.BLK_BB_CFG_EN ((e - 1632) / 32) ((e - 1632) % 32 / 2) ((e - 1632) % 2))

/-- The slice values that ADC_FULL has measured for a macro: one for each slice, within R401 (R403). -/
def slicesOk (e : Nat) (x : CalMeas) : Bool := decide (1568 ≤ e) || (x.slices.length == 16 && x.slices.all misLimits)

/-- The slices of the macro of entry `e` take the values that ADC_FULL has measured, but for MANUAL ones (R401, R403). (log 174 DEDUCED) -/
def Core.slicesLoad (c : Core) (m : Mems) (e : Nat) (x : CalMeas) : Core :=
  if 1568 ≤ e then c
  else
    let a := e - 1536
    ((upFrom 0 16).zip x.slices).foldl (fun c k =>
      if almManual m (almMis a k.1) then c
      else c.modAdc a (fun z => { z with slices := Tbl.insert z.slices k.1 ((z.slice k.1).load k.2.v0.toNat k.2.v1.toNat) })) c

/-- One unit of a foreground calibration ends: its result is checked and applied, refused, or was not formed (R392, R403). (log 99 DEDUCED) -/
def fullUnit (j : CalJob) (res : List CalMeas) (a : Mems × Core) (e : Nat) : Mems × Core :=
  let c := if e < 1568 then a.2.setCal (e - 1536) false else a.2
  if c.fullOff e || j.dead.contains e then (a.1, c.unitEnd a.1 j.ring e .notRun none)
  else match res.find? (fun x => x.entry == e) with
    | none =>
      if j.dry then (a.1, c.unitEnd a.1 j.ring e .failed none)
      else let y := almRefuse a.1 c e; (y.1, y.2.unitEnd y.1 j.ring e .failed none)
    | some x =>
      let ok := x.ok && c.fullOk e x.val && slicesOk e x
      if j.dry then (a.1, c.unitEnd a.1 j.ring e (if ok then .applied else .failed) (some x.val))
      else
        let y := almResult a.1 (if ok then c.slicesLoad a.1 e x else c) e ok x.val
        (y.1, y.2.unitEnd y.1 j.ring e (if ok then .applied else .failed) none)

/-- FOREGROUND_CAL_END (R403, R404, R412): the foreground calibration of ring `n` ends with the results `res`. (log 99 DEDUCED) -/
def execForegroundCalEnd (n : Nat) (res : List CalMeas) (s : State) : Host.Outcome State Fault Refusal :=
  s.onBoth (fun m c =>
    match c.cal.jobs.find? (fun j => j.ring == n && (j.kind == 0x12 || j.kind == 0x13 || j.kind == 0x14)) with
    | none => (m, c)
    | some j => if !c.svc || j.units.any (fun e => !j.dead.contains e && decide (c.now < c.fullEnd j e)) then (m, c) else j.units.foldl (fullUnit j res) (m, c))

/-! ### MANUAL entries (R408, R411) -/

/-- The four words of a supplied entry from its byte `i`. -/
def supplied (b : List Byte) : AlmVal :=
  let w := fun (i : Nat) => (BitVec.ofNat 32 (fromLE ((b.drop i).take 4)) : Word)
  { v0 := w 16, v1 := w 20, v2 := w 24, v3 := w 28 }

/-- Do supplied values pass the checks of their kind (R234, R321, R396, R401, R403, R365, R172, R417)? (log 97 DEDUCED) -/
def Core.manualOk (c : Core) (m : Mems) (h : AlmHead) (e : Nat) (v : AlmVal) : Bool :=
  let v0 := v.v0.toNat
  match h.kind with
  | .coll => decide ((sx 12 (bitsOf v0 0 12)).natAbs ≤ 1535)
  | .mis => misLimits v
  | .mon => Config.monPlausible (sx 16 (bitsOf v0 0 16)) (sx 16 (bitsOf v0 16 16))
  | .hbm => delaysNear (c.get Fd.HBM_TRAIN_CTL_MAX_STEP) v0 (c.forced m e).v0.toNat
  | .adcFull | .dacFull | .bbFull => c.fullOk e v
  | .szl =>
    c.eqInLimits h.index [(bitsOf v0 0 4 : Int), sx 7 (bitsOf v0 4 7), sx 6 (bitsOf v0 11 6), sx 6 (bitsOf v0 17 6), sx 6 (bitsOf v0 23 6), sx 6 (bitsOf v.v2.toNat 0 6)]
  | .therm =>
    let t := 100 + ((c.get (Fd.THM_TEMP_COUNT h.index) : Int) - (bitsOf v0 0 20 : Int)) * sx 16 (bitsOf v.v1.toNat 0 16) / 2 ^ 16
    decide (-80 ≤ t) && decide (t ≤ 560)
  | .thresh =>
    let x := mtEntry m h.index h.sub
    let t0 := sx 16 (bitsOf v0 0 16)
    let t2 := sx 16 (bitsOf v0 16 16)
    decide (mtLim x 0 ≤ t0) && decide (t0 ≤ mtLim x 1) && (mtDmode x != 2 || (decide (mtLim x 2 ≤ t2) && decide (t2 ≤ mtLim x 3)))
  | _ => true

/-- Is region `r` outside the part of a shot that its sources play: in a drain gap, or with no shot running (R408)? -/
def Core.inGap (c : Core) (r : Nat) : Bool := !c.shots || !(c.rgn r).shot.inShot || (c.rgn r).shot.d0.isSome

/-- A MANUAL value of entry `e` waits to take effect (R408). -/
def Core.forceLater (c : Core) (e : Nat) (v : AlmVal) : Core := { c with cal := { c.cal with waits := Tbl.insert c.cal.waits e v } }

/-- What a MANUAL entry sets, at once or in the next drain gap or pause (R408). (log 93 DEDUCED) -/
def Core.manualApply (c : Core) (h : AlmHead) (e : Nat) (v : AlmVal) : Core :=
  let v0 := v.v0.toNat
  match h.kind with
  | .mon => { c with mon := { c.mon with offset := sx 16 (bitsOf v0 0 16), gain := sx 16 (bitsOf v0 16 16) } }
  | .tptLat => c.setLiveW Fd.TPT_LAT v0
  | .szl =>
    ((c.setLiveW (Fd.SZL_LANE_EQ h.index h.sub) (v0 % 2 ^ 29)).put (Fd.SZL_LANE_EQ_MAN h.index h.sub) 1).put (Fd.SZL_LANE_EQ2_DFE5 h.index h.sub) v.v2.toNat
  | .coll =>
    let r := (e - 256) / 52
    let k := (e - 256) % 52
    (c.put (Fd.RGN_COLL_STS_TRACK r k) (bitsOf v0 0 12)).collShow r k
  | .adcFull => c.forceVal e v
  | .dacFull | .bbFull => if c.inGap (if h.kind = .dacFull then h.index / 8 else h.index / 32) then c.forceVal e v else c.forceLater e v
  | .hbm => c.forceLater e v
  | _ => c

/-- A MANUAL entry is written and applied. (log 93 DEDUCED) -/
def manualPut (m : Mems) (c : Core) (h : AlmHead) (e : Nat) (v : AlmVal) : Mems × Core :=
  (almPut m c.now e (putBits (almSts m e) 0 2 AlmState.manual.code) v, (c.almTouched).manualApply h e v)

/-- One supplied entry (R411): written as MANUAL, released, or refused; with the entry and the outcome for the report. (log 97 DEDUCED) -/
def almSupplied (m : Mems) (c : Core) (b : List Byte) : Mems × Core × Nat × Nat :=
  let head := fromLE (b.take 4)
  let st := bitsOf (fromLE ((b.drop 4).take 4)) 0 2
  let v := supplied b
  match almFind (bitsOf head 0 8) (bitsOf head 8 3) (bitsOf head 16 16) (bitsOf head 11 5) with
  | none => (m, c, 32768, 1)
  | some e =>
    match almHead e with
    | none => (m, c, e, 1)
    | some h =>
      if h.kind = .lead ∨ c.almExists e = false then (m, c, e, 1)
      else if st = 3 then
        if c.manualOk m h e v then let y := manualPut m c h e v; (y.1, y.2, e, 0) else (m, c, e, 1)
      else if st = 0 then
        let m := almPut m c.now e (putBits (almSts m e) 0 2 AlmState.measured.code) (almVal m e)
        let c := c.almTouched
        (m, if h.kind = .szl then c.put (Fd.SZL_LANE_EQ_MAN h.index h.sub) 0 else c, e, 0)
      else (m, c, e, 1)

/-- The first `n` pieces of 32 bytes. -/
def pieces32 : Nat → List Byte → List (List Byte)
  | 0, _ => []
  | n + 1, l => l.take 32 :: pieces32 n (l.drop 32)

/-- The command of ring `n` in execution, if it is a CALIBRATE of KIND `kind`. -/
def Core.calGoes (c : Core) (n kind : Nat) : Option Cmd := (c.goes n .calibrate).filter (fun k => dField k.desc 8 0 8 == kind)

/-- The CALIBRATE in execution on ring `n` as one that ends at once (R412). -/
def calNow (n : Nat) (k : Cmd) : CalJob :=
  { ring := n, kind := dField k.desc 8 0 8, level := dField k.desc 9 0 3, index := dField k.desc 12 0 32, units := [], dry := false, start := k.start, ended := [],
    addr := dField k.desc 32 0 64, bytes := dField k.desc 24 0 32, tag := 0, dead := [] }

/-- The supplied entries `l` of the CALIBRATE `j` are written, and it completes (R411, R412). -/
def almApply (m : Mems) (c : Core) (j : CalJob) (l : List Byte) : Mems × Core :=
  let y := (pieces32 j.index l).foldl (fun (a : Mems × Core × List (Nat × Nat)) b =>
    let x := almSupplied a.1 a.2.1 b
    (x.1, x.2.1, a.2.2 ++ [(x.2.2.1, x.2.2.2)])) (m, c, [])
  let ended := y.2.2.map (fun e =>
    (e.1, e.2, if e.1 = 32768 then List.replicate 4 0 ++ toLE 4 (e.2 * 2 ^ 3) ++ List.replicate 24 0 else calEntry y.1 e.1 (if e.2 = 0 then .applied else .failed) none))
  (y.1, y.2.1.jobEnd { j with ended := ended })

/-- An ALM_WRITE in execution goes on: its data pass the spine to the root (R331), then its entries are written. -/
def almGo (m : Mems) (c : Core) (n : Nat) (k : Cmd) : Mems × Core :=
  let j := calNow n k
  let y := c.goLegs n ([Leg.lane 9 (beatsOf (32 * j.index))].drop k.leg)
  if y.2 then almApply m y.1 j k.data else (m, y.1)

/-- ALM_WRITE (R331, R408, R411, R412): the supplied entries are written as MANUAL or released once their data have come. (log 54 DEDUCED, 97 DEDUCED) -/
def execAlmWrite (n : Nat) (data : Option (List Byte)) (s : State) : Host.Outcome State Fault Refusal :=
  s.onBoth (fun m c =>
    match c.calGoes n 0x30 with
    | some k => almGo m c n k
    | none => calRun n 0x30 false m c (fun m c _ j =>
      match dataOf data (32 * j.index) with
      | none => (m, c.refuse n .aborted)
      | some l => carryCmd m c n c.now l (fun m c k => almGo m c n k)))

/-- ALM_BACKUP (R409, R411): a backup copy at once; it completes when the copy has been written. While the stack is in STANDBY or in a rate change, or another backup is being
written, it waits; in NO_HBM there is none. (log 98 DEDUCED) -/
def execAlmBackup (n : Nat) (s : State) : Host.Outcome State Fault Refusal :=
  s.onBoth (fun m c =>
    match c.calGoes n 0x31 with
    | some k =>
      (m, match c.workOf 169 (cmdBackTag n) with
          | none => c.refuse n .hbm
          | some w => if w.done then (c.backupEnd (cmdBackTag n)).jobEnd (calNow n k) else c)
    | none => calRun n 0x31 (!c.on Fd.CHP_BOOT_STS_NO_HBM && !c.backupOk) m c (fun m c _ _ =>
      if c.on Fd.CHP_BOOT_STS_NO_HBM then (m, c.refuse n .hbm) else (m, (c.backupStart m (cmdBackTag n)).inExec n)))

end Sys2Proof.Machine
end

