-- ==== Sys2Proof/Machine/Monitor.lean ====
section
/-!
DEFINITION. The monitor ADC (R231-R234): conversions and self-calibration.
-/
namespace Sys2Proof.Machine

/-- The INPUT codes of R232; all others are reserved. -/
def monInput (i : Nat) : Bool := decide (i ≤ 0x0E) || (decide (0x10 ≤ i) && decide (i ≤ 0x15)) || (decide (0x18 ≤ i) && decide (i ≤ 0x1B))

/-- The entry after the one in conversion (R231). (log 101 DEDUCED) -/
def Core.monNext (c : Core) : Core :=
  { c with mon := { c.mon with entry := if c.get Fd.MON_CTL_LAST ≤ c.mon.entry then 0 else c.mon.entry + 1, redo := false } }

/-- BELOW and ABOVE of entry `e` after a conversion (R233): the bit of `MON_ALM` is set when either becomes 1, and EV_MON_ALARM is raised when that bit changes. (log 101 DEDUCED) -/
def Core.monAlarm (c : Core) (e v : Nat) : Core :=
  if !c.on (Fd.MON_SEQ_ALM_EN e) then c
  else
    let lo := decide (v < c.get (Fd.MON_LIM_LO e))
    let hi := decide (c.get (Fd.MON_LIM_HI e) < v)
    let new := (lo && !c.on (Fd.MON_RES_BELOW e)) || (hi && !c.on (Fd.MON_RES_ABOVE e))
    let c := (c.setOn (Fd.MON_RES_BELOW e) lo).setOn (Fd.MON_RES_ABOVE e) hi
    let alm := c.get Fd.MON_ALM_ALM
    if new && !bitAt alm e then (c.put Fd.MON_ALM_ALM (alm + 2 ^ e)).raise 0x43 0 e v (c.liveW (Fd.MON_RES e)) else c

/-- The monitor runs its sequence: in SERVICE, EN = 1 and no calibration (R231, R234). -/
def Core.monRuns (c : Core) : Bool := c.svc && c.on Fd.MON_CTL_EN && !c.on Fd.MON_STS_CAL

/-- MON_ENTRY_CONVERT (R231-R233): the entry in conversion ends with `codes`, one for each of its 2^AVG conversions; one whose INPUT is reserved is skipped. After EN has been 0 the
sequence goes on at the entry it had reached. (log 101 DEDUCED, 173 DESIGN CHOICE) -/
def execMonEntryConvert (codes : List (BitVec 12)) (s : State) : Host.Outcome State Fault Refusal :=
  s.onCore (fun _ c =>
    let e := c.mon.entry
    let n := 2 ^ c.get (Fd.MON_SEQ_AVG e)
    if !c.monRuns then c
    else if !monInput (c.get (Fd.MON_SEQ_INPUT e)) then ((c.put (Fd.MON_RES_VALID e) 0).put Fd.MON_STS_CFG_ERR 1).monNext
    else if codes.length ≠ n then c
    else if c.mon.redo then c.monNext
    else
      let v := (codes.map BitVec.toNat).sum / n
      let c := (c.put (Fd.MON_RES_VALUE e) v).put (Fd.MON_RES_VALID e) 1
      ((c.put (Fd.MON_RES_UPDATES e) ((c.get (Fd.MON_RES_UPDATES e) + 1) % 4096)).monAlarm e v).monNext)

/-- The almanac values of the monitor (R408). -/
def monVal (offset gain : Int) : AlmVal := almTwo (twos 16 offset + twos 16 gain * 2 ^ 16) 0

/-- MON_SELF_CAL (R234, R392, R407, R408): with no calibration in progress one starts once CAL_PERIOD has passed. In one, for that period or a CALIBRATE, the monitor has
measured `offset` and `gain` and it ends; the plausibility limits are left open. (log 100 DEDUCED, 102 DESIGN CHOICE) -/
def execMonSelfCal (offset gain : Int) (s : State) : Host.Outcome State Fault Refusal :=
  s.onBoth (fun m c =>
    let per := c.get Fd.MON_CTL_CAL_PERIOD
    let due := per != 0 && decide (c.mon.calAt + per * 1000 * ticksPerUs ≤ c.now)
    if !c.svc then (m, c)
    else if !c.on Fd.MON_STS_CAL then (m, if due then c.monCalStart else c)
    else
      let ok := Config.monPlausible offset gain
      let dry := (c.cal.jobs.filter (fun j => j.kind == 1 && j.units.contains 0)).any (fun j => j.dry)
      let c := { c.monCalDone with mon := { c.mon with calAt := c.now } }
      if dry then (m, c.unitEndAll m 1 0 (if ok then .applied else .failed) (some (monVal offset gain)))
      else if !ok then
        let y := almRefuse m c 0
        (y.1, y.2.unitEndAll y.1 1 0 .failed none)
      else if almManual m 0 then (m, c.unitEndAll m 1 0 .notRun none)
      else
        let y := almAccept m { c with mon := { c.mon with offset := offset, gain := gain } } 0 (monVal offset gain)
        (y.1, y.2.unitEndAll y.1 1 0 .applied none))

/-- Settings of entry `e` were written (R231): its result is not VALID until a conversion that starts later ends. -/
def Core.monSet (c : Core) (e : Nat) : Core :=
  let c := c.put (Fd.MON_RES_VALID e) 0
  if c.monRuns && c.mon.entry == e then { c with mon := { c.mon with redo := true } } else c

end Sys2Proof.Machine
end

