-- ==== Sys2Proof/Machine/Registers.lean ====
section
/-!
DEFINITION. Host accesses to BAR0 that have no row of their own (R13, R15, R193, R252, R454-R464), with what a write of each register does.
-/
namespace Sys2Proof.Machine

/-- BAR0 answers as unoccupied: bring-up has FAILED and the offset lies beyond the chip registers (R442). -/
def Core.barMute (c : Core) (off : Nat) : Bool := !c.thm.shut && !c.pins.d3 && c.on Fd.CHP_BOOT_STS_FAILED && decide (0x100000 ≤ off)

/-- Does no register occupy the word at BAR0 offset `off`, so that an access is recorded (R464)? -/
def Core.unoccupied (c : Core) (off : Nat) : Bool :=
  let n := if aliasBase ≤ off then off - aliasBase else off
  c.window n && (regAt (n / 4 * 4)).isNone && !(decide (off < aliasBase) && decide (0xF0000 ≤ n) && decide (n < 0xF1020))

/-- An access to unoccupied space is recorded (R464). -/
def Core.noteUnocc (c : Core) (off : Nat) (write : Bool) : Core :=
  (c.setLiveW Fd.CHP_REGERR_ADDR (off % 2 ^ 26 + 2 ^ 26 * b2n write + 2 ^ 27 * b2n (decide (aliasBase ≤ off)))).inc Fd.CHP_REGERR_CNT_COUNT 1

/-- An access at `off` that covers words without a register is recorded once, with the lowest offset in them that it covers. -/
def Core.noteWords (c : Core) (off : Nat) (ws : List Nat) (write : Bool) : Core :=
  match ws.find? c.unoccupied with
  | some w => c.noteUnocc (max off w) write
  | none => c

/-! ### Writes -/

/-- Is `n` a register that an enabled ring keeps: BASE and WB (R273)? The ring's number. -/
def ringKept (n : Nat) : Option Nat :=
  let k := (n - Fd.CHP_RING_BASE_LO 0) / 0x20
  if n < Fd.CHP_RING_BASE_LO 0 ∨ 64 ≤ k then none
  else if [Fd.CHP_RING_BASE_LO k, Fd.CHP_RING_BASE_HI k, Fd.CHP_RING_WB_LO k, Fd.CHP_RING_WB_HI k].contains n then some k else none

/-- The lane whose equaliser values `n` holds: port and lane. -/
def eqLane (n : Nat) : Option (Nat × Nat) :=
  ((upFrom 0 4).flatMap (fun p => (upFrom 0 6).map (fun l => (p, l)))).find? (fun x => n == Fd.SZL_LANE_EQ x.1 x.2 || n == Fd.SZL_LANE_EQ2 x.1 x.2)

/-- Is `n` an OCCULT register (R145, R246)? -/
def isOccult (n : Nat) : Bool :=
  if n < 0x1000000 then false
  else
    let r := (n - 0x1000000) / 0x200000
    let b := ((n - 0x1000000) % 0x200000 - 0x10000) / 0x1000
    n == Fd.RGN_DAC_CTL r || n == Fd.VIO_CTL r || n == Fd.BLK_BB_CTL r b

/-- The value an OCCULT register had before its first write of this tick is kept: it governs the tick of the write (R145). -/
def Core.keepOcc (c : Core) (n : Nat) : Core :=
  if c.occOld.any (fun e => e.1 == n && e.2.1 == c.now) then c
  else { c with occOld := (n, c.now, c.liveW n) :: c.occOld.filter (fun e => e.1 != n) }

/-- The arbiters whose watchdog register `n` is. -/
def wdogArbs (n : Nat) : List Arb :=
  if n = (Fd.CHP_ARB_WDOG_EN).off then (upFrom 0 4).map Arb.chip
  else ((upFrom 0 8).filter (fun r => n == (Fd.RGN_ARB_WDOG_EN r).off)).map Arb.region
    ++ (upFrom 0 8).flatMap (fun r => ((upFrom 0 16).filter (fun b => n == (Fd.BLK_ARB_WDOG_EN r b).off)).map (Arb.block r))

/-- A watchdog that is not armed starts its count when it is (R339): no cycle before counts. -/
def Core.wdogStart (c : Core) (a : Arb) : Core :=
  if c.arbArmed a then c else c.modArb (arbKey a) (fun s => { s with idle := c.arbCount a (arbFirst a c.now) })

/-- What a write of register `n` must do before it takes effect. -/
def Core.beforeWrite (c : Core) (n : Nat) : Core :=
  if isOccult n then c.keepOcc n
  else if !(wdogArbs n).isEmpty then (wdogArbs n).foldl Core.wdogStart c
  else if n = Fd.TPT_DRIFT then { (if c.running then c.driftTick else c) with tpt := { (if c.running then c.driftTick else c).tpt with driftWr := some c.now } }
  else c

/-- What follows from a write of register `n` that has taken effect (R89, R327, R363, R395, R396, R231, R441). -/
def Core.afterWrite (c : Core) (m : Mems) (n : Nat) : Core :=
  if n < 0x1000000 then
    if n = Fd.CHP_EVT_CFG then
      (if c.svc && c.on Fd.CHP_EVT_CFG_EN && !c.host.bootEv then
         ({ c with host := { c.host with bootEv := true } }).raise 0xB0 0 0 (c.liveW Fd.CHP_BOOT_STS) (c.liveW Fd.CHP_RST_STS)
       else c)
    else if n = Fd.HBM_SCHED then c.stick Fd.HBM_STS_CFG_ERR (decide (c.get Fd.HBM_SCHED_WR_HIGH ≤ c.get Fd.HBM_SCHED_WR_LOW))
    else if n = Fd.CAL_COLL_CHIP then c.regions.foldl (fun c r => (upFrom 0 52).foldl (fun c k => c.collShow r k) c) c
    else
      let c := (upFrom 0 4).foldl (fun c p => if n = Fd.SZL_PORT_CFG p ∧ c.on (Fd.SZL_PORT_CFG_EN p) = false then c.portDown p else c) c
      match (upFrom 0 32).find? (fun e => n == Fd.MON_SEQ e || n == Fd.MON_LIM e) with
      | some e => c.monSet e
      | none => c
  else if isCellReg n (Fd.CEL_FAULT 0 - celBase 0) then
    if c.get ⟨n, 4, 8, .w1c⟩ = 0 then c.put ⟨n, 0, 4, .ro⟩ 0 else c
  else
    let r := (n - 0x1000000) / 0x200000
    match (upFrom 0 52).find? (fun k => n == Fd.RGN_COLL_TRIM r k) with
    | some k =>
      let e := almColl r k
      let c := if c.on (Fd.RGN_COLL_TRIM_MAN r k) && almManual m e then c.putS (Fd.RGN_COLL_STS_TRACK r k) (sx 12 (bitsOf (almV m e 0) 0 12)) else c
      c.collShow r k
    | none => c

/-- Bits `mask` of a register without SH fields written with `v`: refused by an enabled ring (R273), in RATE_CHANGE (R322), of equaliser values without MAN (R372). -/
def Core.plainWrite (c : Core) (m : Mems) (n v mask : Nat) : Core :=
  match ringKept n with
  | some k =>
    if c.on (Fd.CHP_RING_CFG_EN k) then c.put (Fd.CHP_RING_STS_CFG_ERR k) 1 else c.liveWrite n v mask
  | none =>
    match eqLane n with
    | some (p, l) =>
      let man := Fd.SZL_LANE_EQ_MAN p l
      let manBit := 2 ^ man.lo
      let new := if n = Fd.SZL_LANE_EQ p l ∧ Nat.land mask manBit ≠ 0 then Nat.land v manBit != 0 else c.on man
      if new then c.liveWrite n v mask else if n = Fd.SZL_LANE_EQ p l then c.liveWrite n v (Nat.land mask manBit) else c
    | none =>
      if n = Fd.HBM_CFG ∧ c.hbmIs .rateChange = true then c.put Fd.HBM_STS_CFG_ERR 1
      else ((c.beforeWrite n).liveWrite n v mask).afterWrite m n

/-- One word at BAR0 offset `off` written with bits `mask` of `v` (R252, R454, R461, R462). -/
def Core.writeWord (c : Core) (m : Mems) (off v mask : Nat) : Core :=
  if aliasBase ≤ off then c.shadowWrite (off - aliasBase) v mask
  else if inMsix off then c.msixWrite off v mask
  else if !c.window off then c
  else
    match regAt off with
    | none => c
    | some row => if row.isSh then c.shadowWrite off v mask else c.plainWrite m off v mask

/-- REGISTER_WRITE (R456-R458): the host writes the bytes of `val` that `be` enables, of `len` bytes at BAR0 offset `off`. (log 8 DEDUCED) -/
def execRegisterWrite (off len : Nat) (be : BitVec 8) (val : BitVec 64) (s : State) : Host.Outcome State Fault Refusal :=
  s.onCore (fun m c =>
    if c.barMute off then c
    else if !accOk off len || !c.bar0 off then c.emit .unsupported
    else
      let ws := accWords off len
      let c := ws.foldl (fun c w => c.writeWord m w (wordPart off val.toNat w) (enabledMask off len be.toNat w)) c
      c.noteWords off ws true)

/-- CEL_FRAME_WRITE (R189, R193): the host writes the frame bits of cell `g`, at once or held until tick Q. A value written at once in a drain applies again if a later toggle moves Q.
(log 121 DEDUCED, 165 DEDUCED) -/
def execCelFrameWrite (g : Nat) (x z : Bool) (s : State) : Host.Outcome State Fault Refusal :=
  s.onCore (fun _ c =>
    let h := (c.rgn (cellR g)).shot
    if !c.svc || !c.cOk g || (c.role g != 1 && c.role g != 2) then c
    else if (h.inShot || h.d0.isSome) && !h.framed && !c.parked (cellR g) && decide (h.ts ≤ c.now) then
      (c.modCell g (fun k => { k with frameHeld := some (x, z) })).put (Fd.CEL_FRAME_WR_HELD g) 1
    else
      let old := (c.on (Fd.CEL_FRAME_X g), c.on (Fd.CEL_FRAME_Z g))
      let c := if h.d0.isSome then c.modCell g (fun k => { k with frameHeld := some (x, z) }) else c
      if old = (x, z) then c else c.setFrame g x z)

/-! ### Reads -/

/-- Values captured for a read. -/
def Core.capture (c : Core) (l : List (Nat × Nat)) : Core :=
  { c with host := { c.host with capture := l.foldl (fun t e => Tbl.insert t e.1 (e.2 % 2 ^ 32)) c.host.capture } }

/-- A read of the first register of a capture group (R34, R265, R380, R385, R389, R459): what it returns, with the rest of its group captured. -/
def Core.readCapture (c : Core) (n : Nat) : Nat × Core :=
  if n = Fd.CHP_MERIDIAN_LO then (c.now % 2 ^ 32, c.capture [(Fd.CHP_MERIDIAN_HI, c.now / 2 ^ 32)])
  else if n = Fd.CHP_RUN_TS_LO then (c.liveW n, c.capture [(Fd.CHP_RUN_TS_HI, c.liveW Fd.CHP_RUN_TS_HI)])
  else if n = Fd.TPT_CAP_M_LO then
    let nt := twos 64 (floorShr (c.ntAt (8 * c.now)) 32)
    (c.now % 2 ^ 32, c.capture [(Fd.TPT_CAP_M_HI, c.now / 2 ^ 32), (Fd.TPT_CAP_NT_LO, nt), (Fd.TPT_CAP_NT_HI, nt / 2 ^ 32)])
  else if n = Fd.TPT_OFF_LO then
    let x := twos 96 (c.offAt c.now)
    (x / 2 ^ 32 % 2 ^ 32, c.capture [(Fd.TPT_OFF_HI, x / 2 ^ 64), (Fd.TPT_OFF_FRAC, x)])
  else c.popStamp

/-- One word read, with the captures and clears of RC fields that the read makes (R457, R459). -/
def Core.readEffect (c : Core) (off mask : Nat) : Nat × Core :=
  if captures off then c.readCapture off else (c.readWord off, c.clearRc off mask)

/-- The bytes of an access of `len` bytes at `off`, and the state after it. -/
def Core.readAll (c : Core) (off len : Nat) : List Byte × Core :=
  let y := (accWords off len).foldl (fun (a : List (Nat × Nat) × Core) w =>
    let x := a.2.readEffect w (byteMask off len w)
    (a.1 ++ [(w, x.1)], x.2)) ([], c)
  ((upFrom off len).map (fun b =>
    match y.1.find? (fun e => e.1 == b / 4 * 4) with
    | some e => BitVec.ofNat 8 (e.2 / 2 ^ (8 * (b % 4)))
    | none => 0), y.2)

/-- A host read of BAR0 answers. -/
def Core.hostRead (c : Core) (off len : Nat) : Core :=
  if c.barMute off then c.emit (.readAns (List.replicate len 0) false)
  else if !accOk off len || !c.bar0 off then c.emit .unsupported
  else
    let y := c.readAll off len
    (y.2.noteWords off (accWords off len) false).emit (.readAns y.1 false)

/-- REGISTER_READ_CLEAR (R456, R457): a read that covers no first register of a capture group; it clears the RC fields it returns. -/
def execRegisterReadClear (off len : Nat) (s : State) : Host.Outcome State Fault Refusal :=
  s.onCore (fun _ c => if (accWords off len).any captures then c else c.hostRead off len)

/-- CAPTURE_READ (R459): a read that covers the first register of a capture group. -/
def execCaptureRead (off len : Nat) (s : State) : Host.Outcome State Fault Refusal :=
  s.onCore (fun _ c => if (accWords off len).any captures then c.hostRead off len else c)

/-- UNOCCUPIED_ACCESS (R464): an access to a word that no register occupies reads zero, writes nothing and is recorded. (log 64 DEDUCED) -/
def execUnoccupiedAccess (off : Nat) (write : Bool) (s : State) : Host.Outcome State Fault Refusal :=
  s.onCore (fun _ c =>
    if !c.bar0 off || decide (2 ^ 26 ≤ off) || !c.unoccupied off then c
    else
      let c := c.noteUnocc off write
      if write then c else c.emit (.readAns (List.replicate 4 0) false))

end Sys2Proof.Machine
end

