-- ==== Sys2Proof/Machine/Bringup.lean ====
section
/-!
DEFINITION. Resets, bring-up and D3hot (R58-R62, R410, R417, R431, R436-R445).
-/
namespace Sys2Proof.Machine

/-! ### Reset sources (R437-R439) -/

/-- Reset release with cause `cause`: the straps are sampled (R59, R362, R482) and bring-up starts from POWER_GOOD. (log 104 DEDUCED, 118 DESIGN CHOICE) -/
def resetTo (m : Mems) (c : Core) (aon : Bool) (cause : Nat) (kept : Bool) (st : Straps) : Mems × Core :=
  let n := (c.restart aon cause st).put Fd.CHP_SYNC_STS_DLY st.syncDly.toNat
  let n := (upFrom 0 4).foldl (fun n p => n.setOn (Fd.SZL_PORT_CFG_EN p) (bitAt st.szlEn.toNat p)) n
  (m.restart kept, { n with boot := { n.boot with kept := kept } })

/-- POWER_ON (R437): VDD_AON has risen; nothing is kept. -/
def execPowerOn (st : Straps) (s : State) : Host.Outcome State Fault Refusal := s.onBoth (fun m c => resetTo m c false 1 false st)

/-- PWR_OK_LOW (R426, R437, R482, R483): PWR_OK was low for 10 µs or more and is asserted again. During a thermal shutdown it is no reset cause; once THERMTRIP_N has been released
with rails absent, this is the PWR_OK that the bring-up after the shutdown waits for. (log 115 DEDUCED) -/
def execPwrOkLow (st : Straps) (s : State) : Host.Outcome State Fault Refusal :=
  s.onBoth (fun m c => if c.thm.shut then (if c.thm.released then resetTo m c true 3 false st else (m, c)) else resetTo m c true 2 false st)

/-- PERST (R437, R438): a fundamental reset, released; an ACTIVE stack is first put into self-refresh and keeps its contents. -/
def execPerst (st : Straps) (s : State) : Host.Outcome State Fault Refusal :=
  s.onBoth (fun m c => if c.thm.shut then (m, c) else resetTo m c true 4 (c.hbmIs .active) st)

/-- CHIP_RESET (R15, R437, R438, R452, R457): a write of `CHP_RST_CTL` whose KEY is 0xA5 and whose CHIP_RESET is 1. (log 9 DESIGN CHOICE) -/
def execChipReset (be : BitVec 4) (val : Word) (st : Straps) (s : State) : Host.Outcome State Fault Refusal :=
  s.onBoth (fun m c =>
    if !c.bar0 Fd.CHP_RST_CTL then (m, c)
    else
      let w := Nat.land val.toNat (enMask be)
      let bad := decide (2 ^ 10 ≤ w)
      let v := if bad then c.free.1 else w
      let c := if bad then c.free.2 else c
      if bitsOf v 0 8 = 0xA5 ∧ bitAt v 8 = true then resetTo m c true 5 (c.hbmIs .active) st else (m, c))

/-- A series in progress ends as STOP with CUT = 1 (R262, R431, R439). -/
def Core.cutSeries (c : Core) : Core :=
  if c.runIs .armed || c.runIs .running then c.stopNow true else if c.runIs .draining then c.cutShot else c

/-- Ring `n` is disabled; a descriptor fetched but not started is discarded without completion (R439). (log 119 DEDUCED) -/
def Core.ringOff (c : Core) (n : Nat) : Core :=
  let c := c.put (Fd.CHP_RING_CFG_EN n) 0
  match (c.ring n).cmd with
  | some k => if k.exec then c else c.modRing n (fun r => { r with cmd := none })
  | none => c

/-- The device returns from D3hot: the converters settle for 2 ms (R431). -/
def Core.leaveD3 (c : Core) : Core :=
  if c.pins.d3 then { c with pins := { c.pins with d3 := false, settleTo := c.now + 2000 * ticksPerUs, srDue := 0 } } else c

/-- FLR (R439): the series ends cut, the channels are disarmed, the rings disabled, the rest of the host interface returns to reset, the PCI power state with it; the record of the shot
that it cuts is discarded too. A configuration write asks for it, so that it acts in FAILED as well (R440, R442). (log 119 DEDUCED) -/
def execFlr (s : State) : Host.Outcome State Fault Refusal :=
  s.onCore (fun _ c =>
    if c.cfgAnswer ≠ .normal then c
    else
      let c := c.leaveD3.cutSeries
      let c := { c with ser := { c.ser with mute := c.ser.shotOn } }
      let c := (upFrom 0 32).foldl (fun c ch => if c.acqState ch = 0 then c else c.acqStop ch 0) c
      let c := (upFrom 0 64).foldl Core.ringOff c
      let c := (c.setLiveW Fd.CHP_EVT_CFG (regReset Fd.CHP_EVT_CFG)).setLiveW Fd.CHP_RESULT_CFG (regReset Fd.CHP_RESULT_CFG)
      ({ c with host := { c.host with recs := [], msix := [], pba := 0, relaxOn := true } }).put Fd.CHP_RST_STS_FLR 1)

/-- D3HOT_ENTRY (R431): a series ends cut, the converters power down, the stack enters self-refresh as soon as it can. (log 120 DEDUCED) -/
def execD3hotEntry (s : State) : Host.Outcome State Fault Refusal :=
  s.onCore (fun _ c =>
    if c.cfgAnswer ≠ .normal ∨ c.pins.d3 = true then c
    else
      let c := c.cutSeries
      ({ c with pins := { c.pins with d3 := true, srDue := if c.hbmIs .selfRefresh || c.hbmIs .srEntry then 0 else 1 } }).srForD3)

/-- D0_RETURN (R431): the converters settle for 2 ms. -/
def execD0Return (s : State) : Host.Outcome State Fault Refusal :=
  s.onCore (fun _ c => c.leaveD3)

/-- THERMAL_RESTART (R426, R482): every working sensor has read below 85 °C for 10 s; THERMTRIP_N is released, and bring-up starts at once with the rails present, else when PWR_OK is
asserted again (PWR_OK_LOW). (log 115 DEDUCED) -/
def execThermalRestart (railsPresent : Bool) (st : Straps) (s : State) : Host.Outcome State Fault Refusal :=
  s.onBoth (fun m c =>
    if c.thm.shut && !c.thm.released && decide (1000000 ≤ c.thm.cool) then
      if railsPresent then resetTo m c true 3 false st else (m, { c with thm := { c.thm with released := true } })
    else (m, c))

/-! ### Stages (R441, R442) -/

/-- Codes of `CHP_BOOT_STS.FAIL_CODE` (R452). -/
inductive BootFail where
  | timeout | rail | pll0 | sync | fuse | minimumSet
  deriving DecidableEq, Repr

/-- The code of a failure. -/
def BootFail.code : BootFail → Nat
  | .timeout => 1 | .rail => 2 | .pll0 => 3 | .sync => 4 | .fuse => 5 | .minimumSet => 6

/-- Bring-up is in stage `k` (R441). (log 5 DESIGN CHOICE) -/
def Core.inStage (c : Core) (k : Nat) : Bool := c.get Fd.CHP_BOOT_STS_STAGE == k && !c.on Fd.CHP_BOOT_STS_FAILED && !c.thm.shut
/-- Bring-up goes on to stage `k`. (log 116 DEDUCED) -/
def Core.toStage (c : Core) (k : Nat) : Core := c.put Fd.CHP_BOOT_STS_STAGE k
/-- Bring-up fails in its stage (R442): AER logs an Uncorrectable Internal Error. -/
def Core.bootFail (c : Core) (f : BootFail) : Core :=
  (((c.put Fd.CHP_BOOT_STS_FAIL_STAGE (c.get Fd.CHP_BOOT_STS_STAGE)).put Fd.CHP_BOOT_STS_FAIL_CODE f.code).put Fd.CHP_BOOT_STS_FAILED 1).emit (.aer 0)

/-- POWER_GOOD (R433, R441): every rail lies in its window and came up in order, or not. -/
def execPowerGood (railsOk inTime : Bool) (s : State) : Host.Outcome State Fault Refusal :=
  s.onCore (fun _ c =>
    if !c.inStage 1 then c else if !inTime then c.bootFail .timeout else if !railsOk then c.bootFail .rail else c.toStage 2)

/-- REF_LOCK (R59, R441): the PLLs lock, and the chip listens on SYNC_IN; or the limit of the stage passes, while it listens with code SYNC. (log 117 DEDUCED) -/
def execRefLock (pllOk inTime : Bool) (s : State) : Host.Outcome State Fault Refusal :=
  s.onCore (fun _ c =>
    if !c.inStage 2 then c
    else if c.boot.listen then (if inTime then c else c.bootFail .sync)
    else if !inTime then c.bootFail .timeout
    else if !pllOk then c.bootFail .pll0
    else { c with boot := { c.boot with listen := true, window := true } })

/-- The meridian counter starts at `t` (R58, R59). (log 117 DEDUCED) -/
def Core.startCount (c : Core) (t role : Nat) : Core :=
  let c := { c with now := t % 2 ^ 64, running := true, boot := { c.boot with listen := false, window := false }, pins := { c.pins with syncHigh := false } }
  ((c.put Fd.CHP_SYNC_STS_ROLE role).put Fd.CHP_SYNC_STS_ALIGNED 1).toStage 3

/-- SYNC_LISTEN_END (R59): the window of 131,072 ticks ends, once. SYNC_IN low throughout makes the chip MASTER; else it goes on listening, for a frame only. (log 117 DEDUCED) -/
def execSyncListenEnd (allLow : Bool) (s : State) : Host.Outcome State Fault Refusal :=
  s.onCore (fun _ c =>
    if !c.inStage 2 || !c.boot.window then c
    else if allLow then c.startCount 0 1 else { c with boot := { c.boot with window := false } })

/-- The CRC-8 of the 64 bits of `e`, bit 0 first (R58). (log 60 DEDUCED) -/
def syncCrc (e : Nat) : Nat := crcBits 8 0x07 0 (bitsUp e 64)

/-- SYNC_FRAME_RX (R59, R62): a frame for E with CRC-8 `crc` has been received, and whether its marker followed six ticks later. With both it loads the counter of a chip that listens; in service a FOLLOWER compares its count at the marker. -/
def execSyncFrameRx (e : BitVec 64) (crc : BitVec 8) (marker : Bool) (s : State) : Host.Outcome State Fault Refusal :=
  s.onCore (fun _ c =>
    let d := c.get Fd.CHP_SYNC_STS_DLY
    let crcOk := crc.toNat == syncCrc e.toNat
    if c.inStage 2 && c.boot.listen then (if crcOk && marker then c.startCount (e.toNat + 1 + d) 2 else c)
    else if !c.svc || !c.on Fd.CHP_SYNC_CTL_MON_EN || c.get Fd.CHP_SYNC_STS_ROLE != 2 then c
    else if !crcOk then c.put Fd.CHP_SYNC_STS_FRAME_ERR 1
    else if !marker then c
    else
      let off : Int := (c.now : Int) - ((e.toNat + d : Nat) : Int)
      let c := c.putS Fd.CHP_SYNC_OFFSET_OFFSET (clampI (-2147483648) 2147483647 off)
      if off = 0 then c
      else ((c.put Fd.CHP_SYNC_STS_MISMATCH 1).inc Fd.CHP_SYNC_STS_MISMATCH_CNT 1).raise 0x12 0 0 (twos 64 off) e.toNat)

/-- Content `k` ticks after the start bit of the frame for `e` (R58): start bit, 0, the bits of E, the CRC bit 0 first, zeros, marker. (log 60 DEDUCED) -/
def syncBit (e k : Nat) : Bool := k == 0 || k == 80 || (decide (2 ≤ k ∧ k < 66) && bitAt e (k - 2)) || (decide (66 ≤ k ∧ k < 74) && bitAt (syncCrc e) (k - 66))

/-- The level of SYNC_OUT at this tick (R58): high from reset release until the counter starts; then the frames, while OUT_EN is 1. -/
def Core.syncPin (c : Core) : Bool :=
  if !c.running then c.pins.syncHigh
  else c.on Fd.CHP_SYNC_CTL_OUT_EN &&
    (match c.pins.syncE with
     | some e => decide (c.now ≤ e ∧ e ≤ c.now + 80) && syncBit e (c.now + 80 - e)
     | none => false)

/-- SYNC_FRAME_TX (R58): the frame for E, the tick 80 ticks from now, begins when E is a multiple of 65,536; SYNC_OUT carries it while OUT_EN is 1 (`Core.syncPin`). -/
def execSyncFrameTx (s : State) : Host.Outcome State Fault Refusal :=
  s.onCore (fun _ c =>
    if c.running && !c.thm.shut && (c.now + 80) % 65536 == 0 then
      { c with pins := { c.pins with syncE := some (c.now + 80) } }
    else c)

/-- The kinds whose entries FUSE_LOAD writes (R407). (log 106 DEDUCED) -/
def factoryKind (e : Nat) : Bool :=
  match almHead e with
  | some h => [AlmKind.mon, .tptLat, .therm, .coll, .mis, .adcFull, .dacFull, .bbFull].contains h.kind
  | none => false

/-- A FACTORY entry takes effect: monitor, time-port latencies, collimation, slices. (log 106 DEDUCED) -/
def Core.factoryApply (c : Core) (e : Nat) (v : AlmVal) : Core :=
  match almHead e with
  | none => c
  | some h =>
    match h.kind with
    | .mis => c.modAdc ((e - 1024) / 16) (fun z => { z with slices := Tbl.insert z.slices ((e - 1024) % 16) ((z.slice ((e - 1024) % 16)).load v.v0.toNat v.v1.toNat) })
    | _ => c.manualApply h e v

/-- FUSE_LOAD (R3, R407, R441, R463, R483): the fuses are loaded and FACTORY entries written; the power-up hold of THERMTRIP_N ends. (log 106 DEDUCED) -/
def execFuseLoad (fuses : FuseSet) (ok inTime : Bool) (s : State) : Host.Outcome State Fault Refusal :=
  s.onBoth (fun m c =>
    if !c.inStage 3 then (m, c)
    else if !inTime then (m, c.bootFail .timeout)
    else if !ok then (m, c.bootFail .fuse)
    else
      let big := fuses.part == .lk1024
      let c := (c.put Fd.CHP_ID_PART (if big then 0x1024 else 0x0512)).put Fd.CHP_ID_FAMILY 0x4C4B
      let c := ((c.put Fd.CHP_REV_MINOR fuses.minor.toNat).put Fd.CHP_REV_MAJOR fuses.major.toNat).put Fd.CHP_REV_FUSE_VER fuses.fuseVer.toNat
      let c := (c.put Fd.CHP_SERIAL_LO_SERIAL_LO fuses.serial.toNat).put Fd.CHP_SERIAL_HI_SERIAL_HI (fuses.serial.toNat / 2 ^ 32)
      let c := (((c.put Fd.CHP_CAPS_REGIONS (if big then 0xFF else 0x0F)).put Fd.CHP_CAPS_SZL_PORTS 0xF).put Fd.CHP_CAPS_HBM 1).put Fd.CHP_CAPS_TIME_PORT 1
      let fs := fuses.factory.filter (fun f => factoryKind f.1 && c.almExists f.1)
      let y := fs.foldl (fun (a : Mems × Core) f => (almPut a.1 a.2.now f.1 AlmState.factory.code f.2, a.2.factoryApply f.1 f.2)) (m, c)
      let c := { y.2 with cal := { y.2.cal with factory := fs }, boot := { y.2.boot with jtagWait := y.2.pins.straps.jtagEn && !y.2.boot.jtagOff },
                          pins := { y.2.pins with fuseDone := true, hold := false } }
      (y.1, c.toStage 4))

/-- JTAG_EN_RELEASE (R485): JTAG_EN is cleared, and SELF_TEST may start, also if FUSE_LOAD has yet to end. -/
def execJtagEnRelease (s : State) : Host.Outcome State Fault Refusal :=
  s.onCore (fun _ c => { c with boot := { c.boot with jtagWait := false, jtagOff := true } })

/-- The minimum set of R443: some region with its supervisor, a block, and the RF DAC of that block's default map. -/
def Core.minimumSet (c : Core) (failed : List TestUnit) : Bool :=
  !failed.contains .core && (upFrom 0 8).any (fun r => c.exists_ r && !failed.contains (.region r)
    && (upFrom 0 16).any (fun b => !failed.contains (.block r b) && !failed.contains (.dac r (b / 2))))

/-- The unit maps with every unit of the part enabled (R452). -/
def Core.allUnits (c : Core) : Core :=
  let c := c.put Fd.CHP_UNIT_STS_REGION_OK (c.get Fd.CHP_CAPS_REGIONS)
  ((upFrom 0 8).filter c.exists_).foldl (fun c r =>
    let c := c.setLiveW (Fd.RGN_UNIT_STS r) 0x0FFFFFFF
    (upFrom 0 16).foldl (fun c b => c.setLiveW (Fd.BLK_UNIT_STS r b) 0xFFFFF) c) c

/-- SELF_TEST (R422, R424, R441, R443-R445): units that fail are disabled; ROLE of a failed cell is IDLE in both sets. A region whose zone is at step 3 parks as soon as it is in
service. -/
def execSelfTest (failed : List TestUnit) (inTime : Bool) (s : State) : Host.Outcome State Fault Refusal :=
  s.onCore (fun m c =>
    if !c.inStage 4 || c.boot.jtagWait then c
    else if !inTime then c.bootFail .timeout
    else if !c.minimumSet failed then c.bootFail .minimumSet
    else
      let c := failed.foldl Core.disable c.allUnits
      let c := failed.foldl (fun c u =>
        match u with
        | .cell r b k => if testUnitOk u then c.clearBoth (Fd.CEL_CFG_ROLE (r * 288 + b * 18 + k)) else c
        | _ => c) c
      ((upFrom 0 9).foldl (fun c z => if c.get (zStep z) = 3 then c.parkStep m z else c) c).toStage 5)

/-- The calibration of sensor `s` at ANALOG_CAL (R417), a quotient rounding down: with `count` in the window in which the reference sensor reads `tref`. A quotient by a SLOPE of 0 and a C25 outside its
field are not stated: free. (log 105 DESIGN CHOICE) -/
def sensorCal (a : Mems × Core) (s count : Nat) (tref : Int) : Mems × Core :=
  let m := a.1
  let c := a.2
  let e := almTherm s
  let f := c.factoryVal e
  let slope := sx 16 (bitsOf f.v1.toNat 0 16)
  let new : Int := (count : Int) - Int.fdiv ((tref - 100) * 2 ^ 16) slope
  let dev := (new - (bitsOf f.v0.toNat 0 20 : Int)) * slope
  if almManual m e then (m, c)
  else if slope ≠ 0 ∧ 16 * 2 ^ 16 < dev.natAbs then almRefuse m c e
  else
    let open_ := decide (slope = 0) || decide (new < 0) || decide (2 ^ 20 ≤ new)
    let c25 := if open_ then c.free.1 % 2 ^ 20 else new.toNat
    let c := if open_ then c.free.2 else c
    almAccept m c e { v0 := BitVec.ofNat 32 c25, v1 := BitVec.ofNat 32 (bitsOf f.v1.toNat 0 16), v2 := BitVec.ofNat 32 (twos 12 tref), v3 := 0 }

/-- A result of ANALOG_CAL other than a sensor's (R392, R398, R403): checked and applied, or refused. The first TRACK of a channel passes no JUMP test. -/
def analogResult (a : Mems × Core) (x : CalMeas) : Mems × Core :=
  match almHead x.entry with
  | none => a
  | some h =>
    match h.kind with
    | .mon =>
      if x.ok && a.2.manualOk a.1 h x.entry x.val then almAccept a.1 (a.2.manualApply h x.entry x.val) x.entry x.val else almRefuse a.1 a.2 x.entry
    | .coll =>
      let t := sx 12 (bitsOf x.val.v0.toNat 0 12)
      if x.ok && decide (-1535 ≤ t) && decide (t ≤ 1535) then
        let r := (x.entry - 256) / 52
        let k := (x.entry - 256) % 52
        let c := a.2.putS (Fd.RGN_COLL_STS_TRACK r k) t
        almAccept a.1 c x.entry (c.collVal r k t)
      else almRefuse a.1 a.2 x.entry
    | .adcFull | .dacFull | .bbFull =>
      let ok := x.ok && a.2.fullOk x.entry x.val && slicesOk x.entry x
      almResult a.1 (if ok then a.2.slicesLoad a.1 x.entry x else a.2) x.entry ok x.val
    | _ => a

/-- A stage whose failure fails no bring-up has exceeded its limit (R441): the stage and the code TIMEOUT are noted. (log 116 DEDUCED) -/
def Core.stageLate (c : Core) (inTime : Bool) : Core :=
  if inTime then c else (c.put Fd.CHP_BOOT_STS_FAIL_STAGE (c.get Fd.CHP_BOOT_STS_STAGE)).put Fd.CHP_BOOT_STS_FAIL_CODE BootFail.timeout.code

/-- ANALOG_CAL (R391, R398, R403, R417, R441): `therm` gives, by sensor, the count and the reference reading; `res` the other results. Refused results, and those that a stage past its
limit has not reached, keep FACTORY values. (log 116 DEDUCED) -/
def execAnalogCal (therm : List (Nat × Nat × Int)) (res : List CalMeas) (inTime : Bool) (s : State) : Host.Outcome State Fault Refusal :=
  s.onBoth (fun m c =>
    if !c.inStage 5 then (m, c)
    else
      let y := (therm.filter (fun t => c.sensorOk t.1)).foldl (fun a t => sensorCal a t.1 t.2.1 t.2.2) (m, c)
      let y := (res.filter (fun x => y.2.almExists x.entry)).foldl analogResult y
      let c := y.2.regions.foldl (fun c r =>
        (upFrom 0 52).foldl (fun c k => (c.putS (Fd.RGN_COLL_STS_APPLIED r k) (c.collTarget r k)).collShow r k) c) y.2
      (y.1, ((c.stageLate inTime).toStage 6).hbmGo .training))

/-- The MANUAL entries of copy `k` of the almanac are restored and applied (R408, R410). -/
def restoreCopy (m : Mems) (c : Core) (k : Nat) : Mems × Core :=
  (upFrom 0 32768).foldl (fun (a : Mems × Core) e =>
    match almHead e with
    | none => a
    | some h =>
      let b := hRead m (c.copyAddr k + 64 + 32 * e) 32
      if c.almExists e && fromLE ((b.drop 4).take 4) % 4 == 3 then manualPut a.1 a.2 h e (supplied b) else a) (m, c)

/-- The restore from the copy found (R410). Which copy an event of outcome 2 names is not stated: free. (log 104 DEDUCED) -/
def restoreFrom (m : Mems) (c : Core) : Option Nat → Mems × Core
  | none => (m, c.free.2.raise 0xA2 0 0 (c.free.1 % 2) 2)
  | some k =>
    ((restoreCopy m c k).1, (((restoreCopy m c k).2.put Fd.CAL_STS_RESTORED 1).put Fd.CAL_STS_BACKUP_VALID 1).put Fd.CAL_STS_BACKUP_GEN (c.copyGen m k % 2 ^ 16))

/-- The root looks for a valid backup copy and restores from it (R317, R410). (log 104 DEDUCED) -/
def almRestore (m : Mems) (c : Core) : Mems × Core :=
  let c := [0, 1].foldl (fun (c : Core) k => (c.hCounts m (c.copyAddr k) (64 + 2 ^ 20) 0).raiseIf (c.copyUe m k) 0xA2 0 0 k 1) c
  restoreFrom m c (c.newestCopy m)

/-- The stage after HBM_TRAIN: LANE_TRAIN, skipped when no port is enabled by its strap, which is NO_MESH (R441, R445). (log 104 DEDUCED) -/
def Core.afterHbm (c : Core) : Core :=
  let c := c.toStage 7
  if c.pins.straps.szlEn = 0 then { c.put Fd.CHP_BOOT_STS_NO_MESH 1 with boot := { c.boot with ready := true } } else c

/-- HBM_TRAIN (R410, R438, R441): the stack is trained, without a write if its contents were kept, and the almanac restored; a failure is NO_HBM. (log 116 DEDUCED) -/
def execHbmTrain (ok inTime : Bool) (res : List CalMeas) (s : State) : Host.Outcome State Fault Refusal :=
  s.onBoth (fun m c =>
    if !c.inStage 6 then (m, c)
    else if !ok || !inTime then
      let y := noHbm m (c.stageLate inTime)
      (y.1, y.2.afterHbm)
    else
      let c := (c.setOn Fd.CHP_BOOT_STS_HBM_KEPT c.boot.kept).put Fd.HBM_STS_RATE_NOW (c.get Fd.HBM_CFG_RATE)
      let c := c.hbmGo .active
      let y := storeAll m c 96 112 res
      let period := max 1 (c.get Fd.HBM_TRAIN_CTL_RETRAIN_PERIOD) * 1000 * ticksPerUs
      let y := almRestore y.1 { y.2 with hbmc := { HbmCtl.init with pauseAt := c.now + period, idleAt := c.now } }
      (y.1, y.2.afterHbm))

/-- A port whose receiver has heard nothing. -/
def silent : PortTrain :=
  { heard := false, locked := 0, ts1 := [], ts2 := [], ams := [], link := [] }

/-- LANE_TRAIN (R362, R441, R445): every enabled port trains with what its receiver finds; with no port UP the chip is in NO_MESH. (log 116 DEDUCED) -/
def execLaneTrain (ports : List PortTrain) (inTime : Bool) (s : State) : Host.Outcome State Fault Refusal :=
  s.onBoth (fun m c =>
    if !c.inStage 7 || c.boot.ready then (m, c)
    else
      let y := ((upFrom 0 4).filter (fun p => c.on (Fd.SZL_PORT_CFG_EN p))).foldl (fun (a : Mems × Core) p => trainPort a.1 a.2 p (ports.getD p silent)) (m, c)
      let up := (upFrom 0 4).any (fun p => y.2.portIs p .up)
      (y.1, { (y.2.setOn Fd.CHP_BOOT_STS_NO_MESH (!up)).stageLate inTime with boot := { y.2.boot with ready := true } }))

/-- SERVICE (R426, R441): BAR decoding, SMBus and configuration space open, `ms` milliseconds after reset release; after a thermal shutdown RESTARTED is set and EV_THERM_RESTART raised. (log 116 DEDUCED) -/
def execService (ms : Nat) (inTime : Bool) (s : State) : Host.Outcome State Fault Refusal :=
  s.onCore (fun _ c =>
    if !c.inStage 7 || !c.boot.ready then c
    else if !inTime then (c.toStage 8).bootFail .timeout
    else
      let c := (c.toStage 8).put Fd.CHP_BOOT_STS_TIME_MS (min ms 4095)
      if c.get Fd.CHP_RST_STS_CAUSE = 3 then (c.put Fd.THM_STS_RESTARTED 1).raise 0x64 0 0 (c.get Fd.THM_CNT_SHUTDOWNS) c.thm.cause else c)

end Sys2Proof.Machine
end

