-- ==== Sys2Proof/Machine/Pins.lean ====
section
/-!
DEFINITION. The JTAG port (R484, R485) and the SMBus port (R483, R486).
-/
namespace Sys2Proof.Machine

/-! ### JTAG -/

/-- The instruction register and what it selects: the data register's contents, bit 0 first, the levels that the boundary-scan cells drive, and whether every output is high impedance. (log 122 DEDUCED) -/
def Core.jtag (c : Core) (ir : Nat) (data : List Bool) (out : Option (List Bool)) (hiZ : Bool) : Core :=
  { c with pins := { c.pins with jtagIr := ir, jtagData := data, jtagOut := out, jtagHiZ := hiZ } }

/-- BYPASS (R484): the one-bit bypass register, which captures 0; any code that is not in the table acts so. -/
def execJtagBypass (code : BitVec 8) (s : State) : Host.Outcome State Fault Refusal :=
  s.onCore (fun _ c => if ([0x00, 0x01, 0x02, 0x04, 0x05] : List (BitVec 8)).contains code then c else c.jtag code.toNat [false] none false)

/-- The IDCODE (R484, R485): its part and stepping fields are zero until FUSE_LOAD has completed. -/
def Core.idcode (c : Core) : Nat :=
  0x3D7 * 2 + 1 + (if c.pins.fuseDone then c.get Fd.CHP_ID_PART * 2 ^ 12 + c.get Fd.CHP_REV_MAJOR * 2 ^ 28 else 0)

/-- IDCODE (R484), also the instruction after test-logic reset. -/
def execJtagIdcode (s : State) : Host.Outcome State Fault Refusal :=
  s.onCore (fun _ c => c.jtag 0x01 ((upFrom 0 32).map (bitAt c.idcode)) none false)

/-- SAMPLE/PRELOAD (R484): the levels `pins` are captured, and `load` is what the boundary-scan cells hold from now on; both cover every pin of the register. (log 122 DEDUCED) -/
def execJtagSamplePreload (pins load : List Bool) (s : State) : Host.Outcome State Fault Refusal :=
  s.onCore (fun _ c =>
    if pins.length ≠ bsrLen ∨ load.length ≠ bsrLen then c
    else
      let c := c.jtag 0x02 pins none false
      { c with pins := { c.pins with jtagPre := load } })

/-- EXTEST (R484, R485): with JTAG_EN the boundary-scan register captures the levels `pins`, and the preloaded levels drive the outputs, or those that a scan `load` has brought since;
without it, as BYPASS. (log 122 DEDUCED) -/
def execJtagExtest (pins : List Bool) (load : Option (List Bool)) (s : State) : Host.Outcome State Fault Refusal :=
  s.onCore (fun _ c =>
    if !c.pins.straps.jtagEn then c.jtag 0x00 [false] none false
    else if pins.length ≠ bsrLen ∨ load.any (fun l => l.length != bsrLen) = true then c
    else
      let pre := load.getD c.pins.jtagPre
      let c := c.jtag 0x00 pins (some pre) false
      { c with pins := { c.pins with jtagPre := pre } })

/-- CLAMP (R484, R485): with JTAG_EN the preloaded levels drive the pins, with the bypass register selected. (log 122 DEDUCED) -/
def execJtagClamp (s : State) : Host.Outcome State Fault Refusal :=
  s.onCore (fun _ c => c.jtag 0x04 [false] (if c.pins.straps.jtagEn then some c.pins.jtagPre else none) false)

/-- HIGHZ (R484, R485): with JTAG_EN every output is high impedance, with the bypass register selected. (log 122 DEDUCED) -/
def execJtagHighz (s : State) : Host.Outcome State Fault Refusal := s.onCore (fun _ c => c.jtag 0x05 [false] none c.pins.straps.jtagEn)

/-! ### SMBus -/

/-- THERMTRIP_N is asserted (R426, R483). (log 125 DEDUCED) -/
def Core.thermtrip (c : Core) : Bool := (c.thm.shut && !c.thm.released) || c.pins.hold

/-- SMB_ALERT_N is asserted (R486). -/
def Core.smbAlert (c : Core) : Bool := c.thermtrip || (upFrom 0 9).any (fun z => c.on (zRequest z))

/-- The port answers: in SERVICE, in FAILED and during thermal shutdown (R486). -/
def Core.smbUp (c : Core) : Bool := c.svc || c.on Fd.CHP_BOOT_STS_FAILED || c.thm.shut

/-- The 7-bit address of the port (R486). -/
def Core.smbAddr (c : Core) : Nat := 0x58 + c.pins.straps.smbAddr.toNat

/-- One bit of the CRC-8 of a PEC byte. (log 123 PRESUMED) -/
def pecBit (x : Nat) : Nat := if 0x80 ≤ x then Nat.xor (x * 2 % 256) 0x07 else x * 2
/-- The PEC byte of a sequence of bytes, as SMBus defines it. (log 123 PRESUMED) -/
def pec (l : List Nat) : Nat := l.foldl (fun a b => pecBit (pecBit (pecBit (pecBit (pecBit (pecBit (pecBit (pecBit (Nat.xor a b))))))))) 0

/-- A read of command `cmd` answers with `data`, followed by its PEC byte for a host that clocks one; a port that is not up answers nothing. (log 123 PRESUMED) -/
def Core.smbAnswer (c : Core) (cmd : Nat) (data : List Nat) : Core :=
  let a := c.smbAddr * 2
  { c with pins := { c.pins with smbOut := if c.smbUp then data ++ [pec ([a, cmd, a + 1] ++ data)] else [] } }

/-- The two bytes of a word, low byte first. -/
def smbWord (v : Nat) : List Nat := [v % 256, v / 256 % 256]

/-- SMB_STATUS (R486). (log 125 DEDUCED) -/
def execSmbStatus (s : State) : Host.Outcome State Fault Refusal :=
  s.onCore (fun _ c =>
    let z := upFrom 0 9
    c.smbAnswer 0x00 [c.get Fd.CHP_BOOT_STS_STAGE + 16 * c.get Fd.CHP_BOOT_STS_FAILED + 32 * b2n c.thermtrip + 64 * b2n (z.any (fun i => c.on (zStep i)))
      + 128 * b2n (z.any (fun i => c.on (zHeld i)))])

/-- SMB_MAX_TEMP (R486): the highest reading of a working sensor in bits [11:0]. The four bits above, and the word when no sensor works, are not stated: free. (log 124 DESIGN CHOICE) -/
def execSmbMaxTemp (s : State) : Host.Outcome State Fault Refusal :=
  s.onCore (fun _ c =>
    let f := c.free
    match c.hottest (upFrom 0 72) with
    | some (_, t) => f.2.smbAnswer 0x01 (smbWord (twos 12 t + f.1 % 16 * 2 ^ 12))
    | none => f.2.smbAnswer 0x01 (smbWord f.1))

/-- SMB_MAX_SENSOR (R486): the sensor of that reading, the lowest on a tie; with no working sensor the byte is not stated: free. (log 124 DESIGN CHOICE) -/
def execSmbMaxSensor (s : State) : Host.Outcome State Fault Refusal :=
  s.onCore (fun _ c =>
    match c.hottest (upFrom 0 72) with
    | some (x, _) => c.smbAnswer 0x02 [x]
    | none => c.free.2.smbAnswer 0x02 [c.free.1 % 256])

/-- SMB_SHUTDOWNS (R486). -/
def execSmbShutdowns (s : State) : Host.Outcome State Fault Refusal := s.onCore (fun _ c => c.smbAnswer 0x03 (smbWord (c.get Fd.THM_CNT_SHUTDOWNS)))

/-- SMB_RESET_CAUSE (R486). -/
def execSmbResetCause (s : State) : Host.Outcome State Fault Refusal := s.onCore (fun _ c => c.smbAnswer 0x04 [c.get Fd.CHP_RST_STS_CAUSE])

/-- SMB_PART (R486). -/
def execSmbPart (s : State) : Host.Outcome State Fault Refusal := s.onCore (fun _ c => c.smbAnswer 0x05 (smbWord (c.get Fd.CHP_ID_PART)))

/-- SMB_SENSOR_TEMP (R486): `THM_TEMP` of sensor `x`; a command code that is not in the table is NACKed. -/
def execSmbSensorTemp (x : Nat) (s : State) : Host.Outcome State Fault Refusal :=
  s.onCore (fun _ c =>
    if x < 72 then c.smbAnswer (0x40 + x) (smbWord (c.liveW (Fd.THM_TEMP x))) else { c with pins := { c.pins with smbOut := [] } })

end Sys2Proof.Machine
end

