-- ==== Sys2Proof/Machine/Dispatch.lean ====
section
/-!
DEFINITION. The dispatch: each command of the table goes to its meaning. One arm per constructor.
-/
namespace Sys2Proof.Machine

open Sys2Proof

/-- The effect of a command on everything but the queue. -/
def exec (i : Instr) (s : State) : Host.Outcome State Fault Refusal :=
  match i with
  | .powerOn st => Sys2Proof.Machine.execPowerOn st s
  | .pwrOkLow st => Sys2Proof.Machine.execPwrOkLow st s
  | .perst st => Sys2Proof.Machine.execPerst st s
  | .chipReset be val st => Sys2Proof.Machine.execChipReset be val st s
  | .flr => Sys2Proof.Machine.execFlr s
  | .powerGood railsOk inTime => Sys2Proof.Machine.execPowerGood railsOk inTime s
  | .refLock pllOk inTime => Sys2Proof.Machine.execRefLock pllOk inTime s
  | .syncListenEnd allLow => Sys2Proof.Machine.execSyncListenEnd allLow s
  | .syncFrameRx e crc marker => Sys2Proof.Machine.execSyncFrameRx e crc marker s
  | .syncFrameTx => Sys2Proof.Machine.execSyncFrameTx s
  | .fuseLoad fuses ok inTime => Sys2Proof.Machine.execFuseLoad fuses ok inTime s
  | .selfTest failed inTime => Sys2Proof.Machine.execSelfTest failed inTime s
  | .jtagEnRelease => Sys2Proof.Machine.execJtagEnRelease s
  | .analogCal therm res inTime => Sys2Proof.Machine.execAnalogCal therm res inTime s
  | .hbmTrain ok inTime res => Sys2Proof.Machine.execHbmTrain ok inTime res s
  | .laneTrain ports inTime => Sys2Proof.Machine.execLaneTrain ports inTime s
  | .service ms inTime => Sys2Proof.Machine.execService ms inTime s
  | .d3hotEntry => Sys2Proof.Machine.execD3hotEntry s
  | .d0Return => Sys2Proof.Machine.execD0Return s
  | .loadSegment n data => Sys2Proof.Machine.execLoadSegment n data s
  | .loadConfig n data => Sys2Proof.Machine.execLoadConfig n data s
  | .loadConfigProfile n data => Sys2Proof.Machine.execLoadConfigProfile n data s
  | .commit n => Sys2Proof.Machine.execCommit n s
  | .commitCheckOnly n => Sys2Proof.Machine.execCommitCheckOnly n s
  | .commitComplete => Sys2Proof.Machine.execCommitComplete s
  | .run n => Sys2Proof.Machine.execRun n s
  | .stop n => Sys2Proof.Machine.execStop n s
  | .stopCut n => Sys2Proof.Machine.execStopCut n s
  | .armCapture n => Sys2Proof.Machine.execArmCapture n s
  | .postSpool n entries => Sys2Proof.Machine.execPostSpool n entries s
  | .calibrateMon n => Sys2Proof.Machine.execCalibrateMon n s
  | .calibrateHbm n => Sys2Proof.Machine.execCalibrateHbm n s
  | .calibrateColl n => Sys2Proof.Machine.execCalibrateColl n s
  | .calibrateMis n => Sys2Proof.Machine.execCalibrateMis n s
  | .adcFull n => Sys2Proof.Machine.execAdcFull n s
  | .dacFull n => Sys2Proof.Machine.execDacFull n s
  | .bbFull n => Sys2Proof.Machine.execBbFull n s
  | .foregroundCalEnd n res => Sys2Proof.Machine.execForegroundCalEnd n res s
  | .almWrite n data => Sys2Proof.Machine.execAlmWrite n data s
  | .almBackup n => Sys2Proof.Machine.execAlmBackup n s
  | .query n => Sys2Proof.Machine.execQuery n s
  | .queryDrainSnapshot n => Sys2Proof.Machine.execQueryDrainSnapshot n s
  | .fence n => Sys2Proof.Machine.execFence n s
  | .fenceTimeout n => Sys2Proof.Machine.execFenceTimeout n s
  | .lockRelease n => Sys2Proof.Machine.execLockRelease n s
  | .descriptorFetch n e => Sys2Proof.Machine.execDescriptorFetch n e s
  | .phaseRetry n e => Sys2Proof.Machine.execPhaseRetry n e s
  | .doorbell n off len val => Sys2Proof.Machine.execDoorbell n off len val s
  | .ringEnable n be val => Sys2Proof.Machine.execRingEnable n be val s
  | .resume n => Sys2Proof.Machine.execResume n s
  | .completionWrite n => Sys2Proof.Machine.execCompletionWrite n s
  | .writeBack n => Sys2Proof.Machine.execWriteBack n s
  | .ringInterrupt n => Sys2Proof.Machine.execRingInterrupt n s
  | .eventWrite => Sys2Proof.Machine.execEventWrite s
  | .resultDelivery => Sys2Proof.Machine.execResultDelivery s
  | .streamRecord n rec => Sys2Proof.Machine.execStreamRecord n rec s
  | .bar4Access addr write data => Sys2Proof.Machine.execBar4Access addr write data s
  | .registerWrite off len be val => Sys2Proof.Machine.execRegisterWrite off len be val s
  | .registerReadClear off len => Sys2Proof.Machine.execRegisterReadClear off len s
  | .captureRead off len => Sys2Proof.Machine.execCaptureRead off len s
  | .unoccupiedAccess off write => Sys2Proof.Machine.execUnoccupiedAccess off write s
  | .quarReq g => Sys2Proof.Machine.execQuarReq g s
  | .hostEv g => Sys2Proof.Machine.execHostEv g s
  | .celFrameWrite g x z => Sys2Proof.Machine.execCelFrameWrite g x z s
  | .park r => Sys2Proof.Machine.execPark r s
  | .unpark r => Sys2Proof.Machine.execUnpark r s
  | .reinitDone r failed => Sys2Proof.Machine.execReinitDone r failed s
  | .chipUnpark => Sys2Proof.Machine.execChipUnpark s
  | .chipFault cause => Sys2Proof.Machine.execChipFault cause s
  | .shotBegin => Sys2Proof.Machine.execShotBegin s
  | .shotFirstStamp r => Sys2Proof.Machine.execShotFirstStamp r s
  | .drainStart r => Sys2Proof.Machine.execDrainStart r s
  | .ledgerCheck r => Sys2Proof.Machine.execLedgerCheck r s
  | .drainGather r => Sys2Proof.Machine.execDrainGather r s
  | .frameDrainApply r => Sys2Proof.Machine.execFrameDrainApply r s
  | .swap r => Sys2Proof.Machine.execSwap r s
  | .drainPostSwap r => Sys2Proof.Machine.execDrainPostSwap r s
  | .copybackEnd => Sys2Proof.Machine.execCopybackEnd s
  | .drainEnd r => Sys2Proof.Machine.execDrainEnd r s
  | .leadLoopUpdate r => Sys2Proof.Machine.execLeadLoopUpdate r s
  | .vrAck p => Sys2Proof.Machine.execVrAck p s
  | .vrTimeout p => Sys2Proof.Machine.execVrTimeout p s
  | .handshakeRequest book unit => Sys2Proof.Machine.execHandshakeRequest book unit s
  | .handshakeAck book unit => Sys2Proof.Machine.execHandshakeAck book unit s
  | .seqNop g => Sys2Proof.Machine.execSeqNop g s
  | .seqPlay g => Sys2Proof.Machine.execSeqPlay g s
  | .seqGap g => Sys2Proof.Machine.execSeqGap g s
  | .seqMeasure g => Sys2Proof.Machine.execSeqMeasure g s
  | .seqWait g => Sys2Proof.Machine.execSeqWait g s
  | .seqJmp g => Sys2Proof.Machine.execSeqJmp g s
  | .seqLoop g => Sys2Proof.Machine.execSeqLoop g s
  | .seqEndl g => Sys2Proof.Machine.execSeqEndl g s
  | .seqSignal g => Sys2Proof.Machine.execSeqSignal g s
  | .seqPrefetch g => Sys2Proof.Machine.execSeqPrefetch g s
  | .seqEnd g => Sys2Proof.Machine.execSeqEnd g s
  | .seqSetf g => Sys2Proof.Machine.execSeqSetf g s
  | .seqSetp g => Sys2Proof.Machine.execSeqSetp g s
  | .seqAddp g => Sys2Proof.Machine.execSeqAddp g s
  | .seqSeta g => Sys2Proof.Machine.execSeqSeta g s
  | .seqLock g => Sys2Proof.Machine.execSeqLock g s
  | .seqUnlock g => Sys2Proof.Machine.execSeqUnlock g s
  | .seqMtag g => Sys2Proof.Machine.execSeqMtag g s
  | .seqSround g => Sys2Proof.Machine.execSeqSround g s
  | .seqFrame g => Sys2Proof.Machine.execSeqFrame g s
  | .stageLineArrival g segid line => Sys2Proof.Machine.execStageLineArrival g segid line s
  | .underrun g => Sys2Proof.Machine.execUnderrun g s
  | .queueEntryArrival g => Sys2Proof.Machine.execQueueEntryArrival g s
  | .markerArrival g => Sys2Proof.Machine.execMarkerArrival g s
  | .laneRelease u => Sys2Proof.Machine.execLaneRelease u s
  | .exitSelect g => Sys2Proof.Machine.execExitSelect g s
  | .waitHolds g => Sys2Proof.Machine.execWaitHolds g s
  | .waitExpiry g => Sys2Proof.Machine.execWaitExpiry g s
  | .signalPost g => Sys2Proof.Machine.execSignalPost g s
  | .discriminatorLatch g => Sys2Proof.Machine.execDiscriminatorLatch g s
  | .watchSlotFill g x => Sys2Proof.Machine.execWatchSlotFill g x s
  | .compareRunPost v => Sys2Proof.Machine.execCompareRunPost v s
  | .trigInEdge x level k => Sys2Proof.Machine.execTrigInEdge x level k s
  | .trigOutStart x => Sys2Proof.Machine.execTrigOutStart x s
  | .trigOutEnd x => Sys2Proof.Machine.execTrigOutEnd x s
  | .decisionFlitSend p => Sys2Proof.Machine.execDecisionFlitSend p s
  | .decisionFlitDeliver p => Sys2Proof.Machine.execDecisionFlitDeliver p s
  | .frameWriteTick g => Sys2Proof.Machine.execFrameWriteTick g s
  | .roundOpen r => Sys2Proof.Machine.execRoundOpen r s
  | .roundClose r => Sys2Proof.Machine.execRoundClose r s
  | .defectForm r => Sys2Proof.Machine.execDefectForm r s
  | .defectImport p r => Sys2Proof.Machine.execDefectImport p r s
  | .importDeadline r => Sys2Proof.Machine.execImportDeadline r s
  | .groupLookup r => Sys2Proof.Machine.execGroupLookup r s
  | .toggleSend r => Sys2Proof.Machine.execToggleSend r s
  | .arm ch => Sys2Proof.Machine.execArm ch s
  | .disarm ch => Sys2Proof.Machine.execDisarm ch s
  | .softTrig ch => Sys2Proof.Machine.execSoftTrig ch s
  | .rateReset ch => Sys2Proof.Machine.execRateReset ch s
  | .acqTrigger ch => Sys2Proof.Machine.execAcqTrigger ch s
  | .autoTimeout ch => Sys2Proof.Machine.execAutoTimeout ch s
  | .plateClose ch => Sys2Proof.Machine.execPlateClose ch s
  | .acqReady ch => Sys2Proof.Machine.execAcqReady ch s
  | .rateCheck ch => Sys2Proof.Machine.execRateCheck ch s
  | .loss ch => Sys2Proof.Machine.execLoss ch s
  | .plateSpooled ch => Sys2Proof.Machine.execPlateSpooled ch s
  | .monEntryConvert codes => Sys2Proof.Machine.execMonEntryConvert codes s
  | .monSelfCal offset gain => Sys2Proof.Machine.execMonSelfCal offset gain s
  | .hbmRequest q addr len write data => Sys2Proof.Machine.execHbmRequest q addr len write data s
  | .hbmAccessIssue pc corr ue => Sys2Proof.Machine.execHbmAccessIssue pc corr ue s
  | .hbmRefresh pc bank => Sys2Proof.Machine.execHbmRefresh pc bank s
  | .scrub corr ue => Sys2Proof.Machine.execScrub corr ue s
  | .retrainPause pc => Sys2Proof.Machine.execRetrainPause pc s
  | .retrainApply val eye => Sys2Proof.Machine.execRetrainApply val eye s
  | .hbmRateChange rate => Sys2Proof.Machine.execHbmRateChange rate s
  | .rateChangeDone okNew okOld res => Sys2Proof.Machine.execRateChangeDone okNew okOld res s
  | .hbmMappingWrite off be val => Sys2Proof.Machine.execHbmMappingWrite off be val s
  | .standby be val => Sys2Proof.Machine.execStandby be val s
  | .autoSrEntry => Sys2Proof.Machine.execAutoSrEntry s
  | .srHeldRequest q addr len write data => Sys2Proof.Machine.execSrHeldRequest q addr len write data s
  | .srExitDone => Sys2Proof.Machine.execSrExitDone s
  | .arbGrant a n reqs => Sys2Proof.Machine.execArbGrant a n reqs s
  | .burstExpiry q => Sys2Proof.Machine.execBurstExpiry q s
  | .starve a x n => Sys2Proof.Machine.execStarve a x n s
  | .arbWatchdog q => Sys2Proof.Machine.execArbWatchdog q s
  | .priorityWrite r b reg be val => Sys2Proof.Machine.execPriorityWrite r b reg be val s
  | .flitSend p => Sys2Proof.Machine.execFlitSend p s
  | .sendLate p v => Sys2Proof.Machine.execSendLate p v s
  | .flitAccept p units => Sys2Proof.Machine.execFlitAccept p units s
  | .replay p => Sys2Proof.Machine.execReplay p s
  | .linkFlitRx p units => Sys2Proof.Machine.execLinkFlitRx p units s
  | .timeFlitRx p units arrival => Sys2Proof.Machine.execTimeFlitRx p units arrival s
  | .alignmentMarker p l bits => Sys2Proof.Machine.execAlignmentMarker p l bits s
  | .portTraining p tr => Sys2Proof.Machine.execPortTraining p tr s
  | .laneFail p l cause => Sys2Proof.Machine.execLaneFail p l cause s
  | .recoveryEnd p tr => Sys2Proof.Machine.execRecoveryEnd p tr s
  | .portRetry p => Sys2Proof.Machine.execPortRetry p s
  | .retrain p => Sys2Proof.Machine.execRetrain p s
  | .down p => Sys2Proof.Machine.execDown p s
  | .eqUpdate p l est eyeH eyeW => Sys2Proof.Machine.execEqUpdate p l est eyeH eyeW s
  | .tptCorr be e => Sys2Proof.Machine.execTptCorr be e s
  | .accept => Sys2Proof.Machine.execAccept s
  | .set => Sys2Proof.Machine.execSet s
  | .driftTick => Sys2Proof.Machine.execDriftTick s
  | .txFrame frame quarter => Sys2Proof.Machine.execTxFrame frame quarter s
  | .rxFrame frame fcsOk quarter => Sys2Proof.Machine.execRxFrame frame fcsOk quarter s
  | .ppsIn ns => Sys2Proof.Machine.execPpsIn ns s
  | .collMeasure r k track => Sys2Proof.Machine.execCollMeasure r k track s
  | .collStep r => Sys2Proof.Machine.execCollStep r s
  | .misUpdate r j => Sys2Proof.Machine.execMisUpdate r j s
  | .sensorWindow counts => Sys2Proof.Machine.execSensorWindow counts s
  | .graceExpiry z => Sys2Proof.Machine.execGraceExpiry z s
  | .thmMaskWrite k be val => Sys2Proof.Machine.execThmMaskWrite k be val s
  | .thermalRestart railsPresent st => Sys2Proof.Machine.execThermalRestart railsPresent st s
  | .eventTake g => Sys2Proof.Machine.execEventTake g s
  | .phxNopa g => Sys2Proof.Machine.execPhxNopa g s
  | .phxVmov g => Sys2Proof.Machine.execPhxVmov g s
  | .phxVadd g => Sys2Proof.Machine.execPhxVadd g s
  | .phxVsub g => Sys2Proof.Machine.execPhxVsub g s
  | .phxVcmul g => Sys2Proof.Machine.execPhxVcmul g s
  | .phxVconj g => Sys2Proof.Machine.execPhxVconj g s
  | .phxValn g => Sys2Proof.Machine.execPhxValn g s
  | .phxVbcst g => Sys2Proof.Machine.execPhxVbcst g s
  | .phxMacz g => Sys2Proof.Machine.execPhxMacz g s
  | .phxMac g => Sys2Proof.Machine.execPhxMac g s
  | .phxMacc g => Sys2Proof.Machine.execPhxMacc g s
  | .phxMsub g => Sys2Proof.Machine.execPhxMsub g s
  | .phxMova g => Sys2Proof.Machine.execPhxMova g s
  | .phxNop g => Sys2Proof.Machine.execPhxNop g s
  | .phxAdd g => Sys2Proof.Machine.execPhxAdd g s
  | .phxSub g => Sys2Proof.Machine.execPhxSub g s
  | .phxAnd g => Sys2Proof.Machine.execPhxAnd g s
  | .phxOr g => Sys2Proof.Machine.execPhxOr g s
  | .phxXor g => Sys2Proof.Machine.execPhxXor g s
  | .phxShl g => Sys2Proof.Machine.execPhxShl g s
  | .phxShr g => Sys2Proof.Machine.execPhxShr g s
  | .phxSar g => Sys2Proof.Machine.execPhxSar g s
  | .phxMul g => Sys2Proof.Machine.execPhxMul g s
  | .phxLi g => Sys2Proof.Machine.execPhxLi g s
  | .phxLui g => Sys2Proof.Machine.execPhxLui g s
  | .phxAddi g => Sys2Proof.Machine.execPhxAddi g s
  | .phxLd g => Sys2Proof.Machine.execPhxLd g s
  | .phxSt g => Sys2Proof.Machine.execPhxSt g s
  | .phxLdv g => Sys2Proof.Machine.execPhxLdv g s
  | .phxStv g => Sys2Proof.Machine.execPhxStv g s
  | .phxMovp g => Sys2Proof.Machine.execPhxMovp g s
  | .phxMovm g => Sys2Proof.Machine.execPhxMovm g s
  | .phxSetl g => Sys2Proof.Machine.execPhxSetl g s
  | .phxVget g => Sys2Proof.Machine.execPhxVget g s
  | .phxVput g => Sys2Proof.Machine.execPhxVput g s
  | .phxIn g => Sys2Proof.Machine.execPhxIn g s
  | .phxOut g => Sys2Proof.Machine.execPhxOut g s
  | .phxOuta g => Sys2Proof.Machine.execPhxOuta g s
  | .phxJmp g => Sys2Proof.Machine.execPhxJmp g s
  | .phxBr g => Sys2Proof.Machine.execPhxBr g s
  | .phxLoop g => Sys2Proof.Machine.execPhxLoop g s
  | .phxWaite g => Sys2Proof.Machine.execPhxWaite g s
  | .phxRete g => Sys2Proof.Machine.execPhxRete g s
  | .phxHalt g => Sys2Proof.Machine.execPhxHalt g s
  | .phxMovxRead g => Sys2Proof.Machine.execPhxMovxRead g s
  | .phxMovxWrite g => Sys2Proof.Machine.execPhxMovxWrite g s
  | .jtagSamplePreload pins load => Sys2Proof.Machine.execJtagSamplePreload pins load s
  | .smbSensorTemp x => Sys2Proof.Machine.execSmbSensorTemp x s
  | .adcSample r j a b => Sys2Proof.Machine.execAdcSample r j a b s
  | .vectorStrobe v mv => Sys2Proof.Machine.execVectorStrobe v mv s
  | .timeLinkChange up => Sys2Proof.Machine.execTimeLinkChange up s
  | .blockFault r b => Sys2Proof.Machine.execBlockFault r b s
  | .regionFault r => Sys2Proof.Machine.execRegionFault r s
  | .almanacBackup => Sys2Proof.Machine.execAlmanacBackup s
  | .txtsPop => Sys2Proof.Machine.execTxtsPop s
  | .ppsOut => Sys2Proof.Machine.execPpsOut s
  | .srEntryDone => Sys2Proof.Machine.execSrEntryDone s
  | .standbyRetry => Sys2Proof.Machine.execStandbyRetry s
  | .retrainPauseEnd => Sys2Proof.Machine.execRetrainPauseEnd s
  | .ppsPulseEnd => Sys2Proof.Machine.execPpsPulseEnd s
  | .jtagBypass code => Sys2Proof.Machine.execJtagBypass code s
  | .jtagIdcode => Sys2Proof.Machine.execJtagIdcode s
  | .jtagExtest pins load => Sys2Proof.Machine.execJtagExtest pins load s
  | .jtagClamp => Sys2Proof.Machine.execJtagClamp s
  | .jtagHighz => Sys2Proof.Machine.execJtagHighz s
  | .smbStatus => Sys2Proof.Machine.execSmbStatus s
  | .smbMaxTemp => Sys2Proof.Machine.execSmbMaxTemp s
  | .smbMaxSensor => Sys2Proof.Machine.execSmbMaxSensor s
  | .smbShutdowns => Sys2Proof.Machine.execSmbShutdowns s
  | .smbResetCause => Sys2Proof.Machine.execSmbResetCause s
  | .smbPart => Sys2Proof.Machine.execSmbPart s

end Sys2Proof.Machine
end

