-- ==== Sys2Proof/Machine/Tick.lean ====
section
/-!
DEFINITION. What a meridian tick brings by itself: commands that are on their way to a region arrive (R279, R217), edges of trigger inputs are qualified (R247).
-/
namespace Sys2Proof.Machine

/-- The ARM_CAPTURE `k` reaches channel `ch` at U_a (R217, R229, R230): its image, or with KEEP_CFG the registers as they stand, passes the checks; the registers are written, the
channel is ARMED, and the command completes. A command that has been aborted on its way arms nothing. (log 53 DEDUCED) -/
def Core.armOne (c : Core) (ch : Nat) (k : Arming) : Core :=
  if !((c.ring k.ring).cmd.map (fun x => x.exec)).getD false then c
  else
    let img := if k.keep then c.acqRegs (ch / 4) (ch % 4) else k.img
    if c.armCheck ch img ≠ .ok then c.refuse k.ring (c.armCheck ch img)
    else
      let c := if k.keep then c else ((acqOffs (ch / 4) (ch % 4)).zip k.img).foldl (fun c e => c.setLiveW e.1 e.2) c
      (c.armAt ch k.at_ img).complete k.ring .ok k.at_ 0

/-- The ARM_CAPTUREs whose U_a has come reach channel `ch`, in the order of their starts. -/
def Core.armDue (c : Core) (ch : Nat) : Core :=
  let due := (c.acq ch).arming.filter (fun k => decide (k.at_ ≤ c.now))
  if due.isEmpty then c
  else due.foldl (fun c k => c.armOne ch k) (c.modAcq ch (fun a => { a with arming := a.arming.filter (fun k => !decide (k.at_ ≤ c.now)) }))

/-- The level bits of `CHP_TRIG_IN_STS` follow the samples (R247). -/
def Core.trigSample (c : Core) : Core :=
  let v := flagsOf 4 (fun x => (c.pins.trigRaw.find? (fun e => e.1 == x)).any (fun e => e.2.2))
  if c.svc = false ∨ c.get Fd.CHP_TRIG_IN_STS_LEVEL = v then c else c.put Fd.CHP_TRIG_IN_STS_LEVEL v

/-- What falls due at the end of a tick: edges of trigger inputs are qualified (R247), the servo and the stamps of the time port act (R382, R385), a stack that has to enters self-refresh for D3hot (R431), engine event FRAME is judged
(R190). -/
def Core.tickEnd (c : Core) : Core := (c.cells.map (fun e => e.1)).foldl Core.frameTick ((upFrom 0 4).foldl Core.trigQualify c.timeEnd.srForD3)

/-- What falls due at the tick that has begun. -/
def Core.ticked (c : Core) : Core := (upFrom 0 32).foldl Core.armDue c.trigSample

/-- A step on an empty queue: one meridian tick passes while the counter counts (R31); the count past 2^64 - 1 has no behaviour (R32). (log 1 DESIGN CHOICE) -/
def idle (s : State) : Host.Outcome State Fault Refusal :=
  if s.core.running then
    if s.core.now + 1 < 2 ^ 64 then .next { s with core := ({ s.core.tickEnd with now := s.core.now + 1 }).ticked } else .fault .meridianWrap
  else .next s

end Sys2Proof.Machine
end

