-- ==== Sys2Proof/Machine/Step.lean ====
section
/-!
DEFINITION. The step: the command at the front of the queue acts, or, on an empty queue, one meridian tick passes.
-/
namespace Sys2Proof.Machine

/-- One step: the command at the front of the queue, run with the queue's rest; on an empty queue the idle step. (log 1 DESIGN CHOICE) -/
def step (s : State) : Host.Outcome State Fault Refusal :=
  match s.pending with
  | [] => idle s
  | c :: rest => exec c { s with pending := rest }

/-- `s` with the command that the word spells put at the front of the queue. (log 1 DESIGN CHOICE) -/
def State.withFetchWord (s : State) (nbits w : Nat) : State :=
  match Sys2Proof.decodeTableWord nbits w with
  | none => s
  | some c => { s with pending := c :: s.pending }

end Sys2Proof.Machine
end

