-- ==== Sys2Proof/Safety.lean ====
section
/-!
DEFINITION. The terms in which the statements speak: a safe state, a completed command, what stays unchanged.
-/
namespace Sys2Proof

open Machine

/-- The word that a write of `val` with byte enables `be` makes of `old` (R457). -/
def byteMerge (old : Nat) (be : BitVec 4) (val : Word) : Nat :=
  (upFrom 0 4).foldl (fun a k => a + bitsOf (if bitAt be.toNat k then val.toNat else old) (8 * k) 8 * 2 ^ (8 * k)) 0

/-- The invariant of the model: every memory of the block keeps its canonical form. -/
def Inv (s : State) : Prop := s.mem.wf = true

/-- Command `c` completes at `s`: the answer is a next state, of which `P` holds. -/
def Completes (c : Instr) (s : State) (P : State → Prop) : Prop := ∃ t, exec c s = .next t ∧ P t

/-- Command `c` completes at `s` with `d` as the new core; the queue and every memory stay as they are. -/
def Gives (c : Instr) (s : State) (d : Core) : Prop := exec c s = .next { s with core := d }

/-- Two register fields that share no bit. -/
abbrev Apart (x y : Fld) : Prop := x.off ≠ y.off ∨ x.lo + x.w ≤ y.lo ∨ y.lo + y.w ≤ x.lo

/-- From `c` to `d` no register field outside the fields `xs` changes, neither in the active set nor in the shadow set. -/
def KeepsRegs (xs : List Fld) (c d : Core) : Prop := ∀ y : Fld, (∀ x ∈ xs, Apart x y) → d.get y = c.get y ∧ d.sh y = c.sh y

/-- From `c` to `d` no register outside the offsets `os` changes, neither in the active set nor in the shadow set. -/
def KeepsWords (os : List Nat) (c d : Core) : Prop := ∀ y : Fld, y.off ∉ os → d.get y = c.get y ∧ d.sh y = c.sh y

/-- From `c` to `d` the HBM controller loses at most accesses that the configuration root had yet to make, and nothing else changes in it (R292). -/
def WorksLeft (c d : Core) : Prop :=
  d.hbmc = { c.hbmc with works := d.hbmc.works } ∧ d.hbmc.works.Sublist c.hbmc.works ∧ ∀ w ∈ c.hbmc.works, w.who ≠ 169 → w ∈ d.hbmc.works

/-- Only the rings and the registers of the host interface change from `s` to `t`, and what a command that ends had at the stack is over. -/
def OnlyRings (s t : State) : Prop :=
  t = { s with core := { s.core with live := t.core.live, hbmc := t.core.hbmc, host := { s.core.host with rings := t.core.host.rings } } } ∧ WorksLeft s.core t.core

/-- A tick brings nothing by itself: no ARM_CAPTURE is on its way to its region (R217), every trigger input shows its qualified level (R247), no error waits for the servo and no
stamp is due (R382, R385), no frame bit was written in this tick (R190), the stack has no self-refresh of D3hot before it (R431). -/
def QuietTick (c : Core) : Prop :=
  (∀ ch, ch < 32 → (c.acq ch).arming = []) ∧ c.tpt.corrs = [] ∧ (∀ e ∈ c.tpt.stamps, c.now < e.1 / 8) ∧ (∀ e ∈ c.cells, ∀ k ∈ e.2.frLog, k.tick ≠ c.now) ∧ c.pins.srDue = 0 ∧ (∀ e ∈ c.pins.trigRaw, c.trigLvl e.1 = e.2.2) ∧
  c.get Fd.CHP_TRIG_IN_STS_LEVEL = flagsOf 4 (fun x => (c.pins.trigRaw.find? (fun e => e.1 == x)).any (fun e => e.2.2))

/-- The commands that can start a bring-up: the reset sources of R437, and a window that shuts the device down (R425). -/
def resets : Instr → Bool
  | .powerOn _ | .pwrOkLow _ | .perst _ | .chipReset _ _ _ | .thermalRestart _ _ | .sensorWindow _ => true
  | _ => false

/-- The device right after a reset release with this cause and these straps (R437, R440, R441): bring-up in POWER_GOOD, the counter stopped, no series, rings, rounds or
entries, every unit as after reset, both configuration sets, the segment directory, frame bits and working memories cleared. -/
def Released (cause : Nat) (st : Straps) (t : State) : Prop :=
  t.core.get Fd.CHP_RST_STS_CAUSE = cause ∧ t.core.get Fd.CHP_BOOT_STS_STAGE = 1 ∧ t.core.get Fd.CHP_BOOT_STS_FAILED = 0 ∧
  t.core.running = false ∧ t.core.now = 0 ∧ t.core.runIs .idle = true ∧ t.core.pins.straps = st ∧ t.core.get Fd.CHP_SYNC_STS_DLY = st.syncDly.toNat ∧
  t.core.thm.shut = false ∧ t.core.act = [] ∧ t.core.shd = [] ∧ t.core.cells = [] ∧ t.core.rgns = [] ∧ t.core.lanes = [] ∧ t.core.books = [] ∧ t.core.host.rings = [] ∧
  { t.mem with hbm := [], hbmGen := 0, hbmLoss := [], ue := [], ce := [] } = Mems.empty

/-- The always-on island kept its state from `s` to `t` (R434, R437): the sensor masks and SHUTDOWNS; WARM_CNT counts the bring-up (R452). -/
def AonKept (s t : State) : Prop :=
  t.core.get Fd.THM_MASK0_MASK = s.core.get Fd.THM_MASK0_MASK ∧ t.core.get Fd.THM_MASK1_MASK = s.core.get Fd.THM_MASK1_MASK ∧
  t.core.get Fd.THM_MASK2_MASK = s.core.get Fd.THM_MASK2_MASK ∧ t.core.get Fd.THM_CNT_SHUTDOWNS = s.core.get Fd.THM_CNT_SHUTDOWNS ∧
  t.core.get Fd.CHP_RST_STS_WARM_CNT = min 0xFFFF (s.core.get Fd.CHP_RST_STS_WARM_CNT + 1)

/-- From `s` to `t` the HBM stack lost its contents: nothing is listed and no word has an error, and what an unlisted byte reads as is free anew (log entry 4). -/
def StackGone (s t : State) : Prop :=
  t.mem.hbm = [] ∧ t.mem.hbmGen = s.mem.hbmGen + s.mem.hbmLoss.length + 1 ∧ t.mem.hbmLoss = [] ∧ t.mem.ue = [] ∧ t.mem.ce = []

/-- The HBM stack kept its contents across a reset exactly if it was ACTIVE (R438). -/
def StackKept (s t : State) : Prop :=
  if s.core.hbmIs .active then t.mem.hbm = s.mem.hbm ∧ t.mem.hbmGen = s.mem.hbmGen ∧ t.mem.hbmLoss = s.mem.hbmLoss ∧ t.mem.ue = s.mem.ue ∧ t.mem.ce = s.mem.ce ∧
    t.core.boot.kept = true
  else StackGone s t ∧ t.core.boot.kept = false

/-- Bring-up failed in its stage with a code (R442, R452). -/
def failed (c : Core) (code : Nat) : Core :=
  (((c.put Fd.CHP_BOOT_STS_FAIL_STAGE (c.get Fd.CHP_BOOT_STS_STAGE)).put Fd.CHP_BOOT_STS_FAIL_CODE code).put Fd.CHP_BOOT_STS_FAILED 1).emit (.aer 0)

/-- Ring `n` is enabled, and the command of opcode `op` with descriptor `d` in its slot may start now (R279-R281). -/
def Ready (n : Nat) (op : CmdOp) (d : Desc) (s : State) : Prop :=
  n < 64 ∧ s.core.waits n op = some d ∧ s.core.get (Fd.CHP_RING_CFG_EN n) = 1

/-- The completion entry of command `k` of ring `n` at tick `now` (R292). -/
def compOf (n : Nat) (k : Cmd) (st : Sts) (r0 r1 now : Nat) : Comp :=
  { opcode := descBits k.desc 8 8, tag := descBits k.desc 16 16, status := st.code, ring := n, index := k.index, res0 := r0, res1 := r1, stamp := now,
    int := descBits k.desc 2 1 == 1 }

/-- The command of ring `n` completed from `s` to `t` with this status and these results (R281, R292): its slot is empty, its completion waits for the COMPL ring as
the last one, and the ring is HALTED if the descriptor asks for it and the status is not ST_OK. -/
def Done (n : Nat) (st : Sts) (r0 r1 : Nat) (s t : State) : Prop :=
  ∃ k, (s.core.ring n).cmd = some k ∧ (t.core.ring n).cmd = none ∧ (t.core.ring n).done = (s.core.ring n).done + 1 ∧
    (t.core.ring (s.core.get (Fd.CHP_RING_CFG_COMPL n))).comps =
      (s.core.ring (s.core.get (Fd.CHP_RING_CFG_COMPL n))).comps ++ [compOf n k st r0 r1 s.core.now] ∧
    (descBits k.desc 1 1 = 1 → st ≠ .ok → t.core.get (Fd.CHP_RING_STS_HALTED n) = 1)

/-- The command of ring `n` went into execution from `s` to `t`, with its start tick and a completion entry reserved (R279, R281). -/
def Started (n : Nat) (s t : State) : Prop :=
  ∃ k, (s.core.ring n).cmd = some k ∧ (t.core.ring n).cmd = some { k with start := s.core.now, exec := true } ∧
    (t.core.ring (s.core.get (Fd.CHP_RING_CFG_COMPL n))).reserved = (s.core.ring (s.core.get (Fd.CHP_RING_CFG_COMPL n))).reserved + 1

/-- The command of ring `n` was refused from `s` to `t` with this status (R280, R292): it completed with both results 0, and the device is as it was. -/
def Refused (n : Nat) (st : Sts) (s t : State) : Prop := Done n st 0 0 s t ∧ KeepsRegs [Fd.CHP_RING_STS_HALTED n] s.core t.core ∧ OnlyRings s t

/-- The command of ring `n` went into execution from `s` to `t` with `data` to carry over the ports (R279, R281, R331); nothing else changed. -/
def Carries (n : Nat) (data : List Byte) (s t : State) : Prop :=
  (∃ k, (s.core.ring n).cmd = some k ∧ (t.core.ring n).cmd = some { k with start := s.core.now, exec := true, leg := 0, snap := some (s.core.now, data) }) ∧
  (t.core.ring (s.core.get (Fd.CHP_RING_CFG_COMPL n))).reserved = (s.core.ring (s.core.get (Fd.CHP_RING_CFG_COMPL n))).reserved + 1 ∧ KeepsRegs [] s.core t.core ∧ OnlyRings s t

/-- No port of an arbiter is granted, and no transfer has moved a part of its beats (R333). -/
def PortsIdle (s : State) : Prop := ∀ k, (s.core.arb k).owner = none ∧ (s.core.arb k).parts = []

/-- The first leg left of the command `c` of ring `n`, in execution as `k`, moved over its ports from `s` to `t` (R331, R333): `b` beats of transfer `n + 1` of requester `x` over the
port `a`, of which `had` had moved before; the owner has `room` for beats in this tick. -/
def LegMoves (n : Nat) (k : Cmd) (a : Arb) (x b : Nat) (s t : State) : Prop :=
  let had := s.core.arbPart a x (n + 1)
  let room := s.core.arbRoom a x (b - had)
  (t.core.arb (arbKey a)).beats = (s.core.arb (arbKey a)).beats + room ∧ t.mem = s.mem ∧ t.pending = s.pending ∧ KeepsRegs [] s.core t.core ∧ t.core.now = s.core.now ∧
  (room < b - had → t.core.arbPart a x (n + 1) = had + room ∧ t.core = { s.core with arbs := t.core.arbs }) ∧
  (b - had ≤ room → (t.core.ring n).cmd = some { k with leg := k.leg + 1 } ∧
    t.core = { s.core with arbs := t.core.arbs, books := t.core.books, host := { s.core.host with rings := t.core.host.rings } })

/-- No access waits at the HBM stack, which is ACTIVE, in no retraining pause and without a word in error (R316, R317, R321, R324). -/
def StackReady (s : State) : Prop :=
  s.core.get Fd.CHP_BOOT_STS_NO_HBM = 0 ∧ s.core.hbmIs .active = true ∧ s.core.hbmc.pausing = false ∧ (∀ p, (s.core.pc p).q = []) ∧ s.mem.ue = [] ∧ s.mem.ce = []

/-- The counters of the stack that an access of a unit may advance (R320). -/
def stackCounts : List Fld := (upFrom 0 16).map Fd.HBM_PC_CNT1_NEIGHBOR_REF

/-- Port `a` is granted to requester `x`, and the burst and the present tick leave room for one more beat (R333, R335). -/
def CanMove (a : Arb) (x : Nat) (s : State) : Prop :=
  s.core.arbRuns a = true ∧ (s.core.arb (arbKey a)).owner = some x ∧ (s.core.arb (arbKey a)).beats < s.core.arbBurst a x ∧
  max (s.core.arb (arbKey a)).next (arbFirst a s.core.now) < arbFirst a (s.core.now + 1)

/-- Requester `x` of the spine moves `n` beats in this tick: the first lane granted to it runs, and its burst and the tick leave room for them (R333, R335); no transfer of its own is
half moved. -/
def Passes (x n : Nat) (s : State) : Prop :=
  0 < n ∧ s.core.arbPart (.chip 0) x 0 = 0 ∧
  ∃ l, l < 4 ∧ (∀ j, j < l → (s.core.arb (arbKey (.chip j))).owner ≠ some x) ∧ s.core.arbRuns (.chip l) = true ∧ (s.core.arb (arbKey (.chip l))).owner = some x ∧
    (s.core.arb (arbKey (.chip l))).beats + n ≤ s.core.arbBurst (.chip l) x ∧
    max (s.core.arb (arbKey (.chip l))).next (arbFirst (.chip l) s.core.now) + n ≤ arbFirst (.chip l) (s.core.now + 1)

/-- Only ports of the arbiters moved beats from `s` to `t`: with them as before, `t` is `noBeats s t`. -/
def noBeats (s t : State) : State := { t with core := { t.core with arbs := s.core.arbs } }

/-- What the image `img` of channel `ch` names exists (R230): the first row of its table. -/
def CaptureNames (c : Core) (ch : Nat) (img : List Nat) : Prop :=
  let a : Acq := { Acq.init with img := img }
  ch < 32 ∧ c.rOk (ch / 4) = true ∧ a.src ≤ 2 ∧ a.mode ≠ 3 ∧ a.tsrc ≤ 7 ∧ c.devSpool a.ring = true ∧
  (a.src = 2 → c.get (Fd.RGN_DAC_CFG_EN (ch / 4) a.unit) = 1 ∧ c.dacOk (ch / 4) a.unit = true) ∧
  (a.src ≠ 2 → a.unit ≤ 3 ∧ c.get (Fd.RGN_ADC_CFG_EN (ch / 4) a.unit) = 1 ∧ c.adcOk (ch / 4) a.unit = true) ∧
  (a.tsrc = 7 → a.tsel ≠ ch % 4 ∧ a.tsel ≤ 3) ∧ (a.tsrc = 3 → a.tsel < 2304 ∧ c.role a.tsel = 2) ∧ (a.tsrc = 1 → a.tsel ≤ 3) ∧ (a.tsrc = 2 → a.tsel ≤ 7)

/-- The lengths of the image `img` are in range (R230): the second row of its table. -/
def CaptureFits (img : List Nat) : Prop :=
  let a : Acq := { Acq.init with img := img }
  ¬ (a.f 2 0 32 = 0 ∧ a.f 3 0 32 = 0) ∧ a.f 2 0 32 ≤ 2 ^ a.decim * a.cap ∧ a.decim ≤ a.kmax ∧ a.kmax ≤ 12 ∧ (a.mode = 2 → a.f 5 0 24 ≠ 0) ∧
  (a.tsrc = 4 ∨ a.tsrc = 5 ∨ a.tsrc = 1 → a.slope ≠ 0)

/-- A request of `q` for pseudo-channel `p` gets to the controller in this tick: its region's port and a lane of the spine are granted to it, every book on the way has a credit, and no
chip-drain hold stands (R52, R314, R331-R333). -/
def Carried (q : HbmReq) (p : Nat) (s : State) : Prop :=
  (∃ l, l < 4 ∧ CanMove (.chip l) (hbmPath q).2 s) ∧ ((hbmPath q).2 < 8 → s.core.credit (bookKey 3 (hbmPath q).2 0) = true) ∧ s.core.credit (bookKey 6 0 p) = true ∧
  (∀ r k, (hbmPath q).1 = some (r, k) → CanMove (.region r) k s ∧ (k < 16 → s.core.credit (bookKey 2 r k) = true)) ∧ s.core.hbmHold = false

/-- The bits on the line of a lane at state `x` that is given these bits: the complement follows after 31 identical ones (R349). -/
def stuffed (x : TxLine) : List Bool → List Bool
  | [] => []
  | b :: rest => (if (if b = x.last then x.run + 1 else 1) = 31 then [b, !b] else [b]) ++ stuffed (x.put b) rest

/-- The data bits of a lane at state `x`, each XOR the output of x^31 + x^28 + 1, which advances with each of them (R348). -/
def scrambled (x : TxLine) : List Bool → List Bool
  | [] => []
  | b :: rest => (b != (bitAt x.prbs 30 != bitAt x.prbs 27)) :: scrambled (x.data b) rest

/-- The bits on the line of a lane at state `x` that is given these data bits. -/
def lineBits (x : TxLine) (d : List Bool) : List Bool := stuffed x (scrambled x d)

/-- A receive lane at the state of its transmitter. -/
def Twin (x : TxLine) (y : RxLine) : Prop := y.prbs = x.prbs ∧ y.last = x.last ∧ y.run = x.run ∧ x.run < 31

/-- The line bits of the units `us` that a port in state `x` sends over its lanes, those numbered `lanes`: each on the lane whose turn it is (R351). -/
def unitLines (lanes : List Nat) : Port → List Nat → List (List Bool)
  | _, [] => []
  | x, u :: rest =>
    let l := lanes.getD (x.unitNo % lanes.length) 0
    lineBits (x.lines.getD l (TxLine.init 0)) (bitsUp u 48) :: unitLines lanes { x.modLine l (fun y => (bitsUp u 48).foldl TxLine.data y) with unitNo := x.unitNo + 1 } rest

/-- The six units of a flit (R352). -/
def flitUnits (f : BitVec 288) : List Nat := (upFrom 0 6).map (fun u => bitsOf f.toNat (48 * u) 48)

/-- Bits at the balls of a lane whose polarity may be inverted (R363). -/
def atBalls (inv : Bool) (b : List Bool) : List Bool := if inv then b.map not else b

/-- The alignment marker of logical lane `l` of port `p` with this BIP (R351). -/
def markerBits (p l bip : Nat) : List Bool := bitsUp (0x4B3CD2 + l * 2 ^ 24 + p * 2 ^ 27 + bip * 2 ^ 30) 48

/-- A request that its requester has to make next (R270, R309-R311, R313): a refill engine reads a line it wants and has not yet asked for, a channel moves what it has staged, the others do
the next of what they have to do at the stack. -/
def HasAsk (q : HbmReq) (addr len : Nat) (write : Bool) (data : List Byte) (s : State) : Prop :=
  match q with
  | .refill r b => write = false ∧ len = 128 ∧ (∃ w ∈ (s.core.blk (16 * r + b)).want, s.core.libAddr s.mem w.1 w.2 = addr) ∧ s.core.readOut (hreqId q) addr = false
  | .acq ch => (s.core.acqAsk ch addr len write data).isSome = true
  | .scrubber => False
  | _ => ∃ w, s.core.workNext (hreqId q) = some w ∧ w.next = some (addr, len, if write then some data else none)

/-- Memory `m'` is `m` with `data` at the bytes from `a`: every other byte reads as before. -/
def Wrote (d : Nat → Byte) (m m' : List (Nat × Byte)) (a : Nat) (data : List Byte) : Prop :=
  ∀ x, Tbl.get d m' x = if a ≤ x ∧ x < a + data.length then data.getD (x - a) 0 else Tbl.get d m x

/-- The bytes of a ring entry with its PHASE bit, bit 0 of the first byte (R274, R275). -/
def phased (ph : Nat) : List Byte → List Byte
  | [] => []
  | b :: rest => (b ||| BitVec.ofNat 8 ph) :: rest

/-- In SERVICE, ring `n` is an enabled ring of a kind, of a size that R272 allows, with room for one more entry of the device's (R273, R275). -/
def HasRoom (n : Nat) (k : RingKind) (s : State) : Prop :=
  s.core.svc = true ∧ s.core.ringIs n k = true ∧ (s.core.devIdx n + 1) % s.core.ringSize n ≠ (s.core.ring n).host ∧ s.core.get (Fd.CHP_RING_CFG_SIZE_EXP n) ≤ 16

/-- DEV_INDEX of ring `n` advanced by one from `s` to `t`; DEV_PHASE inverted at the wrap (R275). -/
def Advanced (n : Nat) (s t : State) : Prop :=
  t.core.devIdx n = (s.core.devIdx n + 1) % s.core.ringSize n ∧
  t.core.get (Fd.CHP_RING_STS_DEV_PHASE n) =
    (if (s.core.devIdx n + 1) % s.core.ringSize n = 0 then 1 - s.core.get (Fd.CHP_RING_STS_DEV_PHASE n) else s.core.get (Fd.CHP_RING_STS_DEV_PHASE n))

/-- The device wrote an entry of ring `n` from `s` to `t` (R275, R303): the bytes, with DEV_PHASE, went to the entry at DEV_INDEX, which advanced; the entry counts as not
yet signalled and the write-back is due. -/
def EntryWritten (n : Nat) (bytes : List Byte) (s t : State) : Prop :=
  t.core.host.out = s.core.host.out ++
    [.write (s.core.ringBase n + s.core.devIdx n * entryBytes (s.core.get (Fd.CHP_RING_CFG_KIND n))) (phased (s.core.get (Fd.CHP_RING_STS_DEV_PHASE n)) bytes)] ∧
  Advanced n s t ∧ (t.core.ring n).unsig = (s.core.ring n).unsig + 1 ∧ (t.core.ring n).dirty = true ∧
  KeepsRegs [Fd.CHP_RING_STS_DEV_INDEX n, Fd.CHP_RING_STS_DEV_PHASE n] s.core t.core ∧ t.mem = s.mem ∧ t.pending = s.pending ∧ t.core.now = s.core.now

/-- A ring error of ring `n` from `s` to `t` (R276): ERROR, its cause, the event; PHASE and READ_FAIL (2, 3) stop the ring. -/
def RingErred (n cause val : Nat) (s t : State) : Prop :=
  t.core.get (Fd.CHP_RING_STS_ERROR n) = 1 ∧ t.core.get (Fd.CHP_RING_STS_ERR_CAUSE n) = cause ∧
  (cause = 2 ∨ cause = 3 → (t.core.ring n).stopped = true) ∧
  t.core.host.evq = s.core.host.evq ++ [{ code := 1, level := 6, index := n, stamp := s.core.now, arg0 := cause, arg1 := val % 2 ^ 64 }] ∧
  KeepsRegs [Fd.CHP_RING_STS_ERROR n, Fd.CHP_RING_STS_ERR_CAUSE n] s.core t.core ∧ t.mem = s.mem ∧ t.pending = s.pending

/-- The CALIBRATE of `kind` with descriptor `d` in the slot of ring `n` is accepted, for the almanac entries `units` (R280, R411). -/
def CalAccepted (n kind : Nat) (d : Desc) (units : List Nat) (s : State) : Prop :=
  Ready n .calibrate d s ∧ dField d 8 0 8 = kind ∧ s.core.calUnits kind (dField d 9 0 3) (dField d 12 0 32) = some units ∧
  (∀ j ∈ s.core.cal.jobs, j.kind = kind → ∀ e ∈ j.units, e ∉ units) ∧
  onlyBits d [(8, 0, 8), (9, 0, 3), (12, 0, 32), (16, 0, 64), (24, 0, 32), (32, 0, 64)] = true ∧
  Nat.land (dField d 16 0 64) (2 ^ 64 - 1 - calOptions kind) = 0 ∧ s.core.runIs .parked = false ∧
  (kind = 0x13 ∨ kind = 0x14 → s.core.runIs .idle = true) ∧ dField d 32 0 64 % 64 = 0 ∧ dField d 24 0 32 % 64 = 0 ∧
  (dField d 24 0 32 = 0 → dField d 32 0 64 = 0)

/-- The CALIBRATE of `kind` with descriptor `d` of ring `n` went into progress over `units` from `s` to `t` (R411, R412, R413). -/
def CalRuns (n kind : Nat) (d : Desc) (units : List Nat) (s t : State) : Prop :=
  t.core.cal.jobs = s.core.cal.jobs ++
    [{ ring := n, kind := kind, level := dField d 9 0 3, index := dField d 12 0 32, units := units,
       dry := calOptions kind == 1 && bitAt (dField d 16 0 64) 0, start := s.core.now, ended := [], addr := dField d 32 0 64, bytes := dField d 24 0 32, tag := 0,
       dead := [] }] ∧
  t.core.get Fd.CAL_STS_BUSY = 1 ∧ Started n s t ∧ t.core.host.out = s.core.host.out ∧ t.core.now = s.core.now ∧ t.mem = s.mem ∧ t.pending = s.pending

/-- Region `r`, that was not PARKED, parked from `s` to `t` for the cause bit `bit` (R447, R448, R228): the registers and the event say so; its cells have stopped and release zero from
P + 2 at the latest; its rounds are finished, its channels DISARMED; a shot whose first stamp is not over goes on without it. No other region parks and no other cell changes. -/
def Parked (r bit : Nat) (s t : State) : Prop :=
  t.core.parked r = true ∧ t.core.get (Fd.RGN_SUP_STS_CAUSE r) = bit ∧ (t.core.rgn r).parkAt = some s.core.now ∧
  t.core.get (Fd.RGN_SUP_STS_PARKS r) = min (2 ^ (Fd.RGN_SUP_STS_PARKS r).w - 1) (s.core.get (Fd.RGN_SUP_STS_PARKS r) + 1) ∧
  t.core.get Fd.CHP_RUN_STS_RGN_PARKED = Nat.lor (s.core.get Fd.CHP_RUN_STS_RGN_PARKED) (2 ^ r) ∧
  (∃ e ∈ t.core.host.evq, e.code = 0xB2 ∧ e.level = 1 ∧ e.index = r ∧ e.stamp = s.core.now ∧ e.arg0 = bit) ∧
  (∀ g ∈ rgnCells r, s.core.role g ≠ 0 → (t.core.cell g).phx.on = false ∧ ∃ z, (t.core.cell g).zeroAt = some z ∧ z ≤ s.core.now + 2) ∧
  (∀ g, g ∉ rgnCells r → t.core.cell g = s.core.cell g) ∧ (t.core.rgn r).synd.opens = [] ∧ (∀ d ∈ (t.core.rgn r).synd.rounds, d.fin = true) ∧
  (∀ h, h < 4 → t.core.acqState (4 * r + h) = 0) ∧
  (s.core.ser.shotOn = true → s.core.now ≤ s.core.ser.lastTs → bitAt t.core.ser.present r = false) ∧
  (∀ q, q < 8 → q ≠ r → t.core.parked q = s.core.parked q ∧ t.core.rgn q = s.core.rgn q) ∧ t.core.act = s.core.act ∧ t.core.shd = s.core.shd ∧ t.core.books = s.core.books ∧
  t.core.now = s.core.now ∧ t.mem = s.mem ∧ t.pending = s.pending

/-- How the series goes on from `s` to `t` when region `r` parks (R258, R262, R448): with another region that is not PARKED, or with the chip not RUNNING, as before; with every region
PARKED in RUNNING it ends as STOP with CUT = 0 does, through the drains of the shot in progress, or at once. -/
def SeriesAfterPark (r : Nat) (s t : State) : Prop :=
  let all : Prop := ∀ q ∈ s.core.regions, q ≠ r → s.core.parked q = true
  (¬ all ∨ s.core.runIs .running = false → t.core.get Fd.CHP_RUN_STS_STATE = s.core.get Fd.CHP_RUN_STS_STATE ∧ t.core.ser.stopping = s.core.ser.stopping) ∧
  (all → s.core.runIs .running = true → s.core.ser.shotOn = true → t.core.runIs .draining = true ∧ t.core.ser.stopping = true) ∧
  (all → s.core.runIs .running = true → s.core.ser.shotOn = false → t.core.runIs .idle = true)

/-- Region `r`, that parked in this very tick, has one more cause from `s` to `t` (R447): its bit joins CAUSE and the event of the parking; nothing else changes. -/
def CauseJoins (r bit : Nat) (s t : State) : Prop :=
  t.core.get (Fd.RGN_SUP_STS_CAUSE r) = Nat.lor (s.core.get (Fd.RGN_SUP_STS_CAUSE r)) bit ∧
  t.core.host.evq = s.core.host.evq.map (fun e => if e.code = 0xB2 ∧ e.index = r ∧ e.stamp = s.core.now then { e with arg0 := Nat.lor (s.core.get (Fd.RGN_SUP_STS_CAUSE r)) bit } else e) ∧
  KeepsRegs [Fd.RGN_SUP_STS_CAUSE r] s.core t.core ∧ t = { s with core := { s.core with live := t.core.live, host := { s.core.host with evq := t.core.host.evq } } }

/-- Cell `g` executes (R70, R91, R448): the device is in SERVICE, the cell is RUNNING, its region is not PARKED, and nothing has stopped it. -/
def CellOn (g : Nat) (s : State) : Prop :=
  s.core.svc = true ∧ s.core.get (Fd.CEL_STS_STATE g) = 1 ∧ s.core.parked (cellR g) = false ∧ (s.core.cell g).zeroAt = none

/-- Cell `g` is about to run the sequencer word `w`, of opcode `op`, on path `k` with tag `ct` and exit number `xn` (R107, R109, R118): it executes, the path is ready
for an instruction, its role may execute the opcode, the word lies in the sequencer's part of program memory and reads without an error. A candidate run has granules left to cover. -/
def AtWord (g op w : Nat) (k : SeqCtx) (ct xn : Nat) (s : State) : Prop :=
  CellOn g s ∧ (s.core.cell g).path = some (k, ct, xn) ∧ k.cur = none ∧ k.cond = none ∧ k.ended = false ∧ k.stop = false ∧ s.core.seqW g ≤ k.pc ∧ k.pc < 4096 ∧
  pmWord s.mem g k.pc = w ∧ sqOp w = op ∧ roleMay op (s.core.role g) = true ∧ flawAt s.mem 1 (g * 4096 + k.pc) = none ∧ (ct ≠ 0 → k.left ≠ 0)

/-- The path of cell `g` is `k` after the step, under its tag and exit number; no other cell and no register changes but the fields `xs`. -/
def PathIs (g : Nat) (k : SeqCtx) (ct xn : Nat) (xs : List Fld) (s t : State) : Prop :=
  (t.core.cell g).path = some (k, ct, xn) ∧ (∀ j, j ≠ g → t.core.cell j = s.core.cell j) ∧ KeepsRegs xs s.core t.core ∧ t.mem = s.mem ∧ t.pending = s.pending

/-- The path after a zero-time instruction, before the instruction's own change (R107). -/
def passed (k : SeqCtx) : SeqCtx := { k with zt := k.zt + 1, pc := k.pc + 1 }

/-- The engine of cell `g` issues bundles (R70, R76, R91, R448): the device is in SERVICE, the cell is RUNNING or ENDED, its region is not PARKED, nothing has stopped it, the
engine has started and has not halted. -/
def EngineOn (g : Nat) (s : State) : Prop :=
  s.core.svc = true ∧ (s.core.get (Fd.CEL_STS_STATE g) = 1 ∨ s.core.get (Fd.CEL_STS_STATE g) = 2) ∧ s.core.parked (cellR g) = false ∧ (s.core.cell g).zeroAt = none ∧
  (s.core.cell g).phx.on = true ∧ s.core.get (Fd.CEL_STS_HALTED g) = 0

/-- The engine of cell `g` is about to issue bundle `b` (R64, R74, R85): it runs, the fetch is in its part of program memory, the bundle is legal and reads without an
error, and nothing stalls it. -/
def AtBundle (g : Nat) (b : Bndl) (s : State) : Prop :=
  EngineOn g s ∧ (s.core.cell g).phx.pc < s.core.seqW g ∧ bundle (pmWord s.mem g (s.core.cell g).phx.pc) = b ∧ bundleIllegal (s.core.cell g).phx b = false ∧
  flawAt s.mem 1 (g * 4096 + (s.core.cell g).phx.pc) = none ∧ s.core.phxStall g b = false

/-- Results that become visible `lat` bundles after the one that writes them (R74). -/
def inFlight (lat : Nat) (ws : List PWrite) : List PEntry := ws.map (fun w => { w := w, left := lat })

/-- From `s` to `t` slot A of the bundle issued in cell `g` (R82): its results wait to leave with the bundle, SAT is set if a component saturated. -/
def SlotAIssued (g : Nat) (ws : List PEntry) (sat : Bool) (s t : State) : Prop :=
  t.core.cell g = { s.core.cell g with phx := { (s.core.cell g).phx with curA := ws, aDone := true } } ∧ (∀ j, j ≠ g → t.core.cell j = s.core.cell j) ∧
  t.core.get (Fd.CEL_STS_SAT g) = (if sat then 1 else s.core.get (Fd.CEL_STS_SAT g)) ∧ KeepsRegs [Fd.CEL_STS_SAT g] s.core t.core ∧ t.mem = s.mem ∧ t.pending = s.pending

/-- From `s` to `t` the bundle of cell `g` issued with the results `ws` of slot B in flight, the next bundle chosen as `nx` says (R74, R83, R84), and the engine then
changed by `f`; PHX_PC shows the bundle, AOV an accumulator that wrapped. No other cell and no register changes but these and the fields `xs`. -/
def SlotBIssued (g : Nat) (ws : List PEntry) (nx : PNext) (f : Phx → Phx) (xs : List Fld) (s t : State) : Prop :=
  let y := (s.core.cell g).phx.issue ws nx
  t.core.cell g = { s.core.cell g with phx := f y.1 } ∧ (∀ j, j ≠ g → t.core.cell j = s.core.cell j) ∧
  t.core.get (Fd.CEL_STS_PHX_PC g) = (s.core.cell g).phx.pc % 4096 ∧ (y.2 = true → t.core.get (Fd.CEL_STS_AOV g) = 1) ∧
  KeepsRegs ([Fd.CEL_STS_PHX_PC g, Fd.CEL_STS_AOV g] ++ xs) s.core t.core ∧ t.pending = s.pending

/-- The bundle of cell `g` issued with the results `ws` of slot B in flight, and execution goes on; nothing else changes. -/
def BundleDone (g : Nat) (ws : List PEntry) (s t : State) : Prop := SlotBIssued g ws .on id [] s t ∧ t.mem = s.mem

/-- The bundle of cell `g` faults the cell with these codes (R85, R89); PHX_PC shows it. -/
def bundleFault (s : State) (g : Nat) (codes : List Nat) : Core := (s.core.put (Fd.CEL_STS_PHX_PC g) (s.core.cell g).phx.pc).faultCell s.mem g codes

/-- The commands that issue a slot of a bundle of cell `g`. -/
def engineSlots (g : Nat) : List Instr :=
  [.phxNopa g, .phxVmov g, .phxVadd g, .phxVsub g, .phxVcmul g, .phxVconj g, .phxValn g, .phxVbcst g, .phxMacz g, .phxMac g, .phxMacc g, .phxMsub g, .phxMova g] ++
  [.phxNop g, .phxAdd g, .phxSub g, .phxAnd g, .phxOr g, .phxXor g, .phxShl g, .phxShr g, .phxSar g, .phxMul g, .phxLi g, .phxLui g, .phxAddi g, .phxLd g, .phxSt g,
    .phxLdv g, .phxStv g, .phxMovp g, .phxMovm g, .phxSetl g, .phxVget g, .phxVput g, .phxIn g, .phxOut g, .phxOuta g, .phxJmp g, .phxBr g, .phxLoop g, .phxWaite g,
    .phxRete g, .phxHalt g, .phxMovxRead g, .phxMovxWrite g]

/-- The bits of a sequencer word that its opcode does not assign (lowest bit, width); none for an unassigned opcode (R108, R109, R132, R174, R191, R195). -/
def unassigned (op : Nat) : Option (List (Nat × Nat)) :=
  if op ∈ [0x00, 0x14, 0x15, 0x3F] then some [(0, 58)]
  else if op ∈ [0x01, 0x03] then some [(40, 1), (20, 8)]
  else if op = 0x02 then some [(50, 8), (40, 1), (20, 8)]
  else if op = 0x04 then some [(40, 8), (16, 12)]
  else if op = 0x08 then some [(40, 18), (0, 28)]
  else if op = 0x09 then some [(40, 16), (20, 8)]
  else if op = 0x0A then some [(0, 56)]
  else if op = 0x0B then some [(0, 54)]
  else if op = 0x0C then some [(16, 34)]
  else if op = 0x10 then some [(48, 10)]
  else if op ∈ [0x11, 0x12, 0x13, 0x1C] then some [(16, 42)]
  else if op = 0x18 then some [(2, 56)]
  else if op = 0x1D then some [(4, 54)]
  else none

/-- Watch slot `k` of cell `g` is of KIND NONE (R111). -/
def EmptySlot (m : Mems) (c : Core) (g k : Nat) : Prop := wKind (watchEntry m c g k) = 0

/-- `w` is an instruction word of cell `g`: one of the words from SEQ_START to 4,095 (R106). -/
def IsWord (m : Mems) (c : Core) (g w : Nat) : Prop := ∃ x, seqStart m c g ≤ x ∧ x < 4096 ∧ pmWord m g x = w

/-- R124 items 4 to 6 refuse the instruction word `w` of cell `g`. -/
def BadWord (m : Mems) (c : Core) (g w : Nat) : Prop :=
  let op := sqOp w
  let far : Prop := seqStart m c g ≤ sqTgt w
  unassigned op = none ∨ (∃ l, unassigned op = some l ∧ ∃ f ∈ l, bitsOf w f.1 f.2 ≠ 0) ∨ roleMay op (c.role g) = false ∨
  (op ∈ [0x01, 0x02, 0x03] ∧
    (sqXk w = 3 ∨ sqXk w = 0 ∧ (sqCc w ≠ 0 ∨ sqDef w = true ∨ sqTgt w ≠ 0) ∨ sqXk w = 2 ∧ (sqCc w ≠ 0 ∨ sqDef w = true ∨ ¬ far) ∨
     sqXk w = 1 ∧ (sqCc w < 8 ∨ 0x28 ≤ sqCc w ∨ ¬ far ∨ sqCc w < 0x20 ∧ EmptySlot m c g (sqCc w % 8)))) ∨
  (op ∈ [0x02, 0x03] ∧ sqLow20 w < 4) ∨ (op ∈ [0x01, 0x0C] ∧ segCount m c g ≤ sqSeg w) ∨ (op = 0x0C ∧ sqLow16 w = 0) ∨ (op ∈ [0x09, 0x04] ∧ ¬ far) ∨
  (op = 0x0B ∧ sqValue w = 3) ∨ (op = 0x04 ∧ (sqSeg w = 0 ∨ sqLow16 w = 0 ∨ ∃ k, k < 8 ∧ bitAt (sqSeg w) k = true ∧ EmptySlot m c g k))

/-- R124 item 5 refuses the watch slot entry `e`. -/
def BadSlot (c : Core) (e : Nat) : Prop :=
  wKind e = 0 ∧ e ≠ 0 ∨ 5 < wKind e ∨ wKind e ≠ 0 ∧ (2 ^ 19 ≤ e ∨ wSub e ≠ 0 ∧ wKind e ≠ 2 ∧ wKind e ≠ 3) ∨ wKind e = 1 ∧ c.isRo (wSrc e) = false ∨
  wKind e = 2 ∧ (2304 ≤ wSrc e ∨ c.role (wSrc e) = 0)

/-- R124 items 2 and 3 refuse the directory entry `d` that cell `g` references. -/
def BadSegment (m : Mems) (c : Core) (g d : Nat) : Prop :=
  let stage := c.get (Fd.CEL_SEQ_CFG_STAGE_LINES g)
  let ring := c.get (Fd.BLK_SEG_CFG_STAGE_LINES (cellR g) (cellB g))
  dirValid d = false ∨ dirHome d = 0 ∧ (dirOwner d ≠ g ∨ dirLine d < stage) ∨ dirHome d = 1 ∧ (dirOwner d ≠ 16 * cellR g + cellB g ∨ dirLine d < ring) ∨
  dirHome d = 3 ∧ (dirOwner d ≠ g ∨ ∃ h ∈ c.active, h ≠ g ∧ ∃ x, x < segCount m c h ∧ let e := dirEntry m (segTab m c h x)
    dirValid e = true ∧ dirHome e = 3 ∧ dirStream e = dirStream d) ∨
  dirHome d ≠ 0 ∧ stage < 16 ∨ (dirHome d = 2 ∨ dirHome d = 3) ∧ ring < 64

/-- R179 items 2 and 3 refuse the measure-table entry `e` of cell `g`. -/
def BadMeasure (m : Mems) (c : Core) (g e : Nat) : Prop :=
  let lim : Nat := if c.get (Fd.RGN_ADC_CFG_MODE (cellR g) (c.chanOf g).1) = 1 then 0x044444444444 else 0x088888888888
  let d := dirEntry m (segTab m c g (mtWseg e))
  mtDmode e = 3 ∨ bitsOf e 93 3 ≠ 0 ∨ bitsOf e 140 4 ≠ 0 ∨ bitsOf e 240 16 ≠ 0 ∨ 4096 < mtNtap e ∨ mtAdEn e = true ∧ (mtHist e < 4 ∨ 10 < mtStep e) ∨
  mtLim e 1 < mtLim e 0 ∨ mtLim e 3 < mtLim e 2 ∨ lim < (mtFtw e).natAbs ∨
  0 < mtNtap e ∧ (segCount m c g ≤ mtWseg e ∨ dirValid d = false ∨ dirHome d ≠ 0 ∨ dirOwner d ≠ g ∨ dirLen d * 6 < mtNtap e)

/-- R207 items 2 to 5 and 7 refuse the tables of region `r`. -/
def BadTables (m : Mems) (c : Core) (r : Nat) : Prop :=
  let used := fun (u : Nat) => bitsOf (synIn m r u) 12 2 ≠ 0
  let exports := fun (k : Nat) => bitAt (chkWord m r k) 2 = true
  (∃ u, u < 128 ∧ (used u ∧ c.isRo (bitsOf (synIn m r u) 0 12) = false ∨ 2 ^ 14 ≤ synIn m r u)) ∨
  (∃ k, k < 64 ∧ (bitAt (chkWord m r k) 0 = true ∧ (∃ u ∈ chkIdx m r k, ¬ used u) ∨
    exports k ∧ (c.get (Fd.RGN_SYND_CFG_EXP_EN r) = 0 ∨ ∃ j, j < 64 ∧ j ≠ k ∧ exports j ∧ bitsOf (chkWord m r j) 3 5 = bitsOf (chkWord m r k) 3 5) ∨
    2 ^ 8 ≤ chkWord m r k ∨ synRd m r (0x20C + 16 * k) 4 ≠ 0)) ∨
  (∃ x, x < 32 ∧ bitsOf (impEntry m r x) 10 5 ≠ 0) ∨
  (∃ x, x < 8 ∧ (16 < grpWidth m r x ∨ 65536 < grpBase m r x + 2 ^ grpWidth m r x ∨
    (∃ p ∈ (grpPos m r x).take 16, 96 ≤ p ∨ p < 64 ∧ bitAt (chkWord m r p) 0 = false ∨ 64 ≤ p ∧ bitAt (impEntry m r (p - 64)) 15 = false) ∨
    (∃ i, i < 16 ∧ 128 ≤ synRd m r (0x700 + 32 * x + i) 1) ∨ 32 ≤ synRd m r (0x712 + 32 * x) 1 ∨ synRd m r (0x713 + 32 * x) 13 ≠ 0)) ∨
  (∃ t, t < 128 ∧ let e := synRd m r (0x800 + 2 * t) 2
    (bitAt e 15 = true ∧ (2304 ≤ bitsOf e 0 12 ∨ c.role (bitsOf e 0 12) ≠ 1 ∧ c.role (bitsOf e 0 12) ≠ 2) ∨ bitsOf e 13 2 ≠ 0)) ∨
  c.get (Fd.RGN_SYND_CFG_ERASE_MODE r) = 3 ∨ c.get (Fd.RGN_SYND_CFG_FRAME_CLR r) = 3 ∨ 16 < c.get (Fd.RGN_SYND_CFG_NREC r)

/-- R249 item 3 refuses the SEL of a trigger output of a SRC. -/
def BadSel (c : Core) (src sel : Nat) : Prop :=
  src = 7 ∨ src = 2 ∧ 8 * c.partRegions ≤ sel ∨ src = 3 ∧ c.isRo sel = false ∨ src = 4 ∧ 4 * c.partRegions ≤ sel ∨ src = 5 ∧ (sel = 0 ∨ 31 < sel) ∨ src = 6 ∧ 3 < sel

/-- An edge of the wait graph from cell `a` to cell `b` (R125). -/
def WaitEdge (m : Mems) (c : Core) (a b : Nat) : Prop :=
  a ∈ c.active ∧ b < 2304 ∧ c.role b ≠ 0 ∧ b ≠ a ∧ ∃ w, IsWord m c a w ∧ sqOp w = 0x04 ∧
    ∃ k, k < 8 ∧ bitAt (sqSeg w) k = true ∧ (wKind (watchEntry m c a k) = 1 ∨ wKind (watchEntry m c a k) = 2) ∧ wSrc (watchEntry m c a k) = b

/-- The set that `m` and `c` show as the active one fails check `k` of R254 (R22, R24, R64, R65, R87, R124, R125, R133, R136, R142, R161, R162, R179, R207, R249). -/
def FailsCheck (m : Mems) (c : Core) (k : Nat) : Prop :=
  let cells := fun (r b x : Nat) => ((blkCells r b).filter (fun g => c.role g == x)).length
  match k with
  | 1 => ∃ f ∈ m.flaw, f.2.2 = true ∧ f.1 ∈ [9, 10, 12, 13]
  | 2 => ∃ r b, c.bOk r b = true ∧ (8 < cells r b 1 ∨ 8 < cells r b 2 ∨ 2 < cells r b 3 ∨ ∃ g ∈ blkCells r b, c.cOk g = false ∧ c.get (Fd.CEL_CFG_ROLE g) ≠ 0)
  | 3 => ∃ r, c.rOk r = true ∧
      ((∃ g ∈ rgnCells r, ∃ h ∈ rgnCells r, g ≠ h ∧ c.role g = 1 ∧ c.role h = 1 ∧ c.toneOf g = c.toneOf h) ∨
       ∃ y, 32 < ((rgnCells r).filter (fun g => c.role g == 2 && c.chanOf g == y)).length)
  | 4 => ∃ g ∈ c.active,
      let r := cellR g
      let b := cellB g
      let bb := fun (h : Nat) => c.get (Fd.BLK_TONE_ROUTE_BB r b (cellC h))
      c.role g = 1 ∧ c.get (Fd.RGN_DAC_CFG_EN r (c.toneOf g).1) = 0 ∨
      c.role g = 3 ∧ (c.get (Fd.BLK_BB_CFG_EN r b (bb g)) = 0 ∨ ∃ h ∈ blkCells r b, h ≠ g ∧ c.role h = 3 ∧ bb h = bb g) ∨
      c.role g = 2 ∧ (c.get (Fd.RGN_ADC_CFG_EN r (c.chanOf g).1) = 0 ∨ (c.chanOf g).2 = 1 ∧ c.get (Fd.RGN_ADC_CFG_MODE r (c.chanOf g).1) = 0)
  | 5 => ∃ g ∈ c.active,
      let split := c.get (Fd.CEL_CFG_PM_SPLIT g)
      let start := c.get (Fd.CEL_CFG_START g)
      split = 0 ∨ split * 128 ≤ start ∨ c.get (Fd.CEL_CFG_PHX_INLINE g) = 1 ∧ c.get (Fd.CEL_CFG_PHX_EN g) = 0 ∨ c.get (Fd.CEL_CFG_EV_EN g) ≠ 0 ∧ start < 32
  | 6 => ∃ g ∈ c.active,
      let h := pmWord m g (c.seqW g)
      h % 4096 < c.seqW g + 69 ∨ 256 < bitsOf h 16 9 ∨ bitsOf h 12 4 ≠ 0 ∨ h / 2 ^ 25 ≠ 0 ∨ (∃ x, x < 8 ∧ BadSlot c (watchEntry m c g x)) ∨
      (∃ x, x < segCount m c g ∧ BadSegment m c g (dirEntry m (segTab m c g x))) ∨ ∃ w, IsWord m c g w ∧ BadWord m c g w
  | 7 => (∃ g ∈ c.active, ∃ w, IsWord m c g w ∧ sqOp w = 0x10 ∧ 0x0EEEEEEEEEEE < (sx 48 (bitsOf w 0 48)).natAbs) ∨
      ∃ r i, c.rOk r = true ∧ i < 8 ∧ (c.get (Fd.RGN_DAC_CFG_MODE r i) = 3 ∨ 4 < c.get (Fd.RGN_DAC_CFG_COMB_SHIFT r i) ∨ 4 < c.get (Fd.RGN_DAC_CFG_LOCK_SHIFT r i) ∨
        c.get (Fd.RGN_DAC_CFG_ZONE r i) ≠ bitsOf (c.get (Fd.RGN_DAC_FTW_HI_FTW_HI r i)) 15 1)
  | 8 => ∃ r j x, c.rOk r = true ∧ j < 4 ∧ x < 2 ∧ c.get (Fd.RGN_ADC_CFG_EN r j) = 1 ∧ (x = 1 → c.get (Fd.RGN_ADC_CFG_MODE r j) = 1) ∧
      0xAAAAAAAAAAAA < c.get (Fd.RGN_ADC_FTW_LO_FTW_LO r j x) + 2 ^ 32 * c.get (Fd.RGN_ADC_FTW_HI_FTW_HI r j x)
  | 9 => ∃ g ∈ c.active, c.role g = 2 ∧ (32 < c.get (Fd.CEL_RO_CFG_NSLOT g) ∨ 2 ^ 10 ≤ c.actW (Fd.CEL_RO_CFG g) ∨
      ∃ w, IsWord m c g w ∧ sqOp w = 0x03 ∧ (8 ≤ sqSeg w ∨ BadMeasure m c g (mtEntry m g (sqSeg w))))
  | 0xA => (∃ g ∈ c.active, (∃ w, IsWord m c g w ∧ sqOp w = 0x1C ∧ sqLow16 w = 0) ∨
        ∃ x, x < 8 ∧ let e := watchEntry m c g x
          (wKind e = 3 ∧ ∀ i, i < 80 → c.get (Fd.CHP_DEC_IMPORT_EN (wSub e) i) = 1 → c.get (Fd.CHP_DEC_IMPORT_CELL (wSub e) i) ≠ wSrc e)) ∨
      (∃ r, c.rOk r = true ∧ BadTables m c r) ∨
      ∃ p e, p < 4 ∧ e < 80 ∧ (c.get (Fd.CHP_DEC_EXPORT_EN p e) = 1 ∧ c.isRo (c.get (Fd.CHP_DEC_EXPORT_CELL p e)) = false ∨
        c.get (Fd.CHP_DEC_IMPORT_EN p e) = 1 ∧ ∃ i, i < 80 ∧ i ≠ e ∧ c.get (Fd.CHP_DEC_IMPORT_EN p i) = 1 ∧ c.get (Fd.CHP_DEC_IMPORT_CELL p i) = c.get (Fd.CHP_DEC_IMPORT_CELL p e))
  | 0xB => (∃ r w, c.rOk r = true ∧ w < 8 ∧ let src := c.get (Fd.VIO_PIN_CFG_SRC r w)
        (c.get (Fd.VIO_PIN_CFG_EN r w) = 1 ∧ (287 < src ∨ c.role (r * 288 + src) ≠ 3) ∨ c.get (Fd.VIO_PIN_CFG_REST r w) = 3 ∨
         c.get (Fd.VIO_PIN_THR_VTH r w) ≤ c.get (Fd.VIO_PIN_THR_VTL r w) ∨ 2 ^ 21 ≤ c.actW (Fd.VIO_PIN_CFG r w) ∨ 2 ^ 16 ≤ c.actW (Fd.VIO_PIN_THR r w))) ∨
      (∃ x, x < 4 ∧ (2 ^ 6 ≤ c.actW (Fd.CHP_TRIG_IN_CFG x) ∨ BadSel c (c.get (Fd.CHP_TRIG_OUT_CFG_SRC x)) (c.get (Fd.CHP_TRIG_OUT_CFG_SEL x)) ∨
        2 ^ 27 ≤ c.actW (Fd.CHP_TRIG_OUT_CFG x))) ∨
      ∃ g ∈ c.active, ∃ x, x < 8 ∧ let e := watchEntry m c g x
        (wKind e = 4 ∧ 8 * c.partRegions ≤ wSrc e ∨ wKind e = 5 ∧ 3 < wSrc e)
  | 0xC => ∃ g, Relation.TransGen (WaitEdge m c) g g
  | _ => False

end Sys2Proof
end

