-- ==== Sys2Proof/Certificates/Slice0/Obligations.lean ====
section
/-!
DEFINITION. The statements for the provers. Each says what a command or the block does, in the terms of `Sys2Proof.Safety`.
-/
open Sys2Proof Sys2Proof.Machine

/-- With a command at the front of the queue, a step is that command's effect on the state with the queue's rest. -/
def Obligations.StepRunsTheFrontCommand : Prop :=
  ∀ (c : Instr) (rest : List Instr) (s : State), s.pending = c :: rest → step s = exec c { s with pending := rest }

/-- The idle step is the model's choice (log entry 1): one tick of the counter of R31, with what a tick brings by itself (an ARM_CAPTURE that arrives, R217; an edge of a trigger
input that is qualified, R247; engine event FRAME, R190; an error for the servo and stamps, R382 and R385; self-refresh for D3hot, R431), and nothing else; no behaviour past the last
count (R32). -/
def Obligations.IdleStepIsOneTick : Prop :=
  ∀ s : State, s.pending = [] →
    (s.core.running = false → step s = .next s) ∧
    (s.core.running = true → s.core.now + 1 < 2 ^ 64 → ∃ t, step s = .next t ∧ t.core.now = s.core.now + 1 ∧ t.core.running = true ∧ t.mem = s.mem ∧ t.pending = s.pending ∧
      (∀ g, t.core.cell g = s.core.cell g) ∧ t.core.act = s.core.act ∧ t.core.shd = s.core.shd ∧
      (QuietTick s.core → t = { s with core := { s.core with now := s.core.now + 1 } })) ∧
    (s.core.running = true → ¬ s.core.now + 1 < 2 ^ 64 → step s = .fault .meridianWrap)

/-- No command ends a run, and none touches the commands that wait. -/
def Obligations.CommandsLeaveTheQueueAlone : Prop :=
  ∀ (c : Instr) (s : State), Completes c s (fun t => t.pending = s.pending)

/-- The state right after reset satisfies the invariant. -/
def Obligations.ResetIsCanonical : Prop := Inv State.reset

/-- Equal memories are equal data, in every state that a step can lead to: the invariant is kept by every command and by the idle step. -/
def Obligations.EveryStepKeepsMemoriesCanonical : Prop :=
  ∀ s t : State, Inv s → step s = .next t → Inv t

/-- R251, R257, R284-R286 and R437 over all commands: nothing else writes a configuration memory. -/
def Obligations.ConfigurationMemoriesHaveTheirWriters : Prop :=
  ∀ (c : Instr) (s t : State), exec c s = .next t → resets c = false → (∀ r, c ≠ .swap r) →
    (t.mem.pmA = s.mem.pmA ∧ t.mem.dmcA = s.mem.dmcA ∧ t.mem.mtA = s.mem.mtA ∧ t.mem.syA = s.mem.syA) ∧
    (c ≠ .copybackEnd → (∀ n data, c ≠ .loadConfig n data ∧ c ≠ .loadConfigProfile n data) →
      t.mem.pmS = s.mem.pmS ∧ t.mem.dmcS = s.mem.dmcS ∧ t.mem.mtS = s.mem.mtS ∧ t.mem.syS = s.mem.syS)

/-- The reset sources of R437 with CAUSE, what every bring-up clears, and what stays with VDD_AON up (R434, R437, R438, R452). -/
def Obligations.ResetReleaseRestartsTheDevice : Prop :=
  ∀ (s : State) (st : Straps),
    Completes (.powerOn st) s (fun t => Released 1 st t ∧ t.core.get Fd.CHP_RST_STS_WARM_CNT = 0 ∧ t.core.get Fd.THM_MASK0_MASK = 0 ∧
      t.core.get Fd.THM_CNT_SHUTDOWNS = 0 ∧ StackGone s t ∧ t.pending = s.pending) ∧
    (s.core.thm.shut = false →
      Completes (.pwrOkLow st) s (fun t => Released 2 st t ∧ AonKept s t ∧ StackGone s t ∧ t.pending = s.pending) ∧
      Completes (.perst st) s (fun t => Released 4 st t ∧ AonKept s t ∧ StackKept s t ∧ t.pending = s.pending) ∧
      ∀ (be : BitVec 4) (val : Word), s.core.bar0 Fd.CHP_RST_CTL = true →
        let w := Nat.land val.toNat (enMask be)
        w < 2 ^ 10 →
        (w % 2 ^ 8 = 0xA5 → w / 2 ^ 8 % 2 = 1 →
          Completes (.chipReset be val st) s (fun t => Released 5 st t ∧ AonKept s t ∧ StackKept s t ∧ t.pending = s.pending)) ∧
        (w % 2 ^ 8 ≠ 0xA5 ∨ w / 2 ^ 8 % 2 = 0 → Gives (.chipReset be val st) s s.core)) ∧
    (s.core.thm.shut = true → s.core.thm.released = false → 1000000 ≤ s.core.thm.cool →
      Completes (.thermalRestart true st) s (fun t => Released 3 st t ∧ AonKept s t ∧ StackGone s t ∧ t.pending = s.pending) ∧
      Gives (.thermalRestart false st) s { s.core with thm := { s.core.thm with released := true } }) ∧
    (s.core.thm.shut = true →
      (s.core.thm.released = true → Completes (.pwrOkLow st) s (fun t => Released 3 st t ∧ AonKept s t ∧ StackGone s t ∧ t.pending = s.pending)) ∧
      (s.core.thm.released = false → Gives (.pwrOkLow st) s s.core))

/-- The first two stages of R441 with their failures (R442) and the MASTER outcome of R59, each with everything it changes. -/
def Obligations.BringupStagesInOrder : Prop :=
  ∀ (s : State),
    (s.core.inStage 1 = true →
      Gives (.powerGood true true) s (s.core.put Fd.CHP_BOOT_STS_STAGE 2) ∧
      (∀ b, Gives (.powerGood b false) s (failed s.core 1)) ∧ Gives (.powerGood false true) s (failed s.core 2)) ∧
    (s.core.inStage 2 = true → s.core.boot.listen = false →
      Gives (.refLock true true) s { s.core with boot := { s.core.boot with listen := true, window := true } } ∧
      (∀ b, Gives (.refLock b false) s (failed s.core 1)) ∧ Gives (.refLock false true) s (failed s.core 3)) ∧
    (s.core.inStage 2 = true → s.core.boot.listen = true →
      (∀ b, Gives (.refLock b true) s s.core ∧ Gives (.refLock b false) s (failed s.core 4))) ∧
    (s.core.inStage 2 = true → (∀ low, s.core.boot.window = false → Gives (.syncListenEnd low) s s.core) ∧
      (s.core.boot.window = true → Gives (.syncListenEnd false) s { s.core with boot := { s.core.boot with window := false } }) ∧
      (s.core.boot.window = true → Completes (.syncListenEnd true) s (fun t =>
        t = { s with core := { s.core with now := 0, running := true, live := t.core.live, boot := { s.core.boot with listen := false, window := false },
                                           pins := { s.core.pins with syncHigh := false } } } ∧
        t.core.get Fd.CHP_SYNC_STS_ROLE = 1 ∧ t.core.get Fd.CHP_SYNC_STS_ALIGNED = 1 ∧ t.core.get Fd.CHP_BOOT_STS_STAGE = 3 ∧
        KeepsRegs [Fd.CHP_SYNC_STS_ROLE, Fd.CHP_SYNC_STS_ALIGNED, Fd.CHP_BOOT_STS_STAGE] s.core t.core)))

/-- R58, R59 and R62. The CRC-8 over the 64 bits of E, bit 0 first (DEDUCED, log entry 60). -/
def Obligations.SyncFramesAlignAndCheck : Prop :=
  ∀ (s : State) (e : BitVec 64) (crc : BitVec 8),
    let good := crc.toNat = crcBits 8 0x07 0 (bitsUp e.toNat 64)
    (s.core.inStage 2 = true → s.core.boot.listen = true → (good → Gives (.syncFrameRx e crc false) s s.core) ∧
      (¬ good → ∀ mk, Gives (.syncFrameRx e crc mk) s s.core)) ∧
    (s.core.inStage 2 = true → s.core.boot.listen = true → good →
      Completes (.syncFrameRx e crc true) s (fun t =>
        t = { s with core := { s.core with now := (e.toNat + 1 + s.core.get Fd.CHP_SYNC_STS_DLY) % 2 ^ 64, running := true, live := t.core.live,
                                           boot := { s.core.boot with listen := false, window := false }, pins := { s.core.pins with syncHigh := false } } } ∧
        t.core.get Fd.CHP_SYNC_STS_ROLE = 2 ∧ t.core.get Fd.CHP_SYNC_STS_ALIGNED = 1 ∧ t.core.get Fd.CHP_BOOT_STS_STAGE = 3 ∧
        KeepsRegs [Fd.CHP_SYNC_STS_ROLE, Fd.CHP_SYNC_STS_ALIGNED, Fd.CHP_BOOT_STS_STAGE] s.core t.core)) ∧
    (s.core.svc = true → s.core.get Fd.CHP_SYNC_CTL_MON_EN = 1 → s.core.get Fd.CHP_SYNC_STS_ROLE = 2 →
      (¬ good → ∀ mk, Gives (.syncFrameRx e crc mk) s (s.core.put Fd.CHP_SYNC_STS_FRAME_ERR 1)) ∧ (good → Gives (.syncFrameRx e crc false) s s.core) ∧
      let off : Int := s.core.now - (e.toNat + s.core.get Fd.CHP_SYNC_STS_DLY : Nat)
      (good → Completes (.syncFrameRx e crc true) s (fun t =>
        t.pending = s.pending ∧ t.mem = s.mem ∧ t.core.now = s.core.now ∧
        (-2147483648 ≤ off → off ≤ 2147483647 → t.core.getS Fd.CHP_SYNC_OFFSET_OFFSET = off) ∧
        (off = 0 → t.core.host = s.core.host ∧ KeepsRegs [Fd.CHP_SYNC_OFFSET_OFFSET] s.core t.core) ∧
        (off ≠ 0 → t.core.get Fd.CHP_SYNC_STS_MISMATCH = 1 ∧
          t.core.get Fd.CHP_SYNC_STS_MISMATCH_CNT = min (2 ^ Fd.CHP_SYNC_STS_MISMATCH_CNT.w - 1) (s.core.get Fd.CHP_SYNC_STS_MISMATCH_CNT + 1) ∧
          t.core.host.evq = s.core.host.evq ++ [{ code := 0x12, level := 0, index := 0, stamp := s.core.now, arg0 := twos 64 off, arg1 := e.toNat }] ∧
          KeepsRegs [Fd.CHP_SYNC_OFFSET_OFFSET, Fd.CHP_SYNC_STS_MISMATCH, Fd.CHP_SYNC_STS_MISMATCH_CNT] s.core t.core)))) ∧
    (s.core.running = true → s.core.thm.shut = false → (s.core.now + 80) % 65536 = 0 →
      Gives .syncFrameTx s { s.core with pins := { s.core.pins with syncE := some (s.core.now + 80) } }) ∧
    (s.core.running = true → s.core.get Fd.CHP_SYNC_CTL_OUT_EN = 1 → ∀ x, s.core.pins.syncE = some x → ∀ k, k ≤ 80 → s.core.now + 80 = x + k →
      s.core.syncPin = (k == 0 || k == 80 || (decide (2 ≤ k ∧ k < 66) && x.testBit (k - 2)) ||
        (decide (66 ≤ k ∧ k < 74) && (crcBits 8 0x07 0 (bitsUp x 64)).testBit (k - 66))))

/-- Stages 3 to 8 of R441, each from the state in which it may run. -/
def Obligations.BringupUnitsAreTestedAndCalibrated : Prop :=
  ∀ (s : State),
    (s.core.inStage 3 = true → ∀ f : FuseSet,
      Completes (.fuseLoad f true true) s (fun t => t.pending = s.pending ∧ t.core.get Fd.CHP_BOOT_STS_STAGE = 4 ∧
        t.core.get Fd.CHP_ID_PART = (if f.part = .lk1024 then 0x1024 else 0x0512) ∧ t.core.get Fd.CHP_CAPS_REGIONS = (if f.part = .lk1024 then 0xFF else 0x0F) ∧
        t.core.get Fd.CHP_SERIAL_LO_SERIAL_LO = f.serial.toNat % 2 ^ 32 ∧ t.core.get Fd.CHP_SERIAL_HI_SERIAL_HI = f.serial.toNat / 2 ^ 32 ∧
        t.core.pins.fuseDone = true ∧ t.core.pins.hold = false ∧ t.core.boot.jtagWait = (s.core.pins.straps.jtagEn && !s.core.boot.jtagOff)) ∧
      Gives (.fuseLoad f false true) s (failed s.core 5) ∧ ∀ ok, Gives (.fuseLoad f ok false) s (failed s.core 1)) ∧
    Gives .jtagEnRelease s { s.core with boot := { s.core.boot with jtagWait := false, jtagOff := true } } ∧
    (s.core.inStage 4 = true → s.core.boot.jtagWait = false →
      (∀ units, Gives (.selfTest units false) s (failed s.core 1) ∧ (s.core.minimumSet units = false → Gives (.selfTest units true) s (failed s.core 6))) ∧
      (s.core.minimumSet [] = true → (∀ z, z < 9 → s.core.get (zStep z) ≠ 3) →
        Completes (.selfTest [] true) s (fun t => t = { s with core := { s.core with live := t.core.live } } ∧
          t.core.get Fd.CHP_BOOT_STS_STAGE = 5 ∧ t.core.get Fd.CHP_UNIT_STS_REGION_OK = s.core.get Fd.CHP_CAPS_REGIONS ∧
          ∀ g, s.core.exists_ (g / 288) = true → t.core.cOk g = true)) ∧
      (s.core.minimumSet [] = true → ∀ z, z < 8 → s.core.exists_ z = true → s.core.get (zStep z) = 3 →
        Completes (.selfTest [] true) s (fun t => t.core.get Fd.CHP_BOOT_STS_STAGE = 5 ∧ t.core.parked z = true ∧ t.mem = s.mem ∧ t.pending = s.pending))) ∧
    (s.core.inStage 5 = true → ∀ therm res inTime, Completes (.analogCal therm res inTime) s (fun t => t.pending = s.pending ∧ t.core.get Fd.CHP_BOOT_STS_STAGE = 6 ∧
      (inTime = false → t.core.get Fd.CHP_BOOT_STS_FAIL_STAGE = 5 ∧ t.core.get Fd.CHP_BOOT_STS_FAIL_CODE = 1))) ∧
    (s.core.inStage 6 = true → ∀ res,
      Completes (.hbmTrain true true res) s (fun t => t.pending = s.pending ∧ t.core.get Fd.CHP_BOOT_STS_STAGE = 7 ∧ t.core.hbmIs .active = true) ∧
      ∀ ok inTime, (ok && inTime) = false →
        Completes (.hbmTrain ok inTime res) s (fun t => t.core.get Fd.CHP_BOOT_STS_STAGE = 7 ∧ t.core.get Fd.CHP_BOOT_STS_NO_HBM = 1 ∧ t.core.hbmIs .off = true ∧
          (inTime = false → t.core.get Fd.CHP_BOOT_STS_FAIL_STAGE = 6 ∧ t.core.get Fd.CHP_BOOT_STS_FAIL_CODE = 1))) ∧
    (s.core.inStage 7 = true → s.core.boot.ready = false → ∀ ports inTime,
      Completes (.laneTrain ports inTime) s (fun t => t.core.boot = { s.core.boot with ready := true } ∧ t.pending = s.pending ∧
        (t.core.get Fd.CHP_BOOT_STS_NO_MESH = 1 ↔ ∀ p, p < 4 → t.core.portIs p .up = false) ∧
        (inTime = false → t.core.get Fd.CHP_BOOT_STS_FAIL_STAGE = 7 ∧ t.core.get Fd.CHP_BOOT_STS_FAIL_CODE = 1))) ∧
    (s.core.inStage 7 = true → s.core.boot.ready = true → ∀ ms,
      Gives (.service ms false) s (failed (s.core.put Fd.CHP_BOOT_STS_STAGE 8) 1) ∧
      (s.core.get Fd.CHP_RST_STS_CAUSE ≠ 3 → Gives (.service ms true) s ((s.core.put Fd.CHP_BOOT_STS_STAGE 8).put Fd.CHP_BOOT_STS_TIME_MS (min ms 4095))) ∧
      (s.core.get Fd.CHP_RST_STS_CAUSE = 3 → Completes (.service ms true) s (fun t => t.core.get Fd.CHP_BOOT_STS_STAGE = 8 ∧ t.core.get Fd.THM_STS_RESTARTED = 1 ∧
        t.core.host.evq = s.core.host.evq ++ [{ code := 0x64, level := 0, index := 0, stamp := s.core.now,
                                                arg0 := s.core.get Fd.THM_CNT_SHUTDOWNS % 2 ^ 64, arg1 := s.core.thm.cause % 2 ^ 64 }])))

/-- R431, R439, and what a PCI configuration request meets (R425, R440, R442). -/
def Obligations.LowPowerStatesAndFunctionReset : Prop :=
  ∀ (s : State),
    (s.core.cfgAnswer = .silent ↔ s.core.thm.shut = true) ∧
    (s.core.cfgAnswer = .retry ↔ s.core.thm.shut = false ∧ s.core.get Fd.CHP_BOOT_STS_STAGE ≠ 8 ∧ s.core.get Fd.CHP_BOOT_STS_FAILED = 0) ∧
    (s.core.cfgAnswer = .normal → s.core.pins.d3 = false →
      Completes .d3hotEntry s (fun t => t.core.pins.d3 = true ∧ t.mem = s.mem ∧ t.pending = s.pending) ∧
      (s.core.runIs .idle = true → s.core.hbmIs .active = false →
        Gives .d3hotEntry s { s.core with pins := { s.core.pins with d3 := true, srDue := if s.core.hbmIs .selfRefresh || s.core.hbmIs .srEntry then 0 else 1 } }) ∧
      (s.core.hbmIs .active = true → s.core.hbmc.pausing = false → s.core.hbmc.rateDue = false →
        Completes .d3hotEntry s (fun t => t.core.pins.d3 = true ∧ t.core.hbmIs .srEntry = true ∧ t.core.hbmc.standby = false))) ∧
    (s.core.pins.d3 = true → Gives .d0Return s { s.core with pins := { s.core.pins with d3 := false, settleTo := s.core.now + 1000000, srDue := 0 } }) ∧
    (s.core.pins.d3 = false → Gives .d0Return s s.core) ∧
    (s.core.cfgAnswer = .normal → s.core.runIs .idle = true → Completes .flr s (fun t =>
      t.core.pins.d3 = false ∧ (s.core.pins.d3 = true → t.core.pins.settleTo = s.core.now + 1000000) ∧ t.core.get Fd.CHP_RST_STS_FLR = 1 ∧ (∀ n, n < 64 → t.core.get (Fd.CHP_RING_CFG_EN n) = 0) ∧ t.core.liveW Fd.CHP_EVT_CFG = regReset Fd.CHP_EVT_CFG ∧
      t.core.liveW Fd.CHP_RESULT_CFG = regReset Fd.CHP_RESULT_CFG ∧ t.core.host.recs = [] ∧ t.core.host.msix = [] ∧ t.core.host.pba = 0 ∧ t.core.host.relaxOn = true ∧
      t.core.now = s.core.now ∧ t.mem = s.mem ∧ t.pending = s.pending ∧ t.core.act = s.core.act ∧ t.core.shd = s.core.shd ∧
      (∀ r, (t.core.rgn r).lead = (s.core.rgn r).lead) ∧ ∀ g, t.core.get (Fd.CEL_FRAME_X g) = s.core.get (Fd.CEL_FRAME_X g)))

/-- R281 and R292, once for every command that completes. -/
def Obligations.CompletionsFollowTheDescriptor : Prop :=
  ∀ (c : Core) (n : Nat) (st : Sts) (r0 r1 : Nat), n < 64 → r0 < 2 ^ 64 → r1 < 2 ^ 64 →
    ((c.ring n).cmd = none → c.complete n st r0 r1 = c) ∧
    ∀ k, (c.ring n).cmd = some k →
      let d := c.complete n st r0 r1
      let z := c.get (Fd.CHP_RING_CFG_COMPL n)
      (d.ring n).cmd = none ∧ (d.ring n).done = (c.ring n).done + 1 ∧ (d.ring z).comps = (c.ring z).comps ++ [compOf n k st r0 r1 c.now] ∧
      (d.ring z).reserved = (c.ring z).reserved - 1 ∧ (∀ x, x ≠ n → x ≠ z → d.ring x = c.ring x) ∧
      d.get (Fd.CHP_RING_STS_HALTED n) = (if descBits k.desc 1 1 = 1 ∧ st ≠ .ok then 1 else c.get (Fd.CHP_RING_STS_HALTED n)) ∧
      KeepsRegs [Fd.CHP_RING_STS_HALTED n] c d ∧ d = { c with
        live := d.live
        hbmc := { c.hbmc with works := c.hbmc.works.filter (fun w => !(w.who == 169 && (w.tag == n + 1 || w.tag == 129 + n))) }
        host := { c.host with rings := d.host.rings } }

/-- R102, R103, R279, R280, R284, R285, R331 and R266-R267: the refusals in the order of R280, the start of a command that none meets, its data over the ports of the spine, and, once
they have come, what it writes. -/
def Obligations.LoadsWriteTheirTargets : Prop :=
  ∀ (s : State) (n : Nat) (d : Desc) (data : Option (List Byte)), Inv s →
    (Ready n .loadSegment d s → s.core.setIs .checking = false → s.core.loading n = false →
      let k := segCmd d
      let lines := ceilDiv k.len 7
      let gen := (dirGen (dirEntry s.mem k.id) + 1) % 2 ^ 32
      let target : Prop := onlyBits d [(8, 0, 16), (10, 0, 2), (12, 0, 12), (16, 0, 27), (20, 0, 20), (24, 0, 8), (28, 0, 32), (32, 0, 64)] = true ∧ (k.home ≠ 3 → k.stream = 0) ∧
        (k.home = 0 ∨ k.home = 3 → k.owner < 2304 ∧ s.core.bOk (cellR k.owner) (cellB k.owner) = true) ∧
        (k.home = 1 → k.owner < 128 ∧ s.core.bOk (k.owner / 16) (k.owner % 16) = true) ∧ (k.home = 2 → k.owner = 0) ∧ (k.home = 3 → k.line = 0)
      let aligned : Prop := k.addr % 64 = 0 ∧ k.bytes % 64 = 0
      let fits : Prop := 4 ≤ k.len ∧ k.bytes = (if k.home = 3 then 0 else lines * 128) ∧
        (k.home = 0 → s.core.get (Fd.CEL_SEQ_CFG_STAGE_LINES k.owner) ≤ k.line ∧ k.line + lines ≤ 256) ∧
        (k.home = 1 → s.core.get (Fd.BLK_SEG_CFG_STAGE_LINES (k.owner / 16) (k.owner % 16)) ≤ k.line ∧ k.line + lines ≤ 4096) ∧
        (k.home = 2 → s.core.get Fd.CHP_BOOT_STS_NO_HBM = 0 → k.line + lines ≤ s.core.get (Fd.HBM_PART_SIZE 0) * 524288)
      let free : Prop := ∀ i ∈ s.core.inPlay s.mem, i ≠ k.id ∧ (k.home ≠ 3 → let e := dirEntry s.mem i
        dirValid e = true → dirHome e = k.home → dirOwner e = k.owner → k.line + lines ≤ dirLine e ∨ dirLine e + ceilDiv (dirLen e) 7 ≤ k.line)
      (¬ target → Completes (.loadSegment n data) s (Refused n .target s)) ∧
      (target → ¬ aligned → Completes (.loadSegment n data) s (Refused n .align s)) ∧
      (target → aligned → ¬ fits → Completes (.loadSegment n data) s (Refused n .length s)) ∧
      (target → aligned → fits → ¬ free → Completes (.loadSegment n data) s (Refused n .segActive s)) ∧
      (target → aligned → fits → free →
        (k.home = 2 → s.core.get Fd.CHP_BOOT_STS_NO_HBM = 1 → Completes (.loadSegment n data) s (Refused n .hbm s)) ∧
        ((k.home = 2 → s.core.get Fd.CHP_BOOT_STS_NO_HBM = 0) →
          (k.home ≠ 3 → (∀ l, data = some l → l.length < k.bytes) → Completes (.loadSegment n data) s (Refused n .aborted s)) ∧
          (k.home ≠ 3 → PortsIdle s → ∀ l, data = some l → k.bytes ≤ l.length → Completes (.loadSegment n data) s (Carries n (l.take k.bytes) s)) ∧
          (k.home = 3 → Completes (.loadSegment n data) s (fun t =>
            Wrote zeroByte s.mem.dir t.mem.dir (k.id * 16) (toLE 16 (mkDir 1 3 k.owner 0 k.len k.stream gen)) ∧ t.mem = { s.mem with dir := t.mem.dir } ∧
            OnlyRings s { t with mem := s.mem } ∧ KeepsRegs [] s.core t.core ∧ Done n .ok gen 0 s t))))) ∧
    (Ready n .loadSegment d s → s.core.setIs .checking = true ∨ s.core.loading n = true → Gives (.loadSegment n data) s s.core) ∧
    (∀ x, s.core.goes n .loadSegment = some x → n < 64 →
      let k := segCmd x.desc
      let gen := (dirGen (dirEntry s.mem k.id) + 1) % 2 ^ 32
      let entry := mkDir 1 k.home k.owner k.line k.len (if k.home = 3 then k.stream else 0) gen
      let base := s.core.get (Fd.HBM_PART_BASE 0) * 2 ^ 26 + k.line * 128
      let after : State → Prop := fun t => Wrote zeroByte s.mem.dir t.mem.dir (k.id * 16) (toLE 16 entry) ∧ dirEntry t.mem k.id = entry ∧ t.pending = s.pending ∧ Done n .ok gen 0 s t
      (k.home ≠ 3 → x.leg = 0 → s.core.arbPart (.chip 0) 9 (n + 1) < ceilDiv k.bytes 128 → ∀ a, s.core.laneOf 9 = some a →
        (k.home ≠ 2 ∧ s.core.laneOf 8 = none ∧ s.core.arbPart (.chip 0) 8 (n + 1) = 0 ∨ s.core.arbRoom a 9 (ceilDiv k.bytes 128) + s.core.arbPart (.chip 0) 9 (n + 1) < ceilDiv k.bytes 128) →
          Completes (.loadSegment n data) s (LegMoves n x a 9 (ceilDiv k.bytes 128) s)) ∧
      (k.home = 0 ∨ k.home = 1 → (if k.home = 0 then 2 else 3) ≤ x.leg → Completes (.loadSegment n data) s (fun t => after t ∧
        Wrote zeroByte s.mem.seg t.mem.seg (k.owner * 32768 + k.line * 128) (if k.home = 0 then x.data else []) ∧
        Wrote zeroByte s.mem.blk t.mem.blk (k.owner * 524288 + k.line * 128) (if k.home = 1 then x.data else []) ∧
        t.mem = { s.mem with dir := t.mem.dir, seg := t.mem.seg, blk := t.mem.blk } ∧ OnlyRings s { t with mem := s.mem } ∧ KeepsRegs [] s.core t.core)) ∧
      (k.home = 2 → 1 ≤ x.leg →
        (s.core.get Fd.CHP_BOOT_STS_NO_HBM = 1 → Completes (.loadSegment n data) s (Refused n .hbm s)) ∧
        (s.core.get Fd.CHP_BOOT_STS_NO_HBM = 0 →
          (s.core.workOf 169 (n + 1) = none → Gives (.loadSegment n data) s { s.core with hbmc := { s.core.hbmc with
            jobs := s.core.hbmc.jobs + 1
            works := s.core.hbmc.works ++ [{ id := s.core.hbmc.jobs + 1, who := 169, tag := n + 1, todo := [(base, k.bytes, some x.data), (base, k.bytes, none)], out := 0, got := [],
                                             bad := false, off := 0 }] } }) ∧
          (∀ w, s.core.workOf 169 (n + 1) = some w →
            ((w.todo ≠ [] ∨ w.out ≠ 0) → Gives (.loadSegment n data) s s.core) ∧
            (w.todo = [] → w.out = 0 → w.bad = false → Completes (.loadSegment n data) s (fun t => after t ∧ t.mem = { s.mem with dir := t.mem.dir } ∧
              (∀ z, ∀ y ∈ (t.core.blk z).cache, y.segid = k.id → s.core.bOk (z / 16) (z % 16) = false) ∧ WorksLeft s.core t.core ∧
              KeepsRegs (s.core.blocks.map (fun b => Fd.BLK_SEG_STS_STAGE_USED b.1 b.2)) s.core t.core)) ∧
            (w.todo = [] → w.out = 0 → w.bad = true → Completes (.loadSegment n data) s (fun t => dirValid (dirEntry t.mem k.id) = false ∧
              t.mem = { s.mem with dir := t.mem.dir } ∧ Done n .hbm 0 0 s t ∧ t.pending = s.pending)))))) ∧
    (Ready n .loadConfig d s → dField d 8 0 4 ≠ 15 → s.core.loading n = false →
      let sp := dField d 8 0 4
      let u := dField d 12 0 32
      let o := dField d 16 0 32
      let len := dField d 20 0 32
      let target : Prop := onlyBits d [(8, 0, 4), (12, 0, 32), (16, 0, 32), (20, 0, 32), (24, 0, 64)] = true ∧ sp ≤ 4 ∧
        (sp = 1 ∨ sp = 2 ∨ sp = 3 → u < 2304 ∧ s.core.bOk (cellR u) (cellB u) = true) ∧ (sp = 4 → u < 8 ∧ s.core.rOk u = true)
      let aligned : Prop := dField d 24 0 64 % 64 = 0 ∧ o % 64 = 0 ∧ len % 64 = 0
      let fits : Prop := len ≠ 0 ∧ o + len ≤ (if sp = 0 then 2 ^ 25 else if sp = 1 then 32768 else if sp = 2 then 4096 else if sp = 3 then 256 else 327680)
      (¬ target → Completes (.loadConfig n data) s (Refused n .target s)) ∧
      (target → s.core.setIs .clean = false → Completes (.loadConfig n data) s (Refused n .state s)) ∧
      (target → s.core.setIs .clean = true → ¬ aligned → Completes (.loadConfig n data) s (Refused n .align s)) ∧
      (target → s.core.setIs .clean = true → aligned → ¬ fits → Completes (.loadConfig n data) s (Refused n .length s)) ∧
      (target → s.core.setIs .clean = true → aligned → fits → (∀ l, data = some l → l.length < len) → Completes (.loadConfig n data) s (Refused n .aborted s)) ∧
      (target → s.core.setIs .clean = true → aligned → fits → PortsIdle s → ∀ l, data = some l → len ≤ l.length →
        Completes (.loadConfig n data) s (Carries n (l.take len) s))) ∧
    (Ready n .loadConfig d s → dField d 8 0 4 = 15 → s.core.loading n = false →
      let o := dField d 16 0 32
      let len := dField d 20 0 32
      let got := match data with
        | some l => if len ≤ l.length then l.take len else []
        | none => []
      let target : Prop := onlyBits d [(8, 0, 4), (12, 0, 32), (16, 0, 32), (20, 0, 32), (24, 0, 64)] = true ∧
        ∀ r ∈ profRecs got, ∃ f, profFn r.func = some f ∧ s.core.profUnit f r.unit = true ∧
          ∀ e ∈ r.ents, e.loc % 4 = 0 ∧ (e.sp = 0 → ∃ b x, (profRegs f r.unit).find? (fun k => k.1 == e.loc) = some (e.loc, b, x) ∧ b ≠ 0) ∧
            (e.sp ≠ 0 → profMem s.mem s.core f r.unit e.sp e.loc ≠ 0)
      let aligned : Prop := dField d 24 0 64 % 64 = 0 ∧ o % 64 = 0 ∧ len % 64 = 0
      let fits : Prop := o = 0 ∧ len ≠ 0 ∧ len % 256 = 0 ∧ ∀ r ∈ profRecs got, 1 ≤ r.nent ∧ r.nent ≤ 31
      (¬ target → Completes (.loadConfigProfile n data) s (Refused n .target s)) ∧
      (target → s.core.setIs .clean = false → Completes (.loadConfigProfile n data) s (Refused n .state s)) ∧
      (target → s.core.setIs .clean = true → ¬ aligned → Completes (.loadConfigProfile n data) s (Refused n .align s)) ∧
      (target → s.core.setIs .clean = true → aligned → ¬ fits → Completes (.loadConfigProfile n data) s (Refused n .length s)) ∧
      (target → s.core.setIs .clean = true → aligned → fits → (∀ l, data = some l → l.length < len) → Completes (.loadConfigProfile n data) s (Refused n .aborted s)) ∧
      (target → s.core.setIs .clean = true → aligned → fits → PortsIdle s → ∀ l, data = some l → len ≤ l.length →
        Completes (.loadConfigProfile n data) s (Carries n (l.take len) s))) ∧
    (∀ x, s.core.goes n .loadConfig = some x → n < 64 →
      let sp := dField x.desc 8 0 4
      let u := dField x.desc 12 0 32
      let o := dField x.desc 16 0 32
      let w := x.data
      let c : Instr := if sp = 15 then .loadConfigProfile n data else .loadConfig n data
      (x.leg = 0 → s.core.arbPart (.chip 0) 9 (n + 1) < ceilDiv w.length 128 → s.core.laneOf 8 = none → s.core.arbPart (.chip 0) 8 (n + 1) = 0 → ∀ a, s.core.laneOf 9 = some a →
        Completes c s (LegMoves n x a 9 (ceilDiv w.length 128) s)) ∧
      (x.leg = 1 → s.core.arbPart (.chip 0) 8 (n + 1) < ceilDiv w.length 128 → ∀ a, s.core.laneOf 8 = some a →
        s.core.arbRoom a 8 (ceilDiv w.length 128) + s.core.arbPart (.chip 0) 8 (n + 1) < ceilDiv w.length 128 → Completes c s (LegMoves n x a 8 (ceilDiv w.length 128) s)) ∧
      (2 ≤ x.leg → sp ≤ 4 → w.length % 64 = 0 → o % 64 = 0 → Completes c s (fun t =>
        Wrote zeroByte s.mem.pmS t.mem.pmS (u * 32768 + o) (if sp = 1 then w else []) ∧ Wrote zeroByte s.mem.dmcS t.mem.dmcS (u * 4096 + o) (if sp = 2 then w else []) ∧
        Wrote zeroByte s.mem.mtS t.mem.mtS (u * 256 + o) (if sp = 3 then w else []) ∧ Wrote zeroByte s.mem.syS t.mem.syS (u * 327680 + o) (if sp = 4 then w else []) ∧
        t.mem = { s.mem with pmS := t.mem.pmS, dmcS := t.mem.dmcS, mtS := t.mem.mtS, syS := t.mem.syS, flaw := t.mem.flaw } ∧
        (sp ≠ 0 → t.core.shd = s.core.shd ∧ t.core.freeCtr = s.core.freeCtr ∧ t.core.root = s.core.root) ∧
        (sp = 0 → t.mem = s.mem ∧ t.core.root = { s.core.root with loadAt := s.core.now, loaded := t.core.root.loaded } ∧ (∀ x, x < o ∨ o + w.length ≤ x → t.core.shdW x = s.core.shdW x) ∧
          ∀ i row (f : Fld), 4 * i < w.length → o + 4 * i ∈ t.core.root.loaded ∧
            (regAt (o + 4 * i) = some row → row.isSh = true → s.core.window (o + 4 * i) = true → s.core.deadBits (o + 4 * i) = 0 →
              Nat.land (fromLE ((w.drop (4 * i)).take 4)) (0xFFFFFFFF - maskOf (fun _ => true) row.fields) = 0 → f.off = o + 4 * i →
              (∃ q ∈ row.fields, q.lo = f.lo ∧ q.w = f.w) → t.core.sh f = bitsOf (fromLE ((w.drop (4 * i)).take 4)) f.lo f.w)) ∧
        t.core = { s.core with shd := t.core.shd, freeCtr := t.core.freeCtr, live := t.core.live, root := t.core.root, hbmc := t.core.hbmc, host := { s.core.host with rings := t.core.host.rings } } ∧
        WorksLeft s.core t.core ∧ t.core.live = s.core.live ∧ t.pending = s.pending ∧ Done n .ok 0 0 s t)) ∧
      (2 ≤ x.leg → sp = 15 → let rs := profRecs w
        Completes c s (fun t =>
          t.mem = (rs.foldl (fun (a : Mems × Core) r => profApply a.1 a.2 r) (s.mem, s.core)).1 ∧
          t.core.shd = (rs.foldl (fun (a : Mems × Core) r => profApply a.1 a.2 r) (s.mem, s.core)).2.shd ∧
          (∀ r e f, rs = [r] → r.ents = [e] → profFn r.func = some f → e.loc % 4 = 0 →
            (∀ b x row (y : Fld), e.sp = 0 → (profRegs f r.unit).find? (fun k => k.1 == e.loc) = some (e.loc, b, x) → b ≠ 0 → regAt e.loc = some row → row.isSh = true →
              s.core.window e.loc = true → s.core.deadBits e.loc = 0 → Nat.land b x = 0 → y.off = e.loc → (∃ q ∈ row.fields, q.lo = y.lo ∧ q.w = y.w) →
              (Nat.land ((2 ^ y.w - 1) * 2 ^ y.lo) b = (2 ^ y.w - 1) * 2 ^ y.lo → t.core.sh y = bitsOf e.image y.lo y.w) ∧
              (Nat.land ((2 ^ y.w - 1) * 2 ^ y.lo) x = (2 ^ y.w - 1) * 2 ^ y.lo → t.core.sh y = bitsOf (regReset e.loc) y.lo y.w)) ∧
            (profMem s.mem s.core f r.unit e.sp e.loc ≠ 0 →
              (e.sp = 1 → Wrote zeroByte s.mem.pmS t.mem.pmS (r.unit * 32768 + e.loc) (toLE 4 (Nat.land e.image (profMem s.mem s.core f r.unit 1 e.loc)))) ∧
              (e.sp = 3 → Wrote zeroByte s.mem.mtS t.mem.mtS (r.unit * 256 + e.loc) (toLE 4 (Nat.land e.image (profMem s.mem s.core f r.unit 3 e.loc)))) ∧
              (e.sp = 4 → Wrote zeroByte s.mem.syS t.mem.syS (r.unit * 327680 + e.loc) (toLE 4 (Nat.land e.image (profMem s.mem s.core f r.unit 4 e.loc)))))) ∧
          t.core = { s.core with shd := t.core.shd, freeCtr := t.core.freeCtr, live := t.core.live, hbmc := t.core.hbmc, host := { s.core.host with rings := t.core.host.rings } } ∧
          WorksLeft s.core t.core ∧ t.core.live = s.core.live ∧ t.pending = s.pending ∧ Done n .ok 0 0 s t)))

/-- R252-R254 and R286: a COMMIT is accepted or refused, and its outcome is that of the checks, in the order of their codes, over the shadow set. -/
def Obligations.CommitsCheckTheShadowSet : Prop :=
  ∀ (s : State) (n : Nat) (d : Desc),
    (Ready n .commit d s → s.core.loading n = false → ∀ only : Bool, dField d 8 0 1 = b2n only →
      (onlyBits d [(8, 0, 1)] = false → Completes (if only then .commitCheckOnly n else .commit n) s (Refused n .target s)) ∧
      (onlyBits d [(8, 0, 1)] = true → s.core.setIs .clean = false → Completes (if only then .commitCheckOnly n else .commit n) s (Refused n .state s)) ∧
      (onlyBits d [(8, 0, 1)] = true → s.core.setIs .clean = true → Completes (if only then .commitCheckOnly n else .commit n) s (fun t =>
        t.core.setIs .checking = true ∧ t.core.root = { s.core.root with commit := some (n, only, s.core.now) } ∧ Started n s t ∧
        t = { s with core := { s.core with live := t.core.live, root := t.core.root, host := { s.core.host with rings := t.core.host.rings } } } ∧
        KeepsRegs [Fd.CHP_CFG_STS_SET_STATE] s.core t.core))) ∧
    (Ready n .commit d s → s.core.loading n = true → Gives (.commit n) s s.core ∧ Gives (.commitCheckOnly n) s s.core) ∧
    (Inv s → (∀ only at_ k, s.core.svc = true → n < 64 → s.core.root.commit = some (n, only, at_) → (s.core.ring n).cmd = some k → s.core.now < 2 ^ 64 →
      let fails := FailsCheck (shadowView s.mem s.core).1 (shadowView s.mem s.core).2
      (∀ k, 1 ≤ k → k ≤ 0xC → fails k → (∀ j, j < k → ¬ fails j) →
        Completes .commitComplete s (fun t =>
          t.core.root = { s.core.root with commit := none } ∧ t.core.setIs .clean = true ∧ t.core.get Fd.CHP_CFG_STS_CHK_FAIL = 1 ∧ t.core.get Fd.CHP_CFG_CHK_CODE = k ∧
          t.mem = s.mem ∧ t.pending = s.pending ∧ KeepsWords [Fd.CHP_CFG_CHK, Fd.CHP_CFG_STS, Fd.CHP_RING_STS n] s.core t.core ∧
          Done n (if k = 0xC then .waitCycle else .check) (t.core.liveW Fd.CHP_CFG_CHK) s.core.now s t)) ∧
      ((∀ k, ¬ fails k) →
        Completes .commitComplete s (fun t =>
          t.core.liveW Fd.CHP_CFG_CHK = 0 ∧ t.mem = s.mem ∧ t.pending = s.pending ∧ KeepsWords [Fd.CHP_CFG_CHK, Fd.CHP_CFG_STS, Fd.CHP_RING_STS n] s.core t.core ∧
          Done n .ok 0 s.core.now s t ∧
          (only = true → t.core.setIs .clean = true ∧ t.core.root = { s.core.root with commit := none }) ∧
          (only = false → t.core.setIs .pending = true ∧ t.core.root = { s.core.root with commit := none, cC := some s.core.now, swapped := [], inPlay := t.core.root.inPlay } ∧
            ∀ i, i ∈ t.core.root.inPlay ↔ ∃ g ∈ (shadowView s.mem s.core).2.active, ∃ x, x < segCount (shadowView s.mem s.core).1 (shadowView s.mem s.core).2 g ∧
              segTab (shadowView s.mem s.core).1 (shadowView s.mem s.core).2 g x = i)))))

/-- R258, R259, R262, R280, R287, R302, R404 and R431: a RUN is held, refused, or enters ARMED; a STOP is refused, ends the series at once, or drains the shot. -/
def Obligations.RunAndStopGovernTheSeries : Prop :=
  ∀ (s : State) (n : Nat) (d : Desc),
    (Ready n .run d s →
      let dacCal : Prop := ∃ j ∈ s.core.cal.jobs, j.kind = 0x13 ∨ j.kind = 0x14
      let target : Prop := onlyBits d [(8, 0, 32), (12, 0, 4), (16, 0, 32), (24, 0, 64)] = true ∧
        ∀ g ∈ s.core.active, ∀ z ∈ streamsOf s.mem s.core g, s.core.get (Fd.CHP_STREAM_MAP_EN z) = 1 ∧ s.core.hostSpool (s.core.get (Fd.CHP_STREAM_MAP_RING z)) = true
      let state : Prop := s.core.runIs .idle = true ∧ (∃ r, s.core.rOk r = true ∧ s.core.parked r = false) ∧ s.core.root.ever = true
      let mode := dField d 12 0 2
      let tick := dField d 24 0 64
      (s.core.now < s.core.pins.settleTo → Completes (.run n) s (fun t =>
        (∃ k, (s.core.ring n).cmd = some k ∧ (t.core.ring n).cmd = some { k with settle := true }) ∧ (∀ x, x ≠ n → t.core.ring x = s.core.ring x) ∧
        KeepsRegs [] s.core t.core ∧ OnlyRings s t)) ∧
      (s.core.pins.settleTo ≤ s.core.now → dacCal → Completes (.run n) s (fun t =>
        (∃ k, (s.core.ring n).cmd = some k ∧ (t.core.ring n).cmd = some { k with settle := false }) ∧ (∀ x, x ≠ n → t.core.ring x = s.core.ring x) ∧
        KeepsRegs [] s.core t.core ∧ OnlyRings s t)) ∧
      ∀ k, (s.core.ring n).cmd = some k → s.core.pins.settleTo ≤ s.core.now → ¬ dacCal →
        let base := if k.settle = true then s.core.pins.settleTo else s.core.now
        let fits : Prop := dField d 8 0 32 ≠ 0 ∧ (mode = 1 → base + 256 ≤ tick)
        let ts := if mode = 0 then some (max (base + 256) (s.core.now + 48)) else if mode = 1 then some tick else none
        (¬ target → Completes (.run n) s (Refused n .target s)) ∧
        (target → ¬ state → Completes (.run n) s (Refused n .state s)) ∧
        (target → state → ¬ fits → Completes (.run n) s (Refused n .length s)) ∧
        (target → state → fits → s.core.now + 256 < 2 ^ 64 →
          Completes (.run n) s (fun t =>
            t.core.runIs .armed = true ∧
            t.core.ser = { Series.init with count := dField d 8 0 32, mode := mode, trig := dField d 12 2 2, period := dField d 16 0 32, ts := ts, lastEnd := s.core.ser.lastEnd } ∧
            (∀ g, (t.core.cell g).ctx.strm = [] ∧ t.core.cell g = { s.core.cell g with ctx := { (s.core.cell g).ctx with strm := [] } }) ∧ t.core.rgns = s.core.rgns ∧
            t.core.host.binds = ((upFrom 0 256).filter (fun z => s.core.get (Fd.CHP_STREAM_MAP_EN z) == 1)).map (fun z => (z, s.core.get (Fd.CHP_STREAM_MAP_RING z))) ∧
            KeepsRegs (Fd.CHP_RUN_STS_STATE :: s.core.blocks.map (fun b => Fd.BLK_SEG_STS_STAGE_USED b.1 b.2)) s.core t.core ∧
            t.core.now = s.core.now ∧ t.mem = s.mem ∧ t.pending = s.pending ∧ Done n .ok (ts.getD 0) 0 s t))) ∧
    (Ready n .stop d s → ∀ cut : Bool, dField d 8 0 1 = b2n cut →
      let c : Instr := if cut then .stopCut n else .stop n
      let target : Prop := onlyBits d [(8, 0, 1)] = true
      let last := if s.core.ser.begun = true then (if s.core.ser.shotOn = true then s.core.ser.next else (s.core.ser.next + 2 ^ 32 - 1) % 2 ^ 32) else 0xFFFFFFFF
      (¬ target → Completes c s (Refused n .target s)) ∧
      (target → s.core.runIs .armed = false → s.core.runIs .running = false → Completes c s (Refused n .state s)) ∧
      (target → (s.core.runIs .armed = true ∨ s.core.runIs .running = true ∧ s.core.ser.shotOn = false) → s.core.ser.stopRings = [] → s.core.ser.next < 2 ^ 32 →
        Completes c s (fun t => t.core.runIs .idle = true ∧
          t.core.ser = { Series.init with lastEnd := s.core.ser.lastEnd, lastTs := s.core.ser.lastTs, next := s.core.ser.next } ∧ Done n .ok last 0 s t ∧
          KeepsRegs [Fd.CHP_RUN_STS_STATE] s.core t.core ∧ t.core.cells = s.core.cells ∧ t.core.rgns = s.core.rgns ∧ t.mem = s.mem ∧ t.pending = s.pending)) ∧
      (target → s.core.runIs .running = true → s.core.ser.shotOn = true →
        Completes c s (fun t => t.core.runIs .draining = true ∧ t.core.ser.stopping = true ∧
          t.core.ser.stopRings.map Fin.val = s.core.ser.stopRings.map Fin.val ++ [n] ∧ Started n s t ∧ t.mem = s.mem ∧ t.pending = s.pending ∧
          (cut = false → KeepsRegs [Fd.CHP_RUN_STS_STATE] s.core t.core ∧ t.core.cells = s.core.cells ∧ t.core.rgns = s.core.rgns) ∧
          (cut = true → KeepsRegs ([Fd.CHP_RUN_STS_STATE, Fd.CHP_RUN_STS_CUT] ++ s.core.regions.flatMap (fun r => (s.core.rgnActive r).map Fd.CEL_STS_STATE)) s.core t.core ∧
            (∀ g, (∀ r ∈ s.core.regions, g ∉ s.core.rgnActive r) → t.core.cell g = s.core.cell g) ∧
            ∀ r ∈ s.core.regions, (s.core.rgn r).shot.inShot = true → (s.core.rgn r).shot.d0 = none →
              (t.core.rgn r).shot.cutAt = some (s.core.now + 32) ∧ t.core.get Fd.CHP_RUN_STS_CUT = 1 ∧
              ∀ g ∈ s.core.rgnActive r, (t.core.cell g).held = true ∧ (t.core.cell g).phx.on = false ∧ (∃ z, (t.core.cell g).zeroAt = some z ∧ z ≤ s.core.now + 2) ∧
                ∀ w ∈ (t.core.cell g).ro.wins, w.dead = true))))

/-- R217, R230, R274, R276, R279, R280, R288, R289, R291 and R300: a capture is refused or on its way to its region, where it is judged at U_a; a POST_SPOOL and a LOCK_RELEASE are
refused or do their work. SIZE_EXP of a ring lies in 4 to 16 (R272). -/
def Obligations.CapturesSpoolsAndLocks : Prop :=
  ∀ (s : State) (n : Nat) (d : Desc),
    (Ready n .armCapture d s →
      let ch := dField d 8 0 5
      let given := (upFrom 0 10).map (fun i => dField d (12 + 4 * i) 0 32)
      let img := if dField d 9 0 1 = 1 then s.core.acqRegs (ch / 4) (ch % 4) else given
      let fields : Prop := onlyBits d ([(8, 0, 5), (9, 0, 1)] ++ (upFrom 0 10).map (fun i => (12 + 4 * i, 0, 32))) = true ∧
        (dField d 9 0 1 = 0 → ∀ e ∈ (acqOffs (ch / 4) (ch % 4)).zip given, Nat.land e.2 (reservedOf e.1) = 0) ∧ s.core.rOk (ch / 4) = true
      (¬ fields → Completes (.armCapture n) s (Refused n .target s)) ∧
      (fields → s.core.runIs .parked = true → (¬ CaptureNames s.core ch img → Completes (.armCapture n) s (Refused n .target s)) ∧
        (CaptureNames s.core ch img → Completes (.armCapture n) s (Refused n .state s))) ∧
      (fields → s.core.runIs .parked = false → Completes (.armCapture n) s (fun t =>
        (t.core.acq ch).arming = (s.core.acq ch).arming ++ [{ at_ := s.core.now + 2, img := given, keep := dField d 9 0 1 == 1, ring := n }] ∧
        t.core.acq ch = { s.core.acq ch with arming := (t.core.acq ch).arming } ∧ (∀ x, x ≠ ch → t.core.acq x = s.core.acq x) ∧
        KeepsRegs [] s.core t.core ∧ t.core.now = s.core.now ∧ t.mem = s.mem ∧ t.pending = s.pending ∧ Started n s t))) ∧
    (∀ ch k x, s.pending = [] → s.core.running = true → s.core.now + 1 < 2 ^ 64 → QuietTick (s.core.modAcq ch (fun a => { a with arming := [] })) → ch < 32 →
      (s.core.acq ch).arming = [k] → k.at_ = s.core.now + 1 → k.ring < 64 → (s.core.ring k.ring).cmd = some x → x.exec = true → k.img.length = 10 →
      let img := if k.keep then s.core.acqRegs (ch / 4) (ch % 4) else k.img
      let free : Prop := s.core.acqState ch = 0 ∧ s.core.parked (ch / 4) = false
      let refused : Sts → Prop := fun st => ∃ t, step s = .next t ∧ (t.core.acq ch).arming = [] ∧ t.core.acq ch = { s.core.acq ch with arming := [] } ∧ t.core.now = s.core.now + 1 ∧
        (t.core.ring k.ring).cmd = none ∧ (t.core.ring (s.core.get (Fd.CHP_RING_CFG_COMPL k.ring))).comps =
          (s.core.ring (s.core.get (Fd.CHP_RING_CFG_COMPL k.ring))).comps ++ [compOf k.ring x st 0 0 (s.core.now + 1)] ∧
        KeepsRegs [Fd.CHP_RING_STS_HALTED k.ring] s.core t.core ∧ t.mem = s.mem ∧ t.pending = []
      (¬ CaptureNames s.core ch img → refused .target) ∧ (CaptureNames s.core ch img → ¬ free → refused .state) ∧
      (CaptureNames s.core ch img → free → ¬ CaptureFits img → refused .length) ∧
      (CaptureNames s.core ch img → free → CaptureFits img →
        ∃ t, step s = .next t ∧ t.core.acqState ch = 1 ∧ (t.core.acq ch).img = img ∧ (t.core.acq ch).y = k.at_ ∧ (t.core.acq ch).plate = none ∧ (t.core.acq ch).arming = [] ∧
          (k.keep = false → ∀ e ∈ (acqOffs (ch / 4) (ch % 4)).zip k.img, t.core.liveW e.1 = e.2 % 2 ^ 32) ∧ (∀ z, z < 32 → z ≠ ch → t.core.acq z = s.core.acq z) ∧
          (t.core.ring k.ring).cmd = none ∧ (t.core.ring k.ring).done = (s.core.ring k.ring).done + 1 ∧
          (t.core.ring (s.core.get (Fd.CHP_RING_CFG_COMPL k.ring))).comps =
            (s.core.ring (s.core.get (Fd.CHP_RING_CFG_COMPL k.ring))).comps ++ [compOf k.ring x .ok (s.core.now + 1) 0 (s.core.now + 1)] ∧
          t.core.now = s.core.now + 1 ∧ t.mem = s.mem ∧ t.pending = [])) ∧
    (Ready n .postSpool d s →
      let z := dField d 8 0 6
      let reset := dField d 9 0 1 == 1
      let count := dField d 12 0 32
      let size := s.core.ringSize z
      let segs := if reset then [] else (s.core.ring z).segs
      let first := if reset then 0 else s.core.devIdx z
      let ph := if reset then 1 else s.core.get (Fd.CHP_RING_STS_DEV_PHASE z)
      let fields : Prop := onlyBits d [(8, 0, 6), (9, 0, 1), (12, 0, 32)] = true ∧ s.core.ringIs z .spool = true
      let state : Prop := (reset = false → s.core.hostSpool z = false) ∧
        (reset = true → (∀ ch, ch < 32 → s.core.acqState ch = 0 ∨ (s.core.acq ch).ring ≠ z) ∧
          (s.core.get Fd.CHP_RESULT_CFG_EN = 0 ∨ s.core.get Fd.CHP_RESULT_CFG_SPOOL ≠ z ∨ s.core.runIs .idle = true) ∧
          (s.core.get Fd.TPT_CFG_EN = 0 ∨ s.core.get Fd.TPT_CFG_RX_SPOOL ≠ z) ∧
          ∀ i ∈ s.core.inPlay s.mem, dirValid (dirEntry s.mem i) = true → dirHome (dirEntry s.mem i) = 3 →
            (s.core.inSeries = true → (dirStream (dirEntry s.mem i), z) ∉ s.core.host.binds) ∧
            (s.core.inSeries = false → s.core.get (Fd.CHP_STREAM_MAP_EN (dirStream (dirEntry s.mem i))) = 0 ∨
              s.core.get (Fd.CHP_STREAM_MAP_RING (dirStream (dirEntry s.mem i))) ≠ z))
      let other : Prop := ∃ k x, k < 64 ∧ k ≠ n ∧ (s.core.ring k).cmd = some x ∧ x.exec = true ∧ descBits x.desc 8 8 = CmdOp.postSpool.code ∧ dField x.desc 8 0 6 = z
      (other → ∀ reads, Gives (.postSpool n reads) s s.core) ∧
      (¬ other → s.core.get (Fd.CHP_RING_CFG_SIZE_EXP z) ≤ 16 → ∀ reads,
        (¬ fields → Completes (.postSpool n reads) s (Refused n .target s)) ∧
        (fields → ¬ state → Completes (.postSpool n reads) s (Refused n .state s)) ∧
        (fields → state → count = 0 → Completes (.postSpool n reads) s (Refused n .length s)) ∧
        (fields → state → count ≠ 0 → (s.core.ring z).stopped = true → Completes (.postSpool n reads) s (Refused n .aborted s)) ∧
        (fields → state → count ≠ 0 → (s.core.ring z).stopped = false → PortsIdle s → (∀ k, (s.core.ring n).cmd = some k → k.taken = []) →
          Completes (.postSpool n reads) s (fun t => Started n s t ∧ KeepsRegs [] s.core t.core ∧ OnlyRings s t)) ∧
        (fields → state → count ≠ 0 → (s.core.ring z).stopped = false → ∀ es : List Desc, es.length = min count size → Passes 9 es.length s →
          (∀ k e, es[k]? = some e → descBits e 0 1 = phaseAt size first ph k) →
          let total := ((segs ++ es.map scatter).map (fun e => e.2)).foldl (fun a b => a + b) 0
          let aligned : Prop := ∀ e ∈ es, (scatter e).1 % 64 = 0 ∧ (scatter e).2 % 64 = 0
          let fits : Prop := segs.length + count ≤ size ∧ (∀ e ∈ es, (scatter e).2 ≠ 0) ∧ total + s.core.otherSpools z ≤ 2 ^ 41
          (¬ aligned → Completes (.postSpool n (es.map .entry)) s (fun t => Refused n .align s (noBeats s t))) ∧
          (aligned → ¬ fits → Completes (.postSpool n (es.map .entry)) s (fun t => Refused n .length s (noBeats s t))) ∧
          (aligned → fits → Completes (.postSpool n (es.map .entry)) s (fun t =>
            (t.core.ring z).segs = segs ++ es.map scatter ∧ t.core.devIdx z = (first + es.length) % size ∧
            t.core.get (Fd.CHP_RING_STS_DEV_PHASE z) = phaseAt size first ph es.length ∧
            ((reset = true ∨ (s.core.ring z).s = 0) → (t.core.ring z).s = total ∧ (t.core.ring z).p = 0 ∧ (t.core.ring z).c = 0 ∧ (t.core.ring z).sNew = none) ∧
            (reset = false → (s.core.ring z).s ≠ 0 → (t.core.ring z).sNew = some total ∧ (t.core.ring z).s = (s.core.ring z).s ∧ (t.core.ring z).p = (s.core.ring z).p ∧
              (t.core.ring z).c = (s.core.ring z).c) ∧
            (∀ x, x ≠ n → x ≠ z → x ≠ s.core.get (Fd.CHP_RING_CFG_COMPL n) → t.core.ring x = s.core.ring x) ∧
            KeepsRegs [Fd.CHP_RING_STS_DEV_INDEX z, Fd.CHP_RING_STS_DEV_PHASE z] s.core t.core ∧ OnlyRings s (noBeats s t) ∧ Done n .ok total 0 s t))))) ∧
    (Ready n .lockRelease d s →
      let k := dField d 8 0 6
      let lock := s.core.get (Fd.RGN_DAC_STS_LOCK_STATE (k / 8) (k % 8))
      let own := s.core.get (Fd.RGN_DAC_STS_OWNER (k / 8) (k % 8))
      let fields : Prop := onlyBits d [(8, 0, 6), (9, 0, 1)] = true ∧ s.core.dacOk (k / 8) (k % 8) = true
      let state : Prop := s.core.shots = true ∧ lock ≠ 0 ∧ (lock = 1 → dField d 9 0 1 = 0)
      (s.core.dac k).breakBy = none →
      let res := (s.core.now + 3) % 2 ^ 32 + lock * 2 ^ 32 + own * 2 ^ 40
      (¬ fields → Completes (.lockRelease n) s (Refused n .target s)) ∧
      (fields → ¬ state → Completes (.lockRelease n) s (Refused n .state s)) ∧
      (fields → state → lock ≠ 1 → Completes (.lockRelease n) s (fun t =>
        (t.core.dac k).freeAt = some (s.core.now + 3) ∧ (∀ x, x ≠ k → t.core.dac x = s.core.dac x) ∧ t.core.lanes = s.core.lanes ∧ KeepsRegs [] s.core t.core ∧
        t.mem = s.mem ∧ t.pending = s.pending ∧ Done n .ok res 0 s t)) ∧
      (fields → state → lock = 1 → ∀ q, s.core.mainLane (k / 8 * 288 + own) = some q → Completes (.lockRelease n) s (fun t =>
        (t.core.lane q).marks = (s.core.lane q).marks ++ [{ kind := .unlock, stamp := s.core.now + 3 + 17, ct := 0, xn := 0, late := false, from_ := none }] ∧
        t.core.lane q = { s.core.lane q with marks := (t.core.lane q).marks } ∧ (∀ x, x ≠ q → t.core.lane x = s.core.lane x) ∧ t.core.dacs = s.core.dacs ∧
        KeepsRegs [] s.core t.core ∧ t.mem = s.mem ∧ t.pending = s.pending ∧ Done n .ok res 0 s t)))

/-- R280, R289, R290, R331 and R449: a FENCE waits for what it names; a QUERY is refused, waits for the drain of its region, and its snapshot goes over the ports into the host buffer. -/
def Obligations.FencesAndQueries : Prop :=
  ∀ (s : State) (n : Nat) (d : Desc) (k : Cmd), (s.core.ring n).cmd = some k →
    let holds : Prop := (∀ e ∈ k.deps, e.2 ≤ (s.core.ring e.1).done) ∧ (dField k.desc 16 0 1 = 0 ∨ s.core.setIs .clean = true) ∧
      (dField k.desc 16 1 1 = 0 ∨ s.core.runIs .idle = true)
    (Ready n .fence d s → onlyBits d [(8, 0, 64), (16, 0, 2), (20, 0, 32)] = true →
      (holds → Completes (.fence n) s (fun t => Done n .ok 0 0 s t ∧ KeepsRegs [] s.core t.core ∧ OnlyRings s t)) ∧
      (¬ holds → Completes (.fence n) s (fun t => Started n s t ∧ KeepsRegs [] s.core t.core ∧ OnlyRings s t))) ∧
    (n < 64 → k.exec = true → descBits k.desc 8 8 = 10 →
      (holds → s.core.now < 2 ^ 64 → Completes (.fence n) s (fun t => Done n .ok (s.core.now - k.start) 0 s t ∧ KeepsRegs [] s.core t.core ∧ OnlyRings s t)) ∧
      (¬ holds → Gives (.fence n) s s.core ∧
        (dField k.desc 20 0 32 ≠ 0 → k.start + 500 * dField k.desc 20 0 32 ≤ s.core.now →
          Completes (.fenceTimeout n) s (fun t => Done n .aborted 0 0 s t ∧ KeepsRegs [Fd.CHP_RING_STS_HALTED n] s.core t.core ∧ OnlyRings s t)) ∧
        (dField k.desc 20 0 32 = 0 ∨ s.core.now < k.start + 500 * dField k.desc 20 0 32 → Gives (.fenceTimeout n) s s.core))) ∧
    let q := qCmd k.desc
    let e := dirEntry s.mem q.unit
    let lib := q.q = 6 ∧ dirHome e = 2
    let cell := q.unit < 2304 ∧ s.core.bOk (cellR q.unit) (cellB q.unit) = true
    let drain : Nat → Prop := fun r => s.core.shots = true ∧ s.core.parked r = false ∧
      (q.q = 2 ∧ r = cellR q.unit ∨ q.q = 5 ∧ (q.sp = 1 ∨ q.sp = 2 ∨ q.sp = 3) ∧ r = cellR q.unit ∨
       q.q = 6 ∧ q.unit ∈ s.core.inPlay s.mem ∧ (dirHome e = 0 ∧ r = cellR (dirOwner e) ∨ dirHome e = 1 ∧ r = dirOwner e / 16))
    let shadow : Bool := q.q == 4 && !s.core.setIs .copyback
    let image : List Byte → Prop := fun l =>
      (q.q = 1 → l = ((toLE 16 e ++ List.replicate 48 0).drop q.off).take q.bytes) ∧
      (q.q = 2 → l = rdBytes zeroByte s.mem.dmw (q.unit * 4096 + q.off) q.bytes) ∧
      (q.q = 3 → l = (((upFrom 0 8).flatMap (fun x => let t := s.core.thr q.unit x
        toLE 2 t.t01.toNat ++ toLE 2 t.t2.toNat ++ toLE 2 t.upd ++ toLE 2 t.rej)).drop q.off).take q.bytes) ∧
      (q.q = 4 ∨ q.q = 5 →
        (q.sp = 0 → l = (upFrom 0 (q.bytes / 4)).flatMap (fun i => toLE 4 (if shadow then s.core.shadowRead (q.off + 4 * i) else s.core.activeRead (q.off + 4 * i)))) ∧
        (q.sp = 1 → l = rdBytes zeroByte (if shadow then s.mem.pmS else s.mem.pmA) (q.unit * 32768 + q.off) q.bytes) ∧
        (q.sp = 2 → l = rdBytes zeroByte (if shadow then s.mem.dmcS else s.mem.dmcA) (q.unit * 4096 + q.off) q.bytes) ∧
        (q.sp = 3 → l = rdBytes zeroByte (if shadow then s.mem.mtS else s.mem.mtA) (q.unit * 256 + q.off) q.bytes) ∧
        (q.sp = 4 → l = rdBytes zeroByte (if shadow then s.mem.syS else s.mem.syA) (q.unit * 327680 + q.off) q.bytes)) ∧
      (q.q = 6 → (dirHome e = 0 → l = rdBytes zeroByte s.mem.seg (dirOwner e * 32768 + dirLine e * 128 + q.off) q.bytes) ∧
        (dirHome e = 1 → l = rdBytes zeroByte s.mem.blk (dirOwner e * 524288 + dirLine e * 128 + q.off) q.bytes)) ∧
      (q.q = 7 → l = rdBytes almByte s.mem.alm q.off q.bytes)
    let clean : Prop := ∀ g kind x m, s.core.qWords s.mem q = some (g, kind, x, m) → ∀ i, i < m → flawAt s.mem kind (x + i) = none
    let rootBad : Prop := q.q = 7 ∧ ∃ i, q.off / 32 ≤ i ∧ i < q.off / 32 + q.bytes / 32 ∧ flawAt s.mem 6 i = some true
    let target : Prop := onlyBits k.desc [(8, 0, 4), (9, 0, 4), (12, 0, 32), (16, 0, 32), (20, 0, 32), (24, 0, 64)] = true ∧
      (q.q = 1 ∧ q.unit < 65536 ∨ (q.q = 2 ∨ q.q = 3) ∧ cell ∨ (q.q = 4 ∨ q.q = 5) ∧ (q.sp = 0 ∨ (q.sp = 1 ∨ q.sp = 2 ∨ q.sp = 3) ∧ cell ∨ q.sp = 4 ∧ q.unit < 8 ∧ s.core.rOk q.unit = true) ∨
       q.q = 6 ∧ q.unit < 65536 ∧ dirValid e = true ∧ dirHome e ≠ 3 ∨ q.q = 7)
    let aligned : Prop := q.addr % 64 = 0 ∧ q.off % 64 = 0 ∧ q.bytes % 64 = 0
    let size := if q.q = 1 ∨ q.q = 3 then 64 else if q.q = 2 then 4096 else if q.q = 6 then ceilDiv (dirLen e) 7 * 128 else if q.q = 7 then 2 ^ 20
      else if q.sp = 0 then 2 ^ 25 else if q.sp = 1 then 32768 else if q.sp = 2 then 4096 else if q.sp = 3 then 256 else 327680
    let fits : Prop := q.bytes ≠ 0 ∧ q.off + q.bytes ≤ size
    let sent : State → List Byte → State → Prop := fun s l t => t.core.host.out = s.core.host.out ++ [.write q.addr l] ∧ KeepsRegs [] s.core t.core ∧
      OnlyRings s { t with core := { t.core with host := { t.core.host with out := s.core.host.out } } }
    ((q.q = 1 ∨ q.q = 7 ∨ lib) → qLegs s.mem q = []) ∧
    ((q.q = 2 ∨ q.q = 3) → qLegs s.mem q = [.port (.region (cellR q.unit)) (cellB q.unit) (ceilDiv q.bytes 128), .lane (cellR q.unit) (ceilDiv q.bytes 128)]) ∧
    (Ready n .query d s →
      (¬ target → Completes (.query n) s (Refused n .target s)) ∧
      (target → ¬ aligned → Completes (.query n) s (Refused n .align s)) ∧
      (target → aligned → ¬ fits → Completes (.query n) s (Refused n .length s)) ∧
      (target → aligned → fits → rootBad → Completes (.query n) s (fun t => t.core.runIs .parked = true ∧ t.core.get Fd.CHP_FAULT_STS_FAULT = 1 ∧
        (s.core.get Fd.CHP_FAULT_STS_FAULT = 0 → t.core.get Fd.CHP_FAULT_STS_CAUSE = 2) ∧ (t.core.ring n).cmd = none ∧ t.mem = s.mem ∧ t.pending = s.pending)) ∧
      (target → aligned → fits → (∃ r, drain r) → Completes (.query n) s (fun t => Started n s t ∧ KeepsRegs [] s.core t.core ∧ OnlyRings s t)) ∧
      (target → aligned → fits → ¬ rootBad → (∀ r, ¬ drain r) → s.core.workOf 169 (n + 1) = none →
        (lib → s.core.get Fd.CHP_BOOT_STS_NO_HBM = 1 → Completes (.query n) s (Refused n .hbm s)) ∧
        (lib → s.core.get Fd.CHP_BOOT_STS_NO_HBM = 0 → Completes (.query n) s (fun t => ∃ w, t.core.hbmc = { s.core.hbmc with jobs := s.core.hbmc.jobs + 1, works := s.core.hbmc.works ++ [w] } ∧
          w.who = 169 ∧ w.tag = n + 1 ∧ w.todo = [(s.core.get (Fd.HBM_PART_BASE 0) * 2 ^ 26 + dirLine e * 128 + q.off, q.bytes, none)] ∧ w.bad = false ∧ w.out = 0 ∧ w.got = [] ∧
          Carries n [] s { t with core := { t.core with hbmc := s.core.hbmc } })) ∧
        (¬ lib → clean → qLegs s.mem q = [] → s.core.now < 2 ^ 64 → Completes (.query n) s (fun t => (∃ l, image l ∧ sent s l t) ∧ Done n .ok s.core.now 0 s t)) ∧
        (¬ lib → clean → qLegs s.mem q ≠ [] → PortsIdle s → Completes (.query n) s (fun t => ∃ l, image l ∧ Carries n l s t)))) ∧
    (s.core.goes n .query = some k → n < 64 → ∀ tick data, k.snap = some (tick, data) →
      ((q.q = 2 ∨ q.q = 3) → k.leg = 0 → s.core.workOf 169 (n + 1) = none → s.core.laneOf (cellR q.unit) = none → s.core.arbPart (.chip 0) (cellR q.unit) (n + 1) = 0 →
        s.core.arbPart (.region (cellR q.unit)) (cellB q.unit) (n + 1) < ceilDiv q.bytes 128 →
        Completes (.query n) s (LegMoves n k (.region (cellR q.unit)) (cellB q.unit) (ceilDiv q.bytes 128) s)) ∧
      (¬ lib → s.core.workOf 169 (n + 1) = none → (qLegs s.mem q).length ≤ k.leg → tick < 2 ^ 64 → Completes (.query n) s (fun t => sent s data t ∧ Done n .ok tick 0 s t)) ∧
      (lib → s.core.get Fd.CHP_BOOT_STS_NO_HBM = 1 → Completes (.query n) s (Refused n .hbm s)) ∧
      (lib → s.core.get Fd.CHP_BOOT_STS_NO_HBM = 0 → ∀ w, s.core.workOf 169 (n + 1) = some w →
        (w.todo ≠ [] ∨ w.out ≠ 0 → Gives (.query n) s s.core) ∧
        (w.todo = [] → w.out = 0 → w.bad = true → Completes (.query n) s (Refused n .hbm s)) ∧
        (w.todo = [] → w.out = 0 → w.bad = false → tick < 2 ^ 64 → Completes (.query n) s (fun t => sent s (w.bytes w.off q.bytes) t ∧ Done n .ok tick 0 s t)))) ∧
    (s.core.goes n .query = some k → n < 64 → k.snap = none → ¬ lib → clean → q.bytes ≠ 0 → s.core.workOf 169 (n + 1) = none → PortsIdle s →
      let carried : Nat → Prop := fun τ => Completes (.queryDrainSnapshot n) s (fun t => ∃ l, image l ∧
        (qLegs s.mem q ≠ [] → (t.core.ring n).cmd = some { k with exec := true, leg := 0, snap := some (τ, l) } ∧ KeepsRegs [] s.core t.core ∧ OnlyRings s t) ∧
        (qLegs s.mem q = [] → τ < 2 ^ 64 → sent s l t ∧ Done n .ok τ 0 s t))
      ((∀ r, ¬ drain r) → carried s.core.now) ∧
      ∀ r d0, drain r → (s.core.rgn r).shot.inShot = true → (s.core.rgn r).shot.d0 = some d0 → (s.core.rgn r).shot.swapped = false → (s.core.rgn r).shot.posted = false →
        k.start ≤ d0 + 32 → d0 + 32 ≤ s.core.now → carried (d0 + 32))

/-- R411 with R234, R321, R396, R400, R403 and R404. -/
def Obligations.CalibratesStartTheirUnits : Prop :=
  ∀ (s : State) (n : Nat) (d : Desc) (units : List Nat), Inv s → units ≠ [] →
    (s.core.calUnits 1 0 0 = some [0] ∧ (∀ p, p < 16 → s.core.calUnits 5 0 p = some [96 + p]) ∧
      (∀ i, s.core.rOk (i / 8) = true → s.core.calUnits 0x10 4 i = some [256 + 52 * (i / 8) + i % 8] ∧ s.core.calUnits 0x13 4 i = some [1568 + i]) ∧
      (∀ a, s.core.rOk (a / 4) = true → s.core.calUnits 0x10 5 a = some [256 + 52 * (a / 4) + 8 + a % 4] ∧ s.core.calUnits 0x12 5 a = some [1536 + a] ∧
        s.core.calUnits 0x11 5 a = some ((upFrom 0 16).map (fun k => 1024 + 16 * a + k))) ∧
      (∀ z, s.core.bOk (z / 32) (z % 32 / 2) = true → s.core.calUnits 0x10 6 z = some [256 + 52 * (z / 32) + 12 + z % 32] ∧ s.core.calUnits 0x14 6 z = some [1632 + z]) ∧
      (∀ r, s.core.rOk r = true → s.core.calUnits 0x12 1 r = some ((upFrom 0 4).map (fun j => 1536 + (4 * r + j))) ∧
        s.core.calUnits 0x13 1 r = some ((upFrom 0 8).map (fun j => 1568 + (8 * r + j))))) ∧
    (CalAccepted n 0x01 d units s → Completes (.calibrateMon n) s (fun t => CalRuns n 0x01 d units s t ∧ t.core.get Fd.MON_STS_CAL = 1 ∧
      (∀ e, e < 32 → t.core.get (Fd.MON_RES_STALE e) = 1) ∧ KeepsRegs ([Fd.CAL_STS_BUSY, Fd.MON_STS_CAL] ++ (upFrom 0 32).map Fd.MON_RES_STALE) s.core t.core)) ∧
    (CalAccepted n 0x05 d units s → 
      (s.core.get Fd.CHP_BOOT_STS_NO_HBM = 1 → Completes (.calibrateHbm n) s (fun t => Done n .hbm 0 0 s t ∧ KeepsRegs [Fd.CHP_RING_STS_HALTED n] s.core t.core ∧ OnlyRings s t)) ∧
      (s.core.get Fd.CHP_BOOT_STS_NO_HBM = 0 → Completes (.calibrateHbm n) s (fun t => CalRuns n 0x05 d units s t ∧ KeepsRegs [Fd.CAL_STS_BUSY] s.core t.core ∧
        t.core.hbmc = (if s.core.get Fd.HBM_STS_GATHERING = 0 then { s.core.hbmc with nextPc := dField d 12 0 32, pauseAt := s.core.now } else s.core.hbmc)))) ∧
    (CalAccepted n 0x10 d units s → Completes (.calibrateColl n) s (fun t => CalRuns n 0x10 d units s t ∧ KeepsRegs [Fd.CAL_STS_BUSY] s.core t.core)) ∧
    (CalAccepted n 0x11 d units s → s.core.now < 2 ^ 64 → Completes (.calibrateMis n) s (fun t => Done n .ok 0 s.core.now s t ∧ KeepsRegs [] s.core t.core ∧
      (bitAt (dField d 16 0 64) 1 = true → ∀ e ∈ units, ∀ x ∈ (t.core.adc ((e - 1024) / 16)).slices, x.2.n = 0 ∧ x.2.s1 = 0 ∧ x.2.s2 = 0 ∧ x.2.sx = 0) ∧
      (bitAt (dField d 16 0 64) 1 = false → t.mem = s.mem ∧ t.core.adcs = s.core.adcs) ∧
      (bitAt (dField d 16 0 64) 1 = true → ∀ e ∈ units, ∀ v, s.core.cal.factory.find? (fun f => f.1 == e) = some (e, v) → almManual s.mem e = false →
        almVal t.mem e = v ∧ bitsOf (almSts t.mem e) 0 2 = 1 ∧ let z := (t.core.adc ((e - 1024) / 16)).slice ((e - 1024) % 16)
        z.off = sx 16 (bitsOf v.v0.toNat 0 16) ∧ z.gain = sx 16 (bitsOf v.v0.toNat 16 16) ∧ z.skew = sx 8 (bitsOf v.v1.toNat 0 8)) ∧
      t.core.cal.jobs = s.core.cal.jobs ∧ t.mem = { s.mem with alm := t.mem.alm } ∧ t.pending = s.pending)) ∧
    (CalAccepted n 0x12 d units s → Completes (.adcFull n) s (fun t => CalRuns n 0x12 d units s t ∧
      (∀ e ∈ units, t.core.get (Fd.RGN_ADC_STS_CAL ((e - 1536) / 4) ((e - 1536) % 4)) = 1) ∧
      KeepsRegs (Fd.CAL_STS_BUSY :: units.map (fun e => Fd.RGN_ADC_STS_CAL ((e - 1536) / 4) ((e - 1536) % 4))) s.core t.core)) ∧
    (CalAccepted n 0x13 d units s → Completes (.dacFull n) s (fun t => CalRuns n 0x13 d units s t ∧ KeepsRegs [Fd.CAL_STS_BUSY] s.core t.core)) ∧
    (CalAccepted n 0x14 d units s → Completes (.bbFull n) s (fun t => CalRuns n 0x14 d units s t ∧ KeepsRegs [Fd.CAL_STS_BUSY] s.core t.core)) ∧
    (∀ kind c, (kind, c) ∈ [(0x01, Instr.calibrateMon n), (0x05, .calibrateHbm n), (0x10, .calibrateColl n), (0x11, .calibrateMis n), (0x12, .adcFull n), (0x13, .dacFull n),
        (0x14, .bbFull n)] → Ready n .calibrate d s → dField d 8 0 8 = kind →
      let fields : Prop := onlyBits d [(8, 0, 8), (9, 0, 3), (12, 0, 32), (16, 0, 64), (24, 0, 32), (32, 0, 64)] = true ∧ Nat.land (dField d 16 0 64) (2 ^ 64 - 1 - calOptions kind) = 0 ∧
        s.core.calUnits kind (dField d 9 0 3) (dField d 12 0 32) ≠ none
      let state : Prop := s.core.runIs .parked = false ∧ (kind = 0x13 ∨ kind = 0x14 → s.core.runIs .idle = true)
      let aligned : Prop := dField d 32 0 64 % 64 = 0 ∧ dField d 24 0 32 % 64 = 0
      let fits : Prop := dField d 24 0 32 = 0 → dField d 32 0 64 = 0
      (¬ fields → Completes c s (Refused n .target s)) ∧ (fields → ¬ state → Completes c s (Refused n .state s)) ∧
      (fields → state → ¬ aligned → Completes c s (Refused n .align s)) ∧ (fields → state → aligned → ¬ fits → Completes c s (Refused n .length s)))

/-- R331, R401, R403, R404, R407-R409 and R411-R413: a foreground calibration ends, supplied entries are written, a backup copy is made. -/
def Obligations.CalibrationsEndInTheAlmanac : Prop :=
  ∀ (s : State) (n : Nat), Inv s → n < 64 → s.core.now < 2 ^ 64 →
    let near : Nat → Nat → Prop := fun a b => 10 * a ≤ 11 * b ∧ 9 * b ≤ 10 * a
    let inMis : AlmVal → Prop := fun v => -512 ≤ sx 16 (bitsOf v.v0.toNat 0 16) ∧ sx 16 (bitsOf v.v0.toNat 0 16) ≤ 512 ∧ -1966 ≤ sx 16 (bitsOf v.v0.toNat 16 16) ∧
      sx 16 (bitsOf v.v0.toNat 16 16) ≤ 1966 ∧ -63 ≤ sx 8 (bitsOf v.v1.toNat 0 8) ∧ sx 8 (bitsOf v.v1.toNat 0 8) ≤ 63
    let inFull : Nat → AlmVal → Prop := fun e v => let f := s.core.factoryVal e
      (e < 1568 → near v.v1.toNat f.v1.toNat) ∧ (1568 ≤ e → near (bitsOf v.v0.toNat 0 16) (bitsOf f.v0.toNat 0 16)) ∧
      (1568 ≤ e → e < 1632 → ∀ w ∈ [v.v1, v.v2, v.v3], ∀ i, i < 4 → -127 ≤ sx 8 (bitsOf w.toNat (8 * i) 8) ∧ sx 8 (bitsOf w.toNat (8 * i) 8) ≤ 127) ∧
      (1632 ≤ e → -2048 ≤ sx 16 (bitsOf v.v0.toNat 16 16) ∧ sx 16 (bitsOf v.v0.toNat 16 16) ≤ 2048)
    (∀ (j : CalJob) (e : Nat) (k : Cmd) (res : List CalMeas), s.core.svc = true → s.core.cal.jobs = [j] → j.ring = n → j.units = [e] → j.ended = [] →
      (s.core.ring n).cmd = some k → s.core.almExists e = true →
      let sound : CalMeas → Prop := fun x => x.ok = true ∧ inFull e x.val ∧ (e < 1568 → x.slices.length = 16 ∧ ∀ v ∈ x.slices, inMis v)
      let enabled := if e < 1568 then s.core.get (Fd.RGN_ADC_CFG_EN ((e - 1536) / 4) ((e - 1536) % 4))
        else if e < 1632 then s.core.get (Fd.RGN_DAC_CFG_EN ((e - 1568) / 8) ((e - 1568) % 8))
        else s.core.get (Fd.BLK_BB_CFG_EN ((e - 1632) / 32) ((e - 1632) % 32 / 2) ((e - 1632) % 2))
      (j.kind = 0x12 ∧ 1536 ≤ e ∧ e < 1568 ∧ max j.start (s.core.adc (e - 1536)).settle + 250000 ≤ s.core.now ∨
        j.kind = 0x13 ∧ 1568 ≤ e ∧ e < 1632 ∧ j.start + 1000000 ≤ s.core.now ∨ j.kind = 0x14 ∧ 1632 ≤ e ∧ e < 1888 ∧ j.start + 500000 ≤ s.core.now) →
      let adcRegs := if e < 1568 then [Fd.RGN_ADC_STS_CAL ((e - 1536) / 4) ((e - 1536) % 4)] else []
      let gone : State → Prop := fun t => t.core.cal.jobs = [] ∧ (s.core.get Fd.MON_STS_CAL = 0 → s.core.get Fd.HBM_STS_GATHERING = 0 → t.core.get Fd.CAL_STS_BUSY = 0) ∧
        (∀ y ∈ adcRegs, t.core.get y = 0) ∧ t.mem = { s.mem with alm := t.mem.alm } ∧ t.pending = s.pending ∧ t.core.now = s.core.now
      (enabled = 0 ∨ e ∈ j.dead → Completes (.foregroundCalEnd n res) s (fun t => Done n .ok 0 s.core.now s t ∧ gone t ∧ KeepsRegs (Fd.CAL_STS_BUSY :: adcRegs) s.core t.core ∧
        t.mem = s.mem)) ∧
      (∀ x, enabled = 1 → e ∉ j.dead → res.find? (fun y => y.entry == e) = some x → sound x → Completes (.foregroundCalEnd n res) s (fun t => Done n .ok 0 s.core.now s t ∧ gone t ∧
        KeepsRegs (Fd.CAL_STS_BUSY :: adcRegs) s.core t.core ∧ (j.dry = true → t.mem = s.mem) ∧
        (j.dry = false → bitsOf (almSts t.mem e) 2 1 = 0 ∧ (almManual s.mem e = false → bitsOf (almSts t.mem e) 0 2 = 2 ∧ almVal t.mem e = x.val) ∧
          (almManual s.mem e = true → almManual t.mem e = true ∧ almVal t.mem e = almVal s.mem e) ∧
          (e < 1568 → ∀ i v, i < 16 → x.slices[i]? = some v → almManual s.mem (1024 + 16 * (e - 1536) + i) = false → let z := (t.core.adc (e - 1536)).slice i
            z.off = sx 16 (bitsOf v.v0.toNat 0 16) ∧ z.gain = sx 16 (bitsOf v.v0.toNat 16 16) ∧ z.skew = sx 8 (bitsOf v.v1.toNat 0 8))))) ∧
      (enabled = 1 → e ∉ j.dead → (∀ x, res.find? (fun y => y.entry == e) = some x → ¬ sound x) → Completes (.foregroundCalEnd n res) s (fun t => Done n .ok 1 s.core.now s t ∧ gone t ∧
        (j.dry = true → t.mem = s.mem) ∧ (j.dry = false → almVal t.mem e = almVal s.mem e ∧ bitsOf (almSts t.mem e) 2 1 = 1 ∧
          bitsOf (almSts t.mem e) 16 16 = min 0xFFFF (bitsOf (almSts s.mem e) 16 16 + 1) ∧ t.core.get Fd.CAL_STS_FAILED = 1 ∧
          (bitsOf (almSts s.mem e) 2 1 = 0 → ∃ h v, almHead e = some h ∧ v ∈ t.core.host.evq ∧ v.code = 0xA0 ∧ v.stamp = s.core.now ∧ v.arg0 = e ∧ v.arg1 = h.kind.code))))) ∧
    (∀ (d : Desc) (data : Option (List Byte)), Ready n .calibrate d s → dField d 8 0 8 = 0x30 →
      let count := dField d 12 0 32
      let fields : Prop := onlyBits d [(8, 0, 8), (9, 0, 3), (12, 0, 32), (16, 0, 64), (24, 0, 32), (32, 0, 64)] = true ∧ dField d 16 0 64 % 64 = 0 ∧ dField d 9 0 3 = 0
      let aligned : Prop := dField d 32 0 64 % 64 = 0 ∧ dField d 24 0 32 % 64 = 0
      let fits : Prop := (dField d 24 0 32 = 0 → dField d 32 0 64 = 0) ∧ 1 ≤ count ∧ count ≤ 32768
      let free : Prop := s.core.runIs .parked = false
      (¬ fields → Completes (.almWrite n data) s (Refused n .target s)) ∧ (fields → ¬ free → Completes (.almWrite n data) s (Refused n .state s)) ∧
      (fields → free → ¬ aligned → Completes (.almWrite n data) s (Refused n .align s)) ∧ (fields → free → aligned → ¬ fits → Completes (.almWrite n data) s (Refused n .length s)) ∧
      (fields → free → aligned → fits → (∀ l, data = some l → l.length < 32 * count) → Completes (.almWrite n data) s (Refused n .aborted s)) ∧
      (fields → free → aligned → fits → PortsIdle s → ∀ l, data = some l → 32 * count ≤ l.length → Completes (.almWrite n data) s (Carries n (l.take (32 * count)) s))) ∧
    (∀ (k : Cmd) (data : Option (List Byte)), s.core.goes n .calibrate = some k → dField k.desc 8 0 8 = 0x30 →
      let count := dField k.desc 12 0 32
      let l := k.data
      (k.leg = 0 → s.core.arbPart (.chip 0) 9 (n + 1) < ceilDiv (32 * count) 128 → ∀ a, s.core.laneOf 9 = some a →
        s.core.arbRoom a 9 (ceilDiv (32 * count) 128) + s.core.arbPart (.chip 0) 9 (n + 1) < ceilDiv (32 * count) 128 →
        Completes (.almWrite n data) s (LegMoves n k a 9 (ceilDiv (32 * count) 128) s)) ∧
      (∀ e h, 1 ≤ k.leg → count = 1 → l.length = 32 →
        almHead e = some h → fromLE (l.take 4) % 2 ^ 8 = h.kind.code → bitsOf (fromLE (l.take 4)) 8 3 = h.level → bitsOf (fromLE (l.take 4)) 16 16 = h.index →
        bitsOf (fromLE (l.take 4)) 11 5 = h.sub → h.kind ≠ .lead → s.core.almExists e = true →
        let st := bitsOf (fromLE ((l.drop 4).take 4)) 0 2
        let v := supplied l
        let temp := 100 + ((s.core.get (Fd.THM_TEMP_COUNT h.index) : Int) - (bitsOf v.v0.toNat 0 20 : Int)) * sx 16 (bitsOf v.v1.toNat 0 16) / 2 ^ 16
        let checks : Prop :=
          (h.kind = .coll → -1535 ≤ sx 12 (bitsOf v.v0.toNat 0 12) ∧ sx 12 (bitsOf v.v0.toNat 0 12) ≤ 1535) ∧ (h.kind = .mis → inMis v) ∧
          (h.kind = .adcFull ∨ h.kind = .dacFull ∨ h.kind = .bbFull → inFull e v) ∧
          (h.kind = .hbm → ∀ i, i < 3 → let old := bitsOf (s.core.forced s.mem e).v0.toNat (8 * i) 8
            bitsOf v.v0.toNat (8 * i) 8 ≤ old + s.core.get Fd.HBM_TRAIN_CTL_MAX_STEP ∧ old ≤ bitsOf v.v0.toNat (8 * i) 8 + s.core.get Fd.HBM_TRAIN_CTL_MAX_STEP) ∧
          (h.kind = .therm → -80 ≤ temp ∧ temp ≤ 560) ∧
          (h.kind = .thresh → let x := mtEntry s.mem h.index h.sub
            mtLim x 0 ≤ sx 16 (bitsOf v.v0.toNat 0 16) ∧ sx 16 (bitsOf v.v0.toNat 0 16) ≤ mtLim x 1 ∧
            (mtDmode x = 2 → mtLim x 2 ≤ sx 16 (bitsOf v.v0.toNat 16 16) ∧ sx 16 (bitsOf v.v0.toNat 16 16) ≤ mtLim x 3)) ∧
          (h.kind = .mon → Config.monPlausible (sx 16 (bitsOf v.v0.toNat 0 16)) (sx 16 (bitsOf v.v0.toNat 16 16)) = true) ∧ (h.kind = .szl → s.core.manualOk s.mem h e v = true)
        (st = 3 → checks → Completes (.almWrite n data) s (fun t => Done n .ok 0 s.core.now s t ∧
          almManual t.mem e = true ∧ almVal t.mem e = v ∧ (h.kind ≠ .tptLat → h.kind ≠ .szl → h.kind ≠ .coll → KeepsRegs [] s.core t.core) ∧
          (h.kind = .mon → t.core.mon.offset = sx 16 (bitsOf v.v0.toNat 0 16) ∧ t.core.mon.gain = sx 16 (bitsOf v.v0.toNat 16 16)) ∧
          (h.kind = .hbm → t.core.cal.waits = Tbl.insert s.core.cal.waits e v ∧ t.core.cal.force = s.core.cal.force) ∧ (h.kind = .adcFull → t.core.cal.force = Tbl.insert s.core.cal.force e v) ∧
          t.mem = { s.mem with alm := t.mem.alm } ∧ t.core.cal.jobs = s.core.cal.jobs ∧ t.pending = s.pending)) ∧
        (st = 0 → Completes (.almWrite n data) s (fun t => Done n .ok 0 s.core.now s t ∧ bitsOf (almSts t.mem e) 0 2 = 2 ∧ almVal t.mem e = almVal s.mem e ∧
          t.mem = { s.mem with alm := t.mem.alm } ∧ t.core.cal.jobs = s.core.cal.jobs ∧ t.pending = s.pending)) ∧
        ((st = 1 ∨ st = 2 ∨ st = 3 ∧ ¬ checks) → Completes (.almWrite n data) s (fun t => Done n .ok 1 s.core.now s t ∧ KeepsRegs [] s.core t.core ∧
          t.mem = s.mem ∧ t.pending = s.pending)))) ∧
    (∀ (d : Desc), CalAccepted n 0x31 d [] s →
      let busy : Prop := s.core.get Fd.HBM_PWR_CTL_STANDBY = 1 ∨ s.core.hbmIs .rateChange = true ∨ ∃ w ∈ s.core.hbmc.works, w.who = 169 ∧ 128 ≤ w.tag
      (s.core.get Fd.CHP_BOOT_STS_NO_HBM = 1 → Completes (.almBackup n) s (Refused n .hbm s)) ∧
      (s.core.get Fd.CHP_BOOT_STS_NO_HBM = 0 → busy → Gives (.almBackup n) s s.core) ∧
      (s.core.get Fd.CHP_BOOT_STS_NO_HBM = 0 → ¬ busy → Completes (.almBackup n) s (fun t => Started n s t ∧ KeepsRegs [] s.core t.core ∧ t.mem = s.mem ∧ t.pending = s.pending ∧
        ∃ w copy gen head, t.core.hbmc = { s.core.hbmc with jobs := s.core.hbmc.jobs + 1, works := s.core.hbmc.works ++ [w] } ∧ t.core.cal.backing = some (copy, gen) ∧
          w.who = 169 ∧ w.tag = 129 + n ∧ w.out = 0 ∧ w.bad = false ∧ copy < 2 ∧
          (s.core.newestCopy s.mem = some (1 - copy) ∧ gen = (s.core.copyGen s.mem (1 - copy) + 1) % 2 ^ 32 ∨ s.core.newestCopy s.mem = none ∧ copy = 0) ∧
          let a := s.core.get (Fd.HBM_PART_BASE 3) * 2 ^ 26 + copy * 2 ^ 21
          let store := rdBytes almByte s.mem.alm 0 (2 ^ 20)
          w.todo = [(a + 64, 2 ^ 20, some store), (a, 64, some head)] ∧ head.length = 64 ∧ fromLE (head.take 4) = 0x414C4D31 ∧ fromLE ((head.drop 4).take 4) = gen ∧
          fromLE ((head.drop 8).take 2) = s.core.get Fd.CHP_ID_PART ∧ fromLE ((head.drop 12).take 4) = crc32 store ∧ fromLE ((head.drop 16).take 8) = s.core.now))) ∧
    (∀ k, s.core.goes n .calibrate = some k → dField k.desc 8 0 8 = 0x31 →
      (s.core.workOf 169 (129 + n) = none → Completes (.almBackup n) s (Refused n .hbm s)) ∧
      ∀ w, s.core.workOf 169 (129 + n) = some w →
        (w.todo ≠ [] ∨ w.out ≠ 0 → Gives (.almBackup n) s s.core) ∧
        (w.todo = [] → w.out = 0 → ∀ copy gen, s.core.cal.backing = some (copy, gen) → Completes (.almBackup n) s (fun t => Done n .ok 0 s.core.now s t ∧
          t.core.get Fd.CAL_STS_BACKUP_VALID = 1 ∧ t.core.get Fd.CAL_STS_BACKUP_GEN = gen % 2 ^ 16 ∧ t.core.cal.backing = none ∧ t.core.cal.backAt = s.core.now ∧
          (∃ v ∈ t.core.host.evq, v.code = 0xA2 ∧ v.stamp = s.core.now ∧ v.arg0 = copy % 2 ^ 64) ∧
          KeepsRegs [Fd.CAL_STS_BACKUP_VALID, Fd.CAL_STS_BACKUP_GEN] s.core t.core ∧ t.mem = s.mem ∧ t.pending = s.pending)))

/-- R273-R276, R279, R281, R282 and R299. -/
def Obligations.RingsFetchTheirEntries : Prop :=
  ∀ (s : State) (n : Nat), n < 64 → s.core.get (Fd.CHP_RING_CFG_SIZE_EXP n) ≤ 16 →
    (∀ (e : Fetch) (again : Bool), s.core.svc = true → s.core.ringIs n .command = true → (s.core.ring n).stopped = false → s.core.get (Fd.CHP_RING_STS_HALTED n) = 0 →
      s.core.devIdx n ≠ (s.core.ring n).host → (s.core.ring n).cmd = none →
      (again = false → (s.core.ring n).retry = 0 ∧
        ∀ k, k < 64 → k ≠ n → s.core.fetchDue k = true → (n + 63 - s.core.host.turn) % 64 < (k + 63 - s.core.host.turn) % 64) →
      (again = true → (s.core.ring n).retry ≠ 0 ∧ (s.core.ring n).retryAt ≤ s.core.now) →
      let c : Instr := if again then .phaseRetry n e else .descriptorFetch n e
      let b : Core := if again then s.core else { s.core with host := { s.core.host with turn := n } }
      (s.core.laneOf 9 = none → Gives c s s.core) ∧ (Passes 9 1 s →
      (∀ d, e = .entry d → descBits d 0 1 = s.core.get (Fd.CHP_RING_STS_DEV_PHASE n) →
        (descBits d 8 8 = 0 ∨ 11 < descBits d 8 8 ∨ descBits d 8 8 = 8 ∧ dField d 8 0 8 ∉ [0x01, 0x05, 0x10, 0x11, 0x12, 0x13, 0x14, 0x30, 0x31]) → s.core.complRoom n = true → Completes c s (fun t =>
          (t.core.ring n).cmd = none ∧ Advanced n s t ∧ (t.core.ring n).fetched = (s.core.ring n).fetched + 1 ∧
          (t.core.ring (s.core.get (Fd.CHP_RING_CFG_COMPL n))).comps = (s.core.ring (s.core.get (Fd.CHP_RING_CFG_COMPL n))).comps ++
            [compOf n { desc := d, index := s.core.devIdx n, start := 0, exec := false, taken := [], deps := [] } .target 0 0 s.core.now] ∧
          KeepsRegs [Fd.CHP_RING_STS_DEV_INDEX n, Fd.CHP_RING_STS_DEV_PHASE n, Fd.CHP_RING_STS_HALTED n] s.core t.core ∧ t.mem = s.mem ∧ t.pending = s.pending)) ∧
      (∀ d, e = .entry d → descBits d 0 1 = s.core.get (Fd.CHP_RING_STS_DEV_PHASE n) → 1 ≤ descBits d 8 8 → descBits d 8 8 ≤ 11 →
        (descBits d 8 8 = 8 → dField d 8 0 8 ∈ [0x01, 0x05, 0x10, 0x11, 0x12, 0x13, 0x14, 0x30, 0x31]) → Completes c s (fun t =>
        (t.core.ring n).cmd = some
          { desc := d, index := s.core.devIdx n, start := 0, exec := false, taken := [],
            deps := if descBits d 8 8 = 10 then ((upFrom 0 64).filter (fun k => bitAt (dField d 8 0 64) k)).map (fun k => (k, (s.core.ring k).fetched)) else [] } ∧
        Advanced n s t ∧ (t.core.ring n).fetched = (s.core.ring n).fetched + 1 ∧ (t.core.ring n).retry = 0 ∧
        (let k := s.core.book (bookKey 8 0 n)
         t.core.book (bookKey 8 0 n) = { k with issued := (k.issued + 1) % 2 ^ 32, returned := (k.returned + 1) % 2 ^ 32 }) ∧
        (∀ j, j ≠ bookKey 8 0 n → t.core.book j = s.core.book j) ∧ (∀ j, j ≠ n → t.core.ring j = s.core.ring j) ∧
        t.core = { b with live := t.core.live, books := t.core.books, arbs := t.core.arbs, host := { b.host with rings := t.core.host.rings } } ∧
        KeepsRegs [Fd.CHP_RING_STS_DEV_INDEX n, Fd.CHP_RING_STS_DEV_PHASE n] s.core t.core ∧ t.mem = s.mem ∧ t.pending = s.pending)) ∧
      (∀ d, e = .entry d → descBits d 0 1 ≠ s.core.get (Fd.CHP_RING_STS_DEV_PHASE n) →
        ((s.core.ring n).retry < 16 → Completes c s (fun t => noBeats s t = { s with core := b.modRing n (fun r => { r with retry := r.retry + 1, retryAt := s.core.now + 500 }) })) ∧
        (16 ≤ (s.core.ring n).retry → Completes c s (RingErred n 2 (s.core.devIdx n) s))) ∧
      (e = .failed → Completes c s (RingErred n 3 (s.core.devIdx n) s)))) ∧
    (s.core.svc = true → s.core.pins.d3 = false → ∀ len, 1 ≤ len → len ≤ 8 → s.core.ringIs n .spool = false →
      Gives (.doorbell n 0 len none) s (s.core.emit (.readAns ((toLE 8 (s.core.ring n).dbLast).take len) false)) ∧
      Gives (.doorbell n 8 len none) s (s.core.emit (.readAns ((toLE 8 (s.core.devIdx n)).take len) false))) ∧
    (s.core.svc = true → s.core.pins.d3 = false → s.core.get (Fd.CHP_RING_CFG_EN n) = 1 → ∀ val : BitVec 64,
      (s.core.ringIs n .spool = false →
        (val.toNat % 2 ^ 16 < s.core.ringSize n →
          Gives (.doorbell n 0 4 (some val)) s (s.core.modRing n (fun r => { r with host := val.toNat % 2 ^ 16, dbLast := val.toNat % 2 ^ 16 }))) ∧
        (s.core.ringSize n ≤ val.toNat % 2 ^ 16 → Completes (.doorbell n 0 4 (some val)) s (RingErred n 1 (val.toNat % 2 ^ 16) s))) ∧
      (s.core.ringIs n .spool = true →
        let r := s.core.ring n
        let fits : Nat → Prop := fun v => v < r.s ∧ v % 64 = 0 ∧
          (s.core.get (Fd.CHP_RING_CFG_DIR n) = 0 → (if r.c ≤ v then v - r.c else v + r.s - r.c) ≤ (if r.c ≤ r.p then r.p - r.c else r.p + r.s - r.c)) ∧
          (s.core.get (Fd.CHP_RING_CFG_DIR n) = 1 → (if r.p ≤ v then v - r.p else v + r.s - r.p) ≤ r.s - 64 - (if r.c ≤ r.p then r.p - r.c else r.p + r.s - r.c))
        let commits : Instr → Nat → Prop := fun i v =>
          (fits v → Gives i s (s.core.modRing n (fun r => if s.core.get (Fd.CHP_RING_CFG_DIR n) = 0 then { r with dbLow := none, c := v, dbLast := v }
                                                          else { r with dbLow := none, p := v, dbLast := v }))) ∧
          (¬ fits v → Completes i s (RingErred n 1 v s))
        commits (.doorbell n 0 8 (some val)) (val.toNat % 2 ^ 41) ∧
        Gives (.doorbell n 0 4 (some val)) s (s.core.modRing n (fun r => { r with dbLow := some (val.toNat % 2 ^ 32) })) ∧
        ∀ low, low < 2 ^ 32 → r.dbLow = some low → commits (.doorbell n 4 4 (some val)) ((low + val.toNat % 2 ^ 32 * 2 ^ 32) % 2 ^ 41))) ∧
    (∀ (be : BitVec 4) (val : Word), s.core.bar0 (Fd.CHP_RING_CFG n) = true → be ≠ 0 →
      let v := byteMerge (s.core.liveW (Fd.CHP_RING_CFG n)) be val
      v < 2 ^ 25 →
      let z := bitsOf v (Fd.CHP_RING_CFG_COMPL n).lo (Fd.CHP_RING_CFG_COMPL n).w
      let kind := bitsOf v (Fd.CHP_RING_CFG_KIND n).lo (Fd.CHP_RING_CFG_KIND n).w
      let e := bitsOf v (Fd.CHP_RING_CFG_SIZE_EXP n).lo (Fd.CHP_RING_CFG_SIZE_EXP n).w
      let free : State → Prop := fun t => KeepsWords [Fd.CHP_RING_CFG n, Fd.CHP_RING_STS n] s.core t.core ∧ (∀ j, j ≠ n → t.core.ring j = s.core.ring j) ∧
        t.core.get (Fd.CHP_RING_CFG_VECTOR n) = bitsOf v (Fd.CHP_RING_CFG_VECTOR n).lo (Fd.CHP_RING_CFG_VECTOR n).w ∧
        t.core.get (Fd.CHP_RING_CFG_IRQ_EN n) = bitsOf v (Fd.CHP_RING_CFG_IRQ_EN n).lo (Fd.CHP_RING_CFG_IRQ_EN n).w ∧ OnlyRings s t
      (s.core.get (Fd.CHP_RING_CFG_EN n) = 1 → Completes (.ringEnable n be val) s (fun t => free t ∧ t.core.get (Fd.CHP_RING_CFG_EN n) = v % 2 ∧
        t.core.get (Fd.CHP_RING_CFG_KIND n) = s.core.get (Fd.CHP_RING_CFG_KIND n) ∧ t.core.get (Fd.CHP_RING_CFG_SIZE_EXP n) = s.core.get (Fd.CHP_RING_CFG_SIZE_EXP n) ∧
        t.core.get (Fd.CHP_RING_CFG_COMPL n) = s.core.get (Fd.CHP_RING_CFG_COMPL n) ∧ t.core.get (Fd.CHP_RING_CFG_DIR n) = s.core.get (Fd.CHP_RING_CFG_DIR n) ∧
        t.core.ring n = s.core.ring n ∧ (kind ≠ s.core.get (Fd.CHP_RING_CFG_KIND n) → t.core.get (Fd.CHP_RING_STS_CFG_ERR n) = 1))) ∧
      (s.core.get (Fd.CHP_RING_CFG_EN n) = 0 → v % 2 = 0 → Completes (.ringEnable n be val) s (fun t => free t ∧ t.core.get (Fd.CHP_RING_CFG_EN n) = 0 ∧
        t.core.get (Fd.CHP_RING_CFG_KIND n) = kind ∧ t.core.get (Fd.CHP_RING_CFG_SIZE_EXP n) = e ∧ t.core.get (Fd.CHP_RING_CFG_COMPL n) = z ∧ t.core.ring n = s.core.ring n)) ∧
      (v % 2 = 1 → s.core.get (Fd.CHP_RING_CFG_EN n) = 0 → s.core.get Fd.CHP_BOOT_STS_NO_TIME = 0 →
        let passes : Prop := s.core.ringBase n % 4096 = 0 ∧ s.core.ringWb n % 64 = 0 ∧ kind ≠ 7 ∧ 4 ≤ e ∧ e ≤ 16 ∧ (kind = 0 → z ≠ n ∧ s.core.ringIs z .completion = true)
        (passes → Completes (.ringEnable n be val) s (fun t => free t ∧ t.core.get (Fd.CHP_RING_CFG_EN n) = 1 ∧ t.core.get (Fd.CHP_RING_CFG_KIND n) = kind ∧
            t.core.get (Fd.CHP_RING_CFG_SIZE_EXP n) = e ∧ t.core.get (Fd.CHP_RING_CFG_COMPL n) = z ∧ t.core.devIdx n = 0 ∧ t.core.get (Fd.CHP_RING_STS_DEV_PHASE n) = 1 ∧
            t.core.get (Fd.CHP_RING_STS_ERROR n) = 0 ∧ t.core.get (Fd.CHP_RING_STS_ERR_CAUSE n) = 0 ∧ (t.core.ring n).host = 0 ∧ (t.core.ring n).segs = [] ∧
            (t.core.ring n).s = 0 ∧ (t.core.ring n).p = 0 ∧ (t.core.ring n).c = 0 ∧ (t.core.ring n).stopped = false)) ∧
        (¬ passes → Completes (.ringEnable n be val) s (fun t => free t ∧ t.core.get (Fd.CHP_RING_CFG_EN n) = 0 ∧ t.core.get (Fd.CHP_RING_STS_CFG_ERR n) = 1 ∧
            t.core.ring n = s.core.ring n)))) ∧
    (∀ (be : BitVec 4) (val : Word), s.core.bar0 (Fd.CHP_RING_CFG n) = false ∨ be = 0 → Gives (.ringEnable n be val) s s.core) ∧
    (s.core.svc = true → Gives (.resume n) s (s.core.put (Fd.CHP_RING_STS_HALTED n) 0))

/-- R275, R277, R278, R292, R294, R297, R299, R303 and R310; the masking of a vector is the base specification's (PRESUMED, log entry 55). -/
def Obligations.TheDeviceWritesItsEntries : Prop :=
  ∀ (s : State) (n : Nat),
    (∀ k rest, (s.core.ring n).comps = k :: rest → HasRoom n .completion s →
      Completes (.completionWrite n) s (fun t => EntryWritten n (compBytes k) s t ∧ (t.core.ring n).comps = rest ∧ (∀ j, j ≠ n → t.core.ring j = s.core.ring j))) ∧
    (let off := if s.core.ringIs n .spool then (if s.core.get (Fd.CHP_RING_CFG_DIR n) = 0 then (s.core.ring n).p else (s.core.ring n).c) else 0
     let size := if s.core.ringIs n .spool then (s.core.ring n).s else 0
     let wb : HostOut := .write (s.core.ringWb n) (toLE 4 (s.core.devIdx n + 2 ^ 16 * s.core.get (Fd.CHP_RING_STS_DEV_PHASE n) + 2 ^ 17 * s.core.get (Fd.CHP_RING_STS_HALTED n)
        + 2 ^ 18 * s.core.get (Fd.CHP_RING_STS_ERROR n)) ++ toLE 4 0 ++ toLE 8 off ++ toLE 8 size ++ toLE 8 s.core.now)
     s.core.svc = true → n < 64 → s.core.get (Fd.CHP_RING_CFG_EN n) = 1 → s.core.get (Fd.CHP_RING_CFG_DIR n) ≤ 1 →
      ((s.core.ring n).dirty = true → Completes (.writeBack n) s (fun t => t.core.host.out = s.core.host.out ++ [wb] ∧ (t.core.ring n).dirty = false ∧
        (t.core.ring n).unsig = (s.core.ring n).unsig + (if s.core.ringIs n .spool then 1 else 0) ∧ (∀ j, j ≠ n → t.core.ring j = s.core.ring j) ∧
        KeepsRegs [] s.core t.core ∧ t.mem = s.mem ∧ t.pending = s.pending)) ∧
      (s.core.get (Fd.CHP_RING_CFG_KIND n) ∈ [1, 2, 3, 4, 6] → s.core.get (Fd.CHP_RING_CFG_IRQ_EN n) = 1 → 1 ≤ (s.core.ring n).unsig →
        ((s.core.ring n).intNow = true ∨ max 1 (s.core.get (Fd.CHP_RING_IRQ_COUNT n)) ≤ (s.core.ring n).unsig ∨
          s.core.get (Fd.CHP_RING_IRQ_TIME n) ≠ 0 ∧ (s.core.ring n).oldest + 500 * s.core.get (Fd.CHP_RING_IRQ_TIME n) ≤ s.core.now) →
        let v := s.core.get (Fd.CHP_RING_CFG_VECTOR n)
        let w := fun k => s.core.msixWord (0xF0000 + 16 * v + 4 * k)
        Completes (.ringInterrupt n) s (fun t => (t.core.ring n).unsig = 0 ∧ (t.core.ring n).intNow = false ∧ (t.core.ring n).dirty = false ∧
          t.core.host.out = s.core.host.out ++ (if (s.core.ring n).dirty then [wb] else []) ++ (if w 3 % 2 = 1 then [] else [.msix v (w 0 + 2 ^ 32 * w 1) (w 2)]) ∧
          (∀ i, t.core.host.pba.testBit i = if i = v then decide (w 3 % 2 = 1) else s.core.host.pba.testBit i) ∧ (∀ j, j ≠ n → t.core.ring j = s.core.ring j) ∧
          KeepsRegs [] s.core t.core ∧ t.mem = s.mem ∧ t.pending = s.pending))) ∧
    (let q := s.core.get Fd.CHP_EVT_CFG_RING
     let room : Prop := s.core.get Fd.CHP_EVT_CFG_EN = 1 ∧ HasRoom q .event s
     (room → s.core.host.ovfCnt ≠ 0 → Completes .eventWrite s (fun t => t.core.host.ovfCnt = 0 ∧ t.core.host.evq = s.core.host.evq ∧
        EntryWritten q (evtBytes { code := 2, level := 0, index := 0, stamp := s.core.now, arg0 := s.core.host.ovfCnt, arg1 := s.core.host.ovfFirst }) s t)) ∧
     ∀ e rest, s.core.host.evq = e :: rest →
       (room → s.core.host.ovfCnt = 0 → Completes .eventWrite s (fun t => t.core.host.evq = rest ∧ t.core.host.ovfCnt = 0 ∧ EntryWritten q (evtBytes e) s t)) ∧
       (s.core.get Fd.CHP_EVT_CFG_EN = 0 ∨ s.core.svc = false ∨ s.core.ringIs q .event = false ∨ (s.core.devIdx q + 1) % s.core.ringSize q = (s.core.ring q).host →
        Completes .eventWrite s (fun t => t.core.host.evq = rest ∧ t.core.host.out = s.core.host.out ∧ t.core.host.ovfCnt = s.core.host.ovfCnt + 1 ∧
         t.core.host.ovfFirst = (if s.core.host.ovfCnt = 0 then e.stamp else s.core.host.ovfFirst) ∧
         t.core.get Fd.CHP_EVT_STS_DROPPED = min (2 ^ Fd.CHP_EVT_STS_DROPPED.w - 1) (s.core.get Fd.CHP_EVT_STS_DROPPED + 1) ∧
         KeepsRegs [Fd.CHP_EVT_STS_DROPPED] s.core t.core ∧ t.mem = s.mem ∧ t.pending = s.pending))) ∧
    (∀ (d : ShotRec) (rest : List ShotRec), s.core.host.recs = d :: rest → s.core.get Fd.CHP_RESULT_CFG_EN = 1 → s.core.get Fd.CHP_RESULT_CFG_RING = n → HasRoom n .result s →
      let z := s.core.get Fd.CHP_RESULT_CFG_SPOOL
      let r := s.core.ring z
      let spans := d.offs.flatMap (fun e => recPieces s.core e.1 e.2 (Tbl.get (fun _ => 0) d.secs e.1))
      let bytes := d.data.length + (if d.offs = [] then 0 else (d.secs.map (fun e => e.2)).foldl (fun a b => a + b) 0)
      s.core.devSpool z = true → r.stopped = false → s.core.spoolHeld z 32 = false → r.sNew = none → r.p < r.s → (∃ a, r.segs = [(a, r.s)]) →
      bytes ≤ r.s - 64 - (if r.c ≤ r.p then r.p - r.c else r.p + r.s - r.c) →
      let delivered : List Byte → State → Prop := fun all t => t.core.host.recs = rest ∧ Advanced n s t ∧
        (t.core.ring z).p = (if r.p + all.length < r.s then r.p + all.length else r.p + all.length - r.s) ∧ (t.core.ring z).dirty = true ∧
        (∀ a, r.segs = [(a, r.s)] → r.p + all.length ≤ r.s → t.core.host.out = s.core.host.out ++
          [(if s.core.host.relaxOn then .relaxed (a + r.p) all else .write (a + r.p) all),
           .write (s.core.ringBase n + s.core.devIdx n * 64) (phased (s.core.get (Fd.CHP_RING_STS_DEV_PHASE n)) (d.entry.take 16 ++ toLE 8 r.p ++ d.entry.drop 24))]) ∧
        (∀ j, j ≠ n → j ≠ z → t.core.ring j = s.core.ring j) ∧
        KeepsRegs [Fd.CHP_RING_STS_DEV_INDEX n, Fd.CHP_RING_STS_DEV_PHASE n] s.core t.core ∧ t.mem = s.mem ∧ t.pending = s.pending
      (d.offs = [] → d.data ≠ [] → Completes .resultDelivery s (delivered d.data)) ∧
      (d.offs ≠ [] → s.core.workOf 168 0 = none →
        ((∃ e ∈ d.offs, s.core.workOf (160 + e.1) e.2 ≠ none) → Gives .resultDelivery s s.core) ∧
        ((∀ e ∈ d.offs, s.core.workOf (160 + e.1) e.2 = none) → Gives .resultDelivery s { s.core with hbmc := { s.core.hbmc with
          jobs := s.core.hbmc.jobs + 1
          works := s.core.hbmc.works ++ [{ id := s.core.hbmc.jobs + 1, who := 168, tag := 0, todo := spans.map (fun e => (e.1, e.2, none)), out := 0, got := [], bad := false,
                                           off := r.p + d.data.length }] } })) ∧
      (d.offs ≠ [] → ∀ w, s.core.workOf 168 0 = some w → (w.todo ≠ [] ∨ w.out ≠ 0 → Gives .resultDelivery s s.core) ∧
        (w.todo = [] → w.out = 0 → d.data ≠ [] → Completes .resultDelivery s (delivered (d.data ++ spans.flatMap (fun e => w.bytes e.1 e.2))))))

/-- R252, R268, R270, R301-R302, R311, R317, R456-R464, on accesses the device answers. -/
def Obligations.HostAccessesReachTheBlock : Prop :=
  ∀ (s : State), Inv s →
    (∀ (n : Nat) (l : List Byte), s.core.svc = true → s.core.hostSpool n = true → s.core.inSeries = true → (∃ e ∈ s.core.host.binds, e.2 = n) → l.length = 192 →
      let r := s.core.ring n
      192 ≤ (if r.c ≤ r.p then r.p - r.c else r.p + r.s - r.c) → r.stopped = false →
      let z := fromLE (l.take 1)
      let k := fromLE ((l.drop 8).take 6)
      let took := s.core.modRing n (fun r => { r with c := if r.c + 192 < r.s then r.c + 192 else r.c + 192 - r.s, dirty := true })
      Gives (.streamRecord n none) s took ∧
      ((z, n) ∉ s.core.host.binds → Completes (.streamRecord n (some l)) s (RingErred n 4 r.c s)) ∧
      ((z, n) ∈ s.core.host.binds → streamOwner s.mem s.core z = none → Gives (.streamRecord n (some l)) s took) ∧
      (∀ g, (z, n) ∈ s.core.host.binds → streamOwner s.mem s.core z = some g →
        let i := 16 * cellR g + cellB g
        let there := s.core.streamHeld g z k
        let passed := decide (k * 7 + 6 < (s.core.cell g).streamAt s.mem z)
        (there = true ∨ passed = true → Gives (.streamRecord n (some l)) s took) ∧
        (there = false → passed = false →
          ((s.core.blk i).cache.filter (fun x => decide (65536 ≤ x.segid))).length + (s.core.blk i).inbox.length < s.core.get (Fd.BLK_SEG_CFG_STAGE_LINES (cellR g) (cellB g)) →
          (s.core.laneOf 9 = none → Gives (.streamRecord n (some l)) s s.core) ∧ (Passes 9 1 s → Completes (.streamRecord n (some l)) s (fun t =>
            (t.core.blk i).inbox = (s.core.blk i).inbox ++ [{ segid := 65536 + z, line := k, data := l.drop 64 }] ∧
            (∀ j, j ≠ i → t.core.blk j = s.core.blk j) ∧ t.core.ring n = took.ring n ∧ (∀ j, j ≠ n → t.core.ring j = s.core.ring j) ∧
            t.core = { s.core with blks := t.core.blks, arbs := t.core.arbs, host := { s.core.host with rings := t.core.host.rings } } ∧
            t.mem = s.mem ∧ t.pending = s.pending))))) ∧
    (∀ (addr : Nat) (write : Bool) (data : List Byte),
      let open_ : Prop := s.core.svc = true ∧ s.core.pins.d3 = false ∧ s.core.get Fd.CHP_BOOT_STS_NO_HBM = 0 ∧ addr + data.length ≤ 2 ^ 34
      let drops : Prop := s.core.inSeries = true ∨ s.core.hPart addr ∈ [1, 2, 3]
      let from_ := addr / 32 * 32
      let work : Nat → Nat × Nat × Option (List Byte) → Core := fun tag x => { s.core with hbmc := { s.core.hbmc with
        jobs := s.core.hbmc.jobs + 1
        works := s.core.hbmc.works ++ [{ id := s.core.hbmc.jobs + 1, who := 170, tag := tag, todo := [x], out := 0, got := [], bad := false, off := addr }] } }
      (¬ open_ → Gives (.bar4Access addr write data) s (s.core.emit .unsupported)) ∧
      (open_ → drops → Completes (.bar4Access addr true data) s (fun t => t.mem = s.mem ∧ t.pending = s.pending ∧
        t.core.get Fd.PCI_BAR4_STS_WR_DROP = min (2 ^ Fd.PCI_BAR4_STS_WR_DROP.w - 1) (s.core.get Fd.PCI_BAR4_STS_WR_DROP + 1) ∧
        KeepsRegs [Fd.PCI_BAR4_STS_WR_DROP] s.core t.core)) ∧
      (open_ → ¬ drops → data ≠ [] → Gives (.bar4Access addr true data) s (work 0 (addr, data.length, some data))) ∧
      (open_ → data ≠ [] → Gives (.bar4Access addr false data) s (work data.length (from_, ceilDiv (addr + data.length - from_) 32 * 32, none)))) ∧
    (s.core.bar0 0 = true → s.core.svc = true → ∀ (be : BitVec 8) (val : BitVec 64),
      let be4 := BitVec.ofNat 4 be.toNat
      let v := BitVec.ofNat 32 val.toNat
      (be4 ≠ 0 → Gives (.registerWrite Fd.CHP_SCRATCH 4 be val) s (s.core.setLiveW Fd.CHP_SCRATCH (byteMerge (s.core.liveW Fd.CHP_SCRATCH) be4 v))) ∧
      (be4 = 0 → Gives (.registerWrite Fd.CHP_SCRATCH 4 be val) s s.core) ∧
      (∀ off row, off % 4 = 0 → off < 0xF0000 ∨ 0xF1020 ≤ off ∧ off < 0x2000000 ∧ s.core.get Fd.CHP_BOOT_STS_FAILED = 0 → s.core.window off = true → regAt off = some row → row.isSh = true →
        Nat.land (maskOf (fun a => a == Acc.sh) row.fields) (enMask be4) ≠ 0 →
        (s.core.setIs .clean = false → Gives (.registerWrite off 4 be val) s (s.core.put Fd.CHP_CFG_STS_WR_DROP 1)) ∧
        (s.core.setIs .clean = true → s.core.root.loadAt = s.core.now → off ∈ s.core.root.loaded → Gives (.registerWrite off 4 be val) s s.core) ∧
        (s.core.setIs .clean = true → ¬ (s.core.root.loadAt = s.core.now ∧ off ∈ s.core.root.loaded) → Completes (.registerWrite off 4 be val) s (fun t =>
          t = { s with core := { s.core with shd := t.core.shd, freeCtr := t.core.freeCtr } } ∧ (∀ o, o ≠ off → t.core.shdW o = s.core.shdW o) ∧
          (Nat.land (Nat.land v.toNat (enMask be4)) (0xFFFFFFFF - maskOf (fun _ => true) row.fields) = 0 →
            s.core.deadBits off = 0 → ∀ f ∈ row.fields, t.core.sh ⟨off, f.lo, f.w, f.acc⟩ = bitsOf (byteMerge (s.core.shdW off) be4 v) f.lo f.w))))) ∧
    (s.core.bar0 0 = true → s.core.svc = true → ∀ off row, off % 4 = 0 → off < 0xF0000 ∨ 0xF1020 ≤ off ∧ off < 0x2000000 ∧ s.core.get Fd.CHP_BOOT_STS_FAILED = 0 → s.core.window off = true → regAt off = some row → row.isSh = false → captured off = false →
      captures off = false → (∀ f ∈ row.fields, f.acc ≠ .rc) →
      Gives (.registerReadClear off 4) s (s.core.emit (.readAns (toLE 4 (s.core.readWord off)) false))) ∧
    (s.core.bar0 0 = true → s.core.svc = true → ∀ x, x < 4 → Completes (.registerReadClear (Fd.CHP_TRIG_IN_CNT x) 4) s (fun t =>
      t.core.host.out = s.core.host.out ++ [.readAns (toLE 4 (s.core.readWord (Fd.CHP_TRIG_IN_CNT x))) false] ∧ t.core.get (Fd.CHP_TRIG_IN_CNT_EDGES x) = 0 ∧
      t.core.get (Fd.CHP_TRIG_IN_CNT_GLITCH x) = 0 ∧ KeepsRegs [Fd.CHP_TRIG_IN_CNT_EDGES x, Fd.CHP_TRIG_IN_CNT_GLITCH x] s.core t.core ∧
      t.mem = s.mem ∧ t.pending = s.pending)) ∧
    (s.core.bar0 0 = true → s.core.svc = true → Completes (.captureRead Fd.CHP_MERIDIAN_LO 4) s (fun t =>
      t.core.host.out = s.core.host.out ++ [.readAns (toLE 4 (s.core.now % 2 ^ 32)) false] ∧
      Tbl.get (fun _ => 0) t.core.host.capture Fd.CHP_MERIDIAN_HI = s.core.now / 2 ^ 32 % 2 ^ 32 ∧ KeepsRegs [] s.core t.core ∧ t.mem = s.mem ∧ t.pending = s.pending)) ∧
    (∀ off write, s.core.bar0 off = true → off < 2 ^ 26 →
      (let n := if 0x2000000 ≤ off then off - 0x2000000 else off
       s.core.window n = true ∧ regAt (n / 4 * 4) = none ∧ (off < 0xF0000 ∨ 0xF1020 ≤ off)) → Completes (.unoccupiedAccess off write) s (fun t =>
      t.core.liveW Fd.CHP_REGERR_ADDR = off + 2 ^ 26 * b2n write + 2 ^ 27 * b2n (decide (0x2000000 ≤ off)) ∧
      t.core.get Fd.CHP_REGERR_CNT_COUNT = min (2 ^ Fd.CHP_REGERR_CNT_COUNT.w - 1) (s.core.get Fd.CHP_REGERR_CNT_COUNT + 1) ∧
      t.core.host.out = s.core.host.out ++ (if write then [] else [.readAns [0, 0, 0, 0] false]) ∧ KeepsWords [Fd.CHP_REGERR_ADDR, Fd.CHP_REGERR_CNT] s.core t.core ∧
      t.mem = s.mem ∧ t.pending = s.pending))

/-- R70, R86, R90, R91, R150, R189, R193, R446 and R447: what containment of a cell and of a block leaves. A write of the frame bits in a drain applies again where a later toggle moves Q
(log 165 DEDUCED). -/
def Obligations.CellsAndBlocksAreContained : Prop :=
  ∀ s : State, s.core.svc = true →
    (∀ g, s.core.cOk g = true →
      let live : Prop := s.core.get (Fd.CEL_STS_STATE g) = 1 ∨ s.core.get (Fd.CEL_STS_STATE g) = 2
      (live → s.core.parked (cellR g) = false → Completes (.quarReq g) s (fun t =>
        t.core.get (Fd.CEL_STS_STATE g) = 3 ∧ (t.core.cell g).qAt = some s.core.now ∧ (t.core.cell g).phx.on = false ∧
        (∃ z, (t.core.cell g).zeroAt = some z ∧ z ≤ s.core.now + 2) ∧ (∀ w ∈ (t.core.cell g).ro.wins, w.dead = true) ∧
        (∀ i, i < 8 → s.core.get (Fd.RGN_DAC_STS_LOCK_STATE (cellR g) i) = 1 → s.core.get (Fd.RGN_DAC_STS_OWNER (cellR g) i) = g % 288 →
          (t.core.dac (8 * cellR g + i)).breakBy = some (s.core.now + 2, g) ∧ (t.core.dac (8 * cellR g + i)).occFrom = some (s.core.now + 2)) ∧
        (t.core.arb (arbKey (.block (cellR g) (cellB g)))).owner ≠ some (cellC g) ∧
        t.core.host.evq = s.core.host.evq ++ [{ code := 0x20, level := 3, index := g, stamp := s.core.now, arg0 := 0, arg1 := 0 }] ∧
        (∀ k, k ≠ g → t.core.cell k = s.core.cell k) ∧ KeepsRegs [Fd.CEL_STS_STATE g] s.core t.core ∧ t.mem = s.mem ∧ t.pending = s.pending)) ∧
      (s.core.get (Fd.CEL_STS_STATE g) = 0 → Gives (.quarReq g) s (s.core.modCell g (fun x => { x with quarNext := true }))) ∧
      (s.core.get (Fd.CEL_STS_STATE g) = 3 ∨ live ∧ s.core.parked (cellR g) = true → Gives (.quarReq g) s s.core) ∧
      (bitAt (s.core.get (Fd.CEL_CFG_EV_EN g)) 7 = true →
        Gives (.hostEv g) s (s.core.put (Fd.CEL_STS_EV_PEND g) (Nat.lor (s.core.get (Fd.CEL_STS_EV_PEND g)) 128))) ∧
      (bitAt (s.core.get (Fd.CEL_CFG_EV_EN g)) 7 = false → Gives (.hostEv g) s s.core) ∧
      (s.core.role g = 1 ∨ s.core.role g = 2 → ∀ x z : Bool,
        let h := (s.core.rgn (cellR g)).shot
        let wait : Prop := (h.inShot = true ∨ h.d0.isSome = true) ∧ h.framed = false ∧ s.core.parked (cellR g) = false ∧ h.ts ≤ s.core.now
        (wait → Completes (.celFrameWrite g x z) s (fun t => (t.core.cell g).frameHeld = some (x, z) ∧ t.core.get (Fd.CEL_FRAME_WR_HELD g) = 1 ∧
            (∀ k, k ≠ g → t.core.cell k = s.core.cell k) ∧ KeepsRegs [Fd.CEL_FRAME_WR_HELD g] s.core t.core ∧ t.mem = s.mem ∧ t.pending = s.pending)) ∧
        (¬ wait → Completes (.celFrameWrite g x z) s (fun t =>
          t.core.get (Fd.CEL_FRAME_X g) = b2n x ∧ t.core.get (Fd.CEL_FRAME_Z g) = b2n z ∧ (t.core.cell g).frameHeld = (if h.d0.isSome = true then some (x, z) else (s.core.cell g).frameHeld) ∧
          (∀ k, k ≠ g → t.core.cell k = s.core.cell k) ∧ KeepsRegs [Fd.CEL_FRAME_X g, Fd.CEL_FRAME_Z g] s.core t.core ∧ t.mem = s.mem ∧ t.pending = s.pending))) ∧
      (s.core.role g ≠ 1 → s.core.role g ≠ 2 → ∀ x z, Gives (.celFrameWrite g x z) s s.core)) ∧
    (∀ r b, s.core.bOk r b = true →
      let late : Prop := s.core.parked r = true ∧ (s.core.rgn r).parkAt ≠ some s.core.now
      ((s.core.blk (16 * r + b)).qAt.isSome = true ∨ late → Gives (.blockFault r b) s s.core) ∧
      ((s.core.blk (16 * r + b)).qAt = none → ¬ late →
        let ev : Evt := { code := 0xB1, level := 2, index := 16 * r + b, stamp := s.core.now, arg0 := 3, arg1 := s.core.get Fd.CHP_RUN_EPOCH_EPOCH }
        Completes (.blockFault r b) s (fun t => t.core.get (Fd.BLK_SUP_STS_QUARANTINED r b) = 1 ∧ t.core.get (Fd.BLK_SUP_STS_CAUSE r b) = 3 ∧
          (t.core.blk (16 * r + b)).qAt = some s.core.now ∧ (∀ i, i < 2 → (t.core.bb (32 * r + 2 * b + i)).occFrom = some (s.core.now + 2)) ∧
          (∀ g ∈ blkCells r b, s.core.role g ≠ 0 → t.core.get (Fd.CEL_STS_STATE g) = 3 ∧ (s.core.get (Fd.CEL_STS_STATE g) ≠ 3 →
            (t.core.cell g).qAt = some s.core.now ∧ (t.core.cell g).phx.on = false ∧ ∃ z, (t.core.cell g).zeroAt = some z ∧ z ≤ s.core.now + 2)) ∧
          (∃ e ∈ t.core.host.evq, e = ev) ∧ t.mem = s.mem ∧ t.pending = s.pending ∧
          (s.core.get (Fd.RGN_SUP_CFG_BLK_ESC r) = 1 → t.core.parked r = true ∧ bitAt (t.core.get (Fd.RGN_SUP_STS_CAUSE r)) 1 = true) ∧
          (s.core.get (Fd.RGN_SUP_CFG_BLK_ESC r) = 0 → s.core.get (Fd.RGN_SUP_CFG_BLK_REPEAT r) = 0 → t.core.parked r = s.core.parked r ∧
            t.core.host.evq = s.core.host.evq ++ [ev] ∧ (∀ g, g ∉ blkCells r b → t.core.cell g = s.core.cell g) ∧
            KeepsRegs ([Fd.BLK_SUP_STS_QUARANTINED r b, Fd.BLK_SUP_STS_CAUSE r b, Fd.BLK_SUP_STS_QUAR_RUN r b, Fd.BLK_SUP_STS_QUAR_SHOTS r b]
              ++ (blkCells r b).map Fd.CEL_STS_STATE) s.core t.core))))

/-- R404 and R447-R451: parking and unparking of a region and of the chip. PARK and a region fault park a region that exists, at once and in every state of the chip (R447); UNPARK is
refused on the conditions of R450 alone; re-initialisation ends when the region's converters have settled (R450). -/
def Obligations.RegionsAndChipPark : Prop :=
  ∀ s : State, s.core.svc = true →
    (∀ r, s.core.rOk r = true →
      (s.core.parked r = false → Completes (.park r) s (fun t => Parked r 16 s t ∧ SeriesAfterPark r s t)) ∧
      (s.core.parked r = false → Completes (.regionFault r) s (fun t => Parked r 4 s t ∧ SeriesAfterPark r s t)) ∧
      (s.core.parked r = true → (s.core.rgn r).parkAt = some s.core.now → Completes (.park r) s (CauseJoins r 16 s) ∧ Completes (.regionFault r) s (CauseJoins r 4 s)) ∧
      (s.core.parked r = true → (s.core.rgn r).parkAt ≠ some s.core.now → Gives (.park r) s s.core ∧ Gives (.regionFault r) s s.core) ∧
      (s.core.parked r = true → s.core.get (Fd.RGN_SUP_STS_REINIT r) = 0 →
        let may : Prop := s.core.get (Fd.RGN_LEDGER_STS_MISMATCH r) = 0 ∧ s.core.get (Fd.RGN_THERM_STS_STEP r) ≠ 3 ∧ s.core.get (Fd.RGN_THERM_STS_HELD r) = 0 ∧
          s.core.runIs .parked = false
        (may → Completes (.unpark r) s (fun t => t.core.get (Fd.RGN_SUP_STS_REINIT r) = 1 ∧
          (∀ j, j < 4 → t.core.adc (4 * r + j) = { s.core.adc (4 * r + j) with settle := max (s.core.adc (4 * r + j)).settle (s.core.now + 1000) }) ∧
          (∀ k, (∀ j, j < 4 → k ≠ 4 * r + j) → t.core.adc k = s.core.adc k) ∧ KeepsRegs [Fd.RGN_SUP_STS_REINIT r] s.core t.core ∧
          t = { s with core := { s.core with live := t.core.live, adcs := t.core.adcs } })) ∧
        (¬ may → Gives (.unpark r) s (s.core.raise 0xB3 1 r 1 0))) ∧
      (s.core.get (Fd.RGN_SUP_STS_REINIT r) = 1 → s.core.runIs .parked = false → ∀ failed : List TestUnit,
        ((∃ j, j < 4 ∧ s.core.now < (s.core.adc (4 * r + j)).settle) → Gives (.reinitDone r failed) s s.core) ∧
        ((∀ j, j < 4 → (s.core.adc (4 * r + j)).settle ≤ s.core.now) → TestUnit.region r ∉ failed → Completes (.reinitDone r failed) s (fun t =>
          t.core.parked r = false ∧ t.core.get (Fd.RGN_SUP_STS_REINIT r) = 0 ∧ (t.core.rgn r).parkAt = none ∧
          bitAt (t.core.get Fd.CHP_RUN_STS_RGN_PARKED) r = false ∧ (∀ code unit, code ≤ 5 → unit < 512 → t.core.book (bookKey code r unit) = Book.zero) ∧
          (∀ b, b < 16 → TestUnit.block r b ∈ failed → t.core.bOk r b = false) ∧ (∀ b, b < 16 → t.core.get (Fd.BLK_SUP_STS_QUAR_RUN r b) = 0) ∧
          (∀ g ∈ rgnCells r, (t.core.cell g).zeroAt = none) ∧ (∀ g, g ∉ rgnCells r → t.core.cell g = s.core.cell g) ∧ (∀ q, q ≠ r → t.core.rgn q = s.core.rgn q) ∧
          t.core.host.evq = s.core.host.evq ++ [{ code := 0xB3, level := 1, index := r, stamp := s.core.now, arg0 := 0, arg1 := s.core.now % 2 ^ 64 }] ∧
          t.mem = s.mem ∧ t.pending = s.pending)) ∧
        ((∀ j, j < 4 → (s.core.adc (4 * r + j)).settle ≤ s.core.now) → TestUnit.region r ∈ failed → Completes (.reinitDone r failed) s (fun t =>
          t.core.parked r = s.core.parked r ∧ t.core.get (Fd.RGN_SUP_STS_REINIT r) = 0 ∧ (∀ b, b < 16 → TestUnit.block r b ∈ failed → t.core.bOk r b = false) ∧
          t.core.host.evq = s.core.host.evq ++ [{ code := 0xB3, level := 1, index := r, stamp := s.core.now, arg0 := 2, arg1 := 0 }] ∧ t.core.cells = s.core.cells ∧
          t.core.rgns = s.core.rgns ∧ t.core.books = s.core.books ∧ t.mem = s.mem ∧ t.pending = s.pending)))) ∧
    (∀ cause, 1 ≤ cause → cause ≤ 5 → Completes (.chipFault cause) s (fun t =>
      t.core.runIs .parked = true ∧ t.core.get Fd.CHP_FAULT_STS_FAULT = 1 ∧
      (s.core.get Fd.CHP_FAULT_STS_FAULT = 0 → t.core.get Fd.CHP_FAULT_STS_CAUSE = cause) ∧ (∀ r, s.core.rOk r = true → t.core.parked r = true ∧
        (s.core.parked r = false → (t.core.rgn r).parkAt = some s.core.now ∧ t.core.get (Fd.RGN_SUP_STS_CAUSE r) = 32)) ∧
      t.core.cal.jobs = [] ∧ (∀ n k, n < 64 → (t.core.ring n).cmd = some k → k.exec = false) ∧
      (∀ n k, n < 64 → (s.core.ring n).cmd = some k → k.exec = true →
        compOf n k .aborted 0 0 s.core.now ∈ (t.core.ring (s.core.get (Fd.CHP_RING_CFG_COMPL n))).comps) ∧
      t.core.host.out = s.core.host.out ++ [.aer cause] ∧
      (∃ e ∈ t.core.host.evq, e.code = 0xB4 ∧ e.stamp = s.core.now ∧ e.arg0 = cause) ∧ t.mem = s.mem ∧ t.pending = s.pending)) ∧
    (let may : Prop := s.core.runIs .parked = true ∧ s.core.get Fd.CHP_LEDGER_STS_MISMATCH = 0 ∧ s.core.get Fd.CHP_FAULT_STS_FAULT = 0
     (may → Completes .chipUnpark s (fun t => t.core.runIs .idle = true ∧ (∀ r, r < 8 → t.core.parked r = s.core.parked r) ∧
        (∀ code r unit, 6 ≤ code → r < 128 → unit < 512 → t.core.book (bookKey code r unit) = Book.zero) ∧
        (∀ code r unit, code ≤ 5 → r < 128 → unit < 512 → t.core.book (bookKey code r unit) = s.core.book (bookKey code r unit)) ∧
        KeepsRegs [Fd.CHP_RUN_STS_STATE] s.core t.core ∧ t.core.cells = s.core.cells ∧ t.core.rgns = s.core.rgns ∧ t.mem = s.mem ∧ t.pending = s.pending)) ∧
      (¬ may → Gives .chipUnpark s s.core))

/-- R55-R57, R76, R91, R107, R126, R175, R192, R214, R256, R258, R260-R263, R297, R310, R422 and R448. The frozen books of a PARKED region are not judged, a shot that a PARKED region
misses ends its run of quarantines, and a shot with no region left ends the series (log 161 DEDUCED). -/
def Obligations.ShotsBeginAndDrain : Prop :=
  ∀ s : State, s.core.svc = true →
    (∀ st, s.core.ser.ts = some st → (s.core.runIs .armed = true ∨ s.core.runIs .running = true) → s.core.ser.stopping = false → s.core.ser.shotOn = false →
      st ≤ s.core.now + 48 → (s.core.ser.staged = true ∨ s.core.now < st) → (∀ cc, s.core.root.cC = some cc → s.core.now ≤ cc + 16) →
      let rs := (upFrom 0 8).filter (fun r => s.core.rOk r && !s.core.parked r)
      let room : Prop := if s.core.get Fd.CHP_BOOT_STS_NO_HBM = 0 then
          (∀ r ∈ rs, (s.core.host.recs.map (fun d => ((d.secs.filter (fun e => e.1 == r)).map (fun e => e.2)).foldl (fun a b => a + b) 0)).foldl (fun a b => a + b) 0 + s.core.secLen r
            ≤ s.core.get (Fd.HBM_PART_SIZE 2) * 2 ^ 23)
        else (s.core.host.recs.map (fun d => d.data.length)).foldl (fun a b => a + b) 0 + 64 + (rs.map s.core.secLen).foldl (fun a b => a + b) 0 ≤ 2 ^ 18
      (rs = [] → Completes .shotBegin s (fun t => t.core.runIs .idle = true ∧ t.core.ser.ts = none ∧ KeepsRegs [Fd.CHP_RUN_STS_STATE] s.core t.core ∧ t.mem = s.mem ∧ t.pending = s.pending)) ∧
      (rs ≠ [] → ¬ room → Gives .shotBegin s { s.core with ser := { s.core.ser with staged := true } }) ∧
      (rs ≠ [] → room → (∀ g, flawAt s.mem 1 (g * 4096 + s.core.seqW g) ≠ some true) →
        let y := s.core.ser
        let ts := if y.staged then max st (s.core.now + 48) else st
        ∃ d : Core, d.get Fd.CHP_RUN_EPOCH_EPOCH = y.next % 2 ^ 32 ∧ d.get Fd.CHP_RUN_TS_LO_TS_LO = ts % 2 ^ 32 ∧
          d.get Fd.CHP_RUN_TS_HI_TS_HI = ts / 2 ^ 32 % 2 ^ 32 ∧
          d.get Fd.CHP_RUN_STS_STATE = (if y.count ≠ 0xFFFFFFFF ∧ y.next + 1 = y.count then RunState.code .draining else RunState.code .running) ∧
          d.ser = { y with ts := none, lastTs := ts, begun := true, shotOn := true, cut := false, capped := false, mute := false, gen := s.core.get Fd.CHP_CFG_STS_GEN,
                           present := rs.foldl (fun a r => a + 2 ^ r) 0 } ∧ d.now = s.core.now ∧ d.bus = s.core.bus.filter (fun i => decide (s.core.now ≤ i.base + 64)) ∧
          d.rgns = s.core.rgns ∧ d.cells = s.core.cells ∧
          d.get Fd.CHP_RUN_CNT_STAGE_WAIT = min (2 ^ Fd.CHP_RUN_CNT_STAGE_WAIT.w - 1) (s.core.get Fd.CHP_RUN_CNT_STAGE_WAIT + b2n y.staged) ∧
          d.get Fd.THM_CNT_CAPPED_SHOTS = min (2 ^ Fd.THM_CNT_CAPPED_SHOTS.w - 1) (s.core.get Fd.THM_CNT_CAPPED_SHOTS + b2n (y.capped && ts == st)) ∧
          (∀ r b, r < 8 → b < 16 → d.get (Fd.BLK_SUP_STS_QUAR_RUN r b) = if s.core.rOk r = true ∧ s.core.parked r = true then 0 else s.core.get (Fd.BLK_SUP_STS_QUAR_RUN r b)) ∧
          KeepsRegs ([Fd.CHP_RUN_EPOCH_EPOCH, Fd.CHP_RUN_TS_LO_TS_LO, Fd.CHP_RUN_TS_HI_TS_HI, Fd.CHP_RUN_STS_STATE, Fd.CHP_RUN_CNT_STAGE_WAIT, Fd.THM_CNT_CAPPED_SHOTS]
            ++ (upFrom 0 8).flatMap (fun r => (upFrom 0 16).map (Fd.BLK_SUP_STS_QUAR_RUN r))) s.core d ∧
          let e := rs.foldl (fun c r => c.beginRgn s.mem ts r) d
          Gives .shotBegin s e ∧ (∀ r, r ∉ rs → (e.rgn r).shot = (s.core.rgn r).shot ∧ ∀ g ∈ rgnCells r, e.cell g = s.core.cell g) ∧
          ∀ r ∈ rs, (e.rgn r).shot.inShot = true ∧ (e.rgn r).shot.ts = ts ∧ (e.rgn r).shot.d0 = none ∧
            ∀ g ∈ rgnCells r, s.core.role g ≠ 0 →
              (s.core.get (Fd.CEL_CTL_HOLD g) = 1 → (e.cell g).held = true ∧ (e.cell g).zeroAt = some (ts - 17)) ∧
              (s.core.get (Fd.CEL_CTL_HOLD g) = 0 → (s.core.cell g).quarNext = true → e.get (Fd.CEL_STS_STATE g) = 3 ∧ (e.cell g).quarNext = false) ∧
              (s.core.get (Fd.CEL_CTL_HOLD g) = 0 → (s.core.cell g).quarNext = false → e.get (Fd.CEL_STS_STATE g) = 1 ∧ (e.cell g).held = false ∧
                (e.cell g).phx.pc = s.core.get (Fd.CEL_CFG_START g) ∧ (e.cell g).phx.on = s.core.on (Fd.CEL_CFG_PHX_EN g) ∧ (e.cell g).ctx.stamp = ts ∧
                (e.cell g).ctx.pc = pmWord s.mem g (s.core.seqW g) % 4096))) ∧
    (∀ r, r < 8 →
      let h := (s.core.rgn r).shot
      let done : Nat → Prop := fun k => (s.core.rgn k).synd.opens = [] ∧ ∀ d ∈ (s.core.rgn k).synd.rounds, d.fin = true
      h.inShot = true →
      (h.ts = s.core.now → Completes (.shotFirstStamp r) s (fun t =>
        (∀ g ∈ rgnCells r, s.core.role g = 2 → (t.core.cell g).ro.slots = [] ∧ (t.core.cell g).ro.nslot = 0 ∧ t.core.get (Fd.CEL_RO_STS_SLOTS_USED g) = 0) ∧
        (∀ g ∈ rgnCells r, s.core.role g ≠ 0 → ∀ k, k < 8 → (t.core.cell g).slot k = { WSlot.empty with seen := ((s.core.cell g).slot k).seen }) ∧
        (∀ g ∈ rgnCells r, s.core.role g ≠ 0 → t.core.get (Fd.CEL_SEQ_STS_SLOT_FULL g) = 0) ∧
        (∀ w, w < 8 → t.core.get (Fd.VIO_FIRST_VALID r w) = 0) ∧
        (s.core.ser.next = 0 → s.core.get (Fd.RGN_SYND_CFG_FRAME_CLR r) = 2 → ∀ g ∈ rgnCells r,
          t.core.get (Fd.CEL_FRAME_X g) = 0 ∧ t.core.get (Fd.CEL_FRAME_Z g) = 0) ∧ (∀ g, cellR g ≠ r → t.core.cell g = s.core.cell g) ∧
        t.core.act = s.core.act ∧ t.core.shd = s.core.shd ∧ t.mem = s.mem ∧ t.pending = s.pending)) ∧
      (∀ d, h.d0 = none → (h.cutAt = some d ∨ h.cutAt = none ∧ (∀ g ∈ s.core.rgnActive r, (s.core.cellEnd g h.ts).isSome = true) ∧
          d = maxList h.ts ((s.core.rgnActive r).map (fun g => (s.core.cellEnd g h.ts).getD 0)) + 1) → d ≤ s.core.now → Completes (.drainStart r) s (fun t =>
        (t.core.rgn r).shot.d0 = some d ∧ (∀ i, i < 8 → t.core.get (Fd.RGN_DAC_STS_LOCK_STATE r i) = 0 ∧ t.core.get (Fd.RGN_DAC_STS_OWNER r i) = 0) ∧
        (∀ g ∈ rgnCells r, s.core.role g ≠ 0 → (t.core.cell g).phx.on = false ∧
          t.core.get (Fd.CEL_STS_STATE g) = (if s.core.get (Fd.CEL_STS_STATE g) = 3 then 3 else 0)) ∧
        (∀ k ∈ upFrom (168 * r) 168, (s.core.lane k).src.isSome = true → (t.core.lane k).act = false ∧ (t.core.lane k).entries = []) ∧
        (s.core.parked r = false → ∀ g ∈ rgnCells r, s.core.role g ≠ 0 → s.core.get (Fd.CEL_STS_STATE g) = 3 →
          let x := s.core.book (bookKey 1 r (g % 288))
          t.core.book (bookKey 1 r (g % 288)) = { x with returned := (x.returned + x.inflight) % 2 ^ 32, inflight := 0 }) ∧
        (s.core.parked r = true → ∀ code unit, code ≤ 5 → unit < 512 → t.core.book (bookKey code r unit) = s.core.book (bookKey code r unit)) ∧
        t.core.act = s.core.act ∧ t.core.shd = s.core.shd ∧ t.mem = s.mem ∧ t.pending = s.pending)) ∧
      (∀ d, h.d0 = some d → d + 24 ≤ s.core.now → h.ledgered = false →
        let bad : Nat × Book → Bool := fun e => decide (bookCode e.1 ≤ 5) && bookRgn e.1 == r && (decide (e.2.issued ≠ e.2.returned) || e.2.inflight != 0)
        (s.core.parked r = true ∨ s.core.books.find? bad = none → Gives (.ledgerCheck (some r)) s (s.core.modShot r (fun x => { x with ledgered := true }))) ∧
        (s.core.parked r = false → ∀ k b, s.core.books.find? bad = some (k, b) → Completes (.ledgerCheck (some r)) s (fun t =>
          t.core.get (Fd.RGN_LEDGER_STS_MISMATCH r) = 1 ∧ (t.core.rgn r).shot.ledger = true ∧ (s.core.rOk r = true → t.core.parked r = true) ∧
          (s.core.get (Fd.RGN_LEDGER_STS_MISMATCH r) = 0 → t.core.get (Fd.RGN_LEDGER_STS_BOOK r) = bookCode k ∧ t.core.get (Fd.RGN_LEDGER_STS_UNIT r) = k % 512) ∧
          (∃ es, t.core.host.evq = s.core.host.evq ++ { code := 0x10, level := 1, index := r, stamp := s.core.now, arg0 := bookCode k + k % 512 * 2 ^ 16,
                                                        arg1 := (b.issued + b.returned * 2 ^ 32) % 2 ^ 64 } :: es) ∧ t.mem = s.mem ∧ t.pending = s.pending))) ∧
      (∀ d, h.d0 = some d → d + 32 ≤ s.core.now → h.ledgered = true → h.gathered = false → done r → bitAt s.core.ser.present r = true → Completes (.drainGather r) s (fun t =>
        (t.core.rgn r).shot.gathered = true ∧ { t.mem with alm := s.mem.alm } = s.mem ∧ t.pending = s.pending ∧
        (s.core.get Fd.CHP_BOOT_STS_NO_HBM = 1 → t.core.hbmc = s.core.hbmc) ∧
        (s.core.get Fd.CHP_BOOT_STS_NO_HBM = 0 → ∃ w : HWork, w.who = 160 + r ∧ t.core.hbmc.works = s.core.hbmc.works ++ [w] ∧
          ((w.todo.map (fun e => e.2.2.getD [])).flatten = (t.core.rgn r).shot.section_) ∧
          (∀ e ∈ w.todo, s.core.get (Fd.HBM_PART_BASE 2) * 2 ^ 26 + r * (s.core.get (Fd.HBM_PART_SIZE 2) * 2 ^ 23) ≤ e.1 ∧ e.2.2.isSome = true)) ∧
        ((∃ k ∈ upFrom 0 8, k ≠ r ∧ bitAt s.core.ser.present k = true ∧ (s.core.rgn k).shot.gathered = false) → t.core.host.recs = s.core.host.recs) ∧
        ((∀ k ∈ upFrom 0 8, k ≠ r → bitAt s.core.ser.present k = true → (s.core.rgn k).shot.gathered = true) → s.core.ser.mute = false →
          ∃ e, t.core.host.recs = s.core.host.recs ++ [e] ∧
            e.secs = ((upFrom 0 8).filter (bitAt s.core.ser.present)).map (fun k => (k, (t.core.rgn k).shot.section_.length)))))) ∧
    (let rs := s.core.regions.filter (fun r => (s.core.rgn r).shot.inShot)
     let bad : Nat × Book → Bool := fun e => decide (6 ≤ bookCode e.1) && (decide (e.2.issued ≠ e.2.returned) || e.2.inflight != 0)
     s.core.ser.shotOn = true → rs ≠ [] → (∀ r ∈ rs, ∃ d, (s.core.rgn r).shot.d0 = some d ∧ d + 24 ≤ s.core.now) → s.core.ser.ledger ≠ s.core.ser.next + 1 →
       (s.core.books.find? bad = none → Gives (.ledgerCheck none) s { s.core with ser := { s.core.ser with ledger := s.core.ser.next + 1 } }) ∧
       (∀ k b, s.core.books.find? bad = some (k, b) → Completes (.ledgerCheck none) s (fun t =>
         t.core.get Fd.CHP_LEDGER_STS_MISMATCH = 1 ∧ t.core.runIs .parked = true ∧ (∀ r, s.core.rOk r = true → t.core.parked r = true) ∧
         (s.core.get Fd.CHP_LEDGER_STS_MISMATCH = 0 → t.core.get Fd.CHP_LEDGER_STS_UNIT = k % 512) ∧
         (∃ e ∈ t.core.host.evq, e = { code := 0x10, level := 0, index := 0, stamp := s.core.now, arg0 := (bookCode k + k % 512 * 2 ^ 16) % 2 ^ 64,
                                       arg1 := (b.issued + b.returned * 2 ^ 32) % 2 ^ 64 }) ∧ t.mem = s.mem ∧ t.pending = s.pending)))

/-- R66, R92, R100, R189, R192, R193, R250, R256, R257, R260, R262, R263 and R446. The model's choices: a value held for tick Q stays, since a later toggle moves Q (log 165 DEDUCED), a swap
outside any drain leaves DM_WORK as it is (log 45 DEDUCED), WORK_MODE acts on an IDLE cell too (log 166 DESIGN CHOICE). -/
def Obligations.SwapsExchangeTheSets : Prop :=
  ∀ s : State, Inv s → s.core.svc = true →
    (∀ r, r < 8 →
      let h := (s.core.rgn r).shot
      let done : Nat → Prop := fun k => (s.core.rgn k).synd.opens = [] ∧ ∀ d ∈ (s.core.rgn k).synd.rounds, d.fin = true
      (∀ d, h.d0 = some d → h.framed = false → max d (h.lastTog.getD 0) ≤ s.core.now →
        Completes (.frameDrainApply r) s (fun t => (t.core.rgn r).shot.framed = true ∧ t.mem = s.mem ∧ t.pending = s.pending ∧
          (∀ g, cellR g ≠ r → t.core.cell g = s.core.cell g) ∧ t.core.act = s.core.act ∧ t.core.shd = s.core.shd ∧
          ∀ g ∈ rgnCells r, t.core.get (Fd.CEL_FRAME_WR_HELD g) = 0 ∧ (s.core.role g ≠ 1 → s.core.role g ≠ 2 → (t.core.cell g).frameHeld = none) ∧
            (s.core.role g = 1 ∨ s.core.role g = 2 → (t.core.cell g).frameHeld = (s.core.cell g).frameHeld ∧
              (∀ x z, (s.core.cell g).frameHeld = some (x, z) → t.core.get (Fd.CEL_FRAME_X g) = b2n x ∧ t.core.get (Fd.CEL_FRAME_Z g) = b2n z) ∧
              ((s.core.cell g).frameHeld = none → s.core.get (Fd.RGN_SYND_CFG_FRAME_CLR r) = 1 →
                t.core.get (Fd.CEL_FRAME_X g) = 0 ∧ t.core.get (Fd.CEL_FRAME_Z g) = 0) ∧
              ((s.core.cell g).frameHeld = none → s.core.get (Fd.RGN_SYND_CFG_FRAME_CLR r) ≠ 1 → (∀ o ∈ (s.core.cell g).frameOps, s.core.now < o.tick) →
                (∀ o ∈ (s.core.rgn r).toggles, o.cell = g → s.core.now < o.tick) →
                t.core.get (Fd.CEL_FRAME_X g) = s.core.get (Fd.CEL_FRAME_X g) ∧ t.core.get (Fd.CEL_FRAME_Z g) = s.core.get (Fd.CEL_FRAME_Z g))))) ∧
      (∀ w cc, s.core.rOk r = true → s.core.root.cC = some cc → r ∉ s.core.root.swapped → w ≤ s.core.now →
        (s.core.shots = false ∨ s.core.ser.begun = false ∨ bitAt s.core.ser.present r = false) ∧ w = cc + 16 ∨
          s.core.shots = true ∧ s.core.ser.begun = true ∧ bitAt s.core.ser.present r = true ∧ done r ∧ h.gathered = true ∧
            (∃ d, h.d0 = some d ∧ w = max (max (d + 64) (cc + 16)) (h.uR + 1)) →
        (s.core.parked r = false ∨ s.core.shots = false ∨ h.ledger = true ∧ h.inShot = true) → (s.core.now = cc + 16 → s.core.beginDue = false) → Completes (.swap (some r)) s (fun t =>
          (∀ f : Fld, f.acc = .sh → if offRgn r f.off then t.core.get f = s.core.sh f ∧ t.core.sh f = s.core.get f
                                    else t.core.get f = s.core.get f ∧ t.core.sh f = s.core.sh f) ∧
          (∀ o, (if inRgn r (288 * 32768) o then Tbl.get zeroByte t.mem.pmA o = Tbl.get zeroByte s.mem.pmS o ∧ Tbl.get zeroByte t.mem.pmS o = Tbl.get zeroByte s.mem.pmA o
                 else Tbl.get zeroByte t.mem.pmA o = Tbl.get zeroByte s.mem.pmA o ∧ Tbl.get zeroByte t.mem.pmS o = Tbl.get zeroByte s.mem.pmS o) ∧
            (if inRgn r (288 * 4096) o then Tbl.get zeroByte t.mem.dmcA o = Tbl.get zeroByte s.mem.dmcS o ∧ Tbl.get zeroByte t.mem.dmcS o = Tbl.get zeroByte s.mem.dmcA o
                 else Tbl.get zeroByte t.mem.dmcA o = Tbl.get zeroByte s.mem.dmcA o ∧ Tbl.get zeroByte t.mem.dmcS o = Tbl.get zeroByte s.mem.dmcS o) ∧
            (if inRgn r (288 * 256) o then Tbl.get zeroByte t.mem.mtA o = Tbl.get zeroByte s.mem.mtS o ∧ Tbl.get zeroByte t.mem.mtS o = Tbl.get zeroByte s.mem.mtA o
                 else Tbl.get zeroByte t.mem.mtA o = Tbl.get zeroByte s.mem.mtA o ∧ Tbl.get zeroByte t.mem.mtS o = Tbl.get zeroByte s.mem.mtS o) ∧
            (if inRgn r 327680 o then Tbl.get zeroByte t.mem.syA o = Tbl.get zeroByte s.mem.syS o ∧ Tbl.get zeroByte t.mem.syS o = Tbl.get zeroByte s.mem.syA o
                 else Tbl.get zeroByte t.mem.syA o = Tbl.get zeroByte s.mem.syA o ∧ Tbl.get zeroByte t.mem.syS o = Tbl.get zeroByte s.mem.syS o)) ∧
          (∀ g ∈ rgnCells r, t.core.role g ≠ 1 → t.core.role g ≠ 2 → t.core.get (Fd.CEL_FRAME_X g) = 0 ∧ t.core.get (Fd.CEL_FRAME_Z g) = 0) ∧
          (s.core.shots = false → t.mem.dmw = s.mem.dmw) ∧ r ∈ t.core.root.swapped ∧ t.mem.seg = s.mem.seg ∧ t.mem.blk = s.mem.blk ∧ t.mem.dir = s.mem.dir ∧ t.mem.hbm = s.mem.hbm ∧ t.mem.alm = s.mem.alm ∧
          t.pending = s.pending)) ∧
      (∀ d, h.inShot = true → h.d0 = some d → h.posted = false → h.gathered = true → d + 65 ≤ s.core.now → h.uR < s.core.now →
        (∀ w, s.core.swapAt r = some w → h.swapped = true ∨ s.core.swapLimit r d ≤ w ∨ s.core.swapsWithChip r = true) → Completes (.drainPostSwap r) s (fun t =>
          (t.core.rgn r).shot.posted = true ∧ { t.mem with dmw := s.mem.dmw } = s.mem ∧ t.pending = s.pending ∧ t.core.act = s.core.act ∧ t.core.shd = s.core.shd ∧
          (∀ b, b < 16 → (t.core.blk (16 * r + b)).qAt = none ∧ ((s.core.blk (16 * r + b)).qAt.isSome = true → (t.core.blk (16 * r + b)).cache = []) ∧
            t.core.get (Fd.BLK_SUP_STS_QUAR_RUN r b) = if (s.core.blk (16 * r + b)).qAt.isSome = true then s.core.get (Fd.BLK_SUP_STS_QUAR_RUN r b) else 0) ∧ (∀ g, cellR g ≠ r → t.core.cell g = s.core.cell g) ∧
          ∀ g ∈ rgnCells r, (t.core.cell g).stage = [] ∧ (t.core.cell g).held = false ∧
            (s.core.get (Fd.CEL_STS_STATE g) = 3 → t.core.get (Fd.CEL_STS_STATE g) = 0 ∧ (t.core.cell g).phx = Phx.clear ∧ (t.core.cell g).qAt = none) ∧
            ∀ o, o / 4096 = g → Tbl.get zeroByte t.mem.dmw o =
              if s.core.get (Fd.CEL_CFG_WORK_MODE g) = 2 ∨ (s.core.get (Fd.CEL_CFG_WORK_MODE g) = 1 ∧ h.swapped = true) then Tbl.get zeroByte s.mem.dmcA o
              else if s.core.get (Fd.CEL_CFG_WORK_MODE g) = 3 then 0 else Tbl.get zeroByte s.mem.dmw o)) ∧
      (∀ d, h.inShot = true → h.d0 = some d → h.posted = true → (h.framed = true ∨ s.core.now < max d (h.lastTog.getD 0)) → s.core.drainCloses r d ≤ s.core.now →
        let e := max (max (d + 120) (h.uR + 57)) (if h.adcChg then d + 1120 else 0)
        let rs := (upFrom 0 8).filter (bitAt s.core.ser.present)
        let live := rs.filter (fun k => !s.core.parked k)
        let last := s.core.runIs .draining = true ∨ s.core.ser.stopping = true
        let waits : Prop := ∃ k, k ≠ r ∧ (s.core.rgn k).shot.inShot = true ∧ (¬ last ∧ live ≠ [] ∧ k ∈ live ∨ (last ∨ live = []) ∧ k ∈ s.core.regions)
        Completes (.drainEnd r) s (fun t => (t.core.rgn r).shot = { h with inShot := false, ended := some e } ∧ t.mem = s.mem ∧ t.pending = s.pending ∧
          t.core.cells = s.core.cells ∧ (∀ k, k ≠ r → t.core.rgn k = s.core.rgn k) ∧
          t.core.get Fd.CHP_RUN_CNT_DRAIN_LONG = min (2 ^ Fd.CHP_RUN_CNT_DRAIN_LONG.w - 1) (s.core.get Fd.CHP_RUN_CNT_DRAIN_LONG + b2n (decide (d + 120 < e))) ∧
          (waits → t.core.ser = s.core.ser) ∧
          (s.core.ser.shotOn = true → ¬ waits →
            t.core.ser.next = (s.core.ser.next + 1) % 2 ^ 32 ∧ t.core.ser.shotOn = false ∧
            t.core.ser.lastEnd = maxList (if live = [] then e else 0) (live.map (fun k => if k = r then e else ((s.core.rgn k).shot.ended).getD 0)) ∧
            (¬ last → t.core.ser.ts = (if s.core.ser.mode = 3 then none else
                some (max (s.core.ser.lastTs + max s.core.ser.period (if s.core.get Fd.THM_STS_CAPPED = 0 then 0 else max 500 (s.core.get Fd.THM_CAP_CAP_PERIOD))) t.core.ser.lastEnd)) ∧
              t.core.ser.staged = false ∧ KeepsRegs [Fd.CHP_RUN_CNT_DRAIN_LONG] s.core t.core) ∧
            (last → t.core.runIs .idle = true ∧ t.core.ser.ts = none ∧
              ∀ n k, s.core.ser.stopRings = [n] → (s.core.ring n.val).cmd = some k → s.core.ser.begun = true → Done n.val .ok (s.core.ser.next % 2 ^ 32) 0 s t))))) ∧
    (∀ cc, s.core.root.cC = some cc → max (cc + 16) s.core.root.swapTick ≤ s.core.now →
      let late : Nat → Prop := fun r => s.core.rOk r = true ∧ r ∉ s.core.root.swapped
      (∀ r, late r → s.core.parked r = true ∧ s.core.shots = true ∧ ((s.core.rgn r).shot.inShot = true → (s.core.rgn r).shot.ledger = false ∧
        ((s.core.rgn r).shot.gathered = true ∨ ∀ d, (s.core.rgn r).shot.d0 = some d → s.core.now < d + 64))) → (s.core.now = cc + 16 → s.core.beginDue = false) →
      let epoch := if s.core.runIs .running = true ∧ s.core.ser.begun = true then (if s.core.ser.shotOn then (s.core.ser.next + 1) % 2 ^ 32 else s.core.ser.next) else 0
      Completes (.swap none) s (fun t =>
      (∀ f : Fld, f.acc = .sh →
        (offChip f.off = true ∨ (∃ r, late r ∧ offRgn r f.off = true) → t.core.get f = s.core.sh f ∧ t.core.sh f = s.core.get f) ∧
        (offChip f.off = false → (∀ r, late r → offRgn r f.off = false) → t.core.get f = s.core.get f ∧ t.core.sh f = s.core.sh f)) ∧
      (∀ o, ((∃ r, late r ∧ inRgn r (288 * 32768) o = true) → Tbl.get zeroByte t.mem.pmA o = Tbl.get zeroByte s.mem.pmS o) ∧
        ((∀ r, late r → inRgn r (288 * 32768) o = false) → Tbl.get zeroByte t.mem.pmA o = Tbl.get zeroByte s.mem.pmA o)) ∧
      t.core.get Fd.CHP_CFG_STS_SET_STATE = 3 ∧ t.core.root.cC = none ∧ t.core.root.swapped = [] ∧ t.core.root.ever = true ∧
      t.core.get Fd.CHP_SWAP_EPOCH_EPOCH = epoch % 2 ^ 32 ∧
      (∃ v ∈ t.core.host.evq, v.code = 0x11 ∧ v.stamp = s.core.now ∧ v.arg0 = t.core.get Fd.CHP_CFG_STS_GEN ∧ v.arg1 = epoch % 2 ^ 64) ∧
      t.core.get Fd.CHP_CFG_STS_GEN = (s.core.get Fd.CHP_CFG_STS_GEN + 1) % 2 ^ Fd.CHP_CFG_STS_GEN.w ∧ ((∀ r, ¬ late r) → t.mem = s.mem) ∧
      ((∀ r, late r → bitAt s.core.ser.present r = false ∨ (s.core.rgn r).shot.posted = false) → t.mem.dmw = s.mem.dmw) ∧ t.mem.seg = s.mem.seg ∧ t.mem.hbm = s.mem.hbm ∧
      t.pending = s.pending)) ∧
    (s.core.get Fd.CHP_CFG_STS_SET_STATE = 3 → Completes .copybackEnd s (fun t =>
      (∀ f : Fld, f.acc = .sh → t.core.sh f = s.core.get f ∧ t.core.get f = s.core.get f) ∧ t.core.get Fd.CHP_CFG_STS_SET_STATE = 0 ∧
      t.core = { s.core with shd := s.core.act, live := t.core.live } ∧ (∀ f : Fld, f.acc ≠ .sh → Apart Fd.CHP_CFG_STS_SET_STATE f → t.core.get f = s.core.get f) ∧
      t.mem = { s.mem with pmS := s.mem.pmA, dmcS := s.mem.dmcA, mtS := s.mem.mtA, syS := s.mem.syA, flaw := s.mem.flaw.filter (fun e => decide (e.1 < 8)) } ∧ t.pending = s.pending))

/-- R43, R46-R54, R428, R429 and R448: an update follows the expressions of R48-R50; a rail follows the larger request, its limit rises at VR_ACK only (R47). The frequency cap of thermal step 2
is that of R422. An acknowledge of a queue's credit comes with the release of its entry (R40). -/
def Obligations.LeadRailsAndHandshakes : Prop :=
  let table : List (Nat × Nat) := [(620, 900), (650, 1000), (680, 1080), (710, 1160), (740, 1250), (770, 1350), (800, 1400)]
  let driven := fun (p : Nat) (s t : State) =>
    let q := fun (k : Nat) => if t.core.exists_ k = true then (t.core.rgn k).lead.vReq else 620
    let lim := fun (u : State) => Tbl.get (fun _ => 0) u.core.thm.vrLim p
    let code := t.core.get (Fd.THM_VR_VID p)
    code = min 36 (ceilDiv (max (q (2 * p)) (q (2 * p + 1)) - 620) 5) ∧
    (s.core.get (Fd.THM_VR_VID p) ≤ code → lim t = lim s) ∧
    (code < s.core.get (Fd.THM_VR_VID p) → lim t = min (lim s) (620 + 5 * code) ∧
      ∀ g ∈ s.core.rgnActive (2 * p) ++ s.core.rgnActive (2 * p + 1), t.core.get (Fd.CEL_LEAD_STS_FREQ g) ≤ fmax (620 + 5 * code))
  (∀ mv, 620 ≤ mv → (mv, fmax mv) ∈ table ∨ ∃ e ∈ table, e.1 < mv ∧ fmax mv = e.2 ∧ ∀ k ∈ table, k.1 ≤ mv → k.1 ≤ e.1) ∧
  (∀ f, f ≤ 1400 → (∃ e ∈ table, e.1 = vmin f ∧ f ≤ e.2) ∧ ∀ e ∈ table, f ≤ e.2 → vmin f ≤ e.1) ∧
  ∀ s : State,
    (∀ r, r < 8 → s.core.svc = true → (s.core.rgn r).lead.last + leadTicks (s.core.rgn r).lead.rate ≤ s.core.now →
      let c0 := s.core.modRgn r (fun x => { x with lead := { x.lead with last := s.core.now, rate := s.core.get (Fd.RGN_LEAD_CTL_RATE r) } })
      (s.core.exists_ r = false → Completes (.leadLoopUpdate r) s (fun t => t.core = c0.driveRail (r / 2) ∧
        driven (r / 2) s t ∧ t.mem = s.mem ∧ t.pending = s.pending)) ∧
      (s.core.exists_ r = true →
        let c1 := (s.core.rgnActive r).foldl (fun c g => c.leadCheck s.mem g) c0
        let d := if c1.parked r then c1.leadAuto r else if c1.on (Fd.RGN_LEAD_OVR_MAN_EN r) then c1.leadManual r
                 else if c1.on (Fd.RGN_LEAD_CTL_EN r) && !c1.on (Fd.RGN_LEAD_CTL_FREEZE r) then c1.leadAuto r
                 else c1.setOn (Fd.RGN_LEAD_STS_CFG_ERR r) (c1.leadBand r).2.2
        Completes (.leadLoopUpdate r) s (fun t => (t.core.rgn r).lead = (d.rgn r).lead ∧ (t.core.rgn r).lead.last = s.core.now ∧
          (t.core.rgn r).lead.rate = s.core.get (Fd.RGN_LEAD_CTL_RATE r) ∧
          t.core.get (Fd.RGN_LEAD_STS_VDD_REQ r) = (d.rgn r).lead.vReq % 2 ^ (Fd.RGN_LEAD_STS_VDD_REQ r).w ∧
          driven (r / 2) s t ∧
          (∀ g ∈ rgnCells r, t.core.get (Fd.CEL_LEAD_STS_FREQ g) ≤ d.get (Fd.CEL_LEAD_STS_FREQ g)) ∧
          (∀ g ∈ d.rgnActive r, (t.core.cell g).leadMin = none ∧
            t.core.getS (Fd.CEL_LEAD_STS_LEAD_NOW g) = (match d.leadNow g with
              | some l => max (-128) (min 127 l)
              | none => d.getS (Fd.CEL_LEAD_STS_LEAD_NOW g))) ∧
          { t.mem with alm := s.mem.alm } = s.mem ∧ t.pending = s.pending))) ∧
    (∀ (c : Core) (r : Nat), r < 8 →
      let band := c.leadBand r
      let step := fun g => leadStep band.1 band.2.1 (max 1 (c.get (Fd.RGN_LEAD_CTL_FSTEP r))) (fmax (c.railLimit r)) (c.freqCap r)
        (c.get (Fd.CEL_LEAD_STS_FREQ g)) (c.on (Fd.CEL_LEAD_STS_AT_FMAX g)) (if (c.cell g).endAt = none then (c.cell g).leadMin else none)
      ∀ g ∈ c.loopCells r, (c.cell g).freqSet = true → (c.leadAuto r).get (Fd.CEL_LEAD_STS_FREQ g) = (step g).1 % 2 ^ (Fd.CEL_LEAD_STS_FREQ g).w ∧
        (c.leadAuto r).get (Fd.CEL_LEAD_STS_AT_FMAX g) = b2n (step g).2) ∧
    (∀ (c : Core) (r : Nat), r < 8 →
      let d := c.leadAuto r
      let clocked := (c.loopCells r).filter (fun g => (c.cell g).freqSet)
      let top : Prop := ∃ g ∈ clocked, d.get (Fd.CEL_LEAD_STS_AT_FMAX g) = 1
      let fstep := max 1 (c.get (Fd.RGN_LEAD_CTL_FSTEP r))
      let vstep := max 1 (c.get (Fd.RGN_LEAD_CTL_VSTEP r))
      let v := (c.rgn r).lead.vReq
      let low := (c.rgn r).lead.lower
      let new := (d.rgn r).lead
      ∀ x vT, (top → x = fstep * 25) → (¬ top → x = 0) →
        vT = (if c.loopCells r = [] then 620 else vmin (min (maxList 0 (clocked.map (fun g => d.get (Fd.CEL_LEAD_STS_FREQ g))) + c.get (Fd.RGN_LEAD_CTL_HEADROOM r) * 25 + x) 1400)) →
        (v < vT → new.vReq = min (min (v + vstep * 5) vT) 800 ∧ new.lower = 0) ∧
        (vT < v → 2 ^ c.get (Fd.RGN_LEAD_CTL_LOWER_HOLD r) ≤ low + 1 → new.vReq = max (max (v - vstep * 5) vT) 620 ∧ new.lower = 0) ∧
        (vT < v → low + 1 < 2 ^ c.get (Fd.RGN_LEAD_CTL_LOWER_HOLD r) → new.vReq = v ∧ new.lower = low + 1) ∧ (vT = v → new.vReq = v ∧ new.lower = 0) ∧
        (d.get (Fd.RGN_LEAD_STS_AT_VMAX r) = 1 ↔ new.vReq = 800 ∧ top) ∧
        d.get (Fd.RGN_LEAD_STS_AT_FMAX_CNT r) = (clocked.filter (fun g => d.get (Fd.CEL_LEAD_STS_AT_FMAX g) == 1)).length) ∧
    (∀ (c : Core) (r : Nat), r < 8 →
      let f := c.get (Fd.RGN_LEAD_OVR_MAN_FREQ r)
      let v := c.get (Fd.RGN_LEAD_OVR_MAN_VDD r)
      let lo := c.get (Fd.RGN_LEAD_CTL_LEAD_LO r)
      let hi := c.get (Fd.RGN_LEAD_CTL_LEAD_HI r)
      let valid : Prop := 8 ≤ lo ∧ hi ≤ 120 ∧ lo + 16 ≤ hi
      let inside : Prop := 900 ≤ f ∧ f ≤ 1400 ∧ 620 ≤ v ∧ v ≤ 800
      let cap := if 2 ≤ c.get (Fd.RGN_THERM_STS_STEP r) ∨ 2 ≤ c.get Fd.THM_CHIP_STS_STEP then min 1400 (max 900 (c.get Fd.THM_CAP_FCAP)) else 1400
      let d := c.leadManual r
      (d.get (Fd.RGN_LEAD_STS_CFG_ERR r) = 1 ↔ ¬ (valid ∧ inside ∧ f ≤ fmax v)) ∧
      (inside → (d.rgn r).lead.vReq = v ∧ ∀ g ∈ c.rgnActive r, c.parked r = false → (c.cell g).freqSet = true →
        d.get (Fd.CEL_LEAD_STS_FREQ g) = min (min (min f (fmax v)) (fmax (Tbl.get (fun _ => 0) c.thm.vrLim (r / 2)))) cap) ∧
      (¬ inside → (d.rgn r).lead = (c.rgn r).lead ∧ ∀ g, d.get (Fd.CEL_LEAD_STS_FREQ g) = c.get (Fd.CEL_LEAD_STS_FREQ g))) ∧
    (∀ lo hi fstep lim cap f : Nat, ∀ a : Bool, ∀ l : Int,
      let z := leadStep lo hi fstep lim cap f a (some l)
      900 ≤ min (min 1400 lim) cap → 900 ≤ z.1 ∧ z.1 ≤ min (min 1400 lim) cap ∧
        (l < (lo : Int) → z.1 = min (max 900 (f + fstep * 25)) (min (min 1400 lim) cap)) ∧
        ((lo : Int) ≤ l → (hi : Int) < l → z.1 = min (max 900 (f - fstep * 25)) (min (min 1400 lim) cap)) ∧
        ((lo : Int) ≤ l → l ≤ (hi : Int) → z.1 = min (max 900 f) (min (min 1400 lim) cap)) ∧
        (z.2 = true ↔ z.1 = lim ∧ l < (lo : Int)) ∧ (leadStep lo hi fstep lim cap f a none).2 = a) ∧
    (∀ p, p < 4 →
      let mv := 620 + 5 * s.core.get (Fd.THM_VR_VID p)
      Completes (.vrAck p) s (fun t => t.core.get (Fd.THM_VR_ACK p) = 1 ∧ t.core.get (Fd.RGN_LEAD_STS_VDD_NOW (2 * p)) = mv ∧
        t.core.get (Fd.RGN_LEAD_STS_VDD_NOW (2 * p + 1)) = mv ∧ t.core.thm.vrReq = Tbl.erase s.core.thm.vrReq p ∧ Tbl.get (fun _ => 0) t.core.thm.vrLim p = mv ∧
        KeepsRegs [Fd.THM_VR_ACK p, Fd.RGN_LEAD_STS_VDD_NOW (2 * p), Fd.RGN_LEAD_STS_VDD_NOW (2 * p + 1)] s.core t.core ∧ t.mem = s.mem ∧ t.pending = s.pending) ∧
      ((∃ e ∈ s.core.thm.vrReq, e.1 = p ∧ e.2 + 50000 ≤ s.core.now) → Completes (.vrTimeout p) s (fun t => t.core.get (Fd.THM_VR_TIMEOUT p) = 1 ∧
        t.core.thm.vrReq = Tbl.erase s.core.thm.vrReq p ∧ t.core.thm.vrLim = s.core.thm.vrLim ∧
        t.core.host.evq = s.core.host.evq ++ [{ code := 0x65, level := 0, index := p, stamp := s.core.now, arg0 := s.core.railReq p % 2 ^ 64, arg1 := 0 }] ∧
        KeepsRegs [Fd.THM_VR_TIMEOUT p] s.core t.core ∧ t.mem = s.mem ∧ t.pending = s.pending)) ∧
      ((∀ e ∈ s.core.thm.vrReq, e.1 = p → s.core.now < e.2 + 50000) → Gives (.vrTimeout p) s s.core)) ∧
    (∀ book unit, s.core.svc = true → 1 ≤ book → book ≤ 8 → unit < 65536 → 
      (book ≤ 5 → s.core.parked (unit / 512) = true → Gives (.handshakeRequest book unit) s s.core ∧ Gives (.handshakeAck book unit) s s.core) ∧
      ((book ≤ 5 → s.core.parked (unit / 512) = false) →
      let k := book * 65536 + unit
      let cell := unit / 512 * 288 + unit % 512
      let waiting := if book = 4 then (s.core.lane (unit / 512 * 168 + unit % 512)).entries.length else 0
      let pool := if book = 8 then s.core.ringSize (unit % 512) else if book = 1 ∨ book = 7 then 8 else if book = 2 then 32 else if book = 3 ∨ book = 6 then 64
        else if book = 4 then 128 else 4096
      ((s.core.book k).inflight < pool → (book = 1 → s.core.role cell ≠ 0 ∧ (s.core.cell cell).held = false ∧ s.core.get (Fd.CEL_STS_STATE cell) ≠ 3) →
        Completes (.handshakeRequest book unit) s (fun t =>
        t.core.book k = { s.core.book k with issued := ((s.core.book k).issued + 1) % 2 ^ 32, inflight := (s.core.book k).inflight + 1 } ∧
        (∀ j, j ≠ k → t.core.book j = s.core.book j) ∧ KeepsRegs [] s.core t.core ∧ t.mem = s.mem ∧ t.pending = s.pending)) ∧
      (pool ≤ (s.core.book k).inflight → Gives (.handshakeRequest book unit) s s.core) ∧
      (book = 1 → s.core.role cell = 0 ∨ (s.core.cell cell).held = true ∨ s.core.get (Fd.CEL_STS_STATE cell) = 3 → Gives (.handshakeRequest book unit) s s.core) ∧
      ((s.core.book k).void = 0 → waiting < (s.core.book k).inflight → Completes (.handshakeAck book unit) s (fun t =>
        t.core.book k = { s.core.book k with returned := ((s.core.book k).returned + 1) % 2 ^ 32, inflight := (s.core.book k).inflight - 1 } ∧
        (∀ j, j ≠ k → t.core.book j = s.core.book j) ∧ KeepsRegs [] s.core t.core ∧ t.mem = s.mem ∧ t.pending = s.pending)) ∧
      (0 < (s.core.book k).void → Completes (.handshakeAck book unit) s (fun t => t.core.book k = { s.core.book k with void := (s.core.book k).void - 1 } ∧
        (∀ j, j ≠ k → t.core.book j = s.core.book j) ∧ KeepsRegs [] s.core t.core ∧ t.mem = s.mem ∧ t.pending = s.pending)) ∧
      ((s.core.book k).void = 0 → (s.core.book k).inflight ≤ waiting → Gives (.handshakeAck book unit) s s.core)))

/-- R64, R101, R107, R109, R110, R127, R132 and R174. A word below the sequencer's part of program memory faults as one past its end does: the model's choice (log 167 DESIGN CHOICE). -/
def Obligations.ZeroTimeInstructionsChangeTheirPath : Prop :=
  ∀ (s : State) (g w ct xn : Nat) (k : SeqCtx),
    (∀ (c : Instr) (op : Nat) (k' : SeqCtx), AtWord g op w k ct xn s → k.zt < 16 →
      (c = .seqNop g ∧ op = 0x00 ∧ k' = passed k ∨
       c = .seqJmp g ∧ op = 0x08 ∧ k' = { passed k with pc := sqTgt w } ∨
       c = .seqLoop g ∧ op = 0x09 ∧ sqLow20 w = 0 ∧ k' = { passed k with pc := sqTgt w + 1, loops := Tbl.erase k.loops (sqLevel w) } ∨
       c = .seqLoop g ∧ op = 0x09 ∧ sqLow20 w ≠ 0 ∧ k' = { passed k with loops := Tbl.insert k.loops (sqLevel w) (sqLow20 w, k.pc + 1) } ∨
       (∃ n start, k.loops.find? (fun l => l.1 == sqLevel w) = some (sqLevel w, n, start) ∧ c = .seqEndl g ∧ op = 0x0A ∧
         k' = if 1 < n then { passed k with pc := start, loops := Tbl.insert k.loops (sqLevel w) (n - 1, start) }
              else { passed k with loops := Tbl.erase k.loops (sqLevel w) }) ∨
       c = .seqSetf g ∧ op = 0x10 ∧ k' = { passed k with ftw := bitsOf w 0 48 } ∨
       c = .seqSetp g ∧ op = 0x11 ∧ k' = { passed k with poff := sqLow16 w } ∨
       c = .seqAddp g ∧ op = 0x12 ∧ k' = { passed k with poff := (k.poff + sqLow16 w) % 2 ^ 16 } ∨
       c = .seqSeta g ∧ op = 0x13 ∧ k' = { passed k with amp := sqLow16 w } ∨
       c = .seqMtag g ∧ op = 0x18 ∧ k' = { passed k with mtag := w % 4 }) →
      Completes c s (PathIs g k' ct xn [] s)) ∧
    (AtWord g 0x0C w k ct xn s → k.zt < 16 → flawAt s.mem 1 (g * 4096 + s.core.seqW g + (40 + 2 * sqSeg w) / 8) = none →
      let id := segTab s.mem s.core g (sqSeg w)
      let b := 16 * cellR g + cellB g
      let n := if dirHome (dirEntry s.mem id) = 2 then min (sqLow16 w) (ceilDiv (dirLen (dirEntry s.mem id)) 7) else 0
      Completes (.seqPrefetch g) s (fun t => PathIs g (passed k) ct xn [] s t ∧ (∀ j, j ≠ b → t.core.blk j = s.core.blk j) ∧
        t.core.blk b = { s.core.blk b with want := (s.core.blk b).want ++ ((upFrom 0 n).map (fun l => (id, l))).filter (fun v =>
          !((s.core.blk b).cache.any (fun l => l.segid == v.1 && l.line == v.2) || (s.core.blk b).want.contains v ||
            (s.core.blk b).inbox.any (fun l => l.segid == v.1 && l.line == v.2))) })) ∧
    (∀ (c : Instr) (op cause : Nat), AtWord g op w k ct xn s →
      (16 ≤ k.zt ∧ cause = 1 ∧ (c = .seqNop g ∧ op = 0x00 ∨ c = .seqJmp g ∧ op = 0x08 ∨ c = .seqLoop g ∧ op = 0x09 ∨ c = .seqEndl g ∧ op = 0x0A ∨
         c = .seqSetf g ∧ op = 0x10 ∨ c = .seqSetp g ∧ op = 0x11 ∨ c = .seqAddp g ∧ op = 0x12 ∨ c = .seqSeta g ∧ op = 0x13 ∨ c = .seqMtag g ∧ op = 0x18 ∨
           c = .seqPrefetch g ∧ op = 0x0C) ∨
       k.zt < 16 ∧ cause = 2 ∧ c = .seqEndl g ∧ op = 0x0A ∧ k.loops.find? (fun l => l.1 == sqLevel w) = none) →
      g < 2304 → Completes c s (fun t => t.core.get (Fd.CEL_STS_STATE g) = 3 ∧ t.core.get (Fd.CEL_SEQ_STS_SEQ_CAUSE g) = cause ∧
        bitAt (t.core.get (Fd.CEL_FAULT_CAUSE g)) 7 = true ∧ t.mem = s.mem ∧ t.pending = s.pending)) ∧
    (g < 2304 → CellOn g s → (s.core.cell g).path = some (k, ct, xn) → k.cur = none → k.cond = none → k.ended = false → k.stop = false → 4096 ≤ k.pc ∨ k.pc < s.core.seqW g →
      Completes (.seqNop g) s (fun t => t.core.get (Fd.CEL_STS_STATE g) = 3 ∧ t.core.get (Fd.CEL_SEQ_STS_SEQ_CAUSE g) = 3 ∧ t.mem = s.mem ∧ t.pending = s.pending))

/-- R41, R70, R107, R113, R118, R148, R149, R191 and R195. -/
def Obligations.EffectsOfAPathReachTheCell : Prop :=
  ∀ (s : State) (g w ct xn : Nat) (k : SeqCtx), k.zt < 16 → g < 2304 →
    (∀ (c : Instr) (op : Nat) (f : Fx), ct ≠ 0 → AtWord g op w k ct xn s →
      (c = .seqSignal g ∧ op = 0x0B ∧ f = .signal (sqLevel w) (sqValue w) k.stamp ∨ c = .seqSround g ∧ op = 0x1C ∧ f = .sround (sqLow16 w) k.stamp ∨
       c = .seqFrame g ∧ op = 0x1D ∧ f = .frame (w % 4) (w / 4 % 4) k.stamp) →
      Completes c s (PathIs g { passed k with fx := k.fx ++ [f] } ct xn [] s)) ∧
    (AtWord g 0x0B w k 0 xn s → Completes (.seqSignal g) s (fun t =>
      let at_ := if k.stamp < s.core.now then s.core.now + 1 else k.stamp
      PathIs g (passed k) 0 0 [Fd.CEL_STS_EV_PEND g, Fd.CEL_LEAD_STS_LATE g] s t ∧
      (t.core.cell g).sigs = (s.core.cell g).sigs.filter (fun h => h.no != sqLevel w || h.stamp != at_) ++ [{ no := sqLevel w, val := sqValue w, stamp := at_ }] ∧
      (k.stamp < s.core.now → t.core.get (Fd.CEL_LEAD_STS_LATE g) = 1) ∧
      (s.core.now ≤ k.stamp → t.core.get (Fd.CEL_LEAD_STS_LATE g) = s.core.get (Fd.CEL_LEAD_STS_LATE g)) ∧
      (bitAt (s.core.get (Fd.CEL_CFG_EV_EN g)) 4 = true → bitAt (t.core.get (Fd.CEL_STS_EV_PEND g)) 4 = true) ∧
      (∀ j, j ≠ cellR g → t.core.rgn j = s.core.rgn j))) ∧
    (AtWord g 0x1C w k 0 xn s → Completes (.seqSround g) s (fun t =>
      let p := if k.stamp < s.core.now then s.core.now + 1 else k.stamp
      PathIs g (passed k) 0 0 [Fd.CEL_STS_EV_PEND g, Fd.CEL_LEAD_STS_LATE g] s t ∧
      (∃ n dl, (p, dl, n) ∈ (t.core.rgn (cellR g)).synd.opens ∧ sqLow16 w ≤ dl ∧ 1 ≤ n) ∧
      ((∀ o ∈ (s.core.rgn (cellR g)).synd.opens, o.1 ≠ p) → ∃ a z, (s.core.rgn (cellR g)).synd.opens = a ++ z ∧
        (t.core.rgn (cellR g)).synd.opens = a ++ (p, sqLow16 w, 1) :: z ∧ (∀ o ∈ a, o.1 < p) ∧ (∀ o ∈ z.head?, p < o.1)) ∧
      (∀ j, j ≠ cellR g → t.core.rgn j = s.core.rgn j))) ∧
    (AtWord g 0x1D w k 0 xn s → Completes (.seqFrame g) s (fun t =>
      let u := if s.core.role g = 1 then k.stamp - 18 else k.stamp + 10 + s.core.latchDelay g
      PathIs g (passed k) 0 0 [Fd.CEL_STS_EV_PEND g, Fd.CEL_LEAD_STS_LATE g] s t ∧
      (t.core.cell g).frameOps = (s.core.cell g).frameOps ++ [{ xop := w % 4, zop := w / 4 % 4, tick := if u < s.core.now then s.core.now + 1 else u }] ∧
      (u < s.core.now → t.core.get (Fd.CEL_LEAD_STS_LATE g) = 1) ∧
      (s.core.now ≤ u → t.core.get (Fd.CEL_LEAD_STS_LATE g) = s.core.get (Fd.CEL_LEAD_STS_LATE g)) ∧ (∀ j, j ≠ cellR g → t.core.rgn j = s.core.rgn j))) ∧
    (∀ (c : Instr) (op : Nat) (kind : MarkKind), AtWord g op w k ct xn s → (c = .seqLock g ∧ op = 0x14 ∧ kind = .lock ∨ c = .seqUnlock g ∧ op = 0x15 ∧ kind = .unlock) →
      Completes c s (fun t => PathIs g (passed k) ct xn [] s t ∧
        (t.core.cell g).outMarks = (s.core.cell g).outMarks ++ [{ kind := kind, stamp := k.stamp, ct := ct, xn := xn, late := false, from_ := none }])) ∧
    (AtWord g 0x3F w k ct xn s →
      let fin : Mark := { kind := .endm, stamp := k.stamp, ct := ct, xn := xn, late := false, from_ := none }
      let sent := s.core.role g = 2 ∨ (s.core.cell g).holds fin = false
      Completes (.seqEnd g) s (fun t => (s.core.role g ≠ 2 → fin ∈ (t.core.cell g).outMarks) ∧
      (ct = 0 → (t.core.cell g).ctx = { passed k with ended := true } ∧
        (sent → t.core.get (Fd.CEL_STS_STATE g) = 2 ∧ (t.core.cell g).endAt = some (if s.core.role g = 2 then k.stamp - 1 + 11 else k.stamp - 1 - 17) ∧
          (bitAt (s.core.get (Fd.CEL_CFG_EV_EN g)) 6 = true → bitAt (t.core.get (Fd.CEL_STS_EV_PEND g)) 6 = true) ∧
          KeepsRegs [Fd.CEL_STS_STATE g, Fd.CEL_STS_EV_PEND g] s.core t.core) ∧
        (¬ sent → (t.core.cell g).endAt = (s.core.cell g).endAt ∧ KeepsRegs [] s.core t.core)) ∧
      (ct = 1 → s.core.get (Fd.CEL_CFG_PHX_INLINE g) = 0 → ∀ b, (s.core.cell g).branch = some b →
        (t.core.cell g).branch = some { b with run := 1, c0 := { passed k with ended := true } } ∧ KeepsRegs [] s.core t.core) ∧
      (ct = 2 → ∀ b, (s.core.cell g).branch = some b → (t.core.cell g).branch = some { b with run := 2, c1 := { passed k with ended := true } } ∧
        t.core.get (Fd.CEL_SEQ_STS_HOLD g) = 1 ∧ KeepsRegs [Fd.CEL_SEQ_STS_HOLD g] s.core t.core) ∧
      (ct ≠ 1 ∨ s.core.get (Fd.CEL_CFG_PHX_INLINE g) = 0 → ∀ j, j ≠ g → t.core.cell j = s.core.cell j) ∧ t.mem = s.mem ∧ t.pending = s.pending))

/-- R104, R107, R109, R121, R123, R166 and R174. -/
def Obligations.TimedInstructionsBegin : Prop :=
  (∀ (c : Core) (m : Mems) (g : Nat), (c.on (Fd.CEL_CFG_PHX_INLINE g) = false ∨ c.role g = 2) → c.feed m g = c.modCell g Cell.fillPort) ∧
  ∀ (s : State) (g w ct xn : Nat) (k : SeqCtx),
    (AtWord g 0x01 w k ct xn s → flawAt s.mem 1 (g * 4096 + s.core.seqW g + (40 + 2 * sqSeg w) / 8) = none →
      let id := segTab s.mem s.core g (sqSeg w)
      let e := dirEntry s.mem id
      let n := dirLen e * (sqLow20 w + 1)
      let base := Tbl.get (fun _ => 0) k.strm (dirStream e)
      let k' := if dirHome e = 3 then { k with strm := Tbl.insert k.strm (dirStream e) (base + n) } else k
      let play : Timed := Timed.mk .play k.pc k.stamp (max 1 n) 0 id (dirLen e) 0 0 false false 0 0 none base none
      Gives (.seqPlay g) s ((s.core.modCell g (fun x => x.setPath { k' with zt := 0, cur := some play })).feed s.mem g)) ∧
    (AtWord g 0x02 w k ct xn s →
      let gap : Timed := Timed.mk .gap k.pc k.stamp (max 1 (sqLow20 w)) 0 0 0 0 0 false false 0 0 none 0 none
      Gives (.seqGap g) s ((s.core.modCell g (fun x => x.setPath { k with zt := 0, cur := some gap })).feed s.mem g)) ∧
    (AtWord g 0x03 w k ct xn s → Completes (.seqMeasure g) s (fun t =>
      let id := (s.core.cell g).ro.winNext
      let meas : Timed := Timed.mk .measure k.pc k.stamp (max 1 (sqLow20 w)) 0 0 0 id 0 false false 0 0 none 0 none
      PathIs g { k with zt := 0, mtag := 0, cur := some meas } ct xn [] s t ∧
      let win : Win := Win.mk id (sqSeg w % 8) (max 1 (sqLow20 w)) k.stamp k.mtag ct xn 0 0 0 false false false 0 none false none false ct
      (t.core.cell g).ro = { (s.core.cell g).ro with winNext := id + 1, wins := (s.core.cell g).ro.wins ++ [win] })) ∧
    (AtWord g 0x04 w k 0 xn s → g < 2304 → Completes (.seqWait g) s (fun t =>
      let wait : Timed := Timed.mk .wait k.pc k.stamp 1 0 0 0 0 (sqSeg w) (bitAt w 49) (bitAt w 48) (sqTgt w) (sqLow16 w) none 0 none
      let mark : Mark := Mark.mk (.fill (if bitAt w 48 then k.last else (0, 0)) k.ftw k.poff k.amp) k.stamp 0 xn false
        (if bitAt w 48 && s.core.on (Fd.CEL_CFG_PHX_INLINE g) && !k.zl then some 0 else none)
      PathIs g { k with zt := 0, stop := false, cur := some wait, last := if bitAt w 48 then k.last else (0, 0), zl := if bitAt w 48 then k.zl else true } 0 0
        [Fd.CEL_SEQ_STS_HOLD g] s t ∧
      t.core.get (Fd.CEL_SEQ_STS_HOLD g) = 2 ∧
      (s.core.role g ≠ 2 → (t.core.cell g).outMarks = (s.core.cell g).outMarks ++ [mark]) ∧
      (s.core.role g = 2 → (t.core.cell g).ro.cover = some k.stamp))) ∧
    (AtWord g 0x04 w k ct xn s → ct ≠ 0 → g < 2304 → Completes (.seqWait g) s (fun t =>
      let wait : Timed := Timed.mk .wait k.pc k.stamp 1 0 0 0 0 (sqSeg w) (bitAt w 49) (bitAt w 48) (sqTgt w) (sqLow16 w) none 0 none
      let k' := { k with zt := 0, stop := true, cur := some wait, last := if bitAt w 48 then k.last else (0, 0), zl := if bitAt w 48 then k.zl else true }
      (s.core.role g ≠ 2 → Mark.mk (.fill (if bitAt w 48 then k.last else (0, 0)) k.ftw k.poff k.amp) k.stamp ct xn false
        (if bitAt w 48 && s.core.on (Fd.CEL_CFG_PHX_INLINE g) && !k.zl then some ct else none) ∈ (t.core.cell g).outMarks) ∧
      (ct = 1 → s.core.get (Fd.CEL_CFG_PHX_INLINE g) = 0 → ∀ b, (s.core.cell g).branch = some b → (t.core.cell g).branch = some { b with run := 1, c0 := k' } ∧
        KeepsRegs [] s.core t.core) ∧
      (ct = 2 → ∀ b, (s.core.cell g).branch = some b → (t.core.cell g).branch = some { b with run := 2, c1 := k' } ∧
        t.core.get (Fd.CEL_SEQ_STS_HOLD g) = 1 ∧ KeepsRegs [Fd.CEL_SEQ_STS_HOLD g] s.core t.core) ∧
      (ct ≠ 1 ∨ s.core.get (Fd.CEL_CFG_PHX_INLINE g) = 0 → ∀ j, j ≠ g → t.core.cell j = s.core.cell j) ∧ t.mem = s.mem ∧ t.pending = s.pending))

/-- R37, R40-R43, R45, R99, R100, R105, R115, R119, R128-R130, R134, R137-R139, R143, R144, R332, R333, R495 and R497: refill, the queues, and the arithmetic from a sample to the code of a
converter. What the interpolators do beyond a constant stream, a step and the level of 98 % is open (log 12 DESIGN CHOICE). -/
def Obligations.RefillReachesTheOutputs : Prop :=
  let sat : Nat → Int → Int := fun w x => max (-(2 ^ (w - 1))) (min (2 ^ (w - 1) - 1) x)
  (∀ (role : Nat) (v : Cx) (t : SMeta),
    let a := sx 16 t.amp
    let y : Cx := (sat 16 (v.1 * a / 2 ^ 15), if role = 3 then 0 else sat 16 (v.2 * a / 2 ^ 15))
    let cs := ncoCs ((t.ftw * (24 * t.stamp + 8 * t.sub) + t.poff * 2 ^ 32) % 2 ^ 48)
    (stampSample role v t).1 =
      if role = 1 then (sat 16 ((y.1 * cs.1 - y.2 * cs.2) / 2 ^ 15), sat 16 ((y.1 * cs.2 + y.2 * cs.1) / 2 ^ 15)) else y) ∧
  (∀ x, x < 2 ^ 28 → ncoCs x = (32767, 0) ∧ ncoCs (2 ^ 46 + x) = (0, 32767) ∧ ncoCs (2 ^ 47 + x) = (-32767, 0) ∧ ncoCs (3 * 2 ^ 46 + x) = (0, -32767)) ∧
  (∀ v : Cx, negZ v = (sat 16 (-v.1), sat 16 (-v.2))) ∧
  (∀ (shift : Nat) (zone1 : Bool) (ls : List (List Cx)) (e : Nat), e < 3 →
    let sum : (Cx → Int) → Int := fun f => (ls.map (fun l => f (l.getD e (0, 0)) / 4)).sum
    let i := sum (fun x => x.1) / 2 ^ shift
    let q := sum (fun x => x.2) / 2 ^ shift
    (combine shift zone1 ls).1[e]? = some (sat 14 i, if zone1 then sat 14 (-(sat 14 q)) else sat 14 q) ∧
    (sat 14 i ≠ i ∨ sat 14 q ≠ q ∨ (zone1 = true ∧ sat 14 q = -8192) → (combine shift zone1 ls).2 = true)) ∧
  (∀ (ftw poff st : Nat) (zone1 : Bool) (h : List Cx) (a : Cx), h ≠ [] → (∀ x ∈ h, x = a) → -8192 ≤ a.1 ∧ a.1 ≤ 8191 ∧ -8192 ≤ a.2 ∧ a.2 ≤ 8191 →
    (rfCodes ftw poff zone1 h st).1 = (upFrom 0 24).map (fun k =>
      let ph := (ftw * (24 * st + k) + poff * 2 ^ 32) % 2 ^ 48
      let cs := ncoCs (if zone1 then (2 ^ 48 - ph) % 2 ^ 48 else ph)
      sat 14 ((4 * a.1 * cs.1 - 4 * a.2 * cs.2) / 2 ^ 17))) ∧
  (∀ h : List Cx, (∀ x ∈ h, -(98 * 8191) ≤ 100 * x.1 ∧ 100 * x.1 ≤ 98 * 8191 ∧ -(98 * 8191) ≤ 100 * x.2 ∧ 100 * x.2 ≤ 98 * 8191) →
    ∀ v ∈ rfInterp h, -32768 ≤ v.1 ∧ v.1 ≤ 32767 ∧ -32768 ≤ v.2 ∧ v.2 ≤ 32767) ∧
  (∀ (n k : Nat) (a b : Cx), a.1 < b.1 → ∀ v ∈ rfInterp (List.replicate (n + 1) b ++ List.replicate (k + 1) a),
    1000 * (v.1 - 4 * b.1) ≤ 12 * max 32767 (4 * (b.1 - a.1)) ∧ 1000 * (4 * a.1 - v.1) ≤ 12 * max 32767 (4 * (b.1 - a.1))) ∧
  (∀ cur h, bbInterp true cur h = cur.flatMap (fun x => [x, x])) ∧
  (∀ (cur h : List Int) (a : Int), h ≠ [] → (∀ x ∈ h, x = a) → bbInterp false cur h = List.replicate 6 a) ∧
  (∀ (c : Core) (r b n : Nat), r < 8 → b < 16 → n < 2 →
    let k := bbKey r b n
    let d := 32 * r + 2 * b + n
    let g := (c.lane k).src.getD 0
    let y := (c.lane k).release c.now (c.since (c.cell g).zeroAt) (c.role g)
    let vs := y.2.1.samples y.1 3 (c.now + 17)
    let o := (c.releaseBb r b n).bb d
    let here := o.hist.find? (fun h => h.stamp == c.now + 12)
    o.last = some c.now ∧ o.stamp = c.now + 12 ∧
    o.hist = { stamp := c.now + 17, smp := if vs = [] then [(0, 0), (0, 0), (0, 0)] else vs, occ := c.bbOcc r b n, sat := false } :: (c.bb d).hist.take 40 ∧
    (c.inFull 0x14 (almBb d) = true ∨ here = none ∨ (∃ h, here = some h ∧ h.occ = true) → o.codes = List.replicate 6 0) ∧
    (∀ h, c.inFull 0x14 (almBb d) = false → here = some h → h.occ = false →
      o.codes = (bbInterp (c.on (Fd.BLK_BB_CFG_INTERP r b n)) (h.smp.map (fun x => x.1)) (o.hist.flatMap (fun h => (h.smp.map (fun x => x.1)).reverse))).map
        (fun x => sat 16 (sat 16 x + c.getS (Fd.BLK_BB_CFG_DC_OFFSET r b n))))) ∧
  (∀ (c : Core) (r i : Nat), r < 8 → i < 8 → c.get (Fd.RGN_DAC_STS_LOCK_STATE r i) = 0 → (c.dac (8 * r + i)).breakBy = none → (c.dac (8 * r + i)).freeAt = none →
    (∀ t, t < 16 → ∀ k ∈ (c.lane (toneKey r i t)).marks, k.kind ≠ .lock) →
    let d := 8 * r + i
    let ls := (upFrom 0 16).filterMap (fun t => (c.lane (toneKey r i t)).src.map (fun g =>
      let y := (c.lane (toneKey r i t)).release c.now (c.since (c.cell g).zeroAt) (c.role g)
      let xs := y.2.1.samples y.1 (c.role g) (c.now + 17)
      if (c.frameNow g).2 = true then xs.map negZ else xs))
    let mix := combine (c.get (Fd.RGN_DAC_CFG_COMB_SHIFT r i)) (c.on (Fd.RGN_DAC_CFG_ZONE r i)) ls
    let o := (c.releaseDac r i).dac d
    let here := o.hist.find? (fun h => h.stamp == c.now + 8)
    o.last = some c.now ∧ o.stamp = c.now + 8 ∧
    o.hist = { stamp := c.now + 17, smp := mix.1, occ := c.dacOcc r i, sat := mix.2 } :: (c.dac d).hist.take 40 ∧
    (c.inFull 0x13 (almDac d) = true ∨ here = none ∨ (∃ h, here = some h ∧ h.occ = true) → o.codes = List.replicate 24 0) ∧
    (∀ h, c.inFull 0x13 (almDac d) = false → here = some h → h.occ = false →
      o.codes = (rfCodes (c.get (Fd.RGN_DAC_FTW_LO_FTW_LO r i) + 2 ^ 32 * c.get (Fd.RGN_DAC_FTW_HI_FTW_HI r i)) (c.get (Fd.RGN_DAC_FTW_HI_POFF r i))
        (c.on (Fd.RGN_DAC_CFG_ZONE r i)) ((o.hist.filter (fun h => decide (h.stamp ≤ c.now + 17))).flatMap (fun h => h.smp.reverse)) (c.now + 8)).1)) ∧
  (∀ (l : Lane) (now role : Nat), l.act = true → l.from_ ≤ now →
    (∀ k ∈ l.marks, k.ct = 0 → k.stamp ≤ now + 17 → k.kind = .lock ∨ k.kind = .unlock) →
    (∀ e, l.entries.find? (fun e => e.ct == 0 && e.stamp == now + 17) = some e → (l.release now false role).2.1 = .entry e) ∧
    ((∀ e ∈ l.entries, e.stamp ≠ now + 17) → l.fill = none → (l.release now false role).2.1 = .miss) ∧
    (l.release now true role).2.1 = .zero ∧ (∀ z, (l.release now z role).1.entries = l.entries.filter (fun e => decide (now + 17 < e.stamp)))) ∧
  (∀ (c : Core) (g k : Nat) (e : QEntry), c.now < e.stamp + 32768 → e.stamp ≤ c.now + 32768 →
    (c.now + 17 < e.stamp → ((c.arrive g k e).lane k).entries = (c.lane k).entries ++ [e] ∧ ((c.arrive g k e).cell g).lastAcc = some (max e.stamp ((c.cell g).lastAcc.getD 0))) ∧
    (e.stamp ≤ c.now + 17 → ((c.arrive g k e).lane k).entries = (c.lane k).entries ∧ (e.ct = 0 → g < 2304 → (c.arrive g k e).get (Fd.CEL_LEAD_STS_LATE g) = 1 ∧
      (c.arrive g k e).get (Fd.CEL_LATE_CNT_LATE_DISCARD g) = min (2 ^ (Fd.CEL_LATE_CNT_LATE_DISCARD g).w - 1) (c.get (Fd.CEL_LATE_CNT_LATE_DISCARD g) + 1)))) ∧
  ∀ (s : State) (g : Nat), g < 2304 →
    (∀ segid line p,
      let e := dirEntry s.mem segid
      let r := cellR g
      let b := cellB g
      let x := cellC g
      let a := arbKey (.block r b)
      let id := lineKey s.mem segid
      let had := Tbl.get (fun _ => 0) (s.core.arb a).parts x
      let room := min (max 1 (s.core.get (Fd.BLK_ARB_CFG_BURST r b)) - (s.core.arb a).beats) (2 * (s.core.now + 1) - max (s.core.arb a).next (2 * s.core.now))
      let here := fun q => dirHome e = 1 ∧ q = dirLine e + line ∨
        dirHome e ≠ 1 ∧ ∃ l, (s.core.blk (16 * r + b)).cache.find? (fun l => l.segid == id && l.line == line) = some l ∧ q = l.place
      CellOn g s → s.core.role g ≠ 0 → (s.core.cell g).held = false → dirValid e = true → (id, line) ∈ s.core.lineWants s.mem g →
      p < s.core.get (Fd.CEL_SEQ_CFG_STAGE_LINES g) → (∀ l ∈ (s.core.cell g).stage, l.place ≠ p) → (∀ q, q < p → ∃ l ∈ (s.core.cell g).stage, l.place = q) →
      (∀ q, here q → (s.core.arb a).owner = some x → had < 2 → 2 ≤ had + room → Completes (.stageLineArrival g segid line) s (fun t =>
        t.mem = { s.mem with seg := wrBytes zeroByte s.mem.seg (g * 32768 + p * 128) (rdBytes zeroByte s.mem.blk ((16 * r + b) * 524288 + q * 128) 128) } ∧
        t.pending = s.pending ∧ ∃ d : Core, t.core = d.feed t.mem g ∧
          d.cell g = { s.core.cell g with stage := (s.core.cell g).stage ++ [{ segid := id, line := line, place := p }] } ∧ (∀ j, j ≠ g → d.cell j = s.core.cell j) ∧
          d.arb a = { s.core.arb a with beats := (s.core.arb a).beats + (2 - had), next := max (s.core.arb a).next (2 * s.core.now) + (2 - had),
                                        idle := max (s.core.arb a).next (2 * s.core.now) + (2 - had), parts := Tbl.erase (s.core.arb a).parts x } ∧
          d.blk (16 * r + b) = { s.core.blk (16 * r + b) with
            cache := (s.core.blk (16 * r + b)).cache.map (fun y => if y.segid = id ∧ y.line = line then { y with use := (s.core.blk (16 * r + b)).useCtr } else y),
            useCtr := (s.core.blk (16 * r + b)).useCtr + 1 } ∧ KeepsRegs [] s.core d)) ∧
      (∀ q, here q → (s.core.arb a).owner = some x → had < 2 → 1 ≤ room → had + room < 2 → Gives (.stageLineArrival g segid line) s
        ((s.core.modArb a (fun y => { y with beats := y.beats + room, next := max y.next (2 * s.core.now) + room, idle := max y.next (2 * s.core.now) + room })).modArb a (fun y =>
          { y with parts := Tbl.insert y.parts x (had + room) }))) ∧
      (dirHome e ≠ 1 → (∀ l ∈ (s.core.blk (16 * r + b)).cache, l.segid = id → l.line ≠ line) → (s.core.arb a).owner = some x → 1 ≤ room →
        Completes (.stageLineArrival g segid line) s (fun t =>
          t.core.arb a = { s.core.arb a with owner := none, bound := none, beats := 0, parts := Tbl.erase (s.core.arb a).parts x } ∧
          t.core.get (Fd.BLK_SEG_STS_LIB_MISS r b) = min (2 ^ (Fd.BLK_SEG_STS_LIB_MISS r b).w - 1) (s.core.get (Fd.BLK_SEG_STS_LIB_MISS r b) + 1) ∧
          (dirHome e = 2 → (segid, line) ∈ (t.core.blk (16 * r + b)).want ∨ ∃ l ∈ (t.core.blk (16 * r + b)).inbox, l.segid = segid ∧ l.line = line) ∧
          (∀ j, t.core.cell j = s.core.cell j) ∧ KeepsRegs [Fd.BLK_SEG_STS_LIB_MISS r b] s.core t.core ∧ t.mem = s.mem ∧ t.pending = s.pending)) ∧
      ((s.core.arb a).owner ≠ some x → Gives (.stageLineArrival g segid line) s s.core)) ∧
    (∀ t0, (s.core.cell g).branch = none → (s.core.cell g).ctx.cur = some t0 → t0.kind = .play → dirHome (dirEntry s.mem t0.segid) ≠ 0 → t0.done / 6 < t0.gran →
      let line := (if dirHome (dirEntry s.mem t0.segid) = 3 then t0.sbase + t0.done / 6 else t0.done / 6 % max 1 t0.segLen) / 7
      (∀ l ∈ (s.core.cell g).stage, l.segid = lineKey s.mem t0.segid → l.line ≠ line) → (lineKey s.mem t0.segid, line) ∈ s.core.lineWants s.mem g) ∧
    (∀ segid line, (lineKey s.mem segid, line) ∉ s.core.lineWants s.mem g → Gives (.stageLineArrival g segid line) s s.core) ∧
    (∀ k ct xn t, CellOn g s → (s.core.cell g).path = some (k, ct, xn) → k.cur = some t → t.kind = .play → t.done % 6 = 0 → s.core.role g ≠ 2 →
      t.silent ≠ some (t.done / 6) → dirHome (dirEntry s.mem t.segid) ≠ 0 →
      (∀ l ∈ (s.core.cell g).stage, l.segid = lineKey s.mem t.segid →
        l.line ≠ (if dirHome (dirEntry s.mem t.segid) = 3 then t.sbase + t.done / 6 else t.done / 6 % max 1 t.segLen) / 7) → (ct ≠ 0 → k.left ≠ 0) →
      (match (s.core.cell g).lastAcc with
       | some a => (a : Int) - 17 - (s.core.now : Int)
       | none => ((t.s0 + 2 * (t.done / 6) : Nat) : Int) - 18 - (s.core.now : Int)) ≤ ((max 2 (s.core.get (Fd.CEL_SEQ_CFG_UNDERRUN_LEAD g)) : Nat) : Int) →
      Gives (.underrun g) s (((((s.core.modCell g (fun x => x.setPath { k with cur := some { t with silent := some (t.done / 6) } })).put
        (Fd.CEL_SEQ_STS_UNDERRUN g) 1).inc (Fd.CEL_SEQ_CNT1_UNDERRUN g) 1).modShot (cellR g) (fun x => { x with under := true })).feed s.mem g)) ∧
    (∀ k t, CellOn g s → s.core.role g = 2 → (s.core.cell g).path = some (k, 0, 0) → k.cur = some t → t.kind = .measure ∨ t.kind = .gap → t.done + 1 < t.gran →
      (s.core.cell g).ro.buf = [] →
      let l := (s.core.cell g).ro.sched.filter (fun v => v.ct != 0 || decide (s.core.now - 1 < v.stamp + 12))
      let st := t.s0 + 2 * t.done
      (l.length < 64 → Completes (.queueEntryArrival g) s (fun u => (u.core.cell g).path = some ({ k with cur := some { t with done := t.done + 1 } }, 0, 0) ∧
        (u.core.cell g).ro.sched = l ++ [{ stamp := st, win := if t.kind = .measure then some t.win else none, ct := 0, xn := 0 }] ∧
        (u.core.cell g).ro.posted = some (max (st + 1) ((s.core.cell g).ro.posted.getD 0)) ∧ (∀ j, j ≠ g → u.core.cell j = s.core.cell j) ∧
        KeepsRegs [Fd.CEL_LEAD_STS_LEAD_MIN g] s.core u.core ∧ u.mem = s.mem ∧ u.pending = s.pending))) ∧
    (CellOn g s → s.core.role g = 2 → Gives (.queueEntryArrival g) s ((s.core.schedFree g (s.core.now - 1)).postGranule s.mem g)) ∧
    (CellOn g s → s.core.role g = 1 ∨ s.core.role g = 3 → (∃ q ∈ s.core.cellLanes g, 128 ≤ (s.core.book (queueBook q)).inflight) → Gives (.queueEntryArrival g) s s.core) ∧
    (CellOn g s → s.core.role g = 1 ∨ s.core.role g = 3 → (∀ q ∈ s.core.cellLanes g, (s.core.book (queueBook q)).inflight < 128) →
      (s.core.get (Fd.CEL_CFG_PHX_INLINE g) = 0 →
        (∀ c' smp, s.core.renderTick s.mem g = (c', some smp) → Gives (.queueEntryArrival g) s (c'.sendTick g smp)) ∧
        (∀ c', s.core.renderTick s.mem g = (c', none) → Gives (.queueEntryArrival g) s c') ∧
        (∀ k t, (s.core.cell g).path = some (k, 0, 0) → k.cur = some t → t.kind = .gap → t.done + 6 < 6 * t.gran →
          s.core.renderTick s.mem g = (s.core.modCell g (fun x => x.setPath { k with last := (0, 0), zl := false, cur := some { t with done := t.done + 3 } }),
            some ((upFrom 0 3).map (fun i => (((0, 0) : Cx), ({ stamp := t.s0 + 2 * (t.done / 6) + t.done % 6 / 3, sub := i, ct := 0, xn := 0, ftw := k.ftw, poff := k.poff, amp := k.amp } : SMeta)))))) ∧
        (∀ k t a o, (s.core.cell g).path = some (k, 0, 0) → k.cur = some t → t.kind = .play → t.silent ≠ some (t.done / 6) → t.done + 6 < 6 * t.gran → t.done % 6 < 3 →
          s.core.linePlace s.mem g t (t.done / 6) = some (a, o) → flawAt s.mem 3 ((a + o * 18) / 16) = none → flawAt s.mem 3 ((a + o * 18 + 8) / 16) = none →
          let smp : Nat → Cx := fun i => let v := smpAt s.mem.seg a o i; (v.1 * 16, v.2 * 16)
          s.core.renderTick s.mem g = (s.core.modCell g (fun x => x.setPath { k with last := smp 2, zl := false, cur := some { t with done := t.done + 3 } }),
            some ((upFrom 0 3).map (fun i => (smp i, ({ stamp := t.s0 + 2 * (t.done / 6), sub := i, ct := 0, xn := 0, ftw := k.ftw, poff := k.poff, amp := k.amp } : SMeta))))))) ∧
      (s.core.get (Fd.CEL_CFG_PHX_INLINE g) ≠ 0 →
        let x := iter (fun (x : Cell) => if x.post.length < 3 then x.takeOut else x) 2 (s.core.cell g)
        (x.post.length < 3 → Gives (.queueEntryArrival g) s ((s.core.setCell g x).feed s.mem g)) ∧
        (3 ≤ x.post.length → Gives (.queueEntryArrival g) s
          ((((s.core.setCell g x).sendTick g (x.post.take 3)).modCell g (fun y => { y with post := y.post.drop 3 })).feed s.mem g)))) ∧
    (∀ k, (s.core.cell g).outMarks.find? (fun k => !((k.kind == .endm || k.from_.isSome) && (s.core.cell g).holds k)) = some k → s.core.svc = true →
      s.core.get (Fd.CEL_STS_STATE g) = 1 ∨ s.core.get (Fd.CEL_STS_STATE g) = 2 → s.core.parked (cellR g) = false →
      let c := s.core.modCell g (fun x => { x with outMarks := x.outMarks.erase k })
      let d := if k.kind = .endm ∧ k.ct = 0 ∧ (s.core.cell g).endAt = none then c.ended g k.stamp else c
      Gives (.markerArrival g) s (d.markLanes g ((s.core.cell g).outMark k)) ∧
      (k.kind = .endm → k.ct = 0 → (s.core.cell g).endAt = none → d.get (Fd.CEL_STS_STATE g) = 2 ∧
        (d.cell g).endAt = some (if s.core.role g = 2 then k.stamp - 1 + 11 else k.stamp - 1 - 17)) ∧
      (k.from_ = none → (s.core.cell g).outMark k = k) ∧
      (∀ v f p a tag, k.from_ = some tag → k.kind = .fill v f p a → ((s.core.cell g).outMark k).kind =
        .fill ((((s.core.cell g).lastOut.find? (fun e => e.1 == tag)).map (fun e => e.2)).getD (Tbl.get (fun _ => (0, 0)) (s.core.cell g).lastOut 0)) f p a)) ∧
    (∀ u : OutUnit, s.core.svc = true → s.core.running = true →
      (match u with
       | .dac r i => s.core.rOk r = true ∧ i < 8 ∧ (s.core.dac (8 * r + i)).last ≠ some s.core.now
       | .bb r b n => s.core.bOk r b = true ∧ n < 2 ∧ (s.core.bb (32 * r + 2 * b + n)).last ≠ some s.core.now
       | .vec r w => s.core.rOk r = true ∧ w < 8 ∧ (s.core.vec (8 * r + w)).last ≠ some s.core.now) →
      (∀ k ∈ unitLanes u, ∀ g, (s.core.lane k).src = some g → ∀ b, (s.core.cell g).branch = some b →
        s.core.get (Fd.CEL_STS_STATE g) ≠ 1 ∨ s.core.parked (cellR g) = true ∨ (s.core.cell g).zeroAt ≠ none ∨ s.core.now + 17 < b.sT) →
      let c1 := match u with
        | .dac r i => s.core.releaseDac r i
        | .bb r b n => s.core.releaseBb r b n
        | .vec r w => s.core.releaseVec r w
      Gives (.laneRelease u) s ((unitLanes u).foldl (fun c k =>
        match (c.lane k).src with
        | some g => c.leadCheck s.mem g
        | none => c) c1))

/-- R86, R91, R111-R113, R117, R121-R123, R168 and R182. -/
def Obligations.PathsGoOn : Prop :=
  ∀ (s : State) (g : Nat), g < 2304 →
    (∀ (c : Core) (m : Mems) (b : Branch) (sel : Nat),
      let yes := if sel = 0 then b.c0 else b.c1
      yes.cond = none → yes.ended = false → (∀ t, yes.cur = some t → t.kind ≠ .wait) → c.get (Fd.CEL_CFG_PHX_INLINE g) = 0 →
        ((c.takeExit m g b sel).cell g).branch = none ∧ ((c.takeExit m g b sel).cell g).ctx = { yes with fx := [], left := 0, stop := false } ∧
        (c.takeExit m g b sel).get (Fd.CEL_SEQ_STS_HOLD g) = 0) ∧
    (∀ b, (s.core.cell g).branch = some b → CellOn g s →
      let tx := if s.core.role g = 2 then b.sT + 11 else b.sT - 17
      let k := b.cc % 8
      let w := (s.core.cell g).slot k
      let kept := if wKeep (watchEntry s.mem s.core g k) then s.core else (s.core.modCell g (fun x => x.setSlot k { w with full := false, missed := false })).slotBits g
      tx ≤ s.core.now → (w.full = true → w.a ≤ tx → flawAt s.mem 1 (g * 4096 + s.core.seqW g + (8 + 4 * k) / 8) = none) →
        (w.full = true → w.a ≤ tx → w.inv = false → Gives (.exitSelect g) s (kept.takeExit s.mem g b (b2n (ccHolds b.cc w.cls)))) ∧
        (w.full = true → w.a ≤ tx → w.inv = true → Gives (.exitSelect g) s ((kept.inc (Fd.CEL_SEQ_CNT0_DECISION_INVALID g) 1).takeExit s.mem g b (b2n b.dflt))) ∧
        (w.full = false ∨ tx < w.a → Gives (.exitSelect g) s ((((s.core.inc (Fd.CEL_SEQ_CNT0_DECISION_LATE g) 1).put (Fd.CEL_SEQ_STS_DEC_LATE g) 1).modCell g
          (fun x => x.setSlot k { w with missed := true })).takeExit s.mem g b (b2n b.dflt)))) ∧
    (∀ t0, (s.core.cell g).branch = none → (s.core.cell g).ctx.cur = some t0 → t0.kind = .wait → CellOn g s →
      (∀ v, (s.core.cell g).waitV t0 = some v → v ≤ t0.s0 + t0.dl → Completes (.waitHolds g) s (fun t =>
        (t.core.cell g).ctx = { (s.core.cell g).ctx with cur := none, stamp := gridFrom t0.s0 (max t0.s0 (v + 24)), pc := t0.word + 1, zt := 0 } ∧
        t.core.get (Fd.CEL_SEQ_STS_HOLD g) = 0 ∧ (s.core.role g ≠ 2 → (t.core.cell g).outMarks = (s.core.cell g).outMarks ++
          [{ kind := .resume, stamp := gridFrom t0.s0 (max t0.s0 (v + 24)), ct := 0, xn := 0, late := false, from_ := none }]) ∧
        (s.core.role g = 2 → (t.core.cell g).ro.cover = none) ∧ (bitAt (s.core.get (Fd.CEL_CFG_EV_EN g)) 0 = true → bitAt (t.core.get (Fd.CEL_STS_EV_PEND g)) 0 = true) ∧
        (∀ j, j ≠ g → t.core.cell j = s.core.cell j) ∧
        KeepsRegs [Fd.CEL_SEQ_STS_HOLD g, Fd.CEL_STS_EV_PEND g, Fd.CEL_LEAD_STS_LEAD_MIN g] s.core t.core ∧ t.mem = s.mem ∧ t.pending = s.pending)) ∧
      (t0.s0 + t0.dl ≤ s.core.now → (∀ v, (s.core.cell g).waitV t0 = some v → t0.s0 + t0.dl < v) → Completes (.waitExpiry g) s (fun t =>
        (t.core.cell g).ctx = { (s.core.cell g).ctx with cur := none, stamp := gridFrom t0.s0 (t0.s0 + t0.dl + 24), pc := t0.deft, zt := 0 } ∧
        t.core.get (Fd.CEL_SEQ_STS_HOLD g) = 0 ∧ t.core.get (Fd.CEL_SEQ_STS_WAIT_EXP g) = 1 ∧ (t.core.cell g).phx.dec = 128#8 ∧
        (∀ j, j ≠ g → t.core.cell j = s.core.cell j) ∧
        (bitAt (s.core.get (Fd.CEL_CFG_EV_EN g)) 1 = true → bitAt (t.core.get (Fd.CEL_STS_EV_PEND g)) 1 = true) ∧
        KeepsRegs [Fd.CEL_SEQ_STS_HOLD g, Fd.CEL_STS_EV_PEND g, Fd.CEL_SEQ_STS_WAIT_EXP g, Fd.CEL_SEQ_CNT1_WAIT_EXPIRED g, Fd.CEL_LEAD_STS_LEAD_MIN g] s.core t.core ∧
        t.mem = s.mem ∧ t.pending = s.pending))) ∧
    (∀ h, (s.core.cell g).sigs.find? (fun h => decide (h.stamp ≤ s.core.now)) = some h → s.core.svc = true →
      Completes (.signalPost g) s (fun t => (t.core.cell g).sigs = (s.core.cell g).sigs.filter (fun k => !(k.no == h.no && k.stamp == h.stamp)) ∧
        t.core.bus = s.core.bus ++ (if s.core.parked (cellR g) then [] else
          [{ seq := s.core.busSeq, kind := .sig, src := g, sub := h.no, cls := h.val, inv := s.core.get (Fd.CEL_STS_STATE g) == 3,
             latch := h.stamp, base := h.stamp, rgn := cellR g }]) ∧
        t.core.busSeq = s.core.busSeq + (if s.core.parked (cellR g) then 0 else 1) ∧
        (∀ j, j ≠ g → t.core.cell j = s.core.cell j) ∧ KeepsRegs [] s.core t.core ∧ t.mem = s.mem ∧ t.pending = s.pending)) ∧
    (∀ w rest late, (s.core.cell g).ro.wins = w :: rest → w.ct = 0 → s.core.svc = true →
      let l := w.m0 + 2 * w.dur - 1 + 11 + (if s.core.get (Fd.CEL_CFG_PHX_INLINE g) = 0 then 0 else s.core.get (Fd.CEL_RO_CFG_PHX_DELAY g))
      (w.dead = true ∧ l ≤ s.core.now ∧ late = false ∨ w.dead = false ∧ w.posted = w.dur ∧ ∃ p, w.postedAt = some p ∧
        (p ≤ l ∧ l ≤ s.core.now ∧ late = false ∨ l < p ∧ p + 1 ≤ s.core.now ∧ late = true)) →
      Completes (.discriminatorLatch g) s (fun t => (∀ v ∈ (t.core.cell g).ro.wins, v.id ≠ w.id) ∧
        t.core.get (Fd.CEL_RO_STS_LAST_MT g) = w.mt % 8 ∧
        ((s.core.cell g).ro.nslot < s.core.get (Fd.CEL_RO_CFG_NSLOT g) → (t.core.cell g).ro.nslot = (s.core.cell g).ro.nslot + 1) ∧
        (s.core.get (Fd.CEL_RO_CFG_NSLOT g) ≤ (s.core.cell g).ro.nslot → (t.core.cell g).ro.nslot = (s.core.cell g).ro.nslot ∧ t.core.get (Fd.CEL_RO_STS_SLOT_OVF g) = 1) ∧
        (s.core.parked (cellR g) = false → mtDmode (mtEntry s.mem g w.mt) ≠ 0 → ∃ i, t.core.bus = s.core.bus ++ [i] ∧ i.kind = .dec ∧ i.src = g ∧
          i.latch = l ∧ i.base = (if late then s.core.now else l)) ∧
        (s.core.get (Fd.CEL_CFG_PHX_INLINE g) = 0 → w.n = 2 * w.dur * s.core.bandRate g → w.stale = false → (s.core.cell g).ro.nslot < s.core.get (Fd.CEL_RO_CFG_NSLOT g) →
          let e := mtEntry s.mem g w.mt
          let r := cxNarrow 16 (mtRshift e) (w.accI, w.accQ)
          let raw := rawClass e (s.core.thr g w.mt) r
          let x := (s.core.frameNow g).1
          let bad := w.late || late || (s.core.cell g).ro.lost.any (fun t => decide (w.m0 ≤ t) && decide (t ≤ w.m1))
          Tbl.get (fun _ => 0) (t.core.cell g).ro.slots (s.core.cell g).ro.nslot =
            mkSlot r.1 r.2 (if x then (if raw = 0 then 1 else if raw = 1 then 0 else raw) else raw) raw (!bad && !(w.dead || s.core.parked (cellR g))) bad w.ovr
              (cxHits 16 (mtRshift e) (w.accI, w.accQ)) false x w.mt (l - (s.core.rgn (cellR g)).shot.ts)) ∧
        (s.core.parked (cellR g) = true ∨ mtDmode (mtEntry s.mem g w.mt) = 0 → t.core.bus = s.core.bus) ∧ t.mem = s.mem ∧ t.pending = s.pending)) ∧
    (∀ x, x < 8 → s.core.svc = true → s.core.parked (cellR g) = false →
      s.core.get (Fd.CEL_STS_STATE g) = 3 ∨ (s.core.get (Fd.CEL_STS_STATE g) = 1 ∨ s.core.get (Fd.CEL_STS_STATE g) = 2) ∧ (s.core.cell g).zeroAt = none →
      let w := (s.core.cell g).slot x
      let fit := fun (i : BusItem) => decide (w.seen < i.seq) && watchMatch (watchEntry s.mem s.core g x) i && decide (availTick (cellR g) i ≤ s.core.now)
      (∀ i, s.core.bus.find? fit = some i → flawAt s.mem 1 (g * 4096 + s.core.seqW g + (8 + 4 * x) / 8) = none → Completes (.watchSlotFill g x) s (fun t =>
        (t.core.cell g).slot x = { full := true, cls := i.cls, inv := i.inv, a := if w.full then w.a else availTick (cellR g) i, missed := false, seen := i.seq } ∧
        (∀ y, y ≠ x → (t.core.cell g).slot y = (s.core.cell g).slot y) ∧ (w.full = true → t.core.get (Fd.CEL_SEQ_STS_SLOT_OVW g) = 1) ∧
        (t.core.cell g).phx.dec = decByte i.cls (!i.inv) w.missed x false ∧ (bitAt (s.core.get (Fd.CEL_CFG_EV_EN g)) 1 = true → bitAt (t.core.get (Fd.CEL_STS_EV_PEND g)) 1 = true) ∧
        KeepsRegs [Fd.CEL_SEQ_STS_SLOT_OVW g, Fd.CEL_SEQ_STS_SLOT_FULL g, Fd.CEL_STS_EV_PEND g] s.core t.core ∧ t.mem = s.mem ∧ t.pending = s.pending)) ∧
      (s.core.bus.find? fit = none → Gives (.watchSlotFill g x) s s.core)) ∧
    (∀ x, s.core.get (Fd.CEL_STS_STATE g) = 0 ∨ s.core.parked (cellR g) = true → Gives (.watchSlotFill g x) s s.core)

/-- R183, R186, R187, R190, R239-R243, R245, R247, R248, R259 and R260. -/
def Obligations.FabricReachesPinsAndPorts : Prop :=
  ∀ s : State, s.core.svc = true →
    (∀ v d rest, v < 64 → (s.core.vec v).runs = d :: rest → (d.closed = true → d.se + 1 ≤ s.core.now → Completes (.compareRunPost v) s (fun t =>
      (t.core.vec v).runs = rest ∧ t.core.bus = s.core.bus ++ (if s.core.parked (v / 8) then [] else
        [{ seq := s.core.busSeq, kind := .vec, src := v, sub := 0, cls := b2n d.fail, inv := d.inval, latch := d.se + 1, base := d.se + 1, rgn := v / 8 }]) ∧
      (s.core.parked (v / 8) = false → d.fail = true → t.core.get (Fd.VIO_CNT_RUNS_FAILED (v / 8) (v % 8)) =
        min (2 ^ (Fd.VIO_CNT_RUNS_FAILED (v / 8) (v % 8)).w - 1) (s.core.get (Fd.VIO_CNT_RUNS_FAILED (v / 8) (v % 8)) + 1)) ∧
      (∀ j, j ≠ v → t.core.vec j = s.core.vec j) ∧ (s.core.parked (v / 8) = true ∨ d.fail = false → KeepsRegs [] s.core t.core) ∧
      KeepsRegs [Fd.VIO_CNT_RUNS_FAILED (v / 8) (v % 8)] s.core t.core ∧ t.mem = s.mem ∧ t.pending = s.pending)) ∧
      (d.closed = false ∨ s.core.now < d.se + 1 → Gives (.compareRunPost v) s s.core)) ∧
    (∀ v mv a code b, v < 64 → (s.core.vec v).sig.find? (fun k => k.1 == s.core.now) = some (a, code, b) → 4 ≤ code → code ≤ 9 →
      let r := v / 8
      let w := v % 8
      let lv := if mv < 8 * s.core.get (Fd.VIO_PIN_THR_VTL r w) then 0 else if 8 * s.core.get (Fd.VIO_PIN_THR_VTH r w) < mv then 2 else 1
      Completes (.vectorStrobe v mv) s (fun t => t.core.get (Fd.VIO_STS_LEVEL r w) = lv ∧
        (t.core.vec v).sig = (s.core.vec v).sig.map (fun k => if k.1 = s.core.now then (k.1, 0, k.2.2) else k) ∧
        (compareFails code lv = true → t.core.get (Fd.VIO_STS_FAIL r w) = 1 ∧ t.core.get (Fd.VIO_FIRST_VALID r w) = 1 ∧
          t.core.get (Fd.VIO_CNT_FAIL_TICKS r w) = min (2 ^ (Fd.VIO_CNT_FAIL_TICKS r w).w - 1) (s.core.get (Fd.VIO_CNT_FAIL_TICKS r w) + 1) ∧
          (t.core.vec v).runs = (s.core.vec v).runs.map (fun d => if d.s0 ≤ s.core.now ∧ s.core.now ≤ d.se then { d with fail := true } else d) ∧
          (s.core.get (Fd.VIO_FIRST_VALID r w) = 0 → t.core.get (Fd.VIO_FIRST_CODE r w) = code ∧ t.core.get (Fd.VIO_FIRST_LEVEL r w) = lv ∧
            t.core.get (Fd.VIO_FIRST_LATCH r w) = min 0x3FFFF (s.core.now - (s.core.rgn r).shot.ts)) ∧
          (s.core.get (Fd.VIO_FIRST_VALID r w) = 1 → t.core.get (Fd.VIO_FIRST_CODE r w) = s.core.get (Fd.VIO_FIRST_CODE r w))) ∧
        (compareFails code lv = false → KeepsRegs [Fd.VIO_STS_LEVEL r w] s.core t.core ∧ (t.core.vec v).runs = (s.core.vec v).runs) ∧
        (∀ j, j ≠ v → t.core.vec j = s.core.vec j) ∧ t.mem = s.mem ∧ t.pending = s.pending)) ∧
    (∀ (c : Core) (x k : Nat) (level : Bool), x < 4 → c.svc = true →
      (∀ d, d = c.trigEdge x k level → bitAt (d.get Fd.CHP_TRIG_IN_STS_SEEN) x = true ∧ d.trigLvl x = level ∧
        d.get (Fd.CHP_TRIG_IN_CNT_EDGES x) = min (2 ^ (Fd.CHP_TRIG_IN_CNT_EDGES x).w - 1) (c.get (Fd.CHP_TRIG_IN_CNT_EDGES x) + 1) ∧
        d.bus = c.bus ++ (if bitAt (c.get (Fd.CHP_TRIG_IN_CFG_EDGE x)) (if level then 0 else 1) then
          [{ seq := c.busSeq, kind := .trig, src := x, sub := 0, cls := 1, inv := false, latch := c.now, base := c.now, rgn := 0 }] else []) ∧
        (let takes : Prop := c.ser.trig = x ∧ (c.ser.mode = 3 ∨ c.ser.mode = 2 ∧ c.ser.next = 0) ∧ (c.ser.begun = true → c.ser.lastEnd ≤ c.now) ∧ c.ser.shotOn = false ∧
           c.ser.stopping = false ∧ c.ser.ts = none ∧ (c.runIs .armed = true ∨ c.runIs .running = true)
         let cap := if c.get Fd.THM_STS_CAPPED = 1 then max 500 (c.get Fd.THM_CAP_CAP_PERIOD) else 0
         (takes → d.ser.ts = some (max (max (c.now + 64) (if c.ser.begun then c.ser.lastTs + max c.ser.period cap else 0)) c.ser.lastEnd)) ∧ (¬ takes → d.ser = c.ser))) ∧
      (c.pins.trigRaw.find? (fun e => e.1 == x) = some (x, k, level) → c.trigLvl x ≠ level → k + c.get (Fd.CHP_TRIG_IN_CFG_WIDTH x) ≤ c.now →
        c.trigQualify x = c.trigEdge x k level) ∧
      (c.pins.trigRaw.find? (fun e => e.1 == x) = some (x, k, level) → c.trigLvl x = level ∨ c.now < k + c.get (Fd.CHP_TRIG_IN_CFG_WIDTH x) → c.trigQualify x = c)) ∧
    (∀ x level, x < 4 →
      (match s.core.pins.trigRaw.find? (fun e => e.1 == x) with
       | some (_, k, l) => l ≠ level ∧ (s.core.running = true → k ≠ s.core.now)
       | none => level = true) →
      let c : Core := { s.core with pins := { s.core.pins with trigRaw := Tbl.insert s.core.pins.trigRaw x (s.core.now, level) } }
      let d := c.put Fd.CHP_TRIG_IN_STS_LEVEL (putBits (s.core.get Fd.CHP_TRIG_IN_STS_LEVEL) x 1 (b2n level))
      (∀ k, k ≠ s.core.now → Gives (.trigInEdge x level k) s s.core) ∧
      (s.core.trigLvl x = level → Gives (.trigInEdge x level s.core.now) s (d.inc (Fd.CHP_TRIG_IN_CNT_GLITCH x) 1)) ∧
      (s.core.trigLvl x ≠ level → 0 < s.core.get (Fd.CHP_TRIG_IN_CFG_WIDTH x) → Gives (.trigInEdge x level s.core.now) s d) ∧
      (s.core.trigLvl x ≠ level → s.core.get (Fd.CHP_TRIG_IN_CFG_WIDTH x) = 0 → Gives (.trigInEdge x level s.core.now) s (d.trigEdge x s.core.now level))) ∧
    (∀ x, x < 4 →
      let src := s.core.get (Fd.CHP_TRIG_OUT_CFG_SRC x)
      let sel := s.core.get (Fd.CHP_TRIG_OUT_CFG_SEL x)
      let stop := if src = 2 ∨ src = 6 then 0 else s.core.now + max 1 (s.core.get (Fd.CHP_TRIG_OUT_CFG_WIDTH x))
      let high := ∃ k ∈ (s.core.vec sel).sig, k.1 = s.core.now ∧ k.2.2 = 1
      let starts := src = 1 ∧ s.core.ser.shotOn = true ∧ s.core.ser.lastTs = s.core.now ∨ src = 2 ∧ high ∨
        src = 3 ∧ (∃ i ∈ s.core.bus, i.kind = .dec ∧ i.src = sel ∧ i.inv = false ∧ bitAt (s.core.get (Fd.CHP_TRIG_OUT_CFG_CLASSMASK x)) i.cls = true ∧ i.base + 6 = s.core.now) ∨
        src = 4 ∧ (∃ t ∈ (s.core.acq sel).trigs, t + 34 = s.core.now) ∨ src = 5 ∧ 1 ≤ sel ∧ s.core.running = true ∧ s.core.now % 2 ^ sel = 0 ∨
        src = 6 ∧ s.core.trigSince sel true = true
      (starts → s.core.get Fd.CHP_FAULT_STS_FAULT = 0 →
        Gives (.trigOutStart x) s { s.core with pins := { s.core.pins with trigOut := Tbl.insert s.core.pins.trigOut x stop } }) ∧
      (¬ starts ∨ s.core.get Fd.CHP_FAULT_STS_FAULT = 1 → Gives (.trigOutStart x) s s.core) ∧
      (∀ e, s.core.pins.trigOut.find? (fun k => k.1 == x) = some (x, e) →
        (e ≠ 0 ∧ e ≤ s.core.now ∨ e = 0 ∧ src = 2 ∧ ¬ high ∨ e = 0 ∧ src = 6 ∧ s.core.trigSince sel false = true ∨ e = 0 ∧ src ≠ 2 ∧ src ≠ 6) →
        Gives (.trigOutEnd x) s { s.core with pins := { s.core.pins with trigOut := Tbl.erase s.core.pins.trigOut x } })) ∧
    (∀ p, p < 4 →
      let mine := fun (i : BusItem) => i.kind == .dec && !bitAt i.exp p && decide (i.base + 2 ≤ s.core.now) && !(s.core.exportOf p i.src).isEmpty
      (∀ f, s.core.bus.find? mine = some f →
        let grp := fun (i : BusItem) => mine i && i.latch == f.latch && i.base == f.base
        let codes := (s.core.bus.filter grp).foldl (fun a i => (s.core.exportOf p i.src).foldl (fun a e => putBits a (16 + 3 * e) 3 (flitCode i.cls i.inv)) a) (f.latch % 65536)
        Gives (.decisionFlitSend p) s (({ s.core with bus := s.core.bus.map (fun i => if grp i then { i with exp := i.exp + 2 ^ p } else i) }).sendExpress p 0 codes) ∧
        (s.core.get Fd.CHP_FAULT_STS_FAULT = 0 → s.core.get (Fd.SZL_PORT_STS_STATE p) = 2 → (s.core.book (bookKey 7 0 (2 * p))).inflight < 8 →
          (∀ w ∈ (s.core.port p).want, w.1 ≠ 0) → Completes (.decisionFlitSend p) s (fun t =>
          (t.core.port p).txq = (s.core.port p).txq ++ [{ v := 0, seq := 0, tick := s.core.now, load := codes }] ∧
          (t.core.book (bookKey 7 0 (2 * p))).inflight = (s.core.book (bookKey 7 0 (2 * p))).inflight + 1 ∧
          t.core.bus = s.core.bus.map (fun i => if grp i then { i with exp := i.exp + 2 ^ p } else i) ∧ (∀ q, q ≠ p → t.core.port q = s.core.port q) ∧
          KeepsRegs [] s.core t.core ∧ t.mem = s.mem ∧ t.pending = s.pending))) ∧
      ((∀ i ∈ s.core.bus, mine i = false) → Gives (.decisionFlitSend p) s s.core) ∧
      (∀ l load rest, (s.core.port p).hold = (l, load) :: rest → l + 22 ≤ s.core.now → Completes (.decisionFlitDeliver p) s (fun t =>
        (t.core.port p).hold = rest ∧ (∃ is, t.core.bus = s.core.bus ++ is ∧
          (∀ e, e < 80 → s.core.get (Fd.CHP_DEC_IMPORT_EN p e) = 1 → bitsOf load (16 + 3 * e) 3 ≠ 0 → bitsOf load (16 + 3 * e) 3 ≠ 7 →
            ∃ i ∈ is, i.kind = .remote ∧ i.src = s.core.get (Fd.CHP_DEC_IMPORT_CELL p e) ∧ i.sub = p ∧ i.latch = l ∧ i.base = l + 22 ∧
              flitCode i.cls i.inv = bitsOf load (16 + 3 * e) 3) ∧
          (∀ i ∈ is, i.kind = .remote ∧ i.sub = p ∧ i.latch = l ∧ i.base = l + 22)) ∧
        KeepsRegs [] s.core t.core ∧ t.mem = s.mem ∧ t.pending = s.pending))) ∧
    (∀ g, g < 2304 → Completes (.frameWriteTick g) s (fun t =>
      (t.core.cell g).frameOps = (s.core.cell g).frameOps.filter (fun o => !decide (o.tick ≤ s.core.now)) ∧
      KeepsRegs [Fd.CEL_FRAME_X g, Fd.CEL_FRAME_Z g, Fd.CEL_FRAME_TOGGLES g] s.core t.core ∧ t.mem = s.mem ∧ t.pending = s.pending ∧
      (let y := s.core.frameLog g
       let ops := (s.core.cell g).frameOps.filter (fun o => decide (o.tick ≤ s.core.now))
       let tg := fun (z : Bool) => xorAll (((s.core.rgn (cellR g)).toggles.filter (fun u => u.cell == g && decide (u.tick ≤ s.core.now) && u.z == z)).map (fun _ => true))
       frameRun y.2 y.1 = (s.core.on (Fd.CEL_FRAME_X g), s.core.on (Fd.CEL_FRAME_Z g)) → (∀ e ∈ (s.core.cell g).frLog, e.tick < s.core.now) →
       s.core.role g = 1 ∨ s.core.role g = 2 →
        t.core.get (Fd.CEL_FRAME_X g) = b2n (Bool.xor (ops.foldl (fun b o => frameOp o.xop b) (s.core.on (Fd.CEL_FRAME_X g))) (tg false)) ∧
        t.core.get (Fd.CEL_FRAME_Z g) = b2n (Bool.xor (ops.foldl (fun b o => frameOp o.zop b) (s.core.on (Fd.CEL_FRAME_Z g))) (tg true))))) ∧
    (∀ (c : Core) (g : Nat),
      let x := c.cell g
      let was := frameRun x.frBase (x.frLog.filter (fun k => decide (k.tick < c.now)))
      let is := frameRun x.frBase (x.frLog.filter (fun k => decide (k.tick ≤ c.now)))
      (was = is → c.frameTick g = c) ∧
      (was ≠ is → bitAt (c.get (Fd.CEL_CFG_EV_EN g)) 3 = true → bitAt ((c.frameTick g).get (Fd.CEL_STS_EV_PEND g)) 3 = true)) ∧
    (∀ (c : Core) (r w e : Nat), r < 8 → w < 8 →
      let x := c.cell (r * 288 + c.get (Fd.VIO_PIN_CFG_SRC r w))
      let rest := c.get (Fd.VIO_PIN_CFG_REST r w)
      let y := (c.vecRest r w).vec (8 * r + w)
      c.get (Fd.VIO_PIN_CFG_EN r w) = 1 → x.endAt = some e → x.zeroAt = none →
      (∀ d ∈ y.runs, d.closed = true) ∧
      (∀ k ∈ (c.vec (8 * r + w)).sig, (k.1 < c.now ∨ k.1 ≤ e + 17 → k ∈ y.sig) ∧
        (c.now ≤ k.1 → e + 17 < k.1 → k.2.1 ≠ 17 → (k.1, 0, if rest = 1 then 0 else if rest = 2 then 1 else 2) ∈ y.sig)))

/-- R195-R199 and R205. -/
def Obligations.RoundsOpenAndClose : Prop :=
  ∀ (s : State) (r : Nat), r < 8 →
    let y := (s.core.rgn r).synd
    (∀ p dl n rest, y.opens = (p, dl, n) :: rest → p ≤ s.core.now → s.core.parked r = false →
      let told := y.rounds.map (fun d => if d.pNext = none then { d with pNext := some p } else d)
      (s.core.get (Fd.RGN_SYND_CTL_EN r) = 0 → Completes (.roundOpen r) s (fun t => (t.core.rgn r).synd = { y with opens := rest } ∧
        t.core.get (Fd.RGN_SYND_CNT2_IGNORED r) = min (2 ^ (Fd.RGN_SYND_CNT2_IGNORED r).w - 1) (s.core.get (Fd.RGN_SYND_CNT2_IGNORED r) + n) ∧
        KeepsRegs [Fd.RGN_SYND_CNT2_IGNORED r] s.core t.core ∧ t.mem = s.mem ∧ t.pending = s.pending)) ∧
      (s.core.get (Fd.RGN_SYND_CTL_EN r) = 1 → (∀ d, y.rounds.getLast? = some d → d.p ≠ p) → (s.core.rgn r).shot.d0 = none → Completes (.roundOpen r) s (fun t =>
        (t.core.rgn r).synd = { y with opens := rest, nextNo := (y.nextNo + 1) % 256, flits := (y.flits.map (fun f => { f with age := f.age + 1 })).filter (fun f => decide (f.age ≤ 256)), rounds := told ++ [Round.open y.nextNo p dl] } ∧
        t.core.get (Fd.RGN_SYND_STS_ROUND r) = y.nextNo % 256 ∧ t.core.get (Fd.RGN_SYND_STS_BUSY r) = 1 ∧
        KeepsRegs [Fd.RGN_SYND_STS_ROUND r, Fd.RGN_SYND_STS_BUSY r] s.core t.core ∧ t.mem = s.mem ∧ t.pending = s.pending)) ∧
      (s.core.get (Fd.RGN_SYND_CTL_EN r) = 1 → (∀ d, y.rounds.getLast? = some d → d.p ≠ p) → (s.core.rgn r).shot.d0 ≠ none → Completes (.roundOpen r) s (fun t =>
        (t.core.rgn r).synd = { y with opens := rest, nextNo := (y.nextNo + 1) % 256, flits := (y.flits.map (fun f => { f with age := f.age + 1 })).filter (fun f => decide (f.age ≤ 256)), rounds := (t.core.rgn r).synd.rounds } ∧
        (t.core.rgn r).synd.rounds.length = y.rounds.length + 1 ∧ (∀ d ∈ (t.core.rgn r).synd.rounds, d.close ≠ none) ∧
        t.core.get (Fd.RGN_SYND_STS_ROUND r) = y.nextNo % 256 ∧
        KeepsRegs [Fd.RGN_SYND_STS_ROUND r, Fd.RGN_SYND_STS_BUSY r, Fd.RGN_SYND_CNT0_ROUNDS r, Fd.RGN_SYND_STS_CUT r, Fd.RGN_SYND_CNT2_LATE_IN r] s.core t.core ∧
        t.mem = s.mem ∧ t.pending = s.pending)) ∧
      (∀ d, s.core.get (Fd.RGN_SYND_CTL_EN r) = 1 → y.rounds.getLast? = some d → d.p = p → Completes (.roundOpen r) s (fun t =>
        (t.core.rgn r).synd = { y with opens := rest, rounds := y.rounds.map (fun d => if d.p = p ∧ d.close = none then { d with dl := max d.dl dl } else d) } ∧
        KeepsRegs [] s.core t.core ∧ t.mem = s.mem ∧ t.pending = s.pending))) ∧
    (∀ pre d post, y.rounds = pre ++ d :: post → (∀ e ∈ pre, e.close ≠ none) → d.close = none → s.core.parked r = false → s.core.roundClose s.mem r d ≤ s.core.now →
      let k := s.core.roundClose s.mem r d
      let took := (synUsed s.mem r).filterMap (fun u => match s.core.roundItem s.mem r d u with
        | some i => if i.atRgn r ≤ k then some (u, i.cls, i.inv) else none
        | none => none)
      Completes (.roundClose r) s (fun t => (t.core.rgn r).synd = { y with rounds := pre ++ { d with
          inputs := took, missing := (synUsed s.mem r).filter (fun u => !(took.any (fun e => e.1 == u))), close := some k,
          cut := d.pNext == some k, deadl := decide (d.p + d.dl ≤ k) } :: post } ∧
        t.core.get (Fd.RGN_SYND_CNT0_ROUNDS r) = min (2 ^ (Fd.RGN_SYND_CNT0_ROUNDS r).w - 1) (s.core.get (Fd.RGN_SYND_CNT0_ROUNDS r) + 1) ∧
        (d.pNext = some k → t.core.get (Fd.RGN_SYND_STS_CUT r) = 1) ∧
        KeepsRegs [Fd.RGN_SYND_CNT0_ROUNDS r, Fd.RGN_SYND_STS_CUT r, Fd.RGN_SYND_CNT2_LATE_IN r] s.core t.core ∧ t.mem = s.mem ∧ t.pending = s.pending)) ∧
    (∀ pre d post k, y.rounds = pre ++ d :: post → (∀ e ∈ pre, e.formed = true) → d.formed = false → d.close = some k → k + 4 ≤ s.core.now →
      Completes (.defectForm r) s (fun t =>
        let f := formRound s.mem r y.prevB y.prevE d
        (t.core.rgn r).synd = { y with rounds := pre ++ f :: post, prevB := f.bits, prevE := f.era } ∧
        (s.core.get (Fd.RGN_SYND_CFG_NREC r) ≤ pre.length → t.core.get (Fd.RGN_SYND_STS_REC_OVF r) = 1) ∧
        (s.core.get (Fd.RGN_SYND_CFG_EXP_EN r) = 0 ∨ d.dead = true → t.core.ports = s.core.ports ∧ KeepsRegs [Fd.RGN_SYND_STS_REC_OVF r] s.core t.core) ∧
        (s.core.get (Fd.RGN_SYND_CFG_EXP_EN r) = 1 → d.dead = false → s.core.get Fd.CHP_FAULT_STS_FAULT = 0 →
          s.core.get (Fd.SZL_PORT_STS_STATE (s.core.get (Fd.RGN_SYND_CFG_EXP_PORT r))) = 2 →
          (s.core.book (bookKey 7 0 (2 * s.core.get (Fd.RGN_SYND_CFG_EXP_PORT r) + 1))).inflight < 8 →
          (∀ w ∈ (s.core.port (s.core.get (Fd.RGN_SYND_CFG_EXP_PORT r))).want, w.1 ≠ 1) →
          (t.core.port (s.core.get (Fd.RGN_SYND_CFG_EXP_PORT r))).txq = (s.core.port (s.core.get (Fd.RGN_SYND_CFG_EXP_PORT r))).txq ++
            [{ v := 1, seq := 0, tick := s.core.now, load := r + f.no * 2 ^ 3 + exportBits s.mem r f.d * 2 ^ 16 + exportBits s.mem r f.era * 2 ^ 48 }]) ∧
        t.mem = s.mem ∧ t.pending = s.pending)) ∧
    (∀ (prevB prevE : Nat) (d : Round) (k : Nat), k < 64 →
      let f := formRound s.mem r prevB prevE d
      bitAt f.d k = (bitAt (chkWord s.mem r k) 0 && Bool.xor (checkBits s.mem r d k).1 (bitAt (chkWord s.mem r k) 1 && bitAt prevB k)) ∧
      bitAt f.era k = (bitAt (chkWord s.mem r k) 0 && ((checkBits s.mem r d k).2 || (bitAt (chkWord s.mem r k) 1 && bitAt prevE k))))

/-- R199-R204. -/
def Obligations.RoundsAreLookedUp : Prop :=
  ∀ (s : State) (r : Nat), r < 8 →
    let y := (s.core.rgn r).synd
    (∀ (p : Nat) (f : DefFlit),
      let fits := fun (f : DefFlit) (d : Round) => d.no == f.no && !d.got.contains (f.port, f.rgn)
      y.flits.find? (fun f => f.port == p && decide (f.tick ≤ s.core.now) && y.rounds.any (fits f)) = some f →
      ((f.port, f.rgn) ∉ impNeeds s.mem r → Completes (.defectImport p r) s (fun t => (t.core.rgn r).synd = { y with flits := y.flits.erase f } ∧
        KeepsRegs [] s.core t.core ∧ t.mem = s.mem ∧ t.pending = s.pending)) ∧
      (∀ pre d post, (f.port, f.rgn) ∈ impNeeds s.mem r → y.rounds = pre ++ d :: post → (∀ e ∈ pre, fits f e = false) → fits f d = true →
        (d.expired = true ∨ d.fin = true → Completes (.defectImport p r) s (fun t =>
          (t.core.rgn r).synd = { y with flits := y.flits.erase f, rounds := pre ++ { d with got := d.got ++ [(f.port, f.rgn)] } :: post } ∧
          t.core.get (Fd.RGN_SYND_CNT2_IMPORT_LATE r) = min (2 ^ (Fd.RGN_SYND_CNT2_IMPORT_LATE r).w - 1) (s.core.get (Fd.RGN_SYND_CNT2_IMPORT_LATE r) + 1) ∧
          KeepsRegs [Fd.RGN_SYND_CNT2_IMPORT_LATE r] s.core t.core ∧ t.mem = s.mem ∧ t.pending = s.pending)) ∧
        (d.expired = false → d.fin = false → Completes (.defectImport p r) s (fun t =>
          ∃ d', (t.core.rgn r).synd = { y with flits := y.flits.erase f, rounds := pre ++ d' :: post } ∧
            d' = { d with got := d.got ++ [(f.port, f.rgn)], imp := d'.imp, impEra := d'.impEra, impAt := max d.impAt (max f.tick d.p) } ∧
            (∀ k, bitAt d'.imp k = true ↔ bitAt d.imp k = true ∨ ∃ e ∈ impUsed s.mem r, e.1 = k ∧ e.2.1 = f.port ∧ e.2.2.1 = f.rgn ∧ bitAt f.dfx e.2.2.2 = true) ∧
            (∀ k, bitAt d'.impEra k = true ↔ bitAt d.impEra k = true ∨ ∃ e ∈ impUsed s.mem r, e.1 = k ∧ e.2.1 = f.port ∧ e.2.2.1 = f.rgn ∧ bitAt f.era e.2.2.2 = true) ∧
            KeepsRegs [] s.core t.core ∧ t.mem = s.mem ∧ t.pending = s.pending)))) ∧
    (∀ pre d post,
      let due := fun (d : Round) => !d.fin && d.close.isSome && !impDone s.mem r d && decide (s.core.impLimit r d ≤ s.core.now)
      y.rounds = pre ++ d :: post → (∀ e ∈ pre, due e = false) → due d = true → Completes (.importDeadline r) s (fun t =>
        ∃ d', (t.core.rgn r).synd = { y with rounds := pre ++ d' :: post } ∧
          d' = { d with expired := true, deadl := true, impAt := max d.impAt (s.core.impLimit r d), impEra := d'.impEra } ∧
          (∀ k, bitAt d'.impEra k = true ↔ bitAt d.impEra k = true ∨ ∃ e ∈ impUsed s.mem r, e.1 = k ∧ (e.2.1, e.2.2.1) ∉ d.got) ∧
          KeepsRegs [] s.core t.core ∧ t.mem = s.mem ∧ t.pending = s.pending)) ∧
    (∀ pre d post, y.rounds = pre ++ d :: post → (∀ e ∈ pre, e.fin = true) → d.fin = false → d.close ≠ none → d.formed = true → impDone s.mem r d = true →
      s.core.parked r = false →
      let st := s.core.lookupStart r d
      let n := (grpUsed s.mem r).length
      (∀ x, (grpUsed s.mem r)[d.idx]? = some x → st.1 + 5 * (d.idx + 1) ≤ s.core.now → Completes (.groupLookup r) s (fun t =>
        ∃ d', (t.core.rgn r).synd = { y with rounds := pre ++ d' :: post } ∧ d'.start = some st.1 ∧ d'.stalled = st.2 ∧ d'.idx = d.idx + 1 ∧ d'.fin = false ∧
          (let e := lutEntry s.mem r (grpAddr s.mem r d x)
           let mode := s.core.get (Fd.RGN_SYND_CFG_ERASE_MODE r)
           let skip : Prop := mode = 1 ∧ grpErased s.mem r d x = true ∨ mode = 2 ∧ ∃ z ∈ grpUsed s.mem r, grpErased s.mem r d z = true
           (skip → d' = { d with start := some st.1, stalled := st.2, idx := d.idx + 1, prev := true } ∧ KeepsRegs [Fd.RGN_SYND_CNT2_STALL r] s.core t.core) ∧
           (¬ skip → d'.prev = d.prev ∧
            (bitAt e 31 = false → d'.togg = d.togg ∧ d'.applied = d.applied ∧ d'.esc = d.esc ∧
              t.core.get (Fd.RGN_SYND_CNT1_LUT_MISS r) = min (2 ^ (Fd.RGN_SYND_CNT1_LUT_MISS r).w - 1) (s.core.get (Fd.RGN_SYND_CNT1_LUT_MISS r) + 1)) ∧
            (bitAt e 31 = true → bitAt e 30 = true → d'.esc = d.esc + 2 ^ x ∧ d'.togg = d.togg ∧
              t.core.get (Fd.RGN_SYND_STS_ESC r) = 1) ∧
            (bitAt e 31 = true → bitAt e 30 = false → d'.applied = d.applied + 2 ^ x ∧ d'.esc = d.esc ∧
              d'.togg = xorTogg d.togg ((upFrom 0 16).filterMap (fun i => if bitAt e i then target s.mem r x i else none))))) ∧
          KeepsRegs [Fd.RGN_SYND_CNT2_STALL r, Fd.RGN_SYND_CNT1_LUT_MISS r, Fd.RGN_SYND_CNT0_ESC r, Fd.RGN_SYND_STS_ESC r] s.core t.core ∧
          t.mem = s.mem ∧ t.pending = s.pending)) ∧
      (d.idx = n → st.1 + 5 * n ≤ s.core.now → Completes (.toggleSend r) s (fun t =>
        (t.core.rgn r).synd = { y with freeAt := st.1 + 5 * n, rounds := pre ++ { d with fin := true, start := some st.1, stalled := st.2 } :: post } ∧
        (d.esc ≠ 0 → ∃ e ∈ t.core.host.evq, e.code = 0x30 ∧ e.index = r ∧ e.arg0 = d.no % 2 ^ 64) ∧
        (d.prev = true → t.core.get (Fd.RGN_SYND_STS_ERASURE r) = 1 ∧ ∃ e ∈ t.core.host.evq, e.code = 0x31 ∧ e.index = r) ∧
        (s.core.get (Fd.RGN_SYND_CTL_APPLY r) = 1 → d.dead = false → ∀ a ∈ d.togg,
          { cell := a.1, z := a.2, tick := st.1 + 5 * n + (if cellR a.1 = r then 4 else 8), src := r } ∈ (t.core.rgn (cellR a.1)).toggles) ∧
        (s.core.get (Fd.RGN_SYND_CTL_APPLY r) = 0 ∨ d.dead = true ∨ d.togg = [] → ∀ q, (t.core.rgn q).toggles = (s.core.rgn q).toggles) ∧
        KeepsRegs [Fd.RGN_SYND_CNT2_STALL r, Fd.RGN_SYND_CNT1_ERASED r, Fd.RGN_SYND_STS_ERASURE r, Fd.RGN_SYND_STS_BUSY r] s.core t.core ∧
        t.mem = s.mem ∧ t.pending = s.pending)))

/-- R214-R219, R221, R225, R229 and R230. -/
def Obligations.ChannelsArmAndTrigger : Prop :=
  ∀ (s : State) (ch : Nat), ch < 32 →
    let r := ch / 4
    let h := ch % 4
    let a := s.core.acq ch
    (s.core.svc = true →
      (let img := s.core.acqRegs r h
       let b : Acq := { Acq.init with img := img }
       s.core.rOk r = true →
       (s.core.parked r = false → s.core.acqState ch = 0 → CaptureNames s.core ch img → CaptureFits img → Completes (.arm ch) s (fun t => t.core.acqState ch = 1 ∧
          { t.core.acq ch with armUp := false, armDn := false, dets := [] } =
            { a with img := img, y := s.core.now, s1 := s.core.now, qAt := some s.core.now, kHist := [(0, b.decim)], chkAt := none, kReset := false, forced := false,
                     armUp := false, armDn := false, pre := s.core.srcHist (srcKey r b.src b.unit b.input), plate := none, dets := [], plateNo := 0 } ∧
          ((∀ e ∈ s.core.srcHist (srcKey r b.src b.unit b.input), e.tick < s.core.now) → (t.core.acq ch).dets = []) ∧
          t.core.get (Fd.ACQ_CH_STS_K r h) = b.decim ∧
          (∀ k, k ≠ ch → t.core.acq k = s.core.acq k) ∧ KeepsRegs [Fd.ACQ_CH_STS_STATE r h, Fd.ACQ_CH_STS_K r h] s.core t.core ∧ t.mem = s.mem ∧ t.pending = s.pending)) ∧
       (s.core.acqState ch ≠ 0 ∨ s.core.parked r = true ∨ ¬ CaptureNames s.core ch img ∨ ¬ CaptureFits img → Gives (.arm ch) s (s.core.put (Fd.ACQ_CH_STS_CFG_ERR r h) 1))) ∧
      (s.core.acqState ch ≠ 0 → Completes (.disarm ch) s (fun t => t.core.acqState ch = 0 ∧ (t.core.acq ch).plate = none ∧ (t.core.acq ch).dets = [] ∧
        (a.dets = [] → a.plate = none → t.core.acq ch = a ∧ KeepsRegs [Fd.ACQ_CH_STS_STATE r h] s.core t.core) ∧
        (∀ p, a.dets = [] → a.plate = some p → a.tails = [] → (t.core.acq ch).plateNo = (a.plateNo + 1) % 2 ^ 32 ∧
          ((∀ e ∈ a.pre.head?, e.tick * e.spt + e.sub + 1 < s.core.now * e.spt) →
            (t.core.acq ch).tails = [{ stop := s.core.now, img := a.img, y := a.y, kHist := a.kHist, pre := a.pre, no := a.plateNo, plate := p }] ∧
            (t.core.acq ch).outs = a.outs ∧ KeepsRegs [Fd.ACQ_CH_STS_STATE r h] s.core t.core) ∧
          (∀ e rest, a.pre = e :: rest → s.core.now * e.spt ≤ e.tick * e.spt + e.sub + 1 → (t.core.acq ch).tails = [] ∧
            (∃ o, (t.core.acq ch).outs = a.outs ++ [o] ∧ o.no = a.plateNo) ∧
            t.core.get (Fd.ACQ_CH_CNT_PLATES r h) = min (2 ^ (Fd.ACQ_CH_CNT_PLATES r h).w - 1) (s.core.get (Fd.ACQ_CH_CNT_PLATES r h) + 1))) ∧
        (a.dets = [] → ∀ k, k ≠ ch → t.core.acq k = s.core.acq k) ∧ t.mem = s.mem ∧ t.pending = s.pending)) ∧
      (s.core.acqState ch = 0 → Gives (.disarm ch) s s.core) ∧
      (s.core.acqState ch ≠ 0 → Gives (.softTrig ch) s (s.core.modAcq ch (fun a => { a with dets := a.dets ++ [{ tick := s.core.now, sub := 0, spt := 1, src := 0xE }] }))) ∧
      (s.core.acqState ch = 0 → Gives (.softTrig ch) s s.core) ∧
      Gives (.rateReset ch) s (s.core.modAcq ch (fun a => { a with kReset := true }))) ∧
    (∀ d rest, firstDet a.dets = some (d, rest) →
      (s.core.acqState ch = 1 → a.y ≤ d.tick → Completes (.acqTrigger ch) s (fun t => t.core.acqState ch = 2 ∧ (t.core.acq ch).missed = 0 ∧ (t.core.acq ch).dets = rest ∧
        (∃ p, (t.core.acq ch).plate = some p ∧ p.trig = d ∧ p.missed = a.missed ∧ p.preV ≤ a.f 2 0 32) ∧ d.tick ∈ (t.core.acq ch).trigs ∧
        (∀ o ∈ rgnChans r, o ≠ ch → (s.core.acq o).tsrc = 7 → (s.core.acq o).tsel = h → s.core.acqState o ≠ 0 → (t.core.acq o).dets = (s.core.acq o).dets ++ [{ d with src := 7 }]) ∧
        (∀ o, o ≠ ch → o ∉ rgnChans r ∨ (s.core.acq o).tsrc ≠ 7 ∨ (s.core.acq o).tsel ≠ h → t.core.acq o = s.core.acq o) ∧
        KeepsRegs [Fd.ACQ_CH_STS_STATE r h] s.core t.core ∧ t.mem = s.mem ∧ t.pending = s.pending)) ∧
      (s.core.acqState ch ≠ 1 ∨ d.tick < a.y → Completes (.acqTrigger ch) s (fun t => t.core.acq ch = { a with dets := rest, missed := a.missed + 1 } ∧
        t.core.get (Fd.ACQ_CH_CNT_MISSED_TRIG r h) = min (2 ^ (Fd.ACQ_CH_CNT_MISSED_TRIG r h).w - 1) (s.core.get (Fd.ACQ_CH_CNT_MISSED_TRIG r h) + 1) ∧
        (∀ k, k ≠ ch → t.core.acq k = s.core.acq k) ∧ KeepsRegs [Fd.ACQ_CH_CNT_MISSED_TRIG r h] s.core t.core ∧ t.mem = s.mem ∧ t.pending = s.pending))) ∧
    (a.dets = [] → Gives (.acqTrigger ch) s s.core) ∧
    (s.core.acqState ch = 1 → a.mode = 2 → a.forced = false → a.y + a.f 5 0 24 ≤ s.core.now → Completes (.autoTimeout ch) s (fun t =>
      t.core.acq ch = { a with forced := true, dets := a.dets ++ [{ tick := a.y + a.f 5 0 24, sub := 0, spt := 1, src := 0xF }] } ∧
      (∀ k, k ≠ ch → t.core.acq k = s.core.acq k) ∧ KeepsRegs [] s.core t.core ∧ t.mem = s.mem ∧ t.pending = s.pending)) ∧
    (s.core.acqState ch ≠ 1 ∨ a.mode ≠ 2 ∨ a.forced = true ∨ s.core.now < a.y + a.f 5 0 24 → Gives (.autoTimeout ch) s s.core) ∧
    (∀ l d rest, firstDet l = some (d, rest) → d ∈ l ∧ rest.length + 1 = l.length ∧ ∀ e ∈ rest, d.tick ≤ e.tick) ∧
    (∀ (b : Acq) (x : Int),
      let up : Prop := bitAt b.slope 0 = true ∧ b.armUp = true ∧ b.level ≤ x
      let down : Prop := bitAt b.slope 1 = true ∧ b.armDn = true ∧ x ≤ b.level
      let both : Prop := b.tsrc = 5 ∧ b.slope = 3
      ((b.detector x).2.2 = true ↔ up ∨ down) ∧
      ((b.detector x).1 = true ↔ x < b.level - b.hyst ∨ b.armUp = true ∧ ¬ up ∧ ¬ (both ∧ down)) ∧
      ((b.detector x).2.1 = true ↔ b.level + b.hyst < x ∨ b.armDn = true ∧ ¬ down ∧ ¬ (both ∧ up)))

/-- R216, R218, R222-R228 and R299. -/
def Obligations.PlatesCloseAndSpool : Prop :=
  ∀ (s : State) (ch : Nat), ch < 32 →
    let r := ch / 4
    let h := ch % 4
    let a := s.core.acq ch
    let last := a.mode == 1 || (a.f 4 0 32 != 0 && decide (a.f 4 0 32 ≤ a.plateNo + 1))
    let missed := fun (t : State) => (last = false → (t.core.acq ch).dets = a.dets ∧ t.core.get (Fd.ACQ_CH_CNT_MISSED_TRIG r h) = s.core.get (Fd.ACQ_CH_CNT_MISSED_TRIG r h)) ∧
      (last = true → (t.core.acq ch).dets = [] ∧ t.core.get (Fd.ACQ_CH_CNT_MISSED_TRIG r h) =
        min (2 ^ (Fd.ACQ_CH_CNT_MISSED_TRIG r h).w - 1) (s.core.get (Fd.ACQ_CH_CNT_MISSED_TRIG r h) + a.dets.length))
    (∀ p, a.plate = some p → s.core.acqState ch = 2 →
      let n := (a.groups p.win.reverse none).length
      (p.shut = true → p.full = false → Completes (.plateClose ch) s (fun t => t.core.acqState ch = (if last then 0 else 3) ∧ (t.core.acq ch).plate = none ∧
        (∃ o, (t.core.acq ch).outs = a.outs ++ [o] ∧ o.no = a.plateNo ∧ o.bytes = (n * a.width + 63) / 64 * 64) ∧
        (t.core.acq ch).plateNo = (a.plateNo + 1) % 2 ^ 32 ∧ (p.trunc = true → t.core.get (Fd.ACQ_CH_STS_TRUNC r h) = 1) ∧ missed t ∧
        t.core.get (Fd.ACQ_CH_CNT_PLATES r h) = min (2 ^ (Fd.ACQ_CH_CNT_PLATES r h).w - 1) (s.core.get (Fd.ACQ_CH_CNT_PLATES r h) + 1) ∧
        (∀ k, k ≠ ch → t.core.acq k = s.core.acq k) ∧
        KeepsRegs [Fd.ACQ_CH_STS_STATE r h, Fd.ACQ_CH_STS_TRUNC r h, Fd.ACQ_CH_CNT_PLATES r h, Fd.ACQ_CH_CNT_MISSED_TRIG r h] s.core t.core ∧ t.mem = s.mem ∧ t.pending = s.pending)) ∧
      (let x := s.core.ring a.ring
       let o := x.p + (((a.outs.filter (fun o => o.ring == a.ring)).map (fun o => 128 + o.bytes)).foldl (fun m n => m + n) 0) -
         (if (a.outs.head?).any (fun o => o.ring == a.ring) then a.sent else 0)
       p.full = true → Completes (.loss ch) s (fun t => t.core.acqState ch = (if last then 0 else 3) ∧ (t.core.acq ch).plate = none ∧
        (∃ o, (t.core.acq ch).outs = a.outs ++ [o] ∧ o.no = a.plateNo) ∧ t.core.get (Fd.ACQ_CH_STS_LOSS r h) = 1 ∧ missed t ∧
        t.core.get (Fd.ACQ_CH_CNT2_LOSS_PLATES r h) = min (2 ^ (Fd.ACQ_CH_CNT2_LOSS_PLATES r h).w - 1) (s.core.get (Fd.ACQ_CH_CNT2_LOSS_PLATES r h) + 1) ∧
        t.core.host.evq = s.core.host.evq ++ [{ code := 0x42, level := 5, index := ch, stamp := s.core.now, arg0 := a.plateNo % 2 ^ 64,
                                                arg1 := (if x.s = 0 then o else o % x.s) % 2 ^ 64 }] ∧
        (∀ k, k ≠ ch → t.core.acq k = s.core.acq k) ∧
        KeepsRegs [Fd.ACQ_CH_STS_STATE r h, Fd.ACQ_CH_STS_TRUNC r h, Fd.ACQ_CH_STS_LOSS r h, Fd.ACQ_CH_CNT_PLATES r h, Fd.ACQ_CH_CNT2_LOSS_PLATES r h,
          Fd.ACQ_CH_CNT_MISSED_TRIG r h] s.core t.core ∧ t.mem = s.mem ∧ t.pending = s.pending)) ∧
      (p.shut = false ∨ p.full = true → Gives (.plateClose ch) s s.core) ∧ (p.full = false → Gives (.loss ch) s s.core)) ∧
    (∀ q, a.qAt = some q → s.core.acqState ch = 3 → max (a.s1 + 16) q ≤ s.core.now → Completes (.acqReady ch) s (fun t => t.core.acqState ch = 1 ∧
      (t.core.acq ch).y = max (a.s1 + 16) q ∧ (t.core.acq ch).kReset = false ∧ (t.core.acq ch).kNow = (if a.kReset then a.decim else a.kNow) ∧
      t.core.get (Fd.ACQ_CH_STS_K r h) = (if a.kReset then a.decim else a.kNow) % 16 ∧ (t.core.acq ch).forced = false ∧ (∀ k, k ≠ ch → t.core.acq k = s.core.acq k) ∧
      KeepsRegs [Fd.ACQ_CH_STS_STATE r h, Fd.ACQ_CH_STS_K r h] s.core t.core ∧ t.mem = s.mem ∧ t.pending = s.pending)) ∧
    (s.core.now % 4096 = 0 → a.chkAt ≠ some s.core.now → (s.core.acqState ch = 1 ∨ s.core.acqState ch = 2) →
      (3 * 2 ^ 18 ≤ s.core.acqHeld ch ∨ s.core.get Fd.CHP_BOOT_STS_NO_HBM = 0 ∧ a.stageHigh * s.core.stageCap ≤ 16 * a.stage) → a.kNow < a.kmax →
      Completes (.rateCheck ch) s (fun t => t.core.acq ch = { a with chkAt := some s.core.now, kHist := (s.core.now, a.kNow + 1) :: a.kHist } ∧
        t.core.get (Fd.ACQ_CH_STS_K r h) = (a.kNow + 1) % 16 ∧ t.core.get (Fd.ACQ_CH_STS_RATE_REDUCED r h) = 1 ∧
        t.core.host.evq = s.core.host.evq ++ [{ code := 0x41, level := 5, index := ch, stamp := s.core.now, arg0 := (a.kNow + 1) % 2 ^ 64, arg1 := a.plateNo % 2 ^ 64 }] ∧
        (∀ k, k ≠ ch → t.core.acq k = s.core.acq k) ∧
        KeepsRegs [Fd.ACQ_CH_STS_K r h, Fd.ACQ_CH_STS_RATE_REDUCED r h] s.core t.core ∧ t.mem = s.mem ∧ t.pending = s.pending)) ∧
    (s.core.now % 4096 ≠ 0 ∨ a.chkAt = some s.core.now ∨ a.kmax ≤ a.kNow → Gives (.rateCheck ch) s s.core) ∧
    (∀ o rest,
      let x := s.core.ring o.ring
      let got := if s.core.get Fd.CHP_BOOT_STS_NO_HBM = 0 then readsIn a.reads else o.data
      let e := x.p + 128 + o.bytes
      let free := x.s - 64 - (if x.c ≤ x.p then x.p - x.c else x.p + x.s - x.c)
      a.outs = o :: rest → a.sent = 0 →
      (s.core.devSpool o.ring = false ∨ x.stopped = true ∨ free < 128 + (if o.parts then a.ahead.length else o.bytes) → Gives (.plateSpooled ch) s s.core) ∧
      (a.ahead = [] → o.last = none → o.hdr.length = 128 → o.data.length = o.bytes ∨ s.core.get Fd.CHP_BOOT_STS_NO_HBM = 0 → o.bytes ≤ got.length →
      s.core.devSpool o.ring = true → x.stopped = false → x.sNew = none → x.p < x.s → 128 + o.bytes ≤ free →
      (s.core.get Fd.CHP_RESULT_CFG_SPOOL = o.ring → ∀ w ∈ s.core.hbmc.works, w.who ≠ 168) →
      (∀ k, k < 32 → k ≠ ch → (s.core.acq k).spoolRing = o.ring → (s.core.acq k).sent = 0 ∧ (s.core.acq k).ahead = []) →
      Completes (.plateSpooled ch) s (fun t => (t.core.acq ch).outs = rest ∧ (t.core.acq ch).sent = 0 ∧
        (t.core.ring o.ring).p = (if e < x.s then e else e - x.s) ∧ (t.core.ring o.ring).dirty = true ∧
        (∀ b, x.segs = [(b, x.s)] → e ≤ x.s → 0 < o.bytes → t.core.host.out = s.core.host.out ++
          [spoolPut s.core.host.relaxOn (b + x.p) (o.hdr.take 40 ++ toLE 8 x.p ++ o.hdr.drop 48), spoolPut s.core.host.relaxOn (b + x.p + 128) (got.take o.bytes)]) ∧
        t.core.host.evq = s.core.host.evq ++ (if o.ev then [{ code := 0x40, level := 5, index := ch, stamp := s.core.now, arg0 := o.no % 2 ^ 64, arg1 := x.p % 2 ^ 64 }] else []) ∧
        (∀ k, k ≠ ch → t.core.acq k = s.core.acq k) ∧ (∀ k, k ≠ o.ring → t.core.ring k = s.core.ring k) ∧
        KeepsRegs [] s.core t.core ∧ t.mem = s.mem ∧ t.pending = s.pending))) ∧
    (∀ (raw : Bool) (fr : Nat) (l : List AcqSmp) (k x : Nat),
      l.length = 2 ^ k → (∀ e ∈ l, (e.tick * e.spt + e.sub) / 2 ^ k = x) →
      let mean := fun (f : AcqSmp → Int) => BitVec.ofInt 16 ((l.map f).sum / 2 ^ k)
      (raw = false → storedBytes raw fr l (k, x) = (toLE 2 (mean (fun e => e.i)).toNat ++ toLE 2 (mean (fun e => e.q)).toNat, fr)) ∧
      (raw = true → storedBytes raw fr l (k, x) =
        (toLE 2 ((BitVec.ofInt 16 ((l.map (fun e => e.i)).sum / 2 ^ k * 16)).toNat + if l.any (fun e => e.ovr) then 1 else 0), fr)))

/-- R44, R155, R157-R160, R163, R165-R167, R210, R231-R234, R392 and R408. That a constant stream passes the band filter with gain 1, and that the amplitude of a sine at the band
centre is met within 1 %, is the model's choice (log entry 14). -/
def Obligations.MonitorAndConvertersSample : Prop :=
  ∀ s : State,
    (∀ codes : List (BitVec 12), s.core.svc = true → s.core.get Fd.MON_CTL_EN = 1 → s.core.get Fd.MON_STS_CAL = 0 → s.core.mon.entry < 32 →
      let e := s.core.mon.entry
      let v := (codes.map BitVec.toNat).sum / codes.length
      let next := if s.core.get Fd.MON_CTL_LAST ≤ e then 0 else e + 1
      (monInput (s.core.get (Fd.MON_SEQ_INPUT e)) = true → codes.length = 2 ^ s.core.get (Fd.MON_SEQ_AVG e) → s.core.mon.redo = false →
        Completes (.monEntryConvert codes) s (fun t => t.core.get (Fd.MON_RES_VALUE e) = v ∧ t.core.get (Fd.MON_RES_VALID e) = 1 ∧
          t.core.get (Fd.MON_RES_UPDATES e) = (s.core.get (Fd.MON_RES_UPDATES e) + 1) % 4096 ∧ t.core.mon = { s.core.mon with entry := next, redo := false } ∧
          (s.core.get (Fd.MON_SEQ_ALM_EN e) = 1 → t.core.get (Fd.MON_RES_BELOW e) = b2n (decide (v < s.core.get (Fd.MON_LIM_LO e))) ∧
            t.core.get (Fd.MON_RES_ABOVE e) = b2n (decide (s.core.get (Fd.MON_LIM_HI e) < v)) ∧
            (v < s.core.get (Fd.MON_LIM_LO e) → s.core.get (Fd.MON_RES_BELOW e) = 0 → bitAt (t.core.get Fd.MON_ALM_ALM) e = true)) ∧
          (s.core.get (Fd.MON_SEQ_ALM_EN e) = 0 → t.core.host = s.core.host) ∧
          KeepsRegs [Fd.MON_RES_VALUE e, Fd.MON_RES_VALID e, Fd.MON_RES_UPDATES e, Fd.MON_RES_BELOW e, Fd.MON_RES_ABOVE e, Fd.MON_ALM_ALM] s.core t.core ∧
          t.mem = s.mem ∧ t.pending = s.pending)) ∧
      (monInput (s.core.get (Fd.MON_SEQ_INPUT e)) = false → Completes (.monEntryConvert codes) s (fun t => t.core.get (Fd.MON_RES_VALID e) = 0 ∧
        t.core.get Fd.MON_STS_CFG_ERR = 1 ∧ t.core.mon = { s.core.mon with entry := next, redo := false } ∧ KeepsRegs [Fd.MON_RES_VALID e, Fd.MON_STS_CFG_ERR] s.core t.core ∧
        t.mem = s.mem ∧ t.pending = s.pending)) ∧
      (monInput (s.core.get (Fd.MON_SEQ_INPUT e)) = true → codes.length = 2 ^ s.core.get (Fd.MON_SEQ_AVG e) → s.core.mon.redo = true →
        Gives (.monEntryConvert codes) s { s.core with mon := { s.core.mon with entry := next, redo := false } })) ∧
    (s.core.svc = false ∨ s.core.get Fd.MON_CTL_EN = 0 ∨ s.core.get Fd.MON_STS_CAL = 1 → ∀ codes, Gives (.monEntryConvert codes) s s.core) ∧
    (∀ (offset gain : Int), s.core.svc = true → s.core.get Fd.MON_STS_CAL = 0 →
      let due : Prop := s.core.get Fd.MON_CTL_CAL_PERIOD ≠ 0 ∧ s.core.mon.calAt + s.core.get Fd.MON_CTL_CAL_PERIOD * 500000 ≤ s.core.now
      (due → Completes (.monSelfCal offset gain) s (fun t => t.core.get Fd.MON_STS_CAL = 1 ∧ t.core.get Fd.CAL_STS_BUSY = 1 ∧ (∀ e, e < 32 → t.core.get (Fd.MON_RES_STALE e) = 1) ∧
        KeepsRegs (Fd.MON_STS_CAL :: Fd.CAL_STS_BUSY :: (upFrom 0 32).map Fd.MON_RES_STALE) s.core t.core ∧ t.core.mon = s.core.mon ∧ t.mem = s.mem ∧ t.pending = s.pending)) ∧
      (¬ due → Gives (.monSelfCal offset gain) s s.core)) ∧
    (∀ (offset gain : Int), s.core.svc = true → (∀ j ∈ s.core.cal.jobs, j.ring < 64) → s.core.get Fd.MON_STS_CAL = 1 →
      let ok := Config.monPlausible offset gain
      let dry : Prop := ∃ j ∈ s.core.cal.jobs, j.kind = 1 ∧ 0 ∈ j.units ∧ j.dry = true
      Completes (.monSelfCal offset gain) s (fun t => t.core.get Fd.MON_STS_CAL = 0 ∧ t.core.mon.calAt = s.core.now ∧
        (∀ e, e < 32 → t.core.get (Fd.MON_RES_STALE e) = 0) ∧
        (ok = true → almManual s.mem 0 = false → ¬ dry → t.core.mon.offset = offset ∧ t.core.mon.gain = gain) ∧
        (dry → t.mem = s.mem) ∧ (ok = false ∨ almManual s.mem 0 = true ∨ dry → t.core.mon.offset = s.core.mon.offset ∧ t.core.mon.gain = s.core.mon.gain) ∧
        (∀ j ∈ t.core.cal.jobs, j.kind = 1 → 0 ∉ j.units) ∧ { t.mem with alm := s.mem.alm } = s.mem ∧ t.pending = s.pending)) ∧
    (∀ (r j : Nat) (a b : List AdcCode), s.core.svc = true → s.core.running = true → s.core.rOk r = true → j < 4 → 11 ≤ s.core.now →
      (s.core.adc (4 * r + j)).last ≠ some s.core.now → 
      (∀ g ∈ s.core.listeners r j 0 ++ s.core.listeners r j 1, ∀ b, (s.core.cell g).branch = some b → ¬ CellOn g s ∨ s.core.now < b.sT + 11) →
      let dual := (s.core.adcModeAt r j (s.core.now - 11)).1
      let work := s.core.adcOk r j && (s.core.adcModeAt r j (s.core.now - 11)).2 && !s.core.pins.d3
      let n := if dual then 8 else 16
      let reads : List AdcCode → List Int := fun l => (upFrom 0 n).map (fun i => let x := l.getD i { code := 0, ovr := false }
        if x.ovr then (if x.code.toInt < 0 then -2048 else 2047) else x.code.toInt)
      let ovr := fun (l : List AdcCode) => ((upFrom 0 n).filter (fun i => work && (l.getD i { code := 0, ovr := false }).ovr)).length
      Completes (.adcSample r j a b) s (fun t => (t.core.adc (4 * r + j)).last = some s.core.now ∧
        t.core.get (Fd.RGN_ADC_CNT_OVR_A r j) = min (2 ^ (Fd.RGN_ADC_CNT_OVR_A r j).w - 1) (s.core.get (Fd.RGN_ADC_CNT_OVR_A r j) + ovr a) ∧
        (0 < ovr a → t.core.get (Fd.RGN_ADC_STS_OVR_A r j) = 1) ∧
        (dual = true → t.core.get (Fd.RGN_ADC_CNT_OVR_B r j) = min (2 ^ (Fd.RGN_ADC_CNT_OVR_B r j).w - 1) (s.core.get (Fd.RGN_ADC_CNT_OVR_B r j) + ovr b)) ∧
        (dual = false → t.core.get (Fd.RGN_ADC_CNT_OVR_B r j) = s.core.get (Fd.RGN_ADC_CNT_OVR_B r j)) ∧
        (work = true → (t.core.adc (4 * r + j)).histA = ((bandMix dual (s.core.get (Fd.RGN_ADC_FTW_LO_FTW_LO r j 0) + 2 ^ 32 * s.core.get (Fd.RGN_ADC_FTW_HI_FTW_HI r j 0))
            (s.core.get (Fd.RGN_ADC_FTW_HI_POFF r j 0)) (s.core.now - 11) (reads a)).reverse ++ (s.core.adc (4 * r + j)).histA).take 256 ∧
          (t.core.srcHist (srcKey r 0 j 0)) = (((upFrom 0 n).zip (reads a)).map (fun q => AcqSmp.mk (s.core.now - 11) q.1 n q.2 0 (a.getD q.1 { code := 0, ovr := false }).ovr (ovr a)
            (s.core.calAt (4 * r + j) (s.core.now - 11)))).reverse
              ++ (s.core.srcHist (srcKey r 0 j 0)).take (4096 - n)) ∧
        (work = false → (t.core.adc (4 * r + j)).prev = [(0, 0), (1, 0)] ∧ (t.core.adc (4 * r + j)).histA = [] ∧ (t.core.adc (4 * r + j)).histB = []) ∧
        ((s.core.adc (4 * r + j)).before = none → dual = s.core.on (Fd.RGN_ADC_CFG_MODE r j)) ∧ (∀ k, k ≠ 4 * r + j → t.core.adc k = s.core.adc k) ∧ t.mem = s.mem ∧ t.pending = s.pending)) ∧
    (let sat : Nat → Int → Int := fun w x => max (-(2 ^ (w - 1))) (min (2 ^ (w - 1) - 1) x)
     (∀ (dual : Bool) (ftw poff st : Nat) (codes : List Int) (i : Nat) (x : Int), codes[i]? = some x →
       let ph := (ftw * (48 * st + (if dual then 6 else 3) * i) + poff * 2 ^ 33) % 2 ^ 49 / 2
       (bandMix dual ftw poff st codes)[i]? = some (16 * x * (ncoCs ph).1, -(16 * x * (ncoCs ph).2))) ∧
     (∀ (dual : Bool) (gain : Nat) (h : List (Int × Int)),
       let n := if dual then 1 else 2
       ∃ ys : List (Int × Int), ys.length = n ∧
         (bandOut dual gain h).1 = ys.map (fun y => (sat 16 (y.1 / 2 ^ 15 * 2 ^ gain), sat 16 (y.2 / 2 ^ 15 * 2 ^ gain))) ∧
         ((bandOut dual gain h).2 = true ↔ ∃ y ∈ ys, sat 16 (y.1 / 2 ^ 15 * 2 ^ gain) ≠ y.1 / 2 ^ 15 * 2 ^ gain ∨ sat 16 (y.2 / 2 ^ 15 * 2 ^ gain) ≠ y.2 / 2 ^ 15 * 2 ^ gain) ∧
         ((∀ x ∈ h, x = (0, 0)) → ∀ y ∈ ys, y = (0, 0)) ∧
         (∀ a : Int × Int, h.length = 256 → (∀ x ∈ h, x = a) → ∀ y ∈ ys, y = a) ∧
         (∀ a : Int × Int, h.length = 256 → (∀ x ∈ h, x.1 * x.1 + x.2 * x.2 = 2 * (a.1 * x.1 + a.2 * x.2)) → 2 ^ 56 ≤ a.1 * a.1 + a.2 * a.2 →
           (∃ x ∈ h.zip (h.drop 8), x.1 ≠ x.2) → (∃ x ∈ h, ∃ z ∈ h, x.1 * z.2 ≠ x.2 * z.1) →
           ∀ y ∈ ys, 10000 * ((y.1 - a.1) * (y.1 - a.1) + (y.2 - a.2) * (y.2 - a.2)) ≤ a.1 * a.1 + a.2 * a.2)) ∧
     (∀ (m : Mems) (c : Core) (g : Nat) (w : Win) (b : BandSmp),
       let e := mtEntry m g w.mt
       let ph := ((mtFtw e * ((48 * b.stamp + 24 * b.e : Nat) : Int) + (mtPoff e : Int) * 2 ^ 33) % 2 ^ 49).toNat / 2
       let cs := ncoCs ph
       let i := (b.i * cs.1 + b.q * cs.2) / 2 ^ 15
       let q := (b.q * cs.1 - b.i * cs.2) / 2 ^ 15
       let j := (b.stamp - w.m0) * c.bandRate g + b.e
       let wt : Cx := if mtNtap e = 0 then (2048, 0) else if mtNtap e ≤ j then (0, 0)
         else smpAt m.seg (g * 32768 + dirLine (dirEntry m (segTab m c g (mtWseg e))) * 128) (j / 6) (j % 6)
       let y := winAdd m c g w b
       let p := sat 16 i * wt.1 - sat 16 q * wt.2
       let z := sat 16 i * wt.2 + sat 16 q * wt.1
       y.1 = { w with n := w.n + 1, accI := w.accI + p, accQ := w.accQ + z, ovr := w.ovr || b.ovr, stale := w.stale || b.cal } ∧
       (y.2 = true ↔ sat 16 i ≠ i ∨ sat 16 q ≠ q)) ∧
     (∀ (c : Core) (m : Mems) (g k : Nat) (w : Win) (b : BandSmp), (c.cell g).ro.wins.find? (fun w => w.id == k) = some w → m.flaw = [] → c.get (Fd.CEL_CFG_PHX_INLINE g) = 0 →
       g < 2304 → ((c.integrate m g k [b]).cell g).ro.wins = modFirst (fun v => v.id == k) (fun _ => (winAdd m c g w b).1) (c.cell g).ro.wins ∧
       ((winAdd m c g w b).2 = true → (c.integrate m g k [b]).get (Fd.CEL_RO_STS_MIX_SAT g) = 1)) ∧
     (∀ (c : Core) (m : Mems) (g : Nat) (b : BandSmp), CellOn g { s with core := c, mem := m } → (c.rgn (cellR g)).shot.ts ≤ b.stamp → (c.cell g).endAt = none → (c.cell g).ro.cover = none →
       (∀ p k, (c.cell g).ro.posted = some p → b.stamp ≤ p → (c.cell g).ro.winAt b.stamp = some k → c.bandArrive m g b = c.integrate m g k [b]) ∧
       (∀ p, (c.cell g).ro.posted = some p → b.stamp ≤ p → (c.cell g).ro.winAt b.stamp = none → c.bandArrive m g b = c) ∧
       ((∀ p, (c.cell g).ro.posted = some p → p < b.stamp) → (c.cell g).ro.buf = [] → ((c.bandArrive m g b).cell g).ro.buf = [b] ∧ (g < 2304 → (c.bandArrive m g b).get (Fd.CEL_LEAD_STS_LATE g) = 1))) ∧
     (∀ (e : Nat) (w : Win), winResult e w = (sat 16 (w.accI / 2 ^ mtRshift e), sat 16 (w.accQ / 2 ^ mtRshift e)) ∧
       (winRsat e w = true ↔ sat 16 (w.accI / 2 ^ mtRshift e) ≠ w.accI / 2 ^ mtRshift e ∨ sat 16 (w.accQ / 2 ^ mtRshift e) ≠ w.accQ / 2 ^ mtRshift e)))

/-- R311, R313-R317, R319, R320, R324 and R326; the even pace of refreshes and of the scrubber, and which corrected words stay, are the model's choices (log entries 72, 150, 129). -/
def Obligations.StackServesRequests : Prop :=
  ∀ s : State,
    (∀ (q : HbmReq) (addr len : Nat) (write : Bool) (data : List Byte),
      let p := s.core.hPc addr
      let x := (hbmPath q).2
      let open_ : Prop := s.core.hbmIs .active = true ∨ s.core.hbmIs .rateChange = true
      let lane : Prop := (∃ l, l < 4 ∧ CanMove (.chip l) x s) ∧ (x < 8 → s.core.credit (bookKey 3 x 0) = true) ∧ s.core.credit (bookKey 6 0 p) = true ∧ s.core.hbmHold = false
      let asks : Prop := hShape q addr len write = true ∧ (write = true → data.length = len) ∧ s.core.hOut (hreqId q) < hLimit q ∧ HasAsk q addr len write data s ∧
        s.core.upOf q addr len write data = none
      let own : Prop := q = .gatherer (hreqId q - 160) ∨ q = .root ∨ q = .bar4 ∨ q = .resultDma
      let is : HReq → Prop := fun r => r.who = hreqId q ∧ r.addr = addr ∧ r.len = len ∧ r.write = write ∧ r.data = data ∧
        (∀ w, own → s.core.workNext (hreqId q) = some w → r.job = w.id)
      let works : State → Prop := fun t => ∀ w, own → s.core.workNext (hreqId q) = some w →
        t.core.hbmc.works = s.core.hbmc.works.map (fun y => if y.id = w.id then w.took len else y)
      let comes : State → Prop := fun t => (∃ r, is r ∧ r.seq = s.core.hbmc.seq ∧ r.at_ = s.core.now ∧ (t.core.pc p).q = (s.core.pc p).q ++ [r]) ∧
        t.core.hbmc.seq = s.core.hbmc.seq + 1 ∧ (∀ k, k ≠ p → t.core.pc k = s.core.pc k)
      (asks → Carried q p s →
        (open_ → Completes (.hbmRequest q addr len write data) s (fun t => comes t ∧ works t ∧ t.core.hbmc.ups = s.core.hbmc.ups ∧
          KeepsRegs [Fd.HBM_PC_CNT1_IN_ORDER p] s.core t.core ∧ t.core.cells = s.core.cells ∧ t.core.host = s.core.host ∧ t.mem = s.mem ∧ t.pending = s.pending)) ∧
        (∀ ch, q = .acq ch → open_ →
          (write = true → addr = s.core.stageBase ch + (s.core.acq ch).wr → len ≤ (s.core.acq ch).front.length → data = (s.core.acq ch).front.take len →
            (s.core.acq ch).stage + len ≤ s.core.stageCap → (s.core.acq ch).wr + len ≤ s.core.stageCap → Completes (.hbmRequest q addr len write data) s (fun t => comes t ∧
              (t.core.acq ch).stage = (s.core.acq ch).stage + len ∧ (t.core.acq ch).wr = ((s.core.acq ch).wr + len) % s.core.stageCap ∧ (∀ k, k ≠ ch → t.core.acq k = s.core.acq k))) ∧
          (write = false → addr = s.core.stageBase ch + (s.core.acq ch).rd → (s.core.acq ch).reads = [] → (s.core.acq ch).ahead = [] → len ≤ (s.core.acq ch).stage →
            (s.core.acq ch).rd + len ≤ s.core.stageCap → len + 128 ≤ (s.core.ring (s.core.acq ch).spoolRing).free → Completes (.hbmRequest q addr len write data) s (fun t => comes t ∧
              (t.core.acq ch).rd = ((s.core.acq ch).rd + len) % s.core.stageCap ∧ (t.core.acq ch).reads = [{ addr := addr, len := len, data := none }] ∧
              (∀ k, k ≠ ch → t.core.acq k = s.core.acq k)))) ∧
        (let held : State → Prop := fun t => (∃ r, is r ∧ t.core.hbmc.held = s.core.hbmc.held ++ [r]) ∧ t.core.hbmc.pcs = s.core.hbmc.pcs ∧ t.mem = s.mem ∧ t.pending = s.pending
         let counted := min (2 ^ Fd.HBM_SR_CNT_SR_HELD.w - 1) (s.core.get Fd.HBM_SR_CNT_SR_HELD + 1)
         (s.core.hbmIs .selfRefresh = true → Completes (.srHeldRequest q addr len write data) s (fun t => held t ∧
            t.core.hbmIs .srExit = true ∧ t.core.get Fd.HBM_PWR_CTL_STANDBY = 0 ∧ t.core.get Fd.HBM_SR_CNT_SR_HELD = counted ∧
            KeepsRegs [Fd.HBM_STS_STATE, Fd.HBM_PWR_CTL_STANDBY, Fd.HBM_SR_CNT_SR_HELD] s.core t.core)) ∧
         (s.core.hbmIs .srExit = true → Completes (.srHeldRequest q addr len write data) s (fun t => held t ∧ KeepsRegs [] s.core t.core)) ∧
         (s.core.hbmIs .srEntry = true →
           let waits := fun (t : State) => held t ∧ t.core.hbmc.wake = true ∧ t.core.get Fd.HBM_SR_CNT_SR_HELD = counted ∧ KeepsRegs [Fd.HBM_SR_CNT_SR_HELD] s.core t.core
           let cancelled := fun (t : State) => t.core.hbmIs .active = true ∧ comes t ∧ t.core.hbmc.retry = s.core.hbmc.standby ∧
             t.core.get Fd.HBM_SR_CNT_SR_CANCEL = min (2 ^ Fd.HBM_SR_CNT_SR_CANCEL.w - 1) (s.core.get Fd.HBM_SR_CNT_SR_CANCEL + 1) ∧
             KeepsRegs [Fd.HBM_STS_STATE, Fd.HBM_SR_CNT_SR_CANCEL, Fd.HBM_PC_CNT1_IN_ORDER p] s.core t.core ∧ t.mem = s.mem ∧ t.pending = s.pending
           (s.core.hbmc.wake = true ∨ s.core.hbmc.held ≠ [] → Completes (.srHeldRequest q addr len write data) s waits) ∧
           (s.core.hbmc.wake = false → s.core.hbmc.held = [] → (∃ e ∈ s.core.hbmc.pcs, e.2.q ≠ []) → Completes (.srHeldRequest q addr len write data) s cancelled) ∧
           (s.core.hbmc.wake = false → s.core.hbmc.held = [] → (∀ e ∈ s.core.hbmc.pcs, e.2.q = []) →
             Completes (.srHeldRequest q addr len write data) s (fun t => waits t ∨ cancelled t))))) ∧
      (∀ r k, asks → open_ → (hbmPath q).1 = some (r, k) → CanMove (.region r) k s → (k < 16 → s.core.credit (bookKey 2 r k) = true) →
        s.core.hbmHold = true ∨ (∀ l, l < 4 → (s.core.arb (arbKey (.chip l))).owner ≠ some x) → Completes (.hbmRequest q addr len write data) s (fun t =>
          (∃ r, is r ∧ t.core.hbmc.ups = s.core.hbmc.ups ++ [r]) ∧ works t ∧ t.core.hbmc.pcs = s.core.hbmc.pcs ∧ KeepsRegs [] s.core t.core ∧ t.mem = s.mem ∧ t.pending = s.pending)) ∧
      (∀ r, s.core.upOf q addr len write data = some r → open_ →
        (lane → Completes (.hbmRequest q addr len write data) s (fun t => (t.core.pc p).q = (s.core.pc p).q ++ [{ r with seq := s.core.hbmc.seq, at_ := s.core.now }] ∧
          t.core.hbmc.seq = s.core.hbmc.seq + 1 ∧ t.core.hbmc.ups = s.core.hbmc.ups.erase r ∧ (∀ k, k ≠ p → t.core.pc k = s.core.pc k) ∧
          KeepsRegs [Fd.HBM_PC_CNT1_IN_ORDER p] s.core t.core ∧ t.mem = s.mem ∧ t.pending = s.pending)) ∧
        (¬ lane → Gives (.hbmRequest q addr len write data) s s.core)) ∧
      ((hbmPath q).1 = none → ¬ lane → Gives (.hbmRequest q addr len write data) s s.core) ∧
      (¬ HasAsk q addr len write data s → s.core.upOf q addr len write data = none → Gives (.hbmRequest q addr len write data) s s.core)) ∧
    (∀ (p : Nat) (corr ue : Bool) (r : HReq), Inv s → p < 16 → 0 < r.len → (s.core.hbmIs .active = true ∨ s.core.hbmIs .srEntry = true) → s.core.paused p = false →
      (s.core.hPick p = some r ∨ (s.core.pc p).q = [r]) →
      Completes (.hbmAccessIssue p corr ue) s (fun t => (∀ o ∈ (t.core.pc p).q, o.seq ≠ r.seq) ∧ (∀ k, k ≠ p → t.core.pc k = s.core.pc k) ∧ t.pending = s.pending ∧
        { t.mem with hbm := s.mem.hbm, ue := s.mem.ue, ce := s.mem.ce } = s.mem ∧
        (corr = false → ue = false → s.mem.ue = [] → s.mem.ce = [] → KeepsRegs [Fd.HBM_PC_CNT1_NEIGHBOR_REF p, Fd.PCI_BAR4_STS_RD_UE] s.core t.core) ∧
        (r.write = true → (hPartial r.addr r.len = false ∨ ue = false ∧ hBad s.mem r.addr r.len = none) → Wrote s.mem.hbmFree s.mem.hbm t.mem.hbm r.addr r.data) ∧
        (r.write = true → hPartial r.addr r.len = true → (ue = true ∨ hBad s.mem r.addr r.len ≠ none) → t.mem.hbm = s.mem.hbm ∧
          t.core.get Fd.PCI_BAR4_STS_WR_DROP = min (2 ^ Fd.PCI_BAR4_STS_WR_DROP.w - 1) (s.core.get Fd.PCI_BAR4_STS_WR_DROP + 1)) ∧
        (r.write = false → t.mem.hbm = s.mem.hbm ∧ ∃ data bad, t.core.hbmc.lastRd = some (r.who, r.addr, data, bad) ∧
          (ue = true → bad = true) ∧
          (ue = false → hBad s.mem r.addr r.len = none → bad = false ∧ data = hRead s.mem r.addr r.len ∧
            (∀ w, r.who < 128 → (s.core.blk r.who).want.find? (fun v => s.core.libAddr s.mem v.1 v.2 == r.addr) = some w →
              (t.core.blk r.who).inbox = (s.core.blk r.who).inbox ++ [{ segid := w.1, line := w.2, data := data }] ∧ w ∉ (t.core.blk r.who).want)) ∧
          (∀ w, bad = true → r.who < 128 → (s.core.blk r.who).want.find? (fun v => s.core.libAddr s.mem v.1 v.2 == r.addr) = some w →
            (t.core.blk r.who).inbox = (s.core.blk r.who).inbox ∧ w ∉ (t.core.blk r.who).want) ∧
          (∀ w, r.who = 170 → s.core.hbmc.works.find? (fun w => w.id == r.job) = some w → w.who = 170 → w.todo = [] → w.out = 1 → w.tag ≠ 0 →
            t.core.host.out = s.core.host.out ++
              (.readAns (HWork.bytes { w with got := w.got ++ [(r.addr, data)] } w.off w.tag) (w.bad || bad) :: if w.bad || bad then [.aer 0] else [])) ∧
          (ue = false → hBad s.mem r.addr r.len ≠ none → bad = true ∧ (128 ≤ r.who → r.who < 160 ∨ r.who = 168 → ∀ i, i < r.len →
            data.getD i 0 = (if (hBad s.mem ((r.addr + i) / 64 * 64) 64).isSome then 0 else (hRead s.mem r.addr r.len).getD i 0)))))) ∧
    (∀ p bank, p < 16 → bank < 32 →
      let x := s.core.pc p
      let span := (if s.core.get Fd.HBM_STS_HOT = 1 then 16 else 32) * 1000 * 500
      let d := Tbl.get (fun _ => 0) x.debt bank
      let shut := s.core.hbmIs .active && s.core.paused p || s.core.hbmIs .srEntry
      let same := fun (t : State) => (t.core.pc p).q = x.q ∧ (∀ k, k ≠ p → t.core.pc k = s.core.pc k) ∧ KeepsRegs [] s.core t.core ∧ t.mem = s.mem ∧ t.pending = s.pending
      (x.winAt + span ≤ s.core.now → Completes (.hbmRefresh p bank) s (fun t => (t.core.pc p).acts = [] ∧ s.core.now - span < (t.core.pc p).winAt ∧ (t.core.pc p).winAt ≤ s.core.now ∧
        Tbl.get (fun _ => 0) (t.core.pc p).due bank = 1 ∧ same t)) ∧
      (s.core.now < x.winAt + span →
        let n := Tbl.get (fun _ => 0) x.due bank
        (n < 8192 → x.winAt + n * span / 8192 ≤ s.core.now →
          (shut = true → d < 8 → Completes (.hbmRefresh p bank) s (fun t => (t.core.pc p).rows = x.rows ∧ (t.core.pc p).debt = Tbl.insert x.debt bank (d + 1) ∧
            (t.core.pc p).due = Tbl.insert x.due bank (n + 1) ∧ (t.core.pc p).acts = x.acts ∧ same t)) ∧
          (shut = false ∨ 8 ≤ d → Completes (.hbmRefresh p bank) s (fun t => (t.core.pc p).rows = Tbl.erase x.rows bank ∧ (t.core.pc p).debt = x.debt ∧
            (t.core.pc p).due = Tbl.insert x.due bank (n + 1) ∧ (t.core.pc p).acts = x.acts ∧ same t))) ∧
        ((8192 ≤ n ∨ s.core.now < x.winAt + n * span / 8192) →
          (s.core.hbmIs .active = true → shut = false → 0 < d → Completes (.hbmRefresh p bank) s (fun t => (t.core.pc p).rows = Tbl.erase x.rows bank ∧
            (t.core.pc p).debt = (if d = 1 then Tbl.erase x.debt bank else Tbl.insert x.debt bank (d - 1)) ∧ (t.core.pc p).due = x.due ∧ same t)) ∧
          (d = 0 → Gives (.hbmRefresh p bank) s s.core)))) ∧
    (∀ corr ue : Bool, s.core.hbmIs .active = true → s.core.get Fd.HBM_CFG_SCRUB_EN = 1 → s.core.hbmc.scrubX % 8 = 0 → s.core.hbmc.scrubX < 2 ^ 34 →
      let x := s.core.hbmc.scrubX
      let p := s.core.hPc x
      let fixed := !ue && (s.mem.ce.contains (x / 8) || corr && !s.mem.ue.contains (x / 8))
      (((∃ e ∈ s.core.hbmc.pcs, e.2.q ≠ []) ∨ s.core.hbmc.held ≠ [] ∨ s.core.hbmHold = true ∨ s.core.credit (bookKey 6 0 p) = false ∨ s.core.laneOf 11 = none) → Gives (.scrub corr ue) s s.core) ∧
      ((∀ e ∈ s.core.hbmc.pcs, e.2.q = []) → s.core.hbmc.held = [] → s.core.paused p = false → s.core.scrubDue ≤ s.core.now → s.core.hbmHold = false → s.core.credit (bookKey 6 0 p) = true →
        Passes 11 (if fixed then 2 else 1) s → Completes (.scrub corr ue) s (fun t =>
        t.core.hbmc.scrubX = (x + 8) % 2 ^ 34 ∧ t.mem.hbm = s.mem.hbm ∧ (∀ w, w ∈ t.mem.ue ↔ w ∈ s.mem.ue ∨ ue = true ∧ w = x / 8) ∧
        (∀ w, w ∈ t.mem.ce ↔ w ∈ s.mem.ce ∧ w ≠ x / 8) ∧ { t.mem with ue := s.mem.ue, ce := s.mem.ce } = s.mem ∧ t.pending = s.pending ∧
        (ue = false → x / 8 ∉ s.mem.ue → x / 8 ∉ s.mem.ce → t.core.host = s.core.host ∧ KeepsRegs [Fd.HBM_PC_CNT0_CORR p, Fd.HBM_PC_CNT1_NEIGHBOR_REF p] s.core t.core ∧
          t.core.get (Fd.HBM_PC_CNT0_CORR p) = min (2 ^ (Fd.HBM_PC_CNT0_CORR 0).w - 1) (s.core.get (Fd.HBM_PC_CNT0_CORR p) + b2n corr)) ∧
        (ue = true → t.core.get Fd.HBM_STS_UE = 1 ∧ ∃ e ∈ t.core.host.evq, e.code = 0x80 ∧ e.index = p ∧ e.stamp = s.core.now ∧ e.arg0 = x))))

/-- R308-R310, R319, R321-R326 and R408; what an undefined byte reads as is free (log entry 4). -/
def Obligations.StackTrainsAndSleeps : Prop :=
  ∀ s : State, s.core.svc = true → s.core.thm.shut = false → s.core.pins.d3 = false →
    let h := s.core.hbmc
    let tp := s.core.get Fd.HBM_STS_TRAIN_PC
    let quiet := s.core.runIs .idle = true ∧ (∀ ch, ch < 32 → s.core.acqState ch = 0) ∧ s.core.host.recs = []
    let front := (∀ e ∈ h.pcs, e.2.q = []) ∧ h.held = []
    (∀ p, (s.core.get Fd.HBM_TRAIN_CTL_EN = 1 ∨ ∃ j ∈ s.core.cal.jobs, j.kind = 5 ∧ almHbm p ∈ j.units) → s.core.hbmIs .active = true → h.pausing = false → h.rateDue = false →
      h.pauses < 4 → h.pauseAt ≤ s.core.now → p < 16 →
      let taken := fun (t : State) => t.mem = s.mem ∧ t.pending = s.pending ∧ ((∀ e ∈ s.core.cal.waits, e.1 ≠ almHbm p) → t.core.cal = s.core.cal) ∧
        (∀ v, s.core.cal.waits = [(almHbm p, v)] → t.core.forced t.mem (almHbm p) = v ∧ t.core.cal.waits = [])
      (s.core.get Fd.HBM_STS_GATHERING = 1 → p = tp → Completes (.retrainPause p) s (fun t => t.core = { s.core with hbmc := { h with pausing := true }, cal := t.core.cal } ∧ taken t)) ∧
      (s.core.get Fd.HBM_STS_GATHERING = 0 → p = h.nextPc → Completes (.retrainPause p) s (fun t => t.core.get Fd.HBM_STS_GATHERING = 1 ∧ t.core.get Fd.HBM_STS_TRAIN_PC = p ∧
        t.core.hbmc = { h with pausing := true, cycleAt := if p = 0 then s.core.now else h.cycleAt } ∧
        t.core.get Fd.CAL_STS_BUSY = 1 ∧ KeepsRegs [Fd.HBM_STS_GATHERING, Fd.HBM_STS_TRAIN_PC, Fd.CAL_STS_BUSY] s.core t.core ∧ taken t))) ∧
    (h.pausing = true → Completes .retrainPauseEnd s (fun t => t.core.hbmc.pausing = false ∧ (t.core.pc tp).debt = [] ∧ (t.core.pc tp).q = (s.core.pc tp).q ∧
      (∀ e, e ∈ (t.core.pc tp).rows ↔ e ∈ (s.core.pc tp).rows ∧ ∀ d ∈ (s.core.pc tp).debt, d.1 ≠ e.1) ∧ (∀ k, k ≠ tp → t.core.pc k = s.core.pc k) ∧
      t.core.hbmc.pauseAt = s.core.now + max 1 (s.core.get Fd.HBM_TRAIN_CTL_PAUSE_GAP) * 500 ∧
      (h.rateDue = false → t.core.hbmc.pauses = (if s.core.get Fd.HBM_STS_GATHERING = 1 then h.pauses + 1 else 0) ∧ KeepsRegs [] s.core t.core) ∧
      (h.rateDue = true → t.core.hbmIs .rateChange = true ∧ t.core.hbmc.rateDue = false ∧ t.core.get Fd.HBM_STS_GATHERING = 0 ∧
        KeepsRegs [Fd.HBM_STS_STATE, Fd.HBM_STS_GATHERING, Fd.CAL_STS_BUSY] s.core t.core) ∧
      t.mem = s.mem ∧ t.pending = s.pending)) ∧
    (∀ (val : AlmVal) (eye : Nat), s.core.get Fd.HBM_STS_GATHERING = 1 → h.pausing = false → 4 ≤ h.pauses → (∀ j ∈ s.core.cal.jobs, j.ring < 64) →
      let far := !delaysNear (s.core.get Fd.HBM_TRAIN_CTL_MAX_STEP) val.v0.toNat (s.core.forced s.mem (almHbm tp)).v0.toNat
      let small := decide (eye < s.core.get Fd.HBM_TRAIN_CTL_MIN_EYE)
      Completes (.retrainApply val eye) s (fun t => t.core.get Fd.HBM_STS_GATHERING = 0 ∧ t.core.hbmc.pauses = 0 ∧ { t.mem with alm := s.mem.alm } = s.mem ∧ t.pending = s.pending ∧
        (almManual s.mem (almHbm tp) = true → t.mem = s.mem) ∧
        (almManual s.mem (almHbm tp) = false → (far || small) = true → t.core.get Fd.HBM_STS_TRAIN_FAIL = 1 ∧
          ∃ e ∈ t.core.host.evq, e.code = 0x81 ∧ e.index = tp ∧ e.stamp = s.core.now ∧ e.arg0 = b2n far + 2 * b2n small) ∧
        (almManual s.mem (almHbm tp) = false → (far || small) = false → s.core.get Fd.HBM_TRAIN_CTL_FREEZE = 1 → t.mem = s.mem) ∧
        (Inv s → almManual s.mem (almHbm tp) = false → (far || small) = false → s.core.get Fd.HBM_TRAIN_CTL_FREEZE = 0 → tp < 16 → s.core.almExists (almHbm tp) = true →
          almVal t.mem (almHbm tp) = val ∧ t.core.forced t.mem (almHbm tp) = val))) ∧
    (∀ rate : Bool,
      (s.core.hbmIs .rateChange = true → Gives (.hbmRateChange rate) s (s.core.put Fd.HBM_STS_CFG_ERR 1)) ∧
      (s.core.hbmIs .rateChange = false → s.core.get Fd.HBM_CFG_RATE = b2n rate → Gives (.hbmRateChange rate) s s.core) ∧
      (s.core.get Fd.HBM_CFG_RATE ≠ b2n rate → (s.core.runIs .idle = false ∧ s.core.runIs .parked = false ∨ h.rateDue = true ∨ s.core.hbmIs .active = false ∧ s.core.hbmIs .selfRefresh = false) →
        Gives (.hbmRateChange rate) s (s.core.put Fd.HBM_STS_CFG_ERR 1)) ∧
      (s.core.get Fd.HBM_CFG_RATE ≠ b2n rate → (s.core.runIs .idle = true ∨ s.core.runIs .parked = true) → h.rateDue = false →
        (s.core.hbmIs .active = true → h.pausing = false → Completes (.hbmRateChange rate) s (fun t => t.core.hbmIs .rateChange = true ∧ t.core.get Fd.HBM_CFG_RATE = b2n rate ∧
          t.core.hbmc.oldRate = s.core.get Fd.HBM_CFG_RATE ∧ t.core.get Fd.HBM_STS_GATHERING = 0 ∧
          KeepsRegs [Fd.HBM_STS_STATE, Fd.HBM_CFG_RATE, Fd.HBM_STS_GATHERING, Fd.CAL_STS_BUSY] s.core t.core ∧ t.mem = s.mem ∧ t.pending = s.pending)) ∧
        (s.core.hbmIs .active = true → h.pausing = true → Completes (.hbmRateChange rate) s (fun t => t.core.hbmc.rateDue = true ∧
          t.core.get Fd.HBM_CFG_RATE = b2n rate ∧ KeepsRegs [Fd.HBM_CFG_RATE] s.core t.core ∧ t.mem = s.mem ∧ t.pending = s.pending)) ∧
        (s.core.hbmIs .selfRefresh = true → Completes (.hbmRateChange rate) s (fun t => t.core.hbmIs .srExit = true ∧ t.core.hbmc.rateDue = true ∧
          t.core.get Fd.HBM_PWR_CTL_STANDBY = 0 ∧ t.core.get Fd.HBM_CFG_RATE = b2n rate ∧
          KeepsRegs [Fd.HBM_STS_STATE, Fd.HBM_CFG_RATE, Fd.HBM_PWR_CTL_STANDBY] s.core t.core ∧ t.mem = s.mem ∧ t.pending = s.pending)))) ∧
    (∀ (okNew okOld : Bool) (res : List CalMeas), s.core.hbmIs .rateChange = true → Completes (.rateChangeDone okNew okOld res) s (fun t =>
      t.pending = s.pending ∧
      (okNew = true → t.core.hbmIs .active = true ∧ t.core.get Fd.HBM_STS_RATE_NOW = s.core.get Fd.HBM_CFG_RATE ∧ { t.mem with alm := s.mem.alm } = s.mem) ∧
      (okNew = false → okOld = true → t.core.hbmIs .active = true ∧ t.core.get Fd.HBM_STS_RATE_NOW = h.oldRate % 2 ∧ t.core.get Fd.HBM_CFG_RATE = h.oldRate % 2 ∧
        { t.mem with alm := s.mem.alm } = s.mem) ∧
      (okNew = false → okOld = false → t.core.get Fd.CHP_BOOT_STS_NO_HBM = 1 ∧ t.core.hbmIs .off = true ∧ StackGone s t ∧ t.core.get Fd.CAL_STS_BACKUP_VALID = 0 ∧ t.core.get Fd.CAL_STS_BACKUP_GEN = 0) ∧
      (∃ e ∈ t.core.host.evq, e.code = 0x82 ∧ e.stamp = s.core.now ∧ e.arg1 = (if okNew then 0 else if okOld then 1 else 2)))) ∧
    (∀ (be : BitVec 4) (val : Word), be ≠ 0 →
      let w := fun (off : Nat) => byteMerge (s.core.liveW off) be val
      let backup := [Fd.CAL_STS_BACKUP_VALID, Fd.CAL_STS_BACKUP_GEN]
      let refused := s.core.put Fd.HBM_STS_CFG_ERR 1
      let gone := fun (t : State) => StackGone s t ∧ t.core.cal.backNow = true ∧ t.core.get Fd.CAL_STS_BACKUP_VALID = 0 ∧ (Inv s → ∀ i, dirHome (dirEntry t.mem i) = 2 → dirValid (dirEntry t.mem i) = false) ∧ t.pending = s.pending
      (w Fd.HBM_CFG < 2 ^ 28 →
        (s.core.hbmIs .rateChange = true → Gives (.hbmMappingWrite Fd.HBM_CFG be val) s refused) ∧
        (s.core.hbmIs .rateChange = false → bitsOf (w Fd.HBM_CFG) Fd.HBM_CFG_PC_MODE.lo 1 = s.core.get Fd.HBM_CFG_PC_MODE → Gives (.hbmMappingWrite Fd.HBM_CFG be val) s s.core) ∧
        (bitsOf (w Fd.HBM_CFG) Fd.HBM_CFG_PC_MODE.lo 1 ≠ s.core.get Fd.HBM_CFG_PC_MODE → ¬ quiet → Gives (.hbmMappingWrite Fd.HBM_CFG be val) s refused) ∧
        (s.core.hbmIs .rateChange = false → bitsOf (w Fd.HBM_CFG) Fd.HBM_CFG_PC_MODE.lo 1 ≠ s.core.get Fd.HBM_CFG_PC_MODE → quiet → Completes (.hbmMappingWrite Fd.HBM_CFG be val) s (fun t =>
          t.core.get Fd.HBM_CFG_PC_MODE = bitsOf (w Fd.HBM_CFG) Fd.HBM_CFG_PC_MODE.lo 1 ∧ KeepsRegs (Fd.HBM_CFG_PC_MODE :: backup) s.core t.core ∧ gone t))) ∧
      (∀ k, k < 5 → w (Fd.HBM_BANK_XOR k) < 2 ^ 15 → s.core.hbmIs .rateChange = false →
        (w (Fd.HBM_BANK_XOR k) = s.core.get (Fd.HBM_BANK_XOR_ROWMASK k) → Gives (.hbmMappingWrite (Fd.HBM_BANK_XOR k) be val) s s.core) ∧
        (w (Fd.HBM_BANK_XOR k) ≠ s.core.get (Fd.HBM_BANK_XOR_ROWMASK k) → ¬ quiet → Gives (.hbmMappingWrite (Fd.HBM_BANK_XOR k) be val) s refused) ∧
        (w (Fd.HBM_BANK_XOR k) ≠ s.core.get (Fd.HBM_BANK_XOR_ROWMASK k) → quiet → Completes (.hbmMappingWrite (Fd.HBM_BANK_XOR k) be val) s (fun t =>
          t.core.get (Fd.HBM_BANK_XOR_ROWMASK k) = w (Fd.HBM_BANK_XOR k) ∧ KeepsRegs (Fd.HBM_BANK_XOR_ROWMASK k :: backup) s.core t.core ∧ gone t))) ∧
      (∀ p, p < 4 → w (Fd.HBM_PART p) < 2 ^ 17 → s.core.hbmIs .rateChange = false →
        let b := fun q => if q = p then bitsOf (w (Fd.HBM_PART p)) 0 8 else s.core.get (Fd.HBM_PART_BASE q)
        let n := fun q => if q = p then bitsOf (w (Fd.HBM_PART p)) 8 9 else s.core.get (Fd.HBM_PART_SIZE q)
        let fits := (∀ q, q < 4 → b q + n q ≤ 256 ∧ (q ≠ 0 → 1 ≤ n q)) ∧ ∀ q o, q < o → o < 4 → n q = 0 ∨ n o = 0 ∨ b q + n q ≤ b o ∨ b o + n o ≤ b q
        (b p = s.core.get (Fd.HBM_PART_BASE p) → n p = s.core.get (Fd.HBM_PART_SIZE p) → Gives (.hbmMappingWrite (Fd.HBM_PART p) be val) s s.core) ∧
        (b p ≠ s.core.get (Fd.HBM_PART_BASE p) ∨ n p ≠ s.core.get (Fd.HBM_PART_SIZE p) →
          (¬ quiet ∨ ¬ fits → Gives (.hbmMappingWrite (Fd.HBM_PART p) be val) s refused) ∧
          (quiet → fits → Completes (.hbmMappingWrite (Fd.HBM_PART p) be val) s (fun t => t.core.get (Fd.HBM_PART_BASE p) = b p ∧ t.core.get (Fd.HBM_PART_SIZE p) = n p ∧
            KeepsRegs ([Fd.HBM_PART_BASE p, Fd.HBM_PART_SIZE p] ++ if p = 3 then backup else []) s.core t.core ∧ { t.mem with dir := s.mem.dir } = s.mem ∧ (p ≠ 0 → t.mem = s.mem) ∧
            (p = 0 → Inv s → ∀ i, dirHome (dirEntry t.mem i) = 2 → dirValid (dirEntry t.mem i) = false) ∧ t.pending = s.pending)))) ∧
      (bitsOf (w Fd.HBM_PWR_CTL) 12 4 = 0 → Completes (.standby be val) s (fun t => t.mem = s.mem ∧ t.pending = s.pending ∧ t.core.get Fd.HBM_PWR_CTL_AUTO_SR = bitsOf (w Fd.HBM_PWR_CTL) 1 1 ∧
        t.core.get Fd.HBM_PWR_CTL_IDLE_TIME = bitsOf (w Fd.HBM_PWR_CTL) 2 10 ∧ t.core.get Fd.HBM_PWR_CTL_KEEP_MASK = bitsOf (w Fd.HBM_PWR_CTL) 16 16 ∧
        KeepsRegs [Fd.HBM_PWR_CTL_AUTO_SR, Fd.HBM_PWR_CTL_IDLE_TIME, Fd.HBM_PWR_CTL_KEEP_MASK, Fd.HBM_PWR_CTL_STANDBY, Fd.HBM_STS_STBY_REFUSED, Fd.HBM_STS_STATE, Fd.HBM_STS_GATHERING,
          Fd.CAL_STS_BUSY]
          s.core t.core ∧
        (bitAt be.toNat 0 = true → bitAt (w Fd.HBM_PWR_CTL) 0 = true → quiet → s.core.hbmIs .active = true → t.core.hbmIs .srEntry = true ∧ t.core.get Fd.HBM_PWR_CTL_STANDBY = 1 ∧ t.core.hbmc.standby = true ∧
          t.core.hbmc.keep = bitsOf (w Fd.HBM_PWR_CTL) 16 16 ∧ t.core.get Fd.HBM_STS_GATHERING = 0) ∧
        (bitAt be.toNat 0 = true → bitAt (w Fd.HBM_PWR_CTL) 0 = true → (¬ quiet ∨ s.core.hbmIs .active = false) → t.core.get Fd.HBM_STS_STBY_REFUSED = 1 ∧
          t.core.get Fd.HBM_STS_STATE = s.core.get Fd.HBM_STS_STATE ∧ t.core.get Fd.HBM_PWR_CTL_STANDBY = s.core.get Fd.HBM_PWR_CTL_STANDBY) ∧
        (bitAt be.toNat 0 = false → t.core.get Fd.HBM_PWR_CTL_STANDBY = s.core.get Fd.HBM_PWR_CTL_STANDBY ∧ t.core.get Fd.HBM_STS_STATE = s.core.get Fd.HBM_STS_STATE) ∧
        (bitAt be.toNat 0 = true → bitAt (w Fd.HBM_PWR_CTL) 0 = false → t.core.get Fd.HBM_PWR_CTL_STANDBY = 0 ∧
          (s.core.get Fd.HBM_PWR_CTL_STANDBY = 1 → s.core.hbmIs .selfRefresh = true → t.core.hbmIs .srExit = true) ∧
          (s.core.get Fd.HBM_PWR_CTL_STANDBY = 1 → s.core.hbmIs .srEntry = true → t.core.hbmc.wake = true))))) ∧
    (∀ (off : Nat) (val : Word), Gives (.hbmMappingWrite off 0 val) s s.core ∧ Gives (.standby 0 val) s s.core) ∧
    ((s.core.get Fd.HBM_PWR_CTL_AUTO_SR = 1 → s.core.hbmIs .active = true → front →
        h.idleAt + max 1 (s.core.get Fd.HBM_PWR_CTL_IDLE_TIME) * 500 ≤ s.core.now → h.pausing = false → h.rateDue = false →
        Completes .autoSrEntry s (fun t => t.core.hbmIs .srEntry = true ∧ t.core.hbmc.standby = false ∧ t.core.hbmc.keep = 0xFFFF ∧
          KeepsRegs [Fd.HBM_STS_STATE, Fd.HBM_STS_GATHERING, Fd.CAL_STS_BUSY] s.core t.core ∧ t.mem = s.mem ∧ t.pending = s.pending)) ∧
     (h.retry = true → s.core.get Fd.HBM_PWR_CTL_STANDBY = 1 → s.core.hbmIs .active = true → front → h.idleAt + 500 ≤ s.core.now → h.pausing = false →
        Completes .standbyRetry s (fun t => t.core.hbmIs .srEntry = true ∧ t.core.hbmc.standby = true ∧ t.core.hbmc.keep = h.keep ∧
          KeepsRegs [Fd.HBM_STS_STATE, Fd.HBM_STS_GATHERING, Fd.CAL_STS_BUSY] s.core t.core ∧ t.mem = s.mem ∧ t.pending = s.pending)) ∧
     (s.core.hbmIs .srEntry = true → (∀ e ∈ h.pcs, e.2.q = []) → Completes .srEntryDone s (fun t => (∀ e ∈ t.core.hbmc.pcs, e.2.rows = []) ∧ t.mem = s.mem ∧ t.pending = s.pending ∧
        KeepsRegs [Fd.HBM_STS_STATE, Fd.HBM_PWR_CTL_STANDBY] s.core t.core ∧
        (h.wake = true ∨ h.held ≠ [] → t.core.hbmIs .srExit = true ∧ t.core.get Fd.HBM_PWR_CTL_STANDBY = 0) ∧
        (h.wake = false → h.held = [] → t.core.hbmIs .selfRefresh = true ∧ t.core.get Fd.HBM_PWR_CTL_STANDBY = s.core.get Fd.HBM_PWR_CTL_STANDBY))) ∧
     (s.core.hbmIs .srExit = true →
        let lost := 0xFFFF - h.keep % 2 ^ 16
        Completes .srExitDone s (fun t => t.core.hbmc.held = [] ∧ t.core.hbmc.standby = false ∧ t.core.hbmc.wake = false ∧ t.pending = s.pending ∧
        (h.rateDue = false → t.core.hbmIs .active = true) ∧ (h.rateDue = true → t.core.hbmIs .rateChange = true) ∧
        (h.standby = true → t.core.get Fd.HBM_STS_LOST_MASK = lost ∧ (∃ e ∈ t.core.host.evq, e.code = 0x83 ∧ e.stamp = s.core.now ∧ e.arg0 = lost) ∧
          (∀ x, bitAt lost (s.core.hPc x) = false → Tbl.get t.mem.hbmFree t.mem.hbm x = Tbl.get s.mem.hbmFree s.mem.hbm x) ∧
          (∀ x, bitAt lost (s.core.hPc x) = true → Tbl.get t.mem.hbmFree t.mem.hbm x = Config.freeHbm (s.mem.hbmGen + s.mem.hbmLoss.length + 1) x)) ∧
        (h.standby = false → t.core.get Fd.HBM_STS_LOST_MASK = s.core.get Fd.HBM_STS_LOST_MASK ∧ t.mem = s.mem ∧ t.core.host.evq = s.core.host.evq))))

/-- R15, R332-R342; the cycles are counted from tick 0, a counter that the spec leaves open (log entry 75), and a line moves into the ring in the first free place (log entry 27). -/
def Obligations.ArbitersGrantAndAreWatched : Prop :=
  (∀ (s : State) (a : Arb) (n : Nat), s.core.arbRuns a = true → arbFirst a s.core.now ≤ n → n < arbFirst a (s.core.now + 1) → (∀ e ∈ (s.core.arb (arbMem a)).waits, e.1 < arbN a) →
    let port := s.core.arb (arbKey a)
    let both := s.core.arb (arbMem a)
    (∀ reqs : List (Nat × Option Nat),
      let asks := fun x => (∃ p, (x, p) ∈ reqs ∧ s.core.mayAsk a x p = true) ∧ (x, n) ∉ both.bitten
      let may := fun x => (∃ p, (x, p) ∈ reqs ∧ s.core.mayAsk a x p = true ∧ (p.isSome = true → s.core.hbmHold = false)) ∧ (x, n) ∉ both.bitten
      let idle := fun x => ∀ l, a = .chip l → ∀ k, k < 4 → (s.core.arb (arbKey (.chip k))).owner ≠ some x
      let last := fun x => Tbl.get (fun _ => arbN a - 1) both.last (s.core.arbPri a x) % arbN a
      let turn := fun x => (x + arbN a - 1 - last x) % arbN a
      let held := port.bound.isSome && s.core.hbmHold
      let still := fun (t : State) x => (∀ r b, a = .block r b → x ≠ 18 ∧ s.core.arbPart a 18 0 < 2) → t.mem = s.mem
      let queued := fun (t : State) x => ∀ y, asks y → idle y → y ≠ x → ∃ w, (y, w) ∈ (t.core.arb (arbMem a)).waits
      (port.owner = none ∨ (∃ x, port.owner = some x ∧ ¬ asks x) → held = false →
        (∀ l, a = .chip l → ∀ k, k < l → ∃ y, (s.core.arb (arbKey (.chip k))).owner = some y ∧ may y) → (∃ x, may x ∧ idle x) →
        Completes (.arbGrant a n reqs) s (fun t => ∃ x, may x ∧ idle x ∧ (t.core.arb (arbKey a)).owner = some x ∧ (t.core.arb (arbKey a)).since = n ∧
          Tbl.get (fun _ => arbN a) (t.core.arb (arbMem a)).last (s.core.arbPri a x) = x ∧
          (∀ y, may y → idle y → s.core.arbPri a y ≤ s.core.arbPri a x) ∧
          (∀ y, may y → idle y → s.core.arbPri a y = s.core.arbPri a x → (y, n) ∉ both.former → (x, n) ∉ both.former ∧ turn x ≤ turn y) ∧ queued t x ∧
          (let wait := fun w => s.core.arbCount a n - w
           let counts := fun (grants wait' longest : Fld) => t.core.get grants = min (2 ^ grants.w - 1) (s.core.get grants + 1) ∧
             ∀ w, both.waits.find? (fun e => e.1 == x) = some (x, w) →
               t.core.get wait' = min (2 ^ wait'.w - 1) (s.core.get wait' + wait w) ∧ t.core.get longest = min 0xFFFFFF (max (wait w) (s.core.get longest))
           (∀ r, a = .region r → counts (Fd.RGN_ARB_GRANTS_GRANTS r x) (Fd.RGN_ARB_WAIT_WAIT r x) (Fd.RGN_ARB_LONGEST_LONGEST r x)) ∧
           (∀ l, a = .chip l → counts (Fd.CHP_ARB_GRANTS_GRANTS x) (Fd.CHP_ARB_WAIT_WAIT x) (Fd.CHP_ARB_LONGEST_LONGEST x))) ∧
          (∀ r b, a = .block r b → KeepsRegs [Fd.BLK_SEG_STS_STAGE_USED r b] s.core t.core) ∧ ((∀ r b, a = .block r b → x ≠ 18) → (t.core.arb (arbKey a)).beats = 0) ∧ still t x ∧
          t.pending = s.pending)) ∧
      (∀ x, port.owner = some x → asks x → held = false → Completes (.arbGrant a n reqs) s (fun t => (t.core.arb (arbKey a)).owner = some x ∧ (t.core.arb (arbKey a)).since = port.since ∧
        queued t x ∧ still t x ∧ t.pending = s.pending ∧
        (∀ r b l q, a = .block r b → x = 18 → Inv s → (s.core.blk (16 * r + b)).inbox = [l] → s.core.arbPart a 18 0 = 0 → port.beats + 2 ≤ s.core.arbBurst a 18 →
          max port.next (arbFirst a s.core.now) + 2 ≤ arbFirst a (s.core.now + 1) → q < s.core.get (Fd.BLK_SEG_CFG_STAGE_LINES r b) →
          (∀ y ∈ (s.core.blk (16 * r + b)).cache, y.place ≠ q) →
          ∃ q' u, q' < s.core.get (Fd.BLK_SEG_CFG_STAGE_LINES r b) ∧ (∀ y ∈ (s.core.blk (16 * r + b)).cache, y.place ≠ q') ∧ (t.core.blk (16 * r + b)).inbox = [] ∧
            (t.core.blk (16 * r + b)).cache = (s.core.blk (16 * r + b)).cache ++ [{ segid := l.segid, line := l.line, place := q', use := u }] ∧
            Wrote zeroByte s.mem.blk t.mem.blk ((16 * r + b) * 524288 + q' * 128) l.data ∧ (t.core.arb (arbKey a)).beats = port.beats + 2 ∧
            (t.core.book (bookKey 5 r b)).issued = ((s.core.book (bookKey 5 r b)).issued + 1) % 2 ^ 32 ∧
            (t.core.book (bookKey 5 r b)).returned = ((s.core.book (bookKey 5 r b)).returned + 1) % 2 ^ 32))) ∧
      ((∀ x, ¬ asks x) → Completes (.arbGrant a n reqs) s (fun t => (t.core.arb (arbKey a)).owner = none ∧ still t 0 ∧ t.pending = s.pending)) ∧
      (held = true → (∃ l, a = .chip l) → Completes (.arbGrant a n reqs) s (fun t => (t.core.arb (arbKey a)).bound = none ∧ (∀ x, (t.core.arb (arbKey a)).owner = some x → may x) ∧
        (∀ x, port.owner = some x → may x → (∃ y, may y ∧ idle y ∧ (y, n) ∉ both.former) → (t.core.arb (arbKey a)).owner ≠ some x) ∧ t.mem = s.mem ∧ t.pending = s.pending))) ∧
    (∀ x, port.owner = some x →
      (s.core.arbBurst a x ≤ port.beats → port.next ≤ n → Gives (.burstExpiry ⟨a, n⟩) s
        ((s.core.setArb (arbKey a) { port with owner := none, bound := none, beats := 0 }).modArb (arbMem a)
          (fun y => { y with former := (x, n) :: y.former.filter (fun e => e.2 == n) }))) ∧
      (port.beats < s.core.arbBurst a x ∨ n < port.next → Gives (.burstExpiry ⟨a, n⟩) s s.core) ∧
      (s.core.arbArmed a = true → port.idle + s.core.arbLimit a ≤ s.core.arbCount a (n + 1) → (∀ e ∈ both.parts, e.1 < 32 * 65) →
        Completes (.arbWatchdog ⟨a, n⟩) s (fun t => (t.core.arb (arbKey a)).owner = none ∧
        (t.core.arb (arbMem a)).bitten = [(x, n)] ∧ (∀ e, e ∈ (t.core.arb (arbMem a)).parts ↔ e ∈ both.parts ∧ e.1 % 32 ≠ x) ∧
        (∀ k, portBook a x = some k → (t.core.book k).returned = (s.core.book k).issued ∧ (t.core.book k).inflight = 0 ∧
          (t.core.book k).void = (s.core.book k).void + (s.core.book k).inflight) ∧
        (∀ r b, a = .block r b → x = 18 → (∃ w, (18, w) ∈ both.parts) → (t.core.blk (16 * r + b)).inbox = (s.core.blk (16 * r + b)).inbox.drop 1) ∧
        (∀ m k w, m < 64 → (x + 32 * (m + 1), w) ∈ both.parts → x < 32 → (s.core.ring m).cmd = some k → k.exec = true →
          (t.core.ring m).cmd = none ∧ compOf m k .aborted 0 0 s.core.now ∈ (t.core.ring (s.core.get (Fd.CHP_RING_CFG_COMPL m))).comps) ∧
        (∀ m, (∀ e ∈ both.parts, e.1 % 32 = x → e.1 / 32 ≠ m + 1) → (t.core.ring m).cmd = (s.core.ring m).cmd) ∧
        ((∀ e ∈ both.parts, e.1 % 32 = x → e.1 < 32) → t.core.host.rings = s.core.host.rings ∧ KeepsRegs (match a with
          | .block r b => [Fd.BLK_ARB_CNT_BITES r b, Fd.BLK_ARB_CNT_LAST_X r b]
          | .region r => [Fd.RGN_ARB_WDOG_LAST_X r]
          | .chip _ => [Fd.CHP_ARB_WDOG_LAST_X]) s.core t.core) ∧
        (∀ r b, a = .block r b → t.core.get (Fd.BLK_ARB_CNT_BITES r b) = min (2 ^ (Fd.BLK_ARB_CNT_BITES r b).w - 1) (s.core.get (Fd.BLK_ARB_CNT_BITES r b) + 1)) ∧
        (x < arbN a → ∀ r b, a = .block r b → t.core.get (Fd.BLK_ARB_CNT_LAST_X r b) = x) ∧ (x < arbN a → ∀ r, a = .region r → t.core.get (Fd.RGN_ARB_WDOG_LAST_X r) = x) ∧
        (x < arbN a → ∀ l, a = .chip l → t.core.get Fd.CHP_ARB_WDOG_LAST_X = x) ∧
        t.core.host.evq = s.core.host.evq ++ [{ code := 0x50, level := (arbName a).1, index := (arbName a).2, stamp := s.core.now, arg0 := x % 2 ^ 64, arg1 := 0 }] ∧
        t.core.cells = s.core.cells ∧ t.mem = s.mem ∧ t.pending = s.pending)) ∧
      (s.core.arbArmed a = false ∨ s.core.arbCount a (n + 1) < port.idle + s.core.arbLimit a → Gives (.arbWatchdog ⟨a, n⟩) s s.core)) ∧
    (∀ x w, x < arbN a → both.waits.find? (fun e => e.1 == x) = some (x, w) →
      let wait := s.core.arbCount a n - w
      (s.core.arbStarve a ≤ wait → Completes (.starve a x n) s (fun t =>
        bitAt (t.core.get (starveF a)) x = true ∧ (∀ y, y ≠ x → bitAt (t.core.get (starveF a)) y = bitAt (s.core.get (starveF a)) y) ∧
        t.core.host.evq = s.core.host.evq ++ (if bitAt (s.core.get (starveF a)) x then [] else
          [{ code := 0x51, level := (arbName a).1, index := (arbName a).2, stamp := s.core.now, arg0 := x % 2 ^ 64, arg1 := wait % 2 ^ 64 }]) ∧
        KeepsRegs [starveF a] s.core t.core ∧ t.core.arbs = s.core.arbs ∧ t.mem = s.mem ∧ t.pending = s.pending)) ∧
      (wait < s.core.arbStarve a → Gives (.starve a x n) s s.core)) ∧
    ((∀ r b, a = .block r b → s.core.arbCount a n = n) ∧ (∀ r, a = .region r → s.core.arbCount a n = n) ∧
      (∀ l d, a = .chip l → s.core.hbmc.heldCyc = 0 → s.core.hbmc.holdD0 = some d → arbFirst a (d + 32) ≤ n → s.core.arbCount a n = n - (ceilDiv (12 * (d + 32)) 5 - ceilDiv (12 * (d + 20)) 5)))) ∧
  (∀ (s : State) (r b : Nat) (be : BitVec 4) (val : Word), s.core.svc = true → s.core.thm.shut = false → s.core.pins.d3 = false → s.core.bOk r b = true →
    let w := byteMerge (s.core.liveW (Fd.BLK_ARB_PRI1 r b)) be val
    (be ≠ 0 → Gives (.priorityWrite r b 0 be val) s (s.core.put (Fd.BLK_ARB_PRI0_PRI_C r b) (byteMerge (s.core.get (Fd.BLK_ARB_PRI0_PRI_C r b)) be val))) ∧
    (be ≠ 0 → w < 64 → Completes (.priorityWrite r b 1 be val) s (fun t => t.core.get (Fd.BLK_ARB_PRI1_PRI_C r b) = bitsOf w 0 4 ∧
      t.core.get (Fd.BLK_ARB_PRI1_PRI_REFILL r b) = bitsOf w 4 2 ∧
      KeepsRegs [Fd.BLK_ARB_PRI1_PRI_C r b, Fd.BLK_ARB_PRI1_PRI_REFILL r b] s.core t.core ∧ t.mem = s.mem ∧ t.pending = s.pending)) ∧
    (∀ k, Gives (.priorityWrite r b k 0 val) s s.core))

/-- R352-R354: the flit format, both ways. -/
def Obligations.FlitsReadBackAsMade : Prop :=
  ∀ (ty : FlitType) (seq tick load : Nat), seq < 128 → tick < 64 → load < 2 ^ 256 → (2 ≤ ty.code → seq = 0) →
    (ty = .def_ → load < 2 ^ 80 ∧ bitsOf load 11 5 = 0) → (ty = .time → load < 2 ^ 100) → (ty = .link → load < 2 ^ 14) → (ty = .idle → load = 0) →
    let f := mkFlit ty seq tick load
    flitOk f = true ∧ fType f = ty.code ∧ fSeq f = seq ∧ fStick f = tick ∧ fLoad f = load

/-- R348-R361, R367, R369 and R370; how a lane repays its delay is the model's choice (log entry 152). The units of a flit come in the order in which deskewing puts them (log entry 170). -/
def Obligations.PortsSendAndAcceptFlits : Prop :=
  (∀ (x : TxLine) (y : RxLine) (d : List Bool), Twin x y → y.bip = x.bip → y.pos = x.pos → d.length = 48 →
    let x' := d.foldl TxLine.data x
    y.unit (lineBits x d) = ({ prbs := x'.prbs, last := x'.last, run := x'.run, bip := x'.bip, pos := x'.pos }, some d, 0)) ∧
  (∀ (x : TxLine) (y : RxLine) (p l : Nat), Twin x y → p < 4 → l < 8 → x.bip < 2 ^ 8 →
    let x' := x.marker p l
    let z := y.marker (stuffed x (markerBits p l x.bip))
    Twin x' z.1 ∧ z.1.bip = 0 ∧ x'.bip = 0 ∧ z.2.1 = some (ofBits (markerBits p l x.bip)) ∧ z.2.2 = 0) ∧
  (∀ (y : RxLine) (b : Bool) (rest : List Bool), y.run = 31 → b = y.last → (y.unit (b :: rest)).2.1 = none ∧ 1 ≤ (y.unit (b :: rest)).2.2) ∧
  ∀ (s : State) (p : Nat), p < 4 → s.core.svc = true →
    let x := s.core.port p
    let rx := s.core.rxLanes p
    let inverted := fun (l : Nat) => s.core.get (Fd.SZL_LANE_STS_POL_INV p l) == 1
    let stuffErrs := (upFrom 0 6).map (Fd.SZL_LANE_CNT_STUFF_ERR p)
    let rest := fun (t : State) => { t.core.port p with rx := x.rx, rxNo := x.rxNo }
    (∀ (z : Port) (tx : List Nat) (f : BitVec 288), rx ≠ [] → tx.length = rx.length → tx.Nodup → (∀ l ∈ tx, l < z.lines.length) → x.rx.length = 6 → z.unitNo % tx.length = x.rxNo % tx.length →
      (∀ k, k < tx.length → Twin (z.lines.getD (tx.getD k 0) (TxLine.init 0)) (x.rx.getD (rx.getD k 0) (RxLine.init 0))) →
      (s.core.rxFlit p ((unitLines tx z (flitUnits f)).zipIdx.map (fun e => atBalls (inverted (rx.getD ((x.rxNo + e.2) % rx.length) 0)) e.1))).2 = some f) ∧
    let waits := fun (v : Nat) => (x.want.find? (fun w => w.1 == v)).toList.map (fun w => ({ v := v, seq := 0, tick := s.core.now, load := w.2 } : TxFlit))
    let ready := fun (v : Nat) (f : TxFlit) => x.replay.length < 96 ∧ s.core.get Fd.CHP_FAULT_STS_FAULT = 0 ∧ x.txq.find? (fun f => f.v == v) = some f ∧ s.core.now ≤ f.tick + 12
    let paid := ∀ y ∈ x.lines, y.full = false
    (∀ v f, x.txq.find? (fun f => f.v == v) = some f → f.tick + 12 < s.core.now → Completes (.sendLate p v) s (fun t =>
      (t.core.port p).txq = x.txq.erase f ++ waits v ∧ t.core.get (Fd.SZL_PORT_CNT1_SEND_LATE p) =
        min (2 ^ (Fd.SZL_PORT_CNT1_SEND_LATE p).w - 1) (s.core.get (Fd.SZL_PORT_CNT1_SEND_LATE p) + 1) ∧
      (t.core.book (bookKey 7 0 (2 * p + v))).returned = ((s.core.book (bookKey 7 0 (2 * p + v))).returned + 1) % 2 ^ 32 ∧
      KeepsRegs [Fd.SZL_PORT_CNT1_SEND_LATE p] s.core t.core ∧ t.mem = s.mem ∧ t.pending = s.pending)) ∧
    (s.core.portIs p .up = true →
      ((∃ y ∈ x.lines, y.full = true) → Completes (.flitSend p) s (fun t => { t.core.port p with lines := x.lines } = x ∧
        (∀ l z, ((t.core.port p).lines.getD l z).debt ≤ (x.lines.getD l z).debt) ∧ KeepsRegs [] s.core t.core ∧ t.mem = s.mem ∧ t.pending = s.pending)) ∧
      (paid → x.linkFirst = true → Completes (.flitSend p) s (fun t => (t.core.port p).linkFirst = false ∧
        (t.core.port p).sent = x.sent ++ [mkFlit .link 0 s.core.now (x.ackTx % 128 + s.core.get (Fd.SZL_PORT_STS_RX_MASK p) * 2 ^ 8)] ∧
        (t.core.port p).txq = x.txq ∧ KeepsRegs [] s.core t.core ∧ t.mem = s.mem ∧ t.pending = s.pending)) ∧
      (paid → x.linkFirst = false → x.nakDue = true → Completes (.flitSend p) s (fun t => (t.core.port p).nakDue = false ∧ (t.core.port p).lastLink = s.core.now ∧
        (t.core.port p).sent = x.sent ++ [mkFlit .link 0 s.core.now (x.ackTx % 128 + 128 + s.core.get (Fd.SZL_PORT_STS_RX_MASK p) * 2 ^ 8)] ∧
        KeepsRegs [] s.core t.core ∧ t.mem = s.mem ∧ t.pending = s.pending)) ∧
      (∀ f rest, paid → x.linkFirst = false → x.nakDue = false → s.core.get Fd.CHP_FAULT_STS_FAULT = 0 → x.resend = f :: rest → Completes (.flitSend p) s (fun t => (t.core.port p).resend = rest ∧
        (t.core.port p).sent = x.sent ++ [mkFlit (if f.v = 0 then .dec else .def_) f.seq f.tick f.load] ∧ (t.core.port p).replay = x.replay ∧
        KeepsRegs [] s.core t.core ∧ t.mem = s.mem ∧ t.pending = s.pending)) ∧
      (∀ f v, paid → x.linkFirst = false → x.nakDue = false → x.resend = [] → (v = 0 ∧ ready 0 f ∨ v = 1 ∧ (∀ g, ¬ ready 0 g) ∧ ready 1 f) →
        Completes (.flitSend p) s (fun t => (t.core.port p).sent = x.sent ++ [mkFlit (if f.v = 0 then .dec else .def_) x.seq f.tick f.load] ∧
          (t.core.port p).txq = x.txq.erase f ++ waits v ∧ (t.core.port p).replay = x.replay ++ [{ f with seq := x.seq }] ∧ (t.core.port p).seq = (x.seq + 1) % 128 ∧
          (t.core.book (bookKey 7 0 (2 * p + v))).returned = ((s.core.book (bookKey 7 0 (2 * p + v))).returned + 1) % 2 ^ 32 ∧
          KeepsRegs [] s.core t.core ∧ t.mem = s.mem ∧ t.pending = s.pending)) ∧
      (paid → x.linkFirst = false → x.nakDue = false → (x.resend = [] ∨ s.core.get Fd.CHP_FAULT_STS_FAULT = 1) → (∀ g, ¬ ready 0 g ∧ ¬ ready 1 g) →
        ((32 ≤ x.sinceLink ∨ x.lastLink + 16 ≤ s.core.now) → Completes (.flitSend p) s (fun t =>
          (t.core.port p).sent = x.sent ++ [mkFlit .link 0 s.core.now (x.ackTx % 128 + s.core.get (Fd.SZL_PORT_STS_RX_MASK p) * 2 ^ 8)] ∧
          (t.core.port p).sinceLink = 0 ∧ (t.core.port p).txq = x.txq ∧ KeepsRegs [] s.core t.core ∧ t.mem = s.mem ∧ t.pending = s.pending)) ∧
        (x.sinceLink < 32 → s.core.now < x.lastLink + 16 → x.timeAt ≤ s.core.now → Completes (.flitSend p) s (fun t =>
          (∃ f, (t.core.port p).sent = x.sent ++ [f] ∧ fType f = 2 ∧ fStick f = s.core.now % 64 ∧ bitsOf (fLoad f) 3 64 = s.core.now % 2 ^ 64 ∧
            bitAt (fLoad f) 67 = x.lastD.isSome) ∧ (t.core.port p).timeAt = s.core.now + 2 ^ s.core.timeExp p ∧ (t.core.port p).txq = x.txq ∧ KeepsRegs [] s.core t.core ∧ t.mem = s.mem ∧ t.pending = s.pending)) ∧
        (x.sinceLink < 32 → s.core.now < x.lastLink + 16 → s.core.now < x.timeAt →
          ((∃ y ∈ x.lines, 0 < y.debt) → Completes (.flitSend p) s (fun t => { t.core.port p with lines := x.lines } = x ∧
            (∀ l z, ((t.core.port p).lines.getD l z).debt ≤ (x.lines.getD l z).debt) ∧ KeepsRegs [] s.core t.core ∧ t.mem = s.mem ∧ t.pending = s.pending)) ∧
          ((∀ y ∈ x.lines, y.debt = 0) → Completes (.flitSend p) s (fun t => (t.core.port p).sent = x.sent ++ [mkFlit .idle 0 s.core.now 0] ∧
            { t.core.port p with sent := x.sent, lines := x.lines, unitNo := x.unitNo } = x ∧ KeepsRegs [] s.core t.core ∧ t.mem = s.mem ∧ t.pending = s.pending)))) ∧
      (s.core.get Fd.CHP_FAULT_STS_FAULT = 1 → Gives (.replay p) s s.core) ∧
      (x.nakIn = true → s.core.get Fd.CHP_FAULT_STS_FAULT = 0 → Completes (.replay p) s (fun t => t.core.port p = { x with nakIn := false, resend := x.replay } ∧
        t.core.get (Fd.SZL_PORT_CNT0_REPLAYS p) = min (2 ^ (Fd.SZL_PORT_CNT0_REPLAYS p).w - 1) (s.core.get (Fd.SZL_PORT_CNT0_REPLAYS p) + 1) ∧
        KeepsRegs [Fd.SZL_PORT_CNT0_REPLAYS p] s.core t.core ∧ t.mem = s.mem ∧ t.pending = s.pending)) ∧
      (∀ units, ((s.core.rxFlit p units).2 = none ∨ ∃ flit, (s.core.rxFlit p units).2 = some flit ∧ flitOk flit = false) →
        ∀ c : Instr, (c = .flitAccept p units ∨ c = .linkFlitRx p units ∨ ∃ a, c = .timeFlitRx p units a) → Completes c s (fun t =>
        t.core.get (Fd.SZL_PORT_CNT0_CRC_ERR p) = min (2 ^ (Fd.SZL_PORT_CNT0_CRC_ERR p).w - 1) (s.core.get (Fd.SZL_PORT_CNT0_CRC_ERR p) + 1) ∧
        (t.core.port p).expSeq = x.expSeq ∧ (t.core.port p).hold = x.hold ∧ (x.nakSeq = none → (t.core.port p).nakDue = true) ∧
        KeepsRegs (Fd.SZL_PORT_CNT0_CRC_ERR p :: stuffErrs) s.core t.core ∧ t.mem = s.mem ∧ t.pending = s.pending)) ∧
      (∀ units flit, (s.core.rxFlit p units).2 = some flit → flitOk flit = true → fType flit ≤ 1 →
        (fSeq flit ≠ x.expSeq → 64 ≤ (fSeq flit + 128 - x.expSeq) % 128 → Completes (.flitAccept p units) s (fun t => rest t = x ∧ (t.core.port p).rxNo = x.rxNo + 6 ∧
          KeepsRegs [] s.core t.core ∧ t.core.rgns = s.core.rgns ∧ t.mem = s.mem ∧ t.pending = s.pending)) ∧
        (fSeq flit ≠ x.expSeq → (fSeq flit + 128 - x.expSeq) % 128 < 64 → Completes (.flitAccept p units) s (fun t =>
          t.core.get (Fd.SZL_PORT_CNT0_CRC_ERR p) = min (2 ^ (Fd.SZL_PORT_CNT0_CRC_ERR p).w - 1) (s.core.get (Fd.SZL_PORT_CNT0_CRC_ERR p) + 1) ∧
          (t.core.port p).expSeq = x.expSeq ∧ (t.core.port p).hold = x.hold ∧ (x.nakSeq = none → (t.core.port p).nakDue = true) ∧
          KeepsRegs [Fd.SZL_PORT_CNT0_CRC_ERR p] s.core t.core ∧ t.mem = s.mem ∧ t.pending = s.pending)) ∧
        (fSeq flit = x.expSeq →
          let ready := rebuildSend s.core.now (fStick flit) + 20
          let latch := rebuild s.core.now (fLoad flit % 65536)
          Completes (.flitAccept p units) s (fun t => (t.core.port p).expSeq = (x.expSeq + 1) % 128 ∧ (t.core.port p).ackTx = fSeq flit ∧
            (fType flit = 0 → s.core.now < ready → ready ≤ s.core.now + 20 → s.core.now < latch + 22 → (t.core.port p).hold = x.hold ++ [(latch, fLoad flit)] ∧
              t.core.rgns = s.core.rgns) ∧
            (fType flit = 0 → (ready ≤ s.core.now ∨ s.core.now + 20 < ready ∨ latch + 22 ≤ s.core.now) → (t.core.port p).hold = x.hold ∧ t.core.get (Fd.CHP_DEC_STS_REMOTE_LATE p) =
              min (2 ^ (Fd.CHP_DEC_STS_REMOTE_LATE p).w - 1) (s.core.get (Fd.CHP_DEC_STS_REMOTE_LATE p) + 1)) ∧
            (fType flit = 1 → s.core.now < ready → ready ≤ s.core.now + 20 → ∀ r, s.core.rOk r = true → (t.core.rgn r).synd.flits = (s.core.rgn r).synd.flits ++
              [{ port := p, rgn := bitsOf (fLoad flit) 0 3, no := bitsOf (fLoad flit) 3 8, dfx := bitsOf (fLoad flit) 16 32, era := bitsOf (fLoad flit) 48 32, tick := ready }]) ∧
            t.mem = s.mem ∧ t.pending = s.pending))) ∧
      (∀ units flit, (s.core.rxFlit p units).2 = some flit → flitOk flit = true → fType flit = 3 →
        let ack := bitsOf (fLoad flit) 0 7
        (bitAt (fLoad flit) 7 = false → Completes (.linkFlitRx p units) s (fun t => t.core.get (Fd.SZL_PORT_STS_TX_MASK p) = bitsOf (fLoad flit) 8 6 ∧
          rest t = { x with replay := ackDrop ack x.replay, resend := ackDrop ack x.resend } ∧ KeepsRegs [Fd.SZL_PORT_STS_TX_MASK p] s.core t.core ∧
          t.mem = s.mem ∧ t.pending = s.pending)) ∧
        (bitAt (fLoad flit) 7 = true → (x.nakWhich ≠ (ack + 1) % 128 ∨ x.nakCnt < 3) → Completes (.linkFlitRx p units) s (fun t =>
          (t.core.port p).nakIn = true ∧ (t.core.port p).replay = ackDrop ack x.replay ∧ s.core.get (Fd.SZL_PORT_STS_STATE p) = t.core.get (Fd.SZL_PORT_STS_STATE p) ∧
          t.mem = s.mem ∧ t.pending = s.pending)) ∧
        (bitAt (fLoad flit) 7 = true → x.nakWhich = (ack + 1) % 128 → 3 ≤ x.nakCnt → Completes (.linkFlitRx p units) s (fun t =>
          t.core.portIs p .recovery = true ∧ (t.core.port p).replay = [] ∧ (t.core.port p).txq = [] ∧ t.mem = s.mem ∧ t.pending = s.pending))) ∧
      (∀ units flit (arrival : Nat), (s.core.rxFlit p units).2 = some flit → flitOk flit = true → fType flit = 2 →
        let d : Int := (arrival : Int) - (bitsOf (fLoad flit) 0 67 : Int)
        let far : Int := sx 32 (bitsOf (fLoad flit) 68 32)
        let off : Int := clampI (-32768) 32767 (floorShr (d - far) 1)
        (bitAt (fLoad flit) 67 = false → Completes (.timeFlitRx p units arrival) s (fun t => rest t = { x with lastD := some d } ∧ KeepsRegs [] s.core t.core ∧ t.mem = s.mem ∧ t.pending = s.pending)) ∧
        (bitAt (fLoad flit) 67 = true → Completes (.timeFlitRx p units arrival) s (fun t => (t.core.port p).lastD = some d ∧ t.core.getS (Fd.SZL_TIME_OFFSET p) = off ∧
          t.core.get (Fd.SZL_TIME_FLIGHT p) = (clampI 0 65535 (floorShr (d + far) 1)).toNat ∧ (off ≤ -6 ∨ 6 ≤ off → t.core.get (Fd.SZL_PORT_STS_OFFSET_ERR p) = 1) ∧
          (-6 < off → off < 6 → t.core.get (Fd.SZL_PORT_STS_OFFSET_ERR p) = s.core.get (Fd.SZL_PORT_STS_OFFSET_ERR p) ∧ t.core.host.evq = s.core.host.evq) ∧
          KeepsRegs [Fd.SZL_TIME_OFFSET p, Fd.SZL_TIME_FLIGHT p, Fd.SZL_PORT_STS_OFFSET_ERR p, Fd.SZL_PORT_STS_FLIGHT_ERR p] s.core t.core ∧ t.mem = s.mem ∧ t.pending = s.pending))) ∧
      (∀ (l : Nat) (bits : List Bool), l < 6 → s.core.get (Fd.SZL_LANE_STS_ACTIVE p l) = 1 →
        let y := x.rx.getD l (RxLine.init 0)
        let z := y.marker (atBalls (inverted l) bits)
        let am := z.2.1.getD 0
        let ok := bitsOf am 0 24 = 0x4B3CD2 ∧ bitsOf am 24 3 = s.core.get (Fd.SZL_LANE_STS_LOGICAL p l) ∧ bitsOf am 27 2 = s.core.get (Fd.SZL_PORT_STS_PEER_PORT p)
        (ok → bitsOf am 30 8 = y.bip → Completes (.alignmentMarker p l bits) s (fun t => t.core.port p = { x with markErr := Tbl.erase x.markErr l, rx := x.rx.set l z.1 } ∧
          KeepsRegs stuffErrs s.core t.core ∧ t.mem = s.mem ∧ t.pending = s.pending)) ∧
        (ok → bitsOf am 30 8 ≠ y.bip → Completes (.alignmentMarker p l bits) s (fun t =>
          t.core.get (Fd.SZL_LANE_CNT_BIP_ERR p l) = min (2 ^ (Fd.SZL_LANE_CNT_BIP_ERR p l).w - 1) (s.core.get (Fd.SZL_LANE_CNT_BIP_ERR p l) + 1) ∧
          (l, s.core.now) ∈ (t.core.port p).bipErr ∧ KeepsRegs (Fd.SZL_LANE_CNT_BIP_ERR p l :: stuffErrs) s.core t.core ∧ t.mem = s.mem ∧ t.pending = s.pending)) ∧
        (¬ ok → Completes (.alignmentMarker p l bits) s (fun t => t.core.get (Fd.SZL_LANE_CNT_STUFF_ERR p l) =
            min (2 ^ (Fd.SZL_LANE_CNT_STUFF_ERR p l).w - 1) (s.core.get (Fd.SZL_LANE_CNT_STUFF_ERR p l) + z.2.2) ∧
          Tbl.get (fun _ => 0) (t.core.port p).markErr l = Tbl.get (fun _ => 0) x.markErr l + 1 ∧ KeepsRegs (Fd.SZL_PORT_CNT0_CRC_ERR p :: stuffErrs) s.core t.core ∧
          t.mem = s.mem ∧ t.pending = s.pending))))

/-- R348, R351, R362-R368. One TS3 of a lane stands for the 16 (log entry 171). -/
def Obligations.PortsTrainAndRecover : Prop :=
  ∀ (s : State) (p : Nat), p < 4 → s.core.svc = true →
    (∀ (tr : PortTrain) (c : Instr), (c = .portTraining p tr ∧ s.core.portIs p .training = true ∨ c = .recoveryEnd p tr ∧ s.core.portIs p .recovery = true) →
      let inv := fun (l : Nat) => decide (bitsOf (tr.ts1.getD l 0).toNat 0 24 = 0x1CB54E)
      let ts := fun (k l : Nat) => let w := (if k = 1 then tr.ts1 else tr.ts2).getD l 0
        (if inv l then ~~~w else w).toNat
      let ok := fun (k l : Nat) => decide (bitsOf (ts k l) 0 24 = 0xE34AB1) && decide (bitsOf (ts k l) 24 2 = k) && decide (bitsOf (ts k l) 88 8 = tsCrc (ts k l % 2 ^ 88))
      let txLane := fun (l : Nat) => bitsOf (ts 1 l) 26 3
      let reads := fun (l : Nat) => bitAt tr.locked.toNat l && ok 1 l
      let fits := fun (l : Nat) => reads l && !bitAt (s.core.port p).excl l
      let dir := (upFrom 0 6).filter (fun l => fits l && txLane l == l)
      let rev := (upFrom 0 6).filter (fun l => fits l && txLane l == 5 - l)
      let isRev := decide (dir.length < rev.length)
      let lanes := if isRev then rev else dir
      let peer := ((upFrom 0 6).filter reads).headD 0
      let peerRx := bitsOf (ts 2 (lanes.headD 0)) 80 6
      let min_ := s.core.get (Fd.SZL_PORT_CFG_MIN_LANES p)
      let least := if 3 ≤ min_ ∧ min_ ≤ 6 then min_ else 4
      let enough := tr.heard = true ∧ least ≤ lanes.length ∧ (∀ l ∈ lanes, ok 2 l = true) ∧ least ≤ ((upFrom 0 6).filter (bitAt peerRx)).length
      let falls := Completes c s (fun t => t.core.portIs p .down = true ∧ (∀ l, l < 6 → t.core.get (Fd.SZL_LANE_STS_ACTIVE p l) = 0) ∧
        t.core.get (Fd.SZL_PORT_STS_RX_MASK p) = 0 ∧ t.core.get (Fd.SZL_PORT_STS_TX_MASK p) = 0 ∧ (t.core.port p).downAt = s.core.now ∧ t.mem = s.mem ∧ t.pending = s.pending)
      (¬ enough → falls) ∧
      (enough →
        let ways := (upFrom 0 6).filter (fun j => lanes.any (fun l => txLane l == j))
        let lane := fun (j : Nat) => if isRev then 5 - j else j
        let q := bitsOf (ts 1 peer) 29 2
        let start := fun (j : Nat) => TxLine.init (bitsOf (ts 2 (lane j)) 48 31)
        let far : Port := { Port.init with lines := (upFrom 0 6).map (fun j => (start j).marker q j) }
        let aligned := ∀ j ∈ ways, tr.ams.getD (lane j) [] = atBalls (inv (lane j)) (stuffed (start j) (markerBits q j 0))
        (∀ f : BitVec 288, aligned → tr.link = (unitLines ways far (flitUnits f)).zipIdx.map (fun e => atBalls (inv (lane (ways.getD (e.2 % ways.length) 0))) e.1) →
          (¬ (flitOk f = true ∧ fType f = 3) → falls) ∧
          (flitOk f = true → fType f = 3 → Completes c s (fun t => t.core.portIs p .up = true ∧ (∀ l, l < 6 → t.core.get (Fd.SZL_LANE_STS_ACTIVE p l) = b2n (lanes.contains l)) ∧
            t.core.get (Fd.SZL_PORT_STS_TX_MASK p) = peerRx ∧ t.core.get (Fd.SZL_PORT_STS_RX_MASK p) = flagsOf 6 (fun l => lanes.contains l) ∧
            (∀ l, l < 6 → reads l = true → t.core.get (Fd.SZL_LANE_STS_POL_INV p l) = b2n (inv l) ∧ t.core.get (Fd.SZL_LANE_STS_LOGICAL p l) = txLane l) ∧
            t.core.get (Fd.SZL_PORT_STS_REVERSED p) = b2n isRev ∧ t.core.get (Fd.SZL_PORT_STS_PEER_PORT p) = q ∧ t.core.get (Fd.SZL_PORT_PEER_PEER_ID p) = bitsOf (ts 1 peer) 32 16 ∧
            t.core.get Fd.CHP_BOOT_STS_NO_MESH = 0 ∧
            (let y := t.core.port p
             y.txq = [] ∧ y.expSeq = 0 ∧ y.seq = 0 ∧ y.linkFirst = true ∧ y.timeAt = s.core.now ∧ y.seeds.length = 6 ∧ (∀ z ∈ y.seeds, z ≠ 0) ∧ y.lines.length = 6 ∧
             (∀ l, l < 6 → y.lines.getD l (TxLine.init 0) = (TxLine.init (y.seeds.getD l 0).toNat).marker p l) ∧
             (∀ l, l < 6 → ∃ e ∈ y.ts, e.1 = l ∧ bitsOf e.2.toNat 0 24 = 0xE34AB1 ∧ bitsOf e.2.toNat 24 2 = 2 ∧ bitsOf e.2.toNat 26 3 = l ∧ bitsOf e.2.toNat 29 2 = p ∧
               bitsOf e.2.toNat 32 16 = s.core.get Fd.SZL_NODE_ID ∧ bitsOf e.2.toNat 48 31 = (y.seeds.getD l 0).toNat ∧ bitsOf e.2.toNat 80 6 = flagsOf 6 (fun l => lanes.contains l) ∧
               bitsOf e.2.toNat 88 8 = tsCrc (e.2.toNat % 2 ^ 88))) ∧
            (∀ q, q ≠ p → t.core.port q = s.core.port q) ∧ { t.mem with alm := s.mem.alm } = s.mem ∧ t.pending = s.pending))) ∧
        ((∃ j ∈ ways, ∃ b : List Bool, b.length < 48 ∧ tr.ams.getD (lane j) [] = b) → falls))) ∧
    (∀ l cause, l < 6 → s.core.portIs p .up = true → s.core.get (Fd.SZL_LANE_STS_ACTIVE p l) = 1 →
      (cause = 1 ∨ cause = 2 ∧ 2 ≤ Tbl.get (fun _ => 0) (s.core.port p).markErr l ∨ cause = 3 ∧ 3 ≤ Tbl.get (fun _ => 0) (s.core.port p).eyeLow l ∨
        cause = 4 ∧ s.core.get (Fd.SZL_EQ_LIM_BIP_MAX p) < ((s.core.port p).bipErr.filter (fun e => e.1 == l && decide (s.core.now < e.2 + 500000))).length) →
      Completes (.laneFail p l cause) s (fun t => t.core.portIs p .recovery = true ∧ t.core.get (Fd.SZL_LANE_STS_ACTIVE p l) = 0 ∧
        t.core.get (Fd.SZL_LANE_STS_DROP_CAUSE p l) = cause ∧ bitAt (t.core.port p).excl l = true ∧ (t.core.port p).txq = [] ∧ (t.core.port p).replay = [] ∧
        (∃ e ∈ t.core.host.evq, e.code = 0x91 ∧ e.index = p ∧ e.arg0 = l ∧ e.arg1 = cause) ∧ (∀ q, q ≠ p → t.core.port q = s.core.port q) ∧ t.mem = s.mem ∧ t.pending = s.pending)) ∧
    (s.core.portIs p .down = true → s.core.get (Fd.SZL_PORT_CFG_EN p) = 1 → (s.core.port p).downReq = false →
      (s.core.port p).downAt + max 1 (s.core.get (Fd.SZL_PORT_CFG_RETRY p)) * 500000 ≤ s.core.now → Completes (.portRetry p) s (fun t =>
        t.core.portIs p .training = true ∧ t.core.port p = { s.core.port p with excl := 0 } ∧ KeepsRegs [Fd.SZL_PORT_STS_STATE p] s.core t.core ∧ t.mem = s.mem ∧ t.pending = s.pending)) ∧
    (s.core.get (Fd.SZL_PORT_CFG_EN p) = 0 → Gives (.retrain p) s s.core) ∧
    (s.core.get (Fd.SZL_PORT_CFG_EN p) = 1 → Completes (.retrain p) s (fun t => t.core.portIs p .training = true ∧ (t.core.port p).excl = 0 ∧ (t.core.port p).downReq = false ∧
      (t.core.port p).txq = [] ∧ KeepsRegs [Fd.SZL_PORT_STS_STATE p, Fd.SZL_PORT_CNT1_SEND_DROP p] s.core t.core ∧ t.mem = s.mem ∧ t.pending = s.pending)) ∧
    Completes (.down p) s (fun t => t.core.portIs p .down = true ∧ (t.core.port p).downReq = true ∧ (t.core.port p).txq = [] ∧
      (∀ l, l < 6 → t.core.get (Fd.SZL_LANE_STS_ACTIVE p l) = 0) ∧ (∀ q, q ≠ p → t.core.port q = s.core.port q) ∧ t.mem = s.mem ∧ t.pending = s.pending) ∧
    (∀ (l : Nat) (est : List Int) (eyeH eyeW : Nat), l < 6 → est.length = 6 → s.core.portIs p .up = true → s.core.get (Fd.SZL_LANE_STS_ACTIVE p l) = 1 →
      Tbl.get (fun _ => 0) (s.core.port p).eqAt l + 2 ^ s.core.get (Fd.SZL_EQ_CTL_RATE p) * 5000 ≤ s.core.now →
      let val := fun (c : Core) (i : Nat) => if i = 0 then (c.get (Fd.SZL_LANE_EQ_CTLE p l) : Int) else c.getS ((eqFields p l).getD i (Fd.SZL_LANE_EQ_CTLE p l))
      let new := fun (i : Nat) => if val s.core i < est.getD i 0 then val s.core i + 1 else if est.getD i 0 < val s.core i then val s.core i - 1 else val s.core i
      let lim : Int := min 63 (s.core.get (Fd.SZL_EQ_LIM_DFE1_LIM p))
      let inside := (s.core.get (Fd.SZL_EQ_LIM_CTLE_MIN p) : Int) ≤ new 0 ∧ new 0 ≤ (s.core.get (Fd.SZL_EQ_LIM_CTLE_MAX p) : Int) ∧ -lim ≤ new 1 ∧ new 1 ≤ lim ∧
        ∀ i, 2 ≤ i → i < 6 → -31 ≤ new i ∧ new i ≤ 31
      let low := eyeW < s.core.get (Fd.SZL_EQ_LIM_SEE_MIN p)
      let adapts := s.core.get (Fd.SZL_EQ_CTL_EN p) = 1 ∧ s.core.get (Fd.SZL_LANE_EQ_MAN p l) = 0
      Completes (.eqUpdate p l est eyeH eyeW) s (fun t =>
        t.core.get (Fd.SZL_LANE_STS_EYE_H p l) = min 255 eyeH ∧ t.core.get (Fd.SZL_LANE_STS_EYE_W p l) = min 63 eyeW ∧ Tbl.get (fun _ => 0) (t.core.port p).eqAt l = s.core.now ∧
        { t.mem with alm := s.mem.alm } = s.mem ∧ t.pending = s.pending ∧
        KeepsRegs (Fd.SZL_LANE_STS_EYE_H p l :: Fd.SZL_LANE_STS_EYE_W p l :: Fd.CAL_STS_FAILED :: eqFields p l) s.core t.core ∧
        (¬ adapts ∨ low ∨ ¬ inside ∨ s.core.get (Fd.SZL_EQ_CTL_FREEZE p) = 1 → ∀ f ∈ eqFields p l, t.core.get f = s.core.get f) ∧
        (¬ adapts → t.mem = s.mem ∧ t.core.host.evq = s.core.host.evq) ∧
        (adapts → low ∨ ¬ inside → ∃ e ∈ t.core.host.evq, e.code = 0x93 ∧ e.index = p ∧ e.arg0 = l ∧ (e.arg1 % 2 = 1 ↔ ¬ inside) ∧ (2 ≤ e.arg1 ↔ low)) ∧
        (adapts → inside → ¬ low → s.core.get (Fd.SZL_EQ_CTL_FREEZE p) = 0 → t.core.host.evq = s.core.host.evq ∧ ∀ i, i < 6 → val t.core i = new i)))

/-- R377, R378, R381, R382 and R460. OFF is a signed number of 2^-32 ns in 96 bits; `ntAt q` is network time at `q` quarters of a nanosecond, eight to a tick. An error submitted is
handled at the end of its tick, after a SET and an ACCEPT of the tick (R382); that the servo also runs before the first SET, when OFF stays 0, is read by inference (log entries 87, 88
and 172). -/
def Obligations.NetworkTimeIsServoed : Prop :=
  ∀ s : State, s.core.svc = true → (∀ e ∈ s.core.tpt.offLog, e.1 ≤ s.core.now) →
    let off := s.core.tpt.off
    let valid := s.core.get Fd.TPT_STS_NT_VALID = 1
    let fit := fun (x : Int) => sx 96 (twos 96 x)
    let moved := fun (t : State) (x : Int) => t.core.tpt.off = (if s.core.get Fd.TPT_STS_NT_VALID = 1 then fit x else off) ∧ t.core.offAt (s.core.now + 1) = t.core.tpt.off ∧
      (∀ q : Nat, q / 8 ≤ s.core.now → s.core.now ≤ q / 8 + 8192 → t.core.ntAt q = s.core.ntAt q) ∧
      (∀ q : Nat, s.core.now < q / 8 → t.core.ntAt q = (q : Int) * 2 ^ 30 + t.core.tpt.off)
    (s.core.running = true → s.core.tpt.driftAt ≠ some s.core.now → Completes .driftTick s (fun t => (off = fit off → moved t (off + s.core.getS Fd.TPT_DRIFT_DRIFT)) ∧
      t.core = { s.core with tpt := { s.core.tpt with off := t.core.tpt.off, offLog := t.core.tpt.offLog, jumpAt := t.core.tpt.jumpAt, driftAt := some s.core.now } } ∧
      (s.core.getS Fd.TPT_DRIFT_DRIFT ≤ 0 → t.core.tpt.jumpAt = s.core.tpt.jumpAt) ∧ t.mem = s.mem ∧ t.pending = s.pending)) ∧
    (s.core.tpt.driftAt = some s.core.now → Gives .driftTick s s.core) ∧
    (∀ (be : BitVec 4) (e : Word), s.core.thm.shut = false → s.core.pins.d3 = false →
      (s.core.get Fd.TPT_SERVO_CTL_EN = 0 ∨ be = 0 → Gives (.tptCorr be e) s s.core) ∧
      (s.core.get Fd.TPT_SERVO_CTL_EN = 1 → be ≠ 0 → Gives (.tptCorr be e) s
        { s.core with tpt := { s.core.tpt with corrs := s.core.tpt.corrs ++ [(BitVec.ofNat 32 (byteMerge 0 be e)).toInt] } })) ∧
    (∀ x : Int, s.pending = [] → s.core.running = true → s.core.now + 1 < 2 ^ 64 → s.core.tpt.corrs = [x] → (∀ e ∈ s.core.tpt.stamps, s.core.now < e.1 / 8) → x.natAbs < 2 ^ 31 →
      (∀ e ∈ s.core.cells, e.1 < 2304) → (∀ ch, ch < 32 → ∀ k ∈ (s.core.acq ch).arming, k.ring < 64) → ∃ t, step s = .next t ∧ t.core.now = s.core.now + 1 ∧ t.core.tpt.corrs = [] ∧
        (s.core.get Fd.TPT_STS_HOLD = 1 → t.core.get Fd.TPT_CNT2_REFUSED = min 255 (s.core.get Fd.TPT_CNT2_REFUSED + 1) ∧ t.core.tpt.off = off ∧ t.core.get Fd.TPT_STS_HOLD = 1 ∧
          t.core.get Fd.TPT_HELD_HELD = s.core.get Fd.TPT_HELD_HELD ∧ t.core.get Fd.TPT_DRIFT_DRIFT = s.core.get Fd.TPT_DRIFT_DRIFT) ∧
        (s.core.get Fd.TPT_STS_HOLD = 0 → s.core.get Fd.TPT_JUMP_LIMIT < x.natAbs → t.core.get Fd.TPT_STS_HOLD = 1 ∧ t.core.getS Fd.TPT_HELD_HELD = x ∧ t.core.tpt.off = off ∧
          t.core.get Fd.TPT_CNT2_REFUSED = min 255 (s.core.get Fd.TPT_CNT2_REFUSED + 1) ∧ t.core.get Fd.TPT_DRIFT_DRIFT = s.core.get Fd.TPT_DRIFT_DRIFT ∧
          { code := 0x70, level := 0, index := 0, stamp := s.core.now, arg0 := twos 64 x, arg1 := 0 } ∈ t.core.host.evq) ∧
        (s.core.get Fd.TPT_STS_HOLD = 0 → x.natAbs ≤ s.core.get Fd.TPT_JUMP_LIMIT →
          let y := x * 2 ^ 32
          (off = fit off → t.core.tpt.off = (if s.core.get Fd.TPT_STS_NT_VALID = 1 then fit (off - floorShr y (s.core.get Fd.TPT_SERVO_CTL_KP_SHIFT)) else off)) ∧
          t.core.offAt (s.core.now + 1) = t.core.tpt.off ∧ t.core.get Fd.TPT_STS_HOLD = 0 ∧ t.core.get Fd.TPT_CNT2_REFUSED = s.core.get Fd.TPT_CNT2_REFUSED ∧
          (s.core.tpt.driftWr = some s.core.now → t.core.get Fd.TPT_DRIFT_DRIFT = s.core.get Fd.TPT_DRIFT_DRIFT) ∧
          (s.core.tpt.driftWr ≠ some s.core.now → t.core.getS Fd.TPT_DRIFT_DRIFT =
            max (-(2 ^ 31 - 1)) (min (2 ^ 31 - 1) (s.core.getS Fd.TPT_DRIFT_DRIFT - floorShr y (s.core.get Fd.TPT_SERVO_CTL_KI_SHIFT)))))) ∧
    (s.core.get Fd.TPT_STS_HOLD = 1 → Completes .accept s (fun t => (off = fit off → moved t (off - s.core.getS Fd.TPT_HELD_HELD * 2 ^ 32)) ∧
      t.core.get Fd.TPT_STS_HOLD = 0 ∧ KeepsRegs [Fd.TPT_STS_HOLD, Fd.TPT_STS_PPS_STEP] s.core t.core ∧ t.core.host = s.core.host ∧ t.mem = s.mem ∧ t.pending = s.pending)) ∧
    (s.core.get Fd.TPT_STS_HOLD = 0 → Gives .accept s s.core) ∧
    Completes .set s (fun t =>
      t.core.tpt.off = sx 64 (s.core.get Fd.TPT_SET_LO_SET + s.core.get Fd.TPT_SET_HI_SET * 2 ^ 32) * 2 ^ 32 ∧ t.core.offAt (s.core.now + 1) = t.core.tpt.off ∧
      (∀ q : Nat, q / 8 ≤ s.core.now → s.core.now ≤ q / 8 + 8192 → t.core.ntAt q = s.core.ntAt q) ∧
      t.core.get Fd.TPT_STS_HOLD = 0 ∧ t.core.get Fd.TPT_STS_NT_VALID = 1 ∧ KeepsRegs [Fd.TPT_STS_HOLD, Fd.TPT_STS_NT_VALID, Fd.TPT_STS_PPS_STEP] s.core t.core ∧
      t.core.host = s.core.host ∧ t.mem = s.mem ∧ t.pending = s.pending)

/-- R376, R379, R383-R386, R388 and R390. What TXTS_POP answers of an empty queue besides VALID = 0 is no part of this statement. -/
def Obligations.FramesAndPulsesAreStamped : Prop :=
  ∀ s : State,
    (∀ n i d rest frame quarter, s.core.tpt.txq = (n, i, d) :: rest → n < 64 → s.core.svc = true → s.core.get Fd.CHP_BOOT_STS_NO_TIME = 0 →
      s.core.get Fd.CHP_FAULT_STS_FAULT = 0 →
      let len := dField d 16 0 11
      let fits := 60 ≤ len ∧ len ≤ (if dField d 0 2 1 = 1 then 1518 else 1514)
      (¬ fits ∨ s.core.get Fd.TPT_STS_LINK_UP = 0 → Completes (.txFrame frame quarter) s (fun t => t.core.tpt = { s.core.tpt with txq := rest } ∧
        t.core.get Fd.TPT_CNT1_TX_DROP = min 0xFFFF (s.core.get Fd.TPT_CNT1_TX_DROP + 1) ∧ KeepsRegs [Fd.TPT_CNT1_TX_DROP] s.core t.core ∧ t.core.host = s.core.host ∧
        t.mem = s.mem ∧ t.pending = s.pending)) ∧
      (fits → s.core.get Fd.TPT_STS_LINK_UP = 1 → (∀ f, frame = some f → f.length < len) → Completes (.txFrame frame quarter) s (fun t =>
        t.core.tpt = { s.core.tpt with txq := rest } ∧ RingErred n 3 i s t)) ∧
      (∀ f, fits → s.core.get Fd.TPT_STS_LINK_UP = 1 → frame = some f → len ≤ f.length → Completes (.txFrame frame quarter) s (fun t =>
        let g := f.take len
        t.core.tpt.sent = s.core.tpt.sent ++ [f.take len ++ toLE 4 (crc32 (f.take len))] ∧ t.core.tpt.txq = rest ∧
        t.core.get Fd.TPT_CNT1_TX_FRAMES = min 0xFFFF (s.core.get Fd.TPT_CNT1_TX_FRAMES + 1) ∧
        t.core.tpt.txts = s.core.tpt.txts ∧ (dField d 0 1 1 = 0 → t.core.tpt.stamps = s.core.tpt.stamps) ∧
        (dField d 0 1 1 = 1 → ∃ x, t.core.tpt.stamps = s.core.tpt.stamps ++ [(s.core.now * 8 + quarter % 8 + s.core.get Fd.TPT_LAT_TX_LAT, x)] ∧ x.tag = dField d 2 0 16 ∧
          x.ptp = (ptpAt g).isSome ∧ (∀ a, ptpAt g = some a → x.seqId = fb16 g (a + 30) ∧ x.mtype = fb g a % 16) ∧ (ptpAt g = none → x.seqId = 0 ∧ x.mtype = 0)) ∧
        KeepsRegs [Fd.TPT_CNT1_TX_FRAMES] s.core t.core ∧ t.core.host = s.core.host ∧ t.mem = s.mem ∧ t.pending = s.pending))) ∧
    (∀ q x, s.pending = [] → s.core.running = true → s.core.now + 1 < 2 ^ 64 → s.core.tpt.corrs = [] → s.core.tpt.stamps = [(q, x)] → q / 8 ≤ s.core.now →
      (∀ e ∈ s.core.cells, e.1 < 2304) → (∀ ch, ch < 32 → ∀ k ∈ (s.core.acq ch).arming, k.ring < 64) →
      let ns := (s.core.ntAt q / 2 ^ 32 % 2 ^ 32).toNat
      ∃ t, step s = .next t ∧ t.core.tpt.stamps = [] ∧
        (s.core.tpt.txts.length < 16 → t.core.tpt.txts = s.core.tpt.txts ++ [{ x with ns := ns }] ∧ t.core.get Fd.TPT_STS_TXTS_LEVEL = s.core.tpt.txts.length + 1 ∧
          (s.core.get Fd.TPT_CFG_TXTS_EV = 1 →
            { code := 0x71, level := 0, index := 0, stamp := s.core.now, arg0 := ns, arg1 := (x.seqId + x.tag * 2 ^ 16) % 2 ^ 64 } ∈ t.core.host.evq)) ∧
        (16 ≤ s.core.tpt.txts.length → t.core.tpt.txts = s.core.tpt.txts ∧ t.core.get Fd.TPT_STS_TX_STAMP_OVF = 1 ∧
          t.core.get Fd.TPT_CNT2_TXTS_DROP = min 255 (s.core.get Fd.TPT_CNT2_TXTS_DROP + 1))) ∧
    (∀ (f : List Byte) (fcsOk : Bool) (quarter : Nat), s.core.svc = true → s.core.get Fd.TPT_CFG_EN = 1 → s.core.get Fd.TPT_STS_LINK_UP = 1 →
      let z := s.core.get Fd.TPT_CFG_RX_SPOOL
      let ring := s.core.get Fd.TPT_CFG_RX_RING
      let pad := (f.length + 63) / 64 * 64
      let good := f.length ≤ (if tagged f then 1518 else 1514) ∧ s.core.rxWanted f = true ∧ s.core.devSpool z = true ∧ (s.core.ring z).stopped = false ∧ s.core.spoolHeld z 33 = false ∧
        pad ≤ (s.core.ring z).free ∧ s.core.canWrite ring .tptRx = true
      (fcsOk = false → Completes (.rxFrame f fcsOk quarter) s (fun t => t.core.get Fd.TPT_CNT2_FCS_ERR = min 0xFFFF (s.core.get Fd.TPT_CNT2_FCS_ERR + 1) ∧
        KeepsRegs [Fd.TPT_CNT2_FCS_ERR] s.core t.core ∧ t.core.host = s.core.host ∧ t.mem = s.mem ∧ t.pending = s.pending)) ∧
      (fcsOk = true → 60 ≤ f.length → ¬ good → Completes (.rxFrame f fcsOk quarter) s (fun t => t.core.get Fd.TPT_CNT0_RX_DROP = min 0xFFFF (s.core.get Fd.TPT_CNT0_RX_DROP + 1) ∧
        KeepsRegs [Fd.TPT_CNT0_RX_DROP] s.core t.core ∧ t.core.host = s.core.host ∧ t.mem = s.mem ∧ t.pending = s.pending)) ∧
      (fcsOk = true → 60 ≤ f.length → good → s.core.get (Fd.CHP_RING_CFG_SIZE_EXP ring) ≤ 16 → Completes (.rxFrame f fcsOk quarter) s (fun t =>
        t.core.get Fd.TPT_CNT0_RX_FRAMES = min 0xFFFF (s.core.get Fd.TPT_CNT0_RX_FRAMES + 1) ∧
        t.core.devIdx ring = (s.core.devIdx ring + 1) % s.core.ringSize ring ∧
        (∃ ws flags, t.core.host.out = s.core.host.out ++ ws ++ [.write (s.core.ringBase ring + s.core.devIdx ring * 64) (phased (s.core.get (Fd.CHP_RING_STS_DEV_PHASE ring))
          (toLE 4 flags ++ toLE 4 (s.core.stampAt (s.core.now * 8 + quarter % 8 - s.core.get Fd.TPT_LAT_RX_LAT)) ++ toLE 8 (s.core.ring z).p ++ toLE 8 f.length ++
            toLE 8 s.core.now ++ List.replicate 32 0))]) ∧
        ((s.core.ring z).sNew = none → (t.core.ring z).p = if (s.core.ring z).p + pad < (s.core.ring z).s then (s.core.ring z).p + pad else (s.core.ring z).p + pad - (s.core.ring z).s) ∧
        KeepsRegs [Fd.TPT_CNT0_RX_FRAMES, Fd.CHP_RING_STS_DEV_INDEX ring, Fd.CHP_RING_STS_DEV_PHASE ring] s.core t.core ∧ t.core.tpt = s.core.tpt ∧ t.mem = s.mem ∧ t.pending = s.pending))) ∧
    (s.core.bar0 Fd.TPT_TXTS_LO = true → (∀ x rest, s.core.tpt.txts = x :: rest → Completes .txtsPop s (fun t => t.core.tpt = { s.core.tpt with txts := rest } ∧
        t.core.get Fd.TPT_STS_TXTS_LEVEL = rest.length % 32 ∧ t.core.host.out = s.core.host.out ++ [.readAns (toLE 4 x.ns) false] ∧
        t.core.host.capture = Tbl.insert (Tbl.insert s.core.host.capture Fd.TPT_TXTS_HI (x.seqId + x.tag * 2 ^ 16)) Fd.TPT_TXTS_FLG (x.mtype + 16 * b2n x.ptp + 32) ∧
        KeepsRegs [Fd.TPT_STS_TXTS_LEVEL] s.core t.core ∧ t.mem = s.mem ∧ t.pending = s.pending)) ∧
      (s.core.tpt.txts = [] → Completes .txtsPop s (fun t => t.core.tpt = s.core.tpt ∧ (∃ v, t.core.host.out = s.core.host.out ++ [.readAns (toLE 4 v) false]) ∧
        KeepsRegs [] s.core t.core ∧ t.mem = s.mem ∧ t.pending = s.pending))) ∧
    (s.core.bar0 Fd.TPT_TXTS_LO = false → Gives .txtsPop s (s.core.emit .unsupported)) ∧
    (s.core.svc = true → s.core.get Fd.TPT_PPS_CFG_OUT_EN = 1 → s.core.get Fd.CHP_FAULT_STS_FAULT = 0 →
      let wide := 24 * (max 1 (s.core.get Fd.TPT_PPS_CFG_WIDTH) * 500000)
      let nt := 2 * (s.core.now : Int) * 2 ^ 32 + s.core.offAt s.core.now + s.core.getS Fd.TPT_PPS_DLY_DELAY * 2 ^ 32
      let here := nt / (1000000000 * 2 ^ 32)
      (s.core.get Fd.TPT_PPS_CFG_OUT_SRC = 1 → s.core.running = true → s.core.now % 500000000 = 0 → Completes .ppsOut s (fun t => t.core.ppsPin = true ∧
        t.core = { s.core with tpt := { s.core.tpt with ppsHigh := true, ppsEdge := s.core.now * 24, ppsEnd := s.core.now * 24 + wide, jumpAt := none } } ∧ t.mem = s.mem ∧ t.pending = s.pending)) ∧
      (s.core.get Fd.TPT_PPS_CFG_OUT_SRC = 1 → s.core.now % 500000000 ≠ 0 → Gives .ppsOut s s.core) ∧
      (s.core.get Fd.TPT_PPS_CFG_OUT_SRC = 0 → s.core.get Fd.TPT_STS_NT_VALID = 0 → Gives .ppsOut s s.core) ∧
      (∀ k : Int, s.core.get Fd.TPT_PPS_CFG_OUT_SRC = 0 → s.core.get Fd.TPT_STS_NT_VALID = 1 → (s.core.tpt.jumpAt ≠ some s.core.now ∨ here ∈ s.core.tpt.secs) →
        nt ≤ k * 1000000000 * 2 ^ 32 → k * 1000000000 * 2 ^ 32 < nt + 2 * 2 ^ 32 → k ∉ s.core.tpt.secs → Completes .ppsOut s (fun t => t.core.ppsPin = true ∧
          t.core.tpt.secs = k :: s.core.tpt.secs ∧ t.core.tpt.ppsEnd = t.core.tpt.ppsEdge + wide ∧ t.core.tpt.jumpAt = none ∧
          t.core.tpt.ppsEdge = s.core.now * 24 + (((k * 1000000000 * 2 ^ 32 - nt) * 24 + 2 ^ 32) / (2 * 2 ^ 32)).toNat ∧ t.mem = s.mem ∧ t.pending = s.pending)) ∧
      (s.core.get Fd.TPT_PPS_CFG_OUT_SRC = 0 → s.core.get Fd.TPT_STS_NT_VALID = 1 → s.core.tpt.jumpAt = some s.core.now → here ∉ s.core.tpt.secs →
        Completes .ppsOut s (fun t => t.core.ppsPin = true ∧ t.core.tpt.jumpAt = none ∧ t.core.tpt.secs = here :: s.core.tpt.secs ∧ t.core.tpt.ppsEdge = s.core.now * 24 ∧
          t.core.tpt.ppsEnd = s.core.now * 24 + wide ∧ t.mem = s.mem ∧ t.pending = s.pending))) ∧
    (s.core.svc = true → s.core.get Fd.TPT_PPS_CFG_OUT_EN = 1 → s.core.get Fd.TPT_PPS_CFG_OUT_SRC = 0 → s.core.get Fd.TPT_STS_NT_VALID = 1 → s.core.running = true →
      s.core.tpt.driftAt ≠ some s.core.now →
      let dly := s.core.getS Fd.TPT_PPS_DLY_DELAY * 2 ^ 32
      let new := s.core.tpt.off + s.core.getS Fd.TPT_DRIFT_DRIFT
      let next := 2 * (s.core.now + 1 : Int) * 2 ^ 32 + dly
      let sec : Int := 1000000000 * 2 ^ 32
      (∀ k : Int, next + s.core.tpt.off ≤ k * sec → k * sec ≤ next + new → next + new < (k + 1) * sec → s.core.tpt.off < new → k ∉ s.core.tpt.secs →
        Completes .driftTick s (fun t => t.core.tpt.jumpAt = some (s.core.now + 1))) ∧
      ((∀ k : Int, ¬ (next + s.core.tpt.off ≤ k * sec ∧ k * sec ≤ next + new)) → Completes .driftTick s (fun t => t.core.tpt.jumpAt = s.core.tpt.jumpAt))) ∧
    (s.core.tpt.ppsHigh = true → s.core.tpt.ppsEnd / 24 ≤ s.core.now → Gives .ppsPulseEnd s { s.core with tpt := { s.core.tpt with ppsHigh := false } }) ∧
    (s.core.now < s.core.tpt.ppsEnd / 24 → Gives .ppsPulseEnd s s.core) ∧
    (∀ up : Bool, s.core.svc = true → s.core.get Fd.CHP_BOOT_STS_NO_TIME = 0 → s.core.get Fd.TPT_STS_LINK_UP ≠ b2n up → Completes (.timeLinkChange up) s (fun t =>
      t.core.get Fd.TPT_STS_LINK_UP = b2n up ∧
      t.core.host.evq = s.core.host.evq ++ [{ code := 0x72, level := 0, index := 0, stamp := s.core.now, arg0 := b2n up, arg1 := 0 }] ∧
      KeepsRegs [Fd.TPT_STS_LINK_UP] s.core t.core ∧ t.core.tpt = s.core.tpt ∧ t.mem = s.mem ∧ t.pending = s.pending))

/-- R392, R394-R402 and R407-R411; the mismatch clause without MANUAL slices. The first GEN is free (log entry 96). -/
def Obligations.CollimatorsAndSlicesAreTracked : Prop :=
  (∀ (c : Core) (r k : Nat), c.collTarget r k = max (-1535) (min 1535 (c.getS (Fd.RGN_COLL_STS_TRACK r k) + c.getS (Fd.RGN_COLL_TRIM_USER r k) + c.getS Fd.CAL_COLL_CHIP_CHIP))) ∧
  ∀ (s : State) (r : Nat),
    (∀ (k : Nat) (track : Int), s.core.svc = true → s.core.rOk r = true → k < 52 →
      let e := almColl r k
      let old := s.core.getS (Fd.RGN_COLL_STS_TRACK r k)
      let x := track + s.core.getS (Fd.RGN_COLL_TRIM_USER r k) + s.core.getS Fd.CAL_COLL_CHIP_CHIP
      let ok := -1535 ≤ track ∧ track ≤ 1535 ∧ (track - old).natAbs ≤ max 1 (s.core.get (Fd.RGN_COLL_CTL_JUMP r))
      let held := s.core.get (Fd.RGN_COLL_CTL_FREEZE r) = 1 ∨ s.core.get (Fd.RGN_COLL_TRIM_MAN r k) = 1 ∨ almManual s.mem e = true
      let took := { s.core with cal := { s.core.cal with measAt := Tbl.insert s.core.cal.measAt (52 * r + k) s.core.now } }
      ((∀ j ∈ s.core.cal.jobs, j.kind = 0x10 → e ∉ j.units) → s.core.get (Fd.RGN_COLL_CTL_EN r) = 1 → (∀ q, s.core.cal.measAt.find? (fun q => q.1 == 52 * r + k) = some q → q.2 + (s.core.collRound r).1 ≤ s.core.now) →
        (ok → ¬ held → Completes (.collMeasure r k track) s (fun t => t.core.getS (Fd.RGN_COLL_STS_TRACK r k) = track ∧
          t.core.get (Fd.RGN_COLL_STS_MOVING r k) = b2n (decide (s.core.getS (Fd.RGN_COLL_STS_APPLIED r k) ≠ max (-1535) (min 1535 x))) ∧
          (x < -1535 ∨ 1535 < x → t.core.get (Fd.RGN_COLL_STS_CLAMP r k) = 1) ∧ (Inv s → s.core.almExists e = true → almVal t.mem e = s.core.collVal r k track) ∧
          KeepsRegs [Fd.RGN_COLL_STS_TRACK r k, Fd.RGN_COLL_STS_MOVING r k, Fd.RGN_COLL_STS_CLAMP r k] s.core t.core ∧ t.mem = { s.mem with alm := t.mem.alm } ∧ t.pending = s.pending)) ∧
        (¬ ok → Completes (.collMeasure r k track) s (fun t => (Inv s → almVal t.mem e = almVal s.mem e) ∧
          (s.core.almExists e = true → (Inv s → bitAt (almSts t.mem e) 2 = true) ∧ t.core.get Fd.CAL_STS_FAILED = 1) ∧
          KeepsRegs [Fd.CAL_STS_FAILED] s.core t.core ∧ t.mem = { s.mem with alm := t.mem.alm } ∧ t.pending = s.pending)) ∧
        (ok → held → Gives (.collMeasure r k track) s took)) ∧
      ((∀ j ∈ s.core.cal.jobs, j.kind = 0x10 → e ∉ j.units) → s.core.get (Fd.RGN_COLL_CTL_EN r) = 0 → Gives (.collMeasure r k track) s s.core) ∧
      ((∃ j ∈ s.core.cal.jobs, j.kind = 0x10 ∧ e ∈ j.units) → Completes (.collMeasure r k track) s (fun t => (∀ j ∈ t.core.cal.jobs, j.kind = 0x10 → e ∉ j.units) ∧
        (s.core.get (Fd.RGN_COLL_CTL_EN r) = 0 → t.mem = s.mem ∧ t.core.getS (Fd.RGN_COLL_STS_TRACK r k) = old) ∧ t.mem = { s.mem with alm := t.mem.alm } ∧ t.pending = s.pending))) ∧
    (∀ o : Nat, ((s.core.shots && !s.core.parked r) = true ∧ (∃ d, (s.core.rgn r).shot.d0 = some d ∧ o = d + 40 ∧ o ≤ s.core.now) ∨
        (s.core.shots && !s.core.parked r) = false ∧ s.core.running = true ∧ s.core.now % 500 = 0 ∧ o = s.core.now) → s.core.svc = true →
      (s.core.rOk r = true → Tbl.get (fun _ => 0) s.core.cal.oppAt r ≤ o →
        let n := Tbl.get (fun _ => 0) s.core.cal.opp r + 1
        let thin := 16 ^ s.core.get (Fd.RGN_COLL_CTL_RATE r)
        Completes (.collStep r) s (fun t => Tbl.get (fun _ => 0) t.core.cal.opp r = n ∧ Tbl.get (fun _ => 0) t.core.cal.oppAt r = o + 1 ∧
          (n % thin ≠ 0 → KeepsRegs [] s.core t.core) ∧
          (n % thin = 0 → ∀ k, k < 52 →
            let a := s.core.getS (Fd.RGN_COLL_STS_APPLIED r k)
            let x := s.core.collTarget r k
            t.core.getS (Fd.RGN_COLL_STS_APPLIED r k) = (if a < x then a + 1 else if x < a then a - 1 else a) ∧
            t.core.get (Fd.RGN_COLL_STS_MOVING r k) = b2n (decide (t.core.getS (Fd.RGN_COLL_STS_APPLIED r k) ≠ x))) ∧
          KeepsRegs ((upFrom 0 52).flatMap (fun k => [Fd.RGN_COLL_STS_APPLIED r k, Fd.RGN_COLL_STS_MOVING r k, Fd.RGN_COLL_STS_CLAMP r k])) s.core t.core ∧
          t.mem = s.mem ∧ t.pending = s.pending)) ∧
      (∀ j, s.core.adcOk r j = true → Tbl.get (fun _ => 0) s.core.cal.oppAt (64 + (4 * r + j)) ≤ o →
        let a := 4 * r + j
        let ce := s.core.get (Fd.RGN_MIS_CTL_CNT_EXP r)
        let dual := s.core.on (Fd.RGN_ADC_CFG_MODE r j)
        let pow := s.core.get (Fd.RGN_MIS_CTL_POW_MIN r)
        let gs := (if dual then [sliceGroup true 0, sliceGroup true 1] else [sliceGroup false 0]).map (misGroup (s.core.adc a) pow)
        (Tbl.get (fun _ => 0) s.core.cal.opp (64 + a) + 1) % 16 ^ s.core.get (Fd.RGN_MIS_CTL_RATE r) = 0 → s.core.get (Fd.RGN_MIS_CTL_EN r) = 1 →
        s.core.get (Fd.RGN_MIS_CTL_FREEZE r) = 0 → s.core.get (Fd.RGN_ADC_STS_CAL r j) = 0 → (∀ k, k < 16 → almManual s.mem (almMis a k) = false) →
        (∀ k, k < 16 → 2 ^ (if 10 ≤ ce ∧ ce ≤ 24 then ce else 16) ≤ ((s.core.adc a).slice k).n) →
        Completes (.misUpdate r j) s (fun t =>
          (∀ k, k < 16 →
            let u := (s.core.adc a).slice k
            let v := (t.core.adc a).slice k
            let w := u.off - sgn (16 * u.s1 / (u.n : Int))
            v.off = (if w < -512 ∨ 512 < w then u.off else w) ∧ v.n = 0 ∧ v.s1 = 0 ∧ v.s2 = 0 ∧ v.sx = 0) ∧
          (∀ g ∈ gs, ∀ x ∈ g.1, ((t.core.adc a).slice x.1).gain = x.2.1.gain ∧ ((t.core.adc a).slice x.1).skew = x.2.1.skew ∧
            (g.2 = true → x.2.1.gain = ((s.core.adc a).slice x.1).gain ∧ x.2.1.skew = ((s.core.adc a).slice x.1).skew)) ∧
          (∀ b, b ≠ a → t.core.adc b = s.core.adc b) ∧ (gs.any (fun g => g.2) = true → t.core.get (Fd.RGN_MIS_STS_POW_LOW r j) = 1) ∧
          t.core.get (Fd.RGN_MIS_STS_UPDATES r j) = min 0xFFFF (s.core.get (Fd.RGN_MIS_STS_UPDATES r j) + 1) ∧
          KeepsRegs [Fd.RGN_MIS_STS_REJ r j, Fd.RGN_MIS_STS_POW_LOW r j, Fd.RGN_MIS_STS_UPDATES r j, Fd.CAL_STS_FAILED] s.core t.core ∧
          t.mem = { s.mem with alm := t.mem.alm } ∧ t.pending = s.pending))) ∧
    (s.core.svc = true →
      let due : Prop := s.core.cal.backNow = true ∨ s.core.get Fd.CAL_CTL_BACKUP_EN = 1 ∧ s.core.cal.dirty = true ∧
        s.core.cal.backAt + max 1 (s.core.get Fd.CAL_CTL_BACKUP_PERIOD) * 500000000 ≤ s.core.now
      let busy : Prop := s.core.get Fd.CHP_BOOT_STS_NO_HBM = 1 ∨ s.core.get Fd.HBM_PWR_CTL_STANDBY = 1 ∨ s.core.hbmIs .rateChange = true ∨
        ∃ w ∈ s.core.hbmc.works, w.who = 169 ∧ 128 ≤ w.tag
      (s.core.workOf 169 128 = none →
        (¬ due ∨ busy → Gives .almanacBackup s s.core) ∧
        (due → ¬ busy → Completes .almanacBackup s (fun t => KeepsRegs [] s.core t.core ∧ t.mem = s.mem ∧ t.pending = s.pending ∧ t.core.cal.dirty = false ∧ t.core.cal.backNow = false ∧
          ∃ w copy gen head, t.core.hbmc = { s.core.hbmc with jobs := s.core.hbmc.jobs + 1, works := s.core.hbmc.works ++ [w] } ∧ t.core.cal.backing = some (copy, gen) ∧
            w.who = 169 ∧ w.tag = 128 ∧ w.out = 0 ∧ w.bad = false ∧ copy < 2 ∧
            (s.core.newestCopy s.mem = some (1 - copy) ∧ gen = (s.core.copyGen s.mem (1 - copy) + 1) % 2 ^ 32 ∨ s.core.newestCopy s.mem = none ∧ copy = 0) ∧
            let a := s.core.get (Fd.HBM_PART_BASE 3) * 2 ^ 26 + copy * 2 ^ 21
            let store := rdBytes almByte s.mem.alm 0 (2 ^ 20)
            w.todo = [(a + 64, 2 ^ 20, some store), (a, 64, some head)] ∧ head.length = 64 ∧ fromLE (head.take 4) = 0x414C4D31 ∧ fromLE ((head.drop 4).take 4) = gen ∧
            fromLE ((head.drop 8).take 2) = s.core.get Fd.CHP_ID_PART ∧ fromLE ((head.drop 12).take 4) = crc32 store ∧ fromLE ((head.drop 16).take 8) = s.core.now))) ∧
      ∀ w, s.core.workOf 169 128 = some w →
        (w.todo ≠ [] ∨ w.out ≠ 0 → Gives .almanacBackup s s.core) ∧
        (w.todo = [] → w.out = 0 → ∀ copy gen, s.core.cal.backing = some (copy, gen) → Completes .almanacBackup s (fun t =>
          t.core.get Fd.CAL_STS_BACKUP_VALID = 1 ∧ t.core.get Fd.CAL_STS_BACKUP_GEN = gen % 2 ^ 16 ∧ t.core.cal.backing = none ∧ t.core.cal.backAt = s.core.now ∧
          t.core.workOf 169 128 = none ∧ t.core.host.evq = s.core.host.evq ++ [{ code := 0xA2, level := 0, index := 0, stamp := s.core.now, arg0 := copy % 2 ^ 64, arg1 := 0 }] ∧
          KeepsRegs [Fd.CAL_STS_BACKUP_VALID, Fd.CAL_STS_BACKUP_GEN] s.core t.core ∧ t.mem = s.mem ∧ t.pending = s.pending)))

/-- R2, R319, R416-R425, R427 and R434; the reading is rounded down, which is the model's choice (log entry 113). Before the fuses name the part a window of 40 counts is one of the
LK0512 (log entry 176). -/
def Obligations.ZonesAreJudgedAndThrottled : Prop :=
  (∀ (m : Mems) (x n : Nat), sensorTemp m x n = 100 + ((n : Int) - ((thermEntry m x).1 : Int)) * (thermEntry m x).2 / 2 ^ 16) ∧
  ∀ s : State,
    let shut := fun (z : Nat) => ((4 * (max 100 (min 115 (s.core.get Fd.THM_CTL_SHUT)) - if s.core.get (zHeld z) = 1 then 8 else 0) : Nat) : Int)
    (∀ counts : List Nat, (s.core.pins.fuseDone = true ∨ s.core.get Fd.CHP_ID_PART ≠ 0x0512) →
      let few : Prop := if s.core.pins.fuseDone then s.core.get Fd.CHP_ID_PART = 0x0512 else counts.length = 40
      let there := fun (x : Nat) => x < 72 ∧ (few → x < 32 ∨ 64 ≤ x)
      let n := fun (x : Nat) => counts.getD (if counts.length = 40 ∧ 64 ≤ x then x - 32 else x) 0 % 2 ^ 16
      let tmp := fun (x : Nat) => sensorTemp s.mem x (n x)
      let works := fun (x : Nat) => there x ∧ s.core.get (Fd.THM_TEMP_FAILED x) = 0 ∧ s.core.get (Fd.THM_TEMP_MASKED x) = 0
      let trips := fun (x : Nat) => works x ∧ (if s.core.get (zHeld (zoneOf x)) = 1 then shut (zoneOf x) < tmp x else shut (zoneOf x) ≤ tmp x)
      let fine := fun (x : Nat) => -80 ≤ tmp x ∧ tmp x ≤ 560 ∧
        ¬ (s.core.get (Fd.THM_TEMP_VALID x) = 1 ∧ s.core.get (Fd.THM_TEMP_COUNT x) = n x ∧ 63 ≤ Tbl.get (fun _ => 0) s.core.thm.same x)
      (few → counts.length = 40) → (¬ few → counts.length = 72) → (∀ x, x < 72 → ¬ there x → s.core.get (Fd.THM_TEMP_VALID x) = 0 ∧ s.core.temp x < 320) →
      (s.core.thm.shut = false → (∀ x, there x → s.core.get (Fd.THM_TEMP_FAILED x) = 0 → fine x) → (∀ z, z < 9 → there (8 * z) → ∃ x ∈ zoneSensors z, works x) →
        ((∀ x, ¬ trips x) → Completes (.sensorWindow counts) s (fun t =>
          (∀ x, there x → t.core.get (Fd.THM_TEMP_COUNT x) = n x ∧ t.core.get (Fd.THM_TEMP_VALID x) = 1 ∧ (works x → t.core.temp x = tmp x)) ∧
          (works 70 → 340 ≤ tmp 70 → t.core.get Fd.HBM_STS_HOT = 1) ∧ (tmp 70 < 320 → tmp 71 < 320 → t.core.get Fd.HBM_STS_HOT = 0) ∧
          (∀ z, z < 9 → there (8 * z) →
            let h := t.core.getS (zHotT z)
            let below := fun (x : Int) => (∀ e ∈ s.core.thm.hot, e.1 ≠ z) ∨ s.core.getS (zHotT z) < x
            let warn := s.core.zWarn z ≤ h ∧ below (s.core.zWarn z)
            let req := s.core.zThrot z ≤ h ∧ below (s.core.zThrot z)
            (∃ x ∈ zoneSensors z, works x ∧ t.core.get (zHotS z) = x ∧ h = tmp x) ∧ (∀ x ∈ zoneSensors z, works x → tmp x ≤ h) ∧
            (warn → t.core.get (zWarned z) = 1 ∧ ∃ e ∈ t.core.host.evq, e.code = 0x61 ∧ e.index = t.core.get (zHotS z) ∧ e.stamp = s.core.now ∧ e.arg0 = twos 64 h ∧ e.arg1 = z) ∧
            (¬ warn → t.core.get (zWarned z) = (if h < s.core.zWarn z - s.core.zHyst z then 0 else s.core.get (zWarned z))) ∧
            (Tbl.get (fun _ => false) t.core.thm.hot z = true ↔ s.core.zThrot z ≤ h) ∧
            (req → t.core.get (zRequest z) = 1) ∧ (¬ req → t.core.get (zRequest z) = s.core.get (zRequest z)) ∧
            ((∃ e ∈ s.core.thm.grace, e.1 = z) → Tbl.get (fun _ => 0) t.core.thm.grace z = Tbl.get (fun _ => 0) s.core.thm.grace z - 1 ∧
              (Tbl.get (fun _ => true) t.core.thm.low z = true ↔ Tbl.get (fun _ => true) s.core.thm.low z = true ∧ h < s.core.zThrot z - s.core.zHyst z)) ∧
            (req → s.core.get (zRequest z) = 0 → ((∀ e ∈ s.core.thm.grace, e.1 ≠ z) → Tbl.get (fun _ => 0) t.core.thm.grace z = s.core.zGrace z) ∧
              ∃ e ∈ t.core.host.evq, e.code = 0x60 ∧ e.index = t.core.get (zHotS z) ∧ e.stamp = s.core.now)) ∧
          KeepsRegs ((upFrom 0 72).flatMap (fun x => [Fd.THM_TEMP_TEMP x, Fd.THM_TEMP_VALID x, Fd.THM_TEMP_COUNT x]) ++
            (upFrom 0 9).flatMap (fun z => [zHotS z, zHotT z, zWarned z, zRequest z]) ++ [Fd.HBM_STS_HOT]) s.core t.core ∧ t.mem = s.mem ∧ t.pending = s.pending)) ∧
        ((∃ x, trips x) → Completes (.sensorWindow counts) s (fun t => t.core.thm.shut = true ∧ t.core.thm.released = false ∧ t.core.running = false ∧
          t.core.get Fd.THM_CNT_SHUTDOWNS = min 0xFFFF (s.core.get Fd.THM_CNT_SHUTDOWNS + 1) ∧ t.mem.alm = s.mem.alm ∧ t.mem.hbm = [] ∧ t.pending = s.pending))) ∧
      (∀ f, s.core.thm.shut = false → works f → (∀ x, there x → x ≠ f → s.core.get (Fd.THM_TEMP_FAILED x) = 0 → fine x) → ¬ fine f →
        (∀ z, z < 9 → there (8 * z) → ∃ x ∈ zoneSensors z, x ≠ f ∧ works x) →
        let z := zoneOf f
        let active := s.core.get (zRequest z) = 1 ∨ s.core.get (zStep z) ≠ 0
        let holds := active ∧ s.core.get (zHotS z) = f
        let low : Int := ((4 * (max 100 (min 115 (s.core.get Fd.THM_CTL_SHUT)) - 8) : Nat) : Int)
        (∀ x, x ≠ f → ¬ trips x) → (∀ x ∈ zoneSensors z, x ≠ f → works x → tmp x ≤ low) → Completes (.sensorWindow counts) s (fun t =>
          t.core.get (Fd.THM_TEMP_FAILED f) = 1 ∧ t.pending = s.pending ∧
          (∃ e ∈ t.core.host.evq, e.code = 0x63 ∧ e.index = f ∧ e.stamp = s.core.now ∧ e.arg1 % 2 = (if holds then 1 else 0)) ∧
          (holds → (∀ e ∈ s.core.thm.heldBy, e.1 = z → e.2 ≠ 255) → t.core.get (zHeld z) = 1 ∧ t.core.get (zStep z) = 3 ∧
            (s.core.get (zStep z) < 3 → (∃ e ∈ t.core.host.evq, e.code = 0x62 ∧ e.index = z ∧ e.arg0 = 3) ∧ (z < 8 → s.core.rOk z = true → t.core.parked z = true))) ∧
          (¬ holds → t.core.get (zHeld z) = s.core.get (zHeld z) ∧ t.core.get (zStep z) = s.core.get (zStep z)))) ∧
      (s.core.thm.shut = true → (∀ x, there x → s.core.get (Fd.THM_TEMP_FAILED x) = 0 → fine x) →
        (s.core.thm.released = false ∨ (∀ x, ¬ trips x) → Completes (.sensorWindow counts) s (fun t => t.core.thm.shut = true ∧
          ((∀ x, works x → tmp x < 340) → t.core.thm.cool = s.core.thm.cool + 1) ∧ ((∃ x, works x ∧ 340 ≤ tmp x) → t.core.thm.cool = 0) ∧ t.mem = s.mem ∧ t.pending = s.pending)) ∧
        (s.core.thm.released = true → (∃ x, trips x) → Completes (.sensorWindow counts) s (fun t => t.core.thm.shut = true ∧ t.core.thm.released = false ∧ t.core.thm.cool = 0 ∧
          t.mem = s.mem ∧ t.pending = s.pending)))) ∧
    (∀ z, z < 9 → s.core.thm.shut = false → (z, 0) ∈ s.core.thm.grace →
      let d := s.core.get (zStep z)
      let hot := Tbl.get (fun _ => false) s.core.thm.hot z = true
      let top := if s.core.get Fd.THM_CTL_PARK_EN = 1 then 3 else 2
      let rises := hot ∧ s.core.get Fd.THM_CTL_THROT_EN = 1 ∧ d < top
      let low := Tbl.get (fun _ => true) s.core.thm.low z
      (s.core.get (zHeld z) = 1 → (z < 8 ∨ ¬ hot) → Gives (.graceExpiry z) s (s.core.startGrace z)) ∧
      (s.core.get (zHeld z) = 1 → z = 8 → hot → ∀ r, s.core.hotRegion = some r → Completes (.graceExpiry z) s (fun t => t.core.parked r = true ∧
        t.core.get (zStep z) = d ∧ t.core.get (zHeld z) = 1 ∧ t.pending = s.pending)) ∧
      (s.core.get (zHeld z) = 0 →
        (rises → Completes (.graceExpiry z) s (fun t => t.core.get (zStep z) = d + 1 ∧ Tbl.get (fun _ => 0) t.core.thm.grace z = s.core.zGrace z ∧
          (∃ e ∈ t.core.host.evq, e.code = 0x62 ∧ e.index = z ∧ e.arg0 = d + 1 ∧ e.stamp = s.core.now) ∧
          (d = 2 → z < 8 → s.core.rOk z = true → t.core.parked z = true) ∧ t.pending = s.pending)) ∧
        (z = 8 → hot → d = 3 → ∀ r, s.core.hotRegion = some r → Completes (.graceExpiry z) s (fun t => t.core.parked r = true ∧ t.core.get (zStep z) = 3 ∧ t.pending = s.pending)) ∧
        (¬ hot → low = true → 0 < d → Completes (.graceExpiry z) s (fun t => t.core.get (zStep z) = d - 1 ∧
          (∃ e ∈ t.core.host.evq, e.code = 0x62 ∧ e.index = z ∧ e.arg0 = d - 1 ∧ e.stamp = s.core.now) ∧ t.mem = s.mem ∧ t.pending = s.pending)) ∧
        (¬ hot → low = true → d = 0 → Completes (.graceExpiry z) s (fun t => t.core.get (zRequest z) = 0 ∧ t.core.get (zStep z) = 0 ∧
          KeepsRegs [zRequest z] s.core t.core ∧ t.core.host = s.core.host ∧ t.mem = s.mem ∧ t.pending = s.pending)) ∧
        (¬ hot → low = false → Gives (.graceExpiry z) s (s.core.startGrace z)))) ∧
    (∀ (i : Nat) (be : BitVec 4) (val : Word), i ≤ 2 →
      let n := if i = 2 then 8 else 32
      let f := if i = 0 then Fd.THM_MASK0_MASK else if i = 1 then Fd.THM_MASK1_MASK else Fd.THM_MASK2_MASK
      let there := fun (x : Nat) => x < 72 ∧ (s.core.get Fd.CHP_ID_PART = 0x0512 → x < 32 ∨ 64 ≤ x)
      let w := byteMerge (s.core.liveW f.off) be val
      (be = 0 → Gives (.thmMaskWrite i be val) s s.core) ∧
      (s.core.bar0 f.off = true → be ≠ 0 → w < 2 ^ n → Completes (.thmMaskWrite i be val) s (fun t => t.core.get f = w ∧
        (∀ k, k < n → there (32 * i + k) → t.core.get (Fd.THM_TEMP_MASKED (32 * i + k)) = b2n (bitAt w k)) ∧
        (∀ k, k < n →
          let x := 32 * i + k
          let z := zoneOf x
          there x → bitAt w k = true → bitAt (s.core.get f) k = false → s.core.get (zHeld z) = 1 → (z, x) ∈ s.core.thm.heldBy → (∀ e ∈ s.core.thm.heldBy, e.1 = z → e.2 = x) →
          t.core.get (zHeld z) = 0 ∧ Tbl.get (fun _ => 0) t.core.thm.grace z = s.core.zGrace z) ∧
        KeepsRegs ([f] ++ (upFrom 0 n).map (fun k => Fd.THM_TEMP_MASKED (32 * i + k)) ++ (upFrom 0 9).map zHeld) s.core t.core ∧
        t.core.host = s.core.host ∧ t.mem = s.mem ∧ t.pending = s.pending)))

/-- R64, R74, R75, R77, R84 and R85. `empties k` is `k` bundles that do nothing but let results in flight land. -/
def Obligations.ResultsBecomeVisibleAfterTheirLatency : Prop :=
  (∀ (p : Phx) (w : PWrite) (L k : Nat), p.pend = [] → 1 ≤ L →
    ({ p with pend := [{ w := w, left := L }] } : Phx).empties k = if k < L then ({ p with pend := [{ w := w, left := L - k }] }, false) else p.land w) ∧
  (∀ (p : Phx) (d L : Nat) (x y : BitVec 128), p.pend = [] → 1 ≤ L →
    ((({ p with curA := inFlight L [.v d x] } : Phx).issue (inFlight L [.v d y]) .on).1.empties (L - 1)).1.rV d = x) ∧
  (∀ (p : Phx) (a : Nat), p.pend = [] → p.curA = [] → p.pc + 2 < 4096 → p.loopEnd p.pc = false → p.loopEnd (p.pc + 1) = false → p.loopEnd (p.pc + 2) = false →
    let q1 := (p.issue [] (.branch (some a))).1
    let q2 := (q1.issue [] .on).1
    let q3 := (q2.issue [] .on).1
    q1.pc = p.pc + 1 ∧ q2.pc = p.pc + 2 ∧ q3.pc = a ∧ q3.dslots = 0) ∧
  (∀ (p : Phx), p.pend = [] → p.curA = [] → p.pc + 1 < 4096 → p.dslots = 0 →
    let q := (p.issue [] .on).1
    (p.loopEnd p.pc = false → q.pc = p.pc + 1 ∧ q.lc = p.lc ∧ q.flags = p.flags) ∧
    (flLa p.flags 1 = true → p.rLe 1 = p.pc → 1 < (p.rLc 1).toNat → q.pc = p.rLs 1 % 4096 ∧ q.rLc 1 = p.rLc 1 - 1 ∧ q.rLc 0 = p.rLc 0 ∧ q.flags = p.flags) ∧
    (flLa p.flags 1 = true → p.rLe 1 = p.pc → (p.rLc 1).toNat ≤ 1 → flLa q.flags 1 = false) ∧
    (flLa p.flags 1 = false → flLa p.flags 0 = true → p.rLe 0 = p.pc → 1 < (p.rLc 0).toNat → q.pc = p.rLs 0 % 4096 ∧ q.rLc 0 = p.rLc 0 - 1 ∧ q.flags = p.flags) ∧
    (flLa p.flags 1 = false → flLa p.flags 0 = true → p.rLe 0 = p.pc → (p.rLc 0).toNat ≤ 1 → q.pc = p.pc + 1 ∧ flLa q.flags 0 = false) ∧
    (∀ t, let b := (p.issue [] (.branch t)).1
      b.dslots = 2 ∧ b.dtarget = t ∧ b.pc = q.pc ∧ b.lc = q.lc ∧ b.flags = q.flags) ∧
    (∀ (l a : Nat) (n : Word), l < 2 → p.loopEnd p.pc = false →
      let b := (p.issue [] (.loop l n a)).1
      b.rLc l = n ∧ b.rLs l = p.pc + 1 ∧ b.rLe l = a % 4096 ∧ flLa b.flags l = decide (n ≠ 0) ∧ b.pc = (if n = 0 then (a + 1) % 4096 else p.pc + 1) ∧
      (∀ k, k ≠ l → b.rLc k = p.rLc k ∧ b.rLs k = p.rLs k ∧ b.rLe k = p.rLe k ∧ (k < 2 → flLa b.flags k = flLa p.flags k)))) ∧
  (∀ (w n : Nat) (x : Cx), cxNarrow w n x =
    (max (-(2 ^ (w - 1) : Int)) (min (2 ^ (w - 1) - 1) (x.1 / 2 ^ n)), max (-(2 ^ (w - 1) : Int)) (min (2 ^ (w - 1) - 1) (x.2 / 2 ^ n)))) ∧
  ∀ (s : State) (g : Nat) (c : Instr), c ∈ engineSlots g → EngineOn g s →
    (s.core.seqW g ≤ (s.core.cell g).phx.pc → Gives c s (s.core.faultCell s.mem g [3])) ∧
    ((s.core.cell g).phx.pc < s.core.seqW g → flawAt s.mem 1 (g * 4096 + (s.core.cell g).phx.pc) = none →
      bundleIllegal (s.core.cell g).phx (bundle (pmWord s.mem g (s.core.cell g).phx.pc)) = true →
      Gives c s (bundleFault s g (2 :: s.core.slotBFaults g (s.core.cell g).phx (bundle (pmWord s.mem g (s.core.cell g).phx.pc)))))

/-- R77, R81 and R82. -/
def Obligations.VectorOperationsIssue : Prop :=
  ∀ (s : State) (g : Nat) (b : Bndl), AtBundle g b s → (s.core.cell g).phx.aDone = false →
    let p := (s.core.cell g).phx
    let va := vLanes (p.rV b.aa)
    let vb := vLanes (p.rV b.ab)
    let done := fun (lat : Nat) (w : PWrite) (sat : Bool) => SlotAIssued g (inFlight lat [w]) sat s
    let lanes := fun (n : Nat) (xs : List Cx) => packV (xs.map (cxNarrow 16 n))
    let hits := fun (n : Nat) (xs : List Cx) => xs.any (cxHits 16 n)
    let prods := (va.zip vb).map (fun x => cxMul x.1 x.2)
    let sums := (va.zip vb).map (fun x => cxAdd x.1 x.2)
    let difs := (va.zip vb).map (fun x => cxSub x.1 x.2)
    let accs := (upFrom 0 4).map (accLane (p.rAcc b.aa))
    (b.opa = 0x00 → Completes (.phxNopa g) s (SlotAIssued g [] false s)) ∧
    (b.opa = 0x01 → Completes (.phxVmov g) s (done 2 (.v b.ad (p.rV b.aa)) false)) ∧
    (b.opa = 0x02 → Completes (.phxVadd g) s (done 2 (.v b.ad (lanes 0 sums)) (hits 0 sums))) ∧
    (b.opa = 0x03 → Completes (.phxVsub g) s (done 2 (.v b.ad (lanes 0 difs)) (hits 0 difs))) ∧
    (b.opa = 0x04 → Completes (.phxVcmul g) s (done 3 (.v b.ad (lanes b.aimm prods)) (hits b.aimm prods))) ∧
    (b.opa = 0x05 → Completes (.phxVconj g) s (done 2 (.v b.ad (lanes 0 (va.map cxConj))) (hits 0 (va.map cxConj)))) ∧
    (b.opa = 0x06 → Completes (.phxValn g) s (done 2 (.v b.ad (packV (((va ++ vb).drop b.aimm).take 4))) false)) ∧
    (b.opa = 0x07 → Completes (.phxVbcst g) s (done 2 (.v b.ad (packV (List.replicate 4 (vLane (p.rV b.aa) b.aimm)))) false)) ∧
    (b.opa = 0x10 → Completes (.phxMacz g) s (done 4 (.macz b.ad prods) false)) ∧
    (b.opa = 0x11 → Completes (.phxMac g) s (done 4 (.mac b.ad prods) false)) ∧
    (b.opa = 0x12 → Completes (.phxMacc g) s (done 4 (.mac b.ad ((va.zip vb).map (fun x => cxMul x.1 (cxConj x.2)))) false)) ∧
    (b.opa = 0x13 → Completes (.phxMsub g) s (done 4 (.mac b.ad (prods.map cxNeg)) false)) ∧
    (b.opa = 0x14 → Completes (.phxMova g) s (done 2 (.v b.ad (lanes b.aimm accs)) (hits b.aimm accs)))

/-- R76, R77, R80 and R83. -/
def Obligations.ScalarOperationsIssue : Prop :=
  ∀ (s : State) (g : Nat) (b : Bndl), AtBundle g b s → ((s.core.cell g).phx.aDone = true ∨ b.opa = 0) →
    let p := (s.core.cell g).phx
    let x := p.rS b.ba
    let y := p.rS b.bb
    let imm := BitVec.ofInt 32 (if b.bimm < 2 ^ 13 then (b.bimm : Int) else (b.bimm : Int) - 2 ^ 14)
    let done := fun (ws : List PWrite) => BundleDone g (inFlight 1 ws) s
    let zn := fun (r : Word) => PWrite.zncv 0b0011 (BitVec.ofNat 4 (b2n (r == 0) + 2 * b2n r.msb))
    let zncv := fun (r : Word) (c v : Prop) [Decidable c] [Decidable v] => PWrite.zncv 0b1111 (BitVec.ofNat 4 (b2n (r == 0) + 2 * b2n r.msb + 4 * b2n (decide c) + 8 * b2n (decide v)))
    let ovf := fun (v : Int) => v < -2 ^ 31 ∨ 2 ^ 31 ≤ v
    (b.opb = 0x00 → Completes (.phxNop g) s (done [])) ∧
    (b.opb = 0x01 → Completes (.phxAdd g) s (done [.s b.bd (x + y), zncv (x + y) (2 ^ 32 ≤ x.toNat + y.toNat) (ovf (x.toInt + y.toInt))])) ∧
    (b.opb = 0x02 → Completes (.phxSub g) s (done [.s b.bd (x - y), zncv (x - y) (y.toNat ≤ x.toNat) (ovf (x.toInt - y.toInt))])) ∧
    (b.opb = 0x03 → Completes (.phxAnd g) s (done [.s b.bd (x &&& y), zn (x &&& y)])) ∧
    (b.opb = 0x04 → Completes (.phxOr g) s (done [.s b.bd (x ||| y), zn (x ||| y)])) ∧
    (b.opb = 0x05 → Completes (.phxXor g) s (done [.s b.bd (x ^^^ y), zn (x ^^^ y)])) ∧
    (b.opb = 0x06 → Completes (.phxShl g) s (done [.s b.bd (x <<< b.bimm), zn (x <<< b.bimm)])) ∧
    (b.opb = 0x07 → Completes (.phxShr g) s (done [.s b.bd (x >>> b.bimm), zn (x >>> b.bimm)])) ∧
    (b.opb = 0x08 → Completes (.phxSar g) s (done [.s b.bd (x.sshiftRight b.bimm), zn (x.sshiftRight b.bimm)])) ∧
    (b.opb = 0x09 → Completes (.phxMul g) s (BundleDone g (inFlight 2 [.s b.bd (x * y), zn (x * y)]) s)) ∧
    (b.opb = 0x0A → Completes (.phxLi g) s (done [.s b.bd (((BitVec.ofNat 4 b.bb ++ BitVec.ofNat 14 b.bimm) : BitVec 18).signExtend 32)])) ∧
    (b.opb = 0x0B → Completes (.phxLui g) s (done [.lui b.bd (BitVec.ofNat 14 b.bimm)])) ∧
    (b.opb = 0x0C → Completes (.phxAddi g) s (done [.s b.bd (x + imm), zncv (x + imm) (2 ^ 32 ≤ x.toNat + imm.toNat) (ovf (x.toInt + imm.toInt))])) ∧
    (b.opb = 0x14 → Completes (.phxMovp g) s (done [.p b.bd (x.setWidth 16)])) ∧
    (b.opb = 0x15 → Completes (.phxMovm g) s (done [.m b.bd (x.setWidth 16)])) ∧
    (b.opb = 0x16 → (b.bimm = 0 ∨ 4 ≤ b.bimm ∧ b.bimm ≤ 13) → Completes (.phxSetl g) s (done [.l b.bd (BitVec.ofNat 4 b.bimm)])) ∧
    (b.opb = 0x16 → ¬ (b.bimm = 0 ∨ 4 ≤ b.bimm ∧ b.bimm ≤ 13) → Gives (.phxSetl g) s (bundleFault s g [2])) ∧
    (b.opb = 0x17 → Completes (.phxVget g) s (BundleDone g (inFlight 2 [.s b.bd (((p.rV b.ba).extractLsb' (32 * (b.bimm % 4) + 16 * (b.bimm / 4)) 16).signExtend 32)]) s)) ∧
    (b.opb = 0x18 → Completes (.phxVput g) s (BundleDone g (inFlight 2 [.vput b.bd (b.bimm % 4) (b.bimm / 4) (x.setWidth 16)]) s)) ∧
    (b.opb = 0x30 → ∀ v, p.special b.bimm = some v → Completes (.phxMovxRead g) s (done [.s b.bd v])) ∧
    (b.opb = 0x30 → 11 < b.bimm → Gives (.phxMovxRead g) s (bundleFault s g [2])) ∧
    (b.opb = 0x31 → b.bimm ≠ 3 → b.bimm < 11 → Completes (.phxMovxWrite g) s (done [.sreg b.bimm x])) ∧
    (b.opb = 0x31 → (b.bimm = 3 ∨ 11 ≤ b.bimm) → Gives (.phxMovxWrite g) s (bundleFault s g [2]))

/-- R78 and R79; the 64-bit bundle carries the pointer in BA, the offset in BB and the data register in BD (R81, R83). -/
def Obligations.LoadsAndStoresUseTheirPointer : Prop :=
  (∀ (p : Nat) (m : Int) (e : Nat), postModify p m e =
    if e = 0 then ((p + m) % 2 ^ 16).toNat else p / 2 ^ e * 2 ^ e + ((p + m) % 2 ^ 16).toNat % 2 ^ e) ∧
  ∀ (s : State) (g : Nat) (b : Bndl), AtBundle g b s → ((s.core.cell g).phx.aDone = true ∨ b.opa = 0) →
    let p := (s.core.cell g).phx
    let a := (p.rP b.ba).toNat
    let ptr := PWrite.p b.ba (BitVec.ofNat 16 (postModify a (p.rM b.bb).toInt (p.rL b.ba).toNat))
    let byte := fun (k : Nat) => if a < 0x1000 then Tbl.get zeroByte s.mem.dmcA (g * 4096 + (a + k)) else Tbl.get zeroByte s.mem.dmw (g * 4096 + (a + k - 0x1000))
    let room := 0x1000 ≤ a ∧ a < 0x2000
    let bad := fun (out mis : Prop) [Decidable out] [Decidable mis] => bundleFault s g ((if out then [4] else []) ++ (if mis then [5] else []))
    (b.opb = 0x10 → a % 4 = 0 → a < 0x2000 → flawAt s.mem 2 (g * 512 + a / 16) = none →
      Completes (.phxLd g) s (BundleDone g (inFlight 3 [ptr, .s b.bd (BitVec.ofNat 32 (fromLE ((upFrom 0 4).map byte)))]) s)) ∧
    (b.opb = 0x12 → a % 16 = 0 → a < 0x2000 → flawAt s.mem 2 (g * 512 + a / 16) = none →
      Completes (.phxLdv g) s (BundleDone g (inFlight 3 [ptr, .v b.bd (BitVec.ofNat 128 (fromLE ((upFrom 0 16).map byte)))]) s)) ∧
    (b.opb = 0x11 → a % 4 = 0 → room → Inv s → Completes (.phxSt g) s (fun t => SlotBIssued g (inFlight 3 [ptr]) .on id [] s t ∧
      Wrote zeroByte s.mem.dmw t.mem.dmw (g * 4096 + (a - 0x1000)) (toLE 4 (p.rS b.bd).toNat) ∧ t.mem = { s.mem with dmw := t.mem.dmw })) ∧
    (b.opb = 0x13 → a % 16 = 0 → room → Inv s → Completes (.phxStv g) s (fun t => SlotBIssued g (inFlight 3 [ptr]) .on id [] s t ∧
      Wrote zeroByte s.mem.dmw t.mem.dmw (g * 4096 + (a - 0x1000)) (toLE 16 (p.rV b.bd).toNat) ∧ t.mem = { s.mem with dmw := t.mem.dmw })) ∧
    (b.opb = 0x10 → (a % 4 ≠ 0 ∨ 0x2000 ≤ a) → Gives (.phxLd g) s (bad (0x2000 ≤ a) (a % 4 ≠ 0))) ∧
    (b.opb = 0x12 → (a % 16 ≠ 0 ∨ 0x2000 ≤ a) → Gives (.phxLdv g) s (bad (0x2000 ≤ a) (a % 16 ≠ 0))) ∧
    (b.opb = 0x11 → (a % 4 ≠ 0 ∨ ¬ room) → Gives (.phxSt g) s (bad (¬ room) (a % 4 ≠ 0))) ∧
    (b.opb = 0x13 → (a % 16 ≠ 0 ∨ ¬ room) → Gives (.phxStv g) s (bad (¬ room) (a % 16 ≠ 0)))

/-- R71-R73, R77 and R83. The renderer (`feed`) goes on when a port has room again. -/
def Obligations.EngineReachesItsPorts : Prop :=
  ∀ (s : State) (g : Nat) (b : Bndl), AtBundle g b s → ((s.core.cell g).phx.aDone = true ∨ b.opa = 0) →
    let p := (s.core.cell g).phx
    let inl := s.core.get (Fd.CEL_CFG_PHX_INLINE g) = 1
    let outs := fun (lanes : BitVec 128) (xs : List Fld) (t : State) => ∀ k rest, p.taken = k :: rest → s.core.role g ≠ 2 → ∃ d : Core, t.core = d.feed s.mem g ∧
      SlotBIssued g [] .on (fun q => { q with taken := rest, outPort := p.outPort ++ [{ k with lanes := lanes }] }) xs s { s with core := d }
    let accs := (upFrom 0 4).map (accLane (p.rAcc b.ba))
    (b.opb = 0x20 → inl → ∀ q rest, p.inPort = q :: rest → Completes (.phxIn g) s (fun t => t.mem = s.mem ∧ ∃ d : Core, t.core = d.feed s.mem g ∧
      SlotBIssued g (inFlight 2 [.v b.bd q.lanes, .port q.ic q.csel q.vm]) .on (fun x => { x with inPort := rest, taken := p.taken ++ [q] }) [] s { s with core := d })) ∧
    (b.opb = 0x20 → ¬ inl → Gives (.phxIn g) s (bundleFault s g [6])) ∧
    (b.opb = 0x21 → inl → p.taken ≠ [] → Completes (.phxOut g) s (fun t => outs (p.rV b.ba) [] t ∧ t.mem = s.mem ∧ t.pending = s.pending)) ∧
    (b.opb = 0x22 → inl → p.taken ≠ [] → Completes (.phxOuta g) s (fun t => outs (packV (accs.map (cxNarrow 16 b.bimm))) [Fd.CEL_STS_SAT g] t ∧
      (s.core.role g = 2 → accs.any (cxHits 16 b.bimm) = true → t.core.get (Fd.CEL_STS_SAT g) = 1) ∧ t.mem = s.mem ∧ t.pending = s.pending)) ∧
    (b.opb = 0x21 → inl → s.core.role g = 2 → ∀ k rest pre w post, p.taken = k :: rest → (s.core.cell g).ro.wins = pre ++ w :: post →
      (k.metas.head?).map (fun q => q.stamp) = some w.id → (∀ v ∈ pre, v.id ≠ w.id) → s.core.now ≤ s.core.winLatch g w →
      Completes (.phxOut g) s (fun t => (t.core.cell g).ro.wins = pre ++ { w with out := some (vLane (p.rV b.ba) 0) } :: post ∧ (t.core.cell g).phx.taken = rest ∧
        t.mem = s.mem ∧ t.pending = s.pending)) ∧
    (b.opb = 0x21 → (¬ inl ∨ p.taken = []) → Gives (.phxOut g) s (bundleFault s g [6])) ∧
    (b.opb = 0x22 → (¬ inl ∨ p.taken = []) → Gives (.phxOuta g) s (bundleFault s g [6]))

/-- R83, R84, R86 and R87. -/
def Obligations.EngineControlAndEvents : Prop :=
  (∀ f : BitVec 14, brCond f 1 = f.getLsbD 0 ∧ brCond f 2 = !f.getLsbD 0 ∧ brCond f 3 = (f.getLsbD 1 != f.getLsbD 3) ∧ brCond f 4 = (f.getLsbD 1 == f.getLsbD 3) ∧
    brCond f 5 = f.getLsbD 2 ∧ brCond f 6 = !f.getLsbD 2 ∧ brCond f 7 = (f.extractLsb' 7 2 == 0) ∧ brCond f 8 = (f.extractLsb' 7 2 != 0)) ∧
  ∀ (s : State) (g : Nat),
    let p := (s.core.cell g).phx
    (∀ b : Bndl, AtBundle g b s → (p.aDone = true ∨ b.opa = 0) →
      let l := b.bd
      let n := p.rS b.ba
      (b.opb = 0x28 → Completes (.phxJmp g) s (fun t => SlotBIssued g [] (.branch (some b.bimm)) id [] s t ∧ t.mem = s.mem)) ∧
      (b.opb = 0x29 → Completes (.phxBr g) s (fun t => SlotBIssued g [] (.branch (if brCond p.flags b.bd then some b.bimm else none)) id [] s t ∧ t.mem = s.mem)) ∧
      (b.opb = 0x2A → Completes (.phxLoop g) s (fun t => SlotBIssued g [] (.loop l n b.bimm) id [] s t ∧ t.mem = s.mem ∧ (p.loopEnd p.pc = false → p.pend = [] → p.curA = [] →
        p.pc + 1 < 4096 → let q := (t.core.cell g).phx
        q.rLc l = n ∧ q.rLs l = p.pc + 1 ∧ q.rLe l = b.bimm % 4096 ∧ flLa q.flags l = decide (n ≠ 0) ∧ q.pc = (if n = 0 then (b.bimm + 1) % 4096 else p.pc + 1)))) ∧
      (b.opb = 0x2C → Completes (.phxWaite g) s (fun t => SlotBIssued g [] .on id [Fd.CEL_STS_WAITING g] s t ∧ t.core.get (Fd.CEL_STS_WAITING g) = 0 ∧ t.mem = s.mem)) ∧
      (b.opb = 0x2D → s.core.get (Fd.CEL_STS_IN_HANDLER g) = 1 → Completes (.phxRete g) s (fun t => t.core.get (Fd.CEL_STS_IN_HANDLER g) = 0 ∧
        (t.core.cell g).phx = { ((p.issue [] .on).1.empties 4).1 with
          flags := ((p.issue [] .on).1.empties 4).1.eflags, pc := ((p.issue [] .on).1.empties 4).1.epc.toNat, dslots := 0, dtarget := none } ∧
        KeepsRegs [Fd.CEL_STS_PHX_PC g, Fd.CEL_STS_AOV g, Fd.CEL_STS_IN_HANDLER g] s.core t.core ∧ t.mem = s.mem ∧ t.pending = s.pending)) ∧
      (b.opb = 0x2D → s.core.get (Fd.CEL_STS_IN_HANDLER g) = 0 → Gives (.phxRete g) s (bundleFault s g [2])) ∧
      (b.opb = 0x2F → Completes (.phxHalt g) s (fun t => SlotBIssued g [] .on id [Fd.CEL_STS_HALTED g] s t ∧ t.core.get (Fd.CEL_STS_HALTED g) = 1 ∧ t.mem = s.mem))) ∧
    (EngineOn g s → p.pc < s.core.seqW g → bundleIllegal p (bundle (pmWord s.mem g p.pc)) = false → (bundle (pmWord s.mem g p.pc)).opb = 0x2C →
      s.core.get (Fd.CEL_STS_EV_PEND g) = 0 → Gives (.phxWaite g) s (s.core.put (Fd.CEL_STS_WAITING g) 1)) ∧
    (∀ e, EngineOn g s → p.pc < s.core.seqW g → (bundle (pmWord s.mem g p.pc)).ie = true → p.flags.getLsbD 4 = true → p.dslots = 0 → p.aDone = false →
      e < 8 → bitAt (s.core.get (Fd.CEL_STS_EV_PEND g)) e = true → (∀ i, i < e → bitAt (s.core.get (Fd.CEL_STS_EV_PEND g)) i = false) →
      Completes (.eventTake g) s (fun t =>
        let q := (({ p with epc := BitVec.ofNat 12 p.pc, evcause := BitVec.ofNat 3 e } : Phx).empties 4).1
        (t.core.cell g).phx = { q with eflags := q.flags, flags := q.flags &&& ~~~0b1110000, pc := 4 * e } ∧
        t.core.get (Fd.CEL_STS_EV_PEND g) = s.core.get (Fd.CEL_STS_EV_PEND g) - 2 ^ e ∧ t.core.get (Fd.CEL_STS_IN_HANDLER g) = 1 ∧
        t.core.get (Fd.CEL_STS_WAITING g) = 0 ∧ (∀ j, j ≠ g → t.core.cell j = s.core.cell j) ∧
        KeepsRegs [Fd.CEL_STS_EV_PEND g, Fd.CEL_STS_IN_HANDLER g, Fd.CEL_STS_WAITING g, Fd.CEL_STS_AOV g] s.core t.core ∧ t.mem = s.mem ∧ t.pending = s.pending)) ∧
    (s.core.get (Fd.CEL_STS_EV_PEND g) = 0 → Gives (.eventTake g) s s.core)

/-- R484 and R485. -/
def Obligations.JtagSelectsItsRegisters : Prop :=
  ∀ s : State,
    let as := fun (ir : Nat) (data : List Bool) (out : Option (List Bool)) (hiZ : Bool) =>
      ({ s.core with pins := { s.core.pins with jtagIr := ir, jtagData := data, jtagOut := out, jtagHiZ := hiZ } } : Core)
    let en := s.core.pins.straps.jtagEn
    let pre := s.core.pins.jtagPre
    let code := (if s.core.pins.fuseDone then s.core.get Fd.CHP_REV_MAJOR * 2 ^ 28 + s.core.get Fd.CHP_ID_PART * 2 ^ 12 else 0) + 0x3D7 * 2 + 1
    (∀ code : BitVec 8, code ≠ 0x00 → code ≠ 0x01 → code ≠ 0x02 → code ≠ 0x04 → code ≠ 0x05 → Gives (.jtagBypass code) s (as code.toNat [false] none false)) ∧
    (∀ code : BitVec 8, code = 0x00 ∨ code = 0x01 ∨ code = 0x02 ∨ code = 0x04 ∨ code = 0x05 → Gives (.jtagBypass code) s s.core) ∧
    Completes .jtagIdcode s (fun t => t.core = as 0x01 t.core.pins.jtagData none false ∧ t.core.pins.jtagData.length = 32 ∧
      (∀ i, i < 32 → t.core.pins.jtagData.getD i false = code.testBit i) ∧ t.mem = s.mem ∧ t.pending = s.pending) ∧
    (∀ pins load : List Bool,
      (pins.length = bsrLen → load.length = bsrLen → Gives (.jtagSamplePreload pins load) s { as 0x02 pins none false with pins := { (as 0x02 pins none false).pins with jtagPre := load } }) ∧
      (pins.length ≠ bsrLen ∨ load.length ≠ bsrLen → Gives (.jtagSamplePreload pins load) s s.core)) ∧
    (en = true →
      (∀ pins : List Bool, pins.length = bsrLen → Gives (.jtagExtest pins none) s (as 0x00 pins (some pre) false) ∧
        ∀ load : List Bool, load.length = bsrLen → Gives (.jtagExtest pins (some load)) s { as 0x00 pins (some load) false with pins := { (as 0x00 pins (some load) false).pins with jtagPre := load } }) ∧
      (∀ pins load, pins.length ≠ bsrLen ∨ (∃ l, load = some l ∧ l.length ≠ bsrLen) → Gives (.jtagExtest pins load) s s.core) ∧
      Gives .jtagClamp s (as 0x04 [false] (some pre) false) ∧ Gives .jtagHighz s (as 0x05 [false] none true)) ∧
    (en = false → (∀ pins load, Gives (.jtagExtest pins load) s (as 0x00 [false] none false)) ∧ Gives .jtagClamp s (as 0x04 [false] none false) ∧
      Gives .jtagHighz s (as 0x05 [false] none false))

/-- R483 and R486. The PEC byte is the SMBus standard's CRC-8 (PRESUMED in the log: R486 names SMBus 3.1 and not the polynomial). -/
def Obligations.SmbusAnswersItsCommands : Prop :=
  (∀ c : Core, c.smbAlert = true ↔ (c.thermtrip = true ∨ ∃ z, z < 9 ∧ c.get (zRequest z) = 1)) ∧
  ∀ s : State,
    let adr := (0x58 + s.core.pins.straps.smbAddr.toNat) * 2
    let up := s.core.svc = true ∨ s.core.get Fd.CHP_BOOT_STS_FAILED = 1 ∨ s.core.thm.shut = true
    let answers := fun (cmd : Nat) (data : List Nat) (t : State) => (up → t.core.pins.smbOut = data ++ [pec ([adr, cmd, adr + 1] ++ data)]) ∧
      (¬ up → t.core.pins.smbOut = []) ∧
      t = { s with core := { s.core with freeCtr := t.core.freeCtr, pins := { s.core.pins with smbOut := t.core.pins.smbOut } } }
    let word := fun (n : Nat) => [n % 256, n / 256 % 256]
    let bit := fun (p : Prop) [Decidable p] => b2n (decide p)
    Completes .smbStatus s (answers 0x00 [s.core.get Fd.CHP_BOOT_STS_STAGE + 16 * s.core.get Fd.CHP_BOOT_STS_FAILED + 32 * b2n s.core.thermtrip +
      64 * bit (∃ z ∈ upFrom 0 9, s.core.get (zStep z) ≠ 0) + 128 * bit (∃ z ∈ upFrom 0 9, s.core.get (zHeld z) ≠ 0)]) ∧
    Completes .smbShutdowns s (answers 0x03 (word (s.core.get Fd.THM_CNT_SHUTDOWNS))) ∧ Completes .smbResetCause s (answers 0x04 [s.core.get Fd.CHP_RST_STS_CAUSE]) ∧
    Completes .smbPart s (answers 0x05 (word (s.core.get Fd.CHP_ID_PART))) ∧
    (∀ x, x < 72 → Completes (.smbSensorTemp x) s (answers (0x40 + x) (word (s.core.liveW (Fd.THM_TEMP x))))) ∧
    (∀ x, 72 ≤ x → Completes (.smbSensorTemp x) s (fun t => t.core.pins.smbOut = [] ∧ t.mem = s.mem ∧ t.pending = s.pending)) ∧
    (∀ x, x < 72 → s.core.working x = true → (∀ y, y < 72 → s.core.working y = true → s.core.temp y < s.core.temp x ∨ s.core.temp y = s.core.temp x ∧ x ≤ y) →
      (∃ f, f < 16 ∧ Completes .smbMaxTemp s (answers 0x01 (word (twos 12 (s.core.temp x) + f * 2 ^ 12)))) ∧ Completes .smbMaxSensor s (answers 0x02 [x])) ∧
    ((∀ x, x < 72 → s.core.working x = false) → (∃ f, Completes .smbMaxTemp s (answers 0x01 (word f))) ∧ (∃ f, Completes .smbMaxSensor s (answers 0x02 [f])))

/-- R33 over every command and every state. REF_LOCK is stage 2 (R441). -/
def Obligations.NothingMovesTheMeridianInService : Prop :=
  ∀ (c : Instr) (s t : State), exec c s = .next t →
    (resets c = false → s.core.inStage 2 = false → t.core.now = s.core.now ∧ t.core.running = s.core.running) ∧
    (resets c = false → s.core.inStage 2 = true → (t.core.now = s.core.now ∧ t.core.running = s.core.running) ∨ t.core.inStage 2 = false) ∧
    (resets c = true → (t.core.now = s.core.now ∧ t.core.running = s.core.running) ∨ (t.core.now = 0 ∧ t.core.running = false))

/-- R34. The device answers on BAR0 in SERVICE (R444). -/
def Obligations.TheMeridianIsReadByCapture : Prop :=
  Tbl.get (fun _ => 0) State.reset.core.host.capture Fd.CHP_MERIDIAN_HI = 0 ∧
  ∀ s : State, s.core.bar0 0 = true → s.core.svc = true →
    Completes (.captureRead Fd.CHP_MERIDIAN_LO 4) s (fun t =>
      t.core.host.out = s.core.host.out ++ [.readAns (toLE 4 (s.core.now % 2 ^ 32)) false] ∧
      Tbl.get (fun _ => 0) t.core.host.capture Fd.CHP_MERIDIAN_HI = s.core.now / 2 ^ 32 % 2 ^ 32 ∧
      (∀ o, o ≠ Fd.CHP_MERIDIAN_HI → Tbl.get (fun _ => 0) t.core.host.capture o = Tbl.get (fun _ => 0) s.core.host.capture o) ∧
      t = { s with core := { s.core with host := { s.core.host with out := t.core.host.out, capture := t.core.host.capture } } }) ∧
    Gives (.registerReadClear Fd.CHP_MERIDIAN_HI 4) s (s.core.emit (.readAns (toLE 4 (Tbl.get (fun _ => 0) s.core.host.capture Fd.CHP_MERIDIAN_HI)) false)) ∧
    (∀ (be : BitVec 8) (val : BitVec 64) (off : Nat), off = Fd.CHP_MERIDIAN_LO ∨ off = Fd.CHP_MERIDIAN_HI → Completes (.registerWrite off 4 be val) s (fun t =>
      t.core.now = s.core.now ∧ t.core.host = s.core.host ∧ KeepsRegs [] s.core t.core ∧ t.mem = s.mem ∧ t.pending = s.pending))

/-- R387; the stamp is R379's, the event's arguments R390's. -/
def Obligations.EdgesOnPpsInAreStamped : Prop :=
  ∀ (s : State) (ns : Nat), s.core.svc = true → ns < 2 →
    (s.core.get Fd.TPT_PPS_CFG_IN_EN = 1 → Completes (.ppsIn ns) s (fun t =>
      let x := ((2 * s.core.now + ns : Nat) + s.core.offAt s.core.now / 2 ^ 32) % 2 ^ 32
      let n := min 0xFFFFFFFF (s.core.get Fd.TPT_PPS_IN_CNT_EDGES + 1)
      (t.core.get Fd.TPT_PPS_IN_NS_NS : Int) = x ∧ t.core.get Fd.TPT_PPS_IN_CNT_EDGES = n ∧ t.core.get Fd.TPT_STS_IN_SEEN = 1 ∧
      t.core.host.evq = s.core.host.evq ++
        (if s.core.get Fd.TPT_CFG_PPS_EV = 1 then [{ code := 0x73, level := 0, index := 0, stamp := s.core.now, arg0 := x.toNat, arg1 := n }] else []) ∧
      KeepsRegs [Fd.TPT_PPS_IN_NS_NS, Fd.TPT_PPS_IN_CNT_EDGES, Fd.TPT_STS_IN_SEEN] s.core t.core ∧
      t = { s with core := { s.core with live := t.core.live, host := { s.core.host with evq := t.core.host.evq } } })) ∧
    (s.core.get Fd.TPT_PPS_CFG_IN_EN = 0 → Gives (.ppsIn ns) s s.core)

/-- R437, R440 and the reset columns of R389, R434 and R452. The values of memory that nothing has written are the model's (log entry 3). -/
def Obligations.ResetHoldsTheStatedValues : Prop :=
  let c := State.reset.core
  c.get Fd.CHP_BOOT_STS_STAGE = 1 ∧ c.get Fd.CHP_BOOT_STS_FAILED = 0 ∧ c.get Fd.CHP_RST_STS_CAUSE = 1 ∧ c.running = false ∧ c.now = 0 ∧ c.runIs .idle = true ∧
  c.get Fd.TPT_SERVO_CTL_EN = 1 ∧ c.get Fd.TPT_SERVO_CTL_KP_SHIFT = 1 ∧ c.get Fd.TPT_SERVO_CTL_KI_SHIFT = 31 ∧ c.get Fd.TPT_JUMP_LIMIT = 1000 ∧
  c.get Fd.TPT_PPS_CFG_WIDTH = 100 ∧ c.get Fd.TPT_STS_NT_VALID = 0 ∧ c.tpt.off = 0 ∧ c.get Fd.THM_CNT_SHUTDOWNS = 0 ∧
  State.reset.mem.pmA = [] ∧ State.reset.mem.dmw = [] ∧ State.reset.mem.hbm = [] ∧ c.host.evq = [] ∧ c.host.out = [] ∧ State.reset.pending = []
end

