-- ==== Sys2Proof/Laws/Tables.lean ====
section
/-!
SUPPORT. What tables, byte memories and bit fields do: reading after writing, the canonical form kept, equal contents are equal tables.
-/
namespace Sys2Proof.Laws

open Sys2Proof.Machine

variable {α : Type}

/-! ### Tables -/

/-- Every key of a table lies above `k`. -/
def Above (k : Nat) (m : List (Nat × α)) : Prop := ∀ e ∈ m, k < e.1

@[simp] theorem get_nil (d : Nat → α) (k : Nat) : Tbl.get d [] k = d k := rfl

@[simp] theorem get_insert (d : Nat → α) (m : List (Nat × α)) (k j : Nat) (v : α) :
    Tbl.get d (Tbl.insert m k v) j = if j = k then v else Tbl.get d m j := by
  induction m with
  | nil => simp only [Tbl.insert, Tbl.get, eq_comm]
  | cons e rest ih =>
    obtain ⟨i, w⟩ := e
    by_cases hjk : j = k
    · subst hjk
      rw [if_pos rfl] at ih ⊢
      unfold Tbl.insert
      split
      · simp only [Tbl.get, if_true]
      · split
        · simp only [Tbl.get, if_true]
        · rename_i h; simp only [Tbl.get, if_neg h, ih]
    · rw [if_neg hjk] at ih ⊢
      have hkj : ¬ k = j := fun h => hjk h.symm
      unfold Tbl.insert
      split
      · simp only [Tbl.get, if_neg hkj]
      · split
        · rename_i h; subst h; simp only [Tbl.get, if_neg hkj]
        · simp only [Tbl.get, ih]

theorem get_insert_same (d : Nat → α) (m : List (Nat × α)) (k : Nat) (v : α) : Tbl.get d (Tbl.insert m k v) k = v := by simp

theorem get_above (d : Nat → α) {m : List (Nat × α)} {k : Nat} (h : Above k m) : Tbl.get d m k = d k := by
  induction m with
  | nil => rfl
  | cons e rest ih =>
    obtain ⟨i, w⟩ := e
    have h1 : k < i := h (i, w) (by simp)
    have h2 : Above k rest := fun x hx => h x (by simp [hx])
    simp only [Tbl.get]
    split
    · omega
    · exact ih h2

section canonical
variable [DecidableEq α]

/-- The canonical form, entry by entry. -/
theorem wf_cons {d : Nat → α} {k : Nat} {v : α} {rest : List (Nat × α)} :
    Tbl.wf d ((k, v) :: rest) = true ↔ v ≠ d k ∧ Above k rest ∧ Tbl.wf d rest = true := by
  simp [Tbl.wf, Above, and_assoc]

@[simp] theorem wf_nil (d : Nat → α) : Tbl.wf d [] = true := rfl

omit [DecidableEq α] in
theorem above_erase {m : List (Nat × α)} {k j : Nat} (h : Above k m) : Above k (Tbl.erase m j) := by
  induction m with
  | nil => exact h
  | cons e rest ih =>
    obtain ⟨i, w⟩ := e
    unfold Tbl.erase
    split
    · exact fun x hx => h x (by simp [hx])
    · intro x hx
      rcases List.mem_cons.1 hx with rfl | hx
      · exact h _ (by simp)
      · exact ih (fun y hy => h y (by simp [hy])) x hx

omit [DecidableEq α] in
theorem above_insert {m : List (Nat × α)} {k j : Nat} {v : α} (h : Above k m) (hk : k < j) : Above k (Tbl.insert m j v) := by
  induction m with
  | nil => simp [Tbl.insert, Above, hk]
  | cons e rest ih =>
    obtain ⟨i, w⟩ := e
    have hi : k < i := h (i, w) (by simp)
    have hr : Above k rest := fun x hx => h x (by simp [hx])
    unfold Tbl.insert
    split
    · intro x hx
      rcases List.mem_cons.1 hx with rfl | hx
      · exact hk
      · exact h x hx
    · split
      · intro x hx
        rcases List.mem_cons.1 hx with rfl | hx
        · exact hk
        · exact hr x hx
      · intro x hx
        rcases List.mem_cons.1 hx with rfl | hx
        · exact hi
        · exact ih hr x hx

theorem wf_erase {d : Nat → α} {m : List (Nat × α)} (k : Nat) (h : Tbl.wf d m = true) : Tbl.wf d (Tbl.erase m k) = true := by
  induction m with
  | nil => exact h
  | cons e rest ih =>
    obtain ⟨i, w⟩ := e
    obtain ⟨h1, h2, h3⟩ := wf_cons.1 h
    unfold Tbl.erase
    split
    · exact h3
    · exact wf_cons.2 ⟨h1, above_erase h2, ih h3⟩

theorem wf_insert {d : Nat → α} {m : List (Nat × α)} {k : Nat} {v : α} (hv : v ≠ d k) (h : Tbl.wf d m = true) :
    Tbl.wf d (Tbl.insert m k v) = true := by
  induction m with
  | nil => exact wf_cons.2 ⟨hv, by simp [Above], rfl⟩
  | cons e rest ih =>
    obtain ⟨i, w⟩ := e
    obtain ⟨h1, h2, h3⟩ := wf_cons.1 h
    unfold Tbl.insert
    split
    · rename_i hki
      refine wf_cons.2 ⟨hv, ?_, h⟩
      intro x hx
      rcases List.mem_cons.1 hx with rfl | hx
      · exact hki
      · exact lt_trans hki (h2 x hx)
    · split
      · subst_vars; exact wf_cons.2 ⟨hv, h2, h3⟩
      · exact wf_cons.2 ⟨h1, above_insert h2 (by omega), ih h3⟩

/-- Setting a value keeps the canonical form. -/
theorem wf_set {d : Nat → α} {m : List (Nat × α)} (k : Nat) (v : α) (h : Tbl.wf d m = true) : Tbl.wf d (Tbl.set d m k v) = true := by
  unfold Tbl.set
  split
  · exact wf_erase k h
  · exact wf_insert ‹_› h

omit [DecidableEq α] in
theorem above_filter {m : List (Nat × α)} {k : Nat} (p : Nat × α → Bool) (h : Above k m) : Above k (m.filter p) :=
  fun x hx => h x (List.mem_filter.1 hx).1

/-- Removing entries keeps the canonical form. -/
theorem wf_filter {d : Nat → α} {m : List (Nat × α)} (p : Nat × α → Bool) (h : Tbl.wf d m = true) : Tbl.wf d (m.filter p) = true := by
  induction m with
  | nil => exact h
  | cons e rest ih =>
    obtain ⟨i, w⟩ := e
    obtain ⟨h1, h2, h3⟩ := wf_cons.1 h
    rw [List.filter_cons]
    split
    · exact wf_cons.2 ⟨h1, above_filter p h2, ih h3⟩
    · exact ih h3

/-- A listed value is not the one an unlisted key reads as. -/
theorem wf_listed {d : Nat → α} {m : List (Nat × α)} (h : Tbl.wf d m = true) {e : Nat × α} (he : e ∈ m) : e.2 ≠ d e.1 := by
  induction m with
  | nil => simp at he
  | cons a rest ih =>
    obtain ⟨k, v⟩ := a
    rw [wf_cons] at h
    rcases List.mem_cons.1 he with rfl | he
    · exact h.1
    · exact ih h.2.2 he

/-- A table keeps its canonical form under another default that no entry equals. -/
theorem wf_default {d d' : Nat → α} {m : List (Nat × α)} (h : Tbl.wf d m = true) (hd : ∀ e ∈ m, e.2 ≠ d' e.1) : Tbl.wf d' m = true := by
  induction m with
  | nil => rfl
  | cons e rest ih =>
    obtain ⟨i, w⟩ := e
    obtain ⟨_, h2, h3⟩ := wf_cons.1 h
    exact wf_cons.2 ⟨hd (i, w) (by simp), h2, ih h3 (fun x hx => hd x (by simp [hx]))⟩

theorem get_erase {d : Nat → α} {m : List (Nat × α)} (h : Tbl.wf d m = true) (k j : Nat) :
    Tbl.get d (Tbl.erase m k) j = if j = k then d k else Tbl.get d m j := by
  induction m with
  | nil => simp only [Tbl.erase, Tbl.get]; split <;> simp_all
  | cons e rest ih =>
    obtain ⟨i, w⟩ := e
    obtain ⟨_, h2, h3⟩ := wf_cons.1 h
    unfold Tbl.erase
    split
    · subst_vars
      by_cases hj : j = i
      · subst hj; rw [get_above d h2]; simp
      · simp only [Tbl.get, hj, if_false]
        split
        · omega
        · rfl
    · simp only [Tbl.get, ih h3]
      split <;> split <;> simp_all

/-- Reading after a write: the value written there, the old value elsewhere. -/
theorem get_set {d : Nat → α} {m : List (Nat × α)} (h : Tbl.wf d m = true) (k : Nat) (v : α) (j : Nat) :
    Tbl.get d (Tbl.set d m k v) j = if j = k then v else Tbl.get d m j := by
  unfold Tbl.set
  split
  · rename_i hv; rw [get_erase h, hv]
  · simp

/-- Equal contents are equal tables. -/
theorem tbl_ext {d : Nat → α} {m n : List (Nat × α)} (hm : Tbl.wf d m = true) (hn : Tbl.wf d n = true)
    (h : ∀ k, Tbl.get d m k = Tbl.get d n k) : m = n := by
  induction m generalizing n with
  | nil =>
    cases n with
    | nil => rfl
    | cons e rest =>
      obtain ⟨i, w⟩ := e
      exact absurd (by simpa [Tbl.get] using (h i).symm) (wf_cons.1 hn).1
  | cons e rest ih =>
    obtain ⟨i, w⟩ := e
    obtain ⟨h1, h2, h3⟩ := wf_cons.1 hm
    cases n with
    | nil => exact absurd (by simpa [Tbl.get] using h i) h1
    | cons e' rest' =>
      obtain ⟨i', w'⟩ := e'
      obtain ⟨k1, k2, k3⟩ := wf_cons.1 hn
      have hii : i = i' := by
        rcases lt_trichotomy i i' with hlt | heq | hlt
        · have := h i
          rw [show Tbl.get d ((i, w) :: rest) i = w by simp [Tbl.get],
            get_above d (m := (i', w') :: rest') (by
              intro x hx
              rcases List.mem_cons.1 hx with rfl | hx
              · exact hlt
              · exact lt_trans hlt (k2 x hx))] at this
          exact absurd this h1
        · exact heq
        · have := (h i').symm
          rw [show Tbl.get d ((i', w') :: rest') i' = w' by simp [Tbl.get],
            get_above d (m := (i, w) :: rest) (by
              intro x hx
              rcases List.mem_cons.1 hx with rfl | hx
              · exact hlt
              · exact lt_trans hlt (h2 x hx))] at this
          exact absurd this k1
      subst hii
      have hw : w = w' := by simpa [Tbl.get] using h i
      subst hw
      congr 1
      apply ih h3 k3
      intro k
      by_cases hk : i = k
      · subst hk; rw [get_above d h2, get_above d k2]
      · simpa [Tbl.get, hk] using h k

end canonical

/-! ### Byte memories -/

/-- A write of bytes keeps the canonical form. -/
theorem wf_wrBytes {d : Nat → Byte} (bs : List Byte) : ∀ {m : List (Nat × Byte)} (a : Nat), Tbl.wf d m = true → Tbl.wf d (wrBytes d m a bs) = true := by
  induction bs with
  | nil => exact fun a h => h
  | cons b bs ih => exact fun a h => ih (a + 1) (wf_set a b h)

/-- Reading a byte after a write of bytes: the byte written there, the old byte elsewhere. -/
theorem get_wrBytes {d : Nat → Byte} (bs : List Byte) : ∀ {m : List (Nat × Byte)} (a x : Nat), Tbl.wf d m = true →
    Tbl.get d (wrBytes d m a bs) x = if a ≤ x ∧ x < a + bs.length then bs.getD (x - a) 0 else Tbl.get d m x := by
  induction bs with
  | nil => intro m a x h; simp only [wrBytes, List.length_nil]; split <;> [omega; rfl]
  | cons b bs ih =>
    intro m a x h
    rw [wrBytes, ih (a + 1) x (wf_set a b h), get_set h]
    simp only [List.length_cons]
    by_cases hx : x = a
    · subst hx; simp
    · by_cases hr : a + 1 ≤ x ∧ x < a + 1 + bs.length
      · rw [if_pos hr, if_pos (by omega), show x - a = (x - (a + 1)) + 1 by omega]; simp
      · rw [if_neg hr, if_neg hx, if_neg (by omega)]

/-- Clearing bytes keeps the canonical form. -/
theorem wf_clrBytes {m : List (Nat × Byte)} (a n : Nat) (h : Tbl.wf zeroByte m = true) : Tbl.wf zeroByte (clrBytes m a n) = true := wf_filter _ h

/-! ### Bit fields -/

theorem bitsOf_lt (x lo w : Nat) : bitsOf x lo w < 2 ^ w := Nat.mod_lt _ (Nat.two_pow_pos w)

theorem bitsOf_mul_le (x lo w : Nat) : bitsOf x lo w * 2 ^ lo ≤ x :=
  le_trans (Nat.mul_le_mul_right _ (Nat.mod_le _ _)) (Nat.div_mul_le_self x (2 ^ lo))

/-- The parts of a number around a field. -/
theorem split_field (x lo w : Nat) : x = x % 2 ^ lo + 2 ^ lo * (bitsOf x lo w + 2 ^ w * (x / 2 ^ lo / 2 ^ w)) := by
  have h1 := Nat.mod_add_div x (2 ^ lo)
  have h2 := Nat.mod_add_div (x / 2 ^ lo) (2 ^ w)
  unfold bitsOf
  rw [h2]; exact h1.symm

theorem putBits_eq (x lo w v : Nat) : putBits x lo w v = x % 2 ^ lo + 2 ^ lo * (v % 2 ^ w + 2 ^ w * (x / 2 ^ lo / 2 ^ w)) := by
  have h := split_field x lo w
  have hle := bitsOf_mul_le x lo w
  have e : bitsOf x lo w * 2 ^ lo = 2 ^ lo * bitsOf x lo w := Nat.mul_comm _ _
  have e2 : v % 2 ^ w * 2 ^ lo = 2 ^ lo * (v % 2 ^ w) := Nat.mul_comm _ _
  rw [Nat.mul_add] at h ⊢
  unfold putBits
  omega

/-- A field written reads back. -/
@[simp] theorem bitsOf_putBits_same (x lo w v : Nat) : bitsOf (putBits x lo w v) lo w = v % 2 ^ w := by
  rw [putBits_eq]
  unfold bitsOf
  have p := Nat.two_pow_pos lo
  rw [Nat.add_mul_div_left _ _ p, Nat.div_eq_of_lt (Nat.mod_lt _ p), Nat.zero_add, Nat.add_mul_mod_self_left,
    Nat.mod_mod]

/-- Another field of the word keeps its value. -/
theorem bitsOf_putBits_apart (x lo w v lo' w' : Nat) (h : lo + w ≤ lo' ∨ lo' + w' ≤ lo) :
    bitsOf (putBits x lo w v) lo' w' = bitsOf x lo' w' := by
  rcases h with h | h
  · have key : putBits x lo w v / 2 ^ (lo + w) = x / 2 ^ (lo + w) := by
      rw [putBits_eq, pow_add, ← Nat.div_div_eq_div_mul, ← Nat.div_div_eq_div_mul]
      have p := Nat.two_pow_pos lo
      have q := Nat.two_pow_pos w
      rw [Nat.add_mul_div_left _ _ p, Nat.div_eq_of_lt (Nat.mod_lt _ p), Nat.zero_add, Nat.add_mul_div_left _ _ q,
        Nat.div_eq_of_lt (Nat.mod_lt _ q), Nat.zero_add]
    unfold bitsOf
    obtain ⟨k, rfl⟩ := Nat.exists_eq_add_of_le h
    rw [pow_add 2 (lo + w) k, ← Nat.div_div_eq_div_mul, ← Nat.div_div_eq_div_mul, key]
  · have key : putBits x lo w v % 2 ^ lo = x % 2 ^ lo := by
      rw [putBits_eq, Nat.add_mul_mod_self_left, Nat.mod_mod]
    unfold bitsOf
    rw [← Nat.mod_mul_right_div_self, ← Nat.mod_mul_right_div_self, ← pow_add]
    rw [show (putBits x lo w v) % 2 ^ (lo' + w') = x % 2 ^ (lo' + w') from by
      have hd : 2 ^ (lo' + w') ∣ 2 ^ lo := pow_dvd_pow 2 h
      rw [← Nat.mod_mod_of_dvd _ hd, key, Nat.mod_mod_of_dvd _ hd]]

theorem putBits_lt {x lo w v n : Nat} (hx : x < 2 ^ n) (h : lo + w ≤ n) : putBits x lo w v < 2 ^ n := by
  have p := Nat.two_pow_pos lo
  have q := Nat.two_pow_pos w
  have hr := Nat.two_pow_pos (lo + w)
  rw [putBits_eq, Nat.div_div_eq_div_mul, ← pow_add]
  have h1 : x / 2 ^ (lo + w) < 2 ^ (n - (lo + w)) := by
    rw [Nat.div_lt_iff_lt_mul hr, ← pow_add]; rwa [show n - (lo + w) + (lo + w) = n by omega]
  have h2 : x % 2 ^ lo + 2 ^ lo * (v % 2 ^ w) < 2 ^ (lo + w) := by
    have a := Nat.mod_lt x p
    have b : v % 2 ^ w + 1 ≤ 2 ^ w := Nat.mod_lt v q
    have := Nat.mul_le_mul_left (2 ^ lo) b
    rw [pow_add]; rw [Nat.mul_add, Nat.mul_one] at this; omega
  have h3 := Nat.mul_le_mul_left (2 ^ (lo + w)) (Nat.succ_le_of_lt h1)
  rw [← pow_add, show lo + w + (n - (lo + w)) = n by omega, Nat.mul_succ] at h3
  have e : 2 ^ lo * (v % 2 ^ w + 2 ^ w * (x / 2 ^ (lo + w))) = 2 ^ lo * (v % 2 ^ w) + 2 ^ (lo + w) * (x / 2 ^ (lo + w)) := by
    rw [Nat.mul_add, ← Nat.mul_assoc, ← pow_add]
  rw [e]; omega

end Sys2Proof.Laws
end

