-- ==== Sys2Proof/Laws/State.lean ====
section
/-!
SUPPORT. One lemma per field per update of the state: an update of one part leaves every other part alone; reading a part after writing it.
-/
namespace Sys2Proof.Laws

open Sys2Proof.Machine

variable (c : Core)

/-! ### Updates in terms of the basic ones -/

@[simp] theorem setOn_eq (x : Fld) (b : Bool) : c.setOn x b = c.put x (b2n b) := rfl
@[simp] theorem putS_eq (x : Fld) (v : Int) : c.putS x v = c.put x (twos x.w v) := rfl
@[simp] theorem inc_eq (x : Fld) (n : Nat) : c.inc x n = c.put x (satAdd (2 ^ x.w - 1) (c.get x) n) := rfl
@[simp] theorem enter_eq (r : RunState) : c.enter r = c.put Fd.CHP_RUN_STS_STATE r.code := rfl
@[simp] theorem hbmGo_eq (h : HbmSt) : c.hbmGo h = c.put Fd.HBM_STS_STATE h.code := rfl
@[simp] theorem on_eq (x : Fld) : c.on x = (c.get x != 0) := rfl
@[simp] theorem runIs_eq (r : RunState) : c.runIs r = (c.get Fd.CHP_RUN_STS_STATE == r.code) := rfl
@[simp] theorem hbmIs_eq (h : HbmSt) : c.hbmIs h = (c.get Fd.HBM_STS_STATE == h.code) := rfl
@[simp] theorem refuse_eq (n : Nat) (st : Sts) : c.refuse n st = c.complete n st 0 0 := rfl
@[simp] theorem modCell_eq (k : Nat) (f : Cell → Cell) : c.modCell k f = c.setCell k (f (c.cell k)) := rfl
@[simp] theorem modBlk_eq (k : Nat) (f : Blk → Blk) : c.modBlk k f = c.setBlk k (f (c.blk k)) := rfl
@[simp] theorem modRgn_eq (k : Nat) (f : Rgn → Rgn) : c.modRgn k f = c.setRgn k (f (c.rgn k)) := rfl
@[simp] theorem modLane_eq (k : Nat) (f : Lane → Lane) : c.modLane k f = c.setLane k (f (c.lane k)) := rfl
@[simp] theorem modDac_eq (k : Nat) (f : OutSt → OutSt) : c.modDac k f = c.setDac k (f (c.dac k)) := rfl
@[simp] theorem modBb_eq (k : Nat) (f : OutSt → OutSt) : c.modBb k f = c.setBb k (f (c.bb k)) := rfl
@[simp] theorem modVec_eq (k : Nat) (f : VecSt → VecSt) : c.modVec k f = c.setVec k (f (c.vec k)) := rfl
@[simp] theorem modAdc_eq (k : Nat) (f : AdcSt → AdcSt) : c.modAdc k f = c.setAdc k (f (c.adc k)) := rfl
@[simp] theorem modAcq_eq (k : Nat) (f : Acq → Acq) : c.modAcq k f = c.setAcq k (f (c.acq k)) := rfl
@[simp] theorem modBook_eq (k : Nat) (f : Book → Book) : c.modBook k f = c.setBook k (f (c.book k)) := rfl
@[simp] theorem modArb_eq (k : Nat) (f : ArbSt → ArbSt) : c.modArb k f = c.setArb k (f (c.arb k)) := rfl
@[simp] theorem modPort_eq (k : Nat) (f : Port → Port) : c.modPort k f = c.setPort k (f (c.port k)) := rfl

/-! ### Registers -/

/-- Two fields that share no bit: of different registers, or of different bits of one. -/
def apart (x y : Fld) : Prop := x.off ≠ y.off ∨ x.lo + x.w ≤ y.lo ∨ y.lo + y.w ≤ x.lo

theorem word_mod (n : Nat) (h : n < 2 ^ 32) : (BitVec.ofNat 32 n).toNat = n := by simp only [BitVec.toNat_ofNat]; exact Nat.mod_eq_of_lt h

theorem putIn_toNat (t : List (Nat × Word)) (x : Fld) (v o : Nat) (hx : x.lo + x.w ≤ 32) :
    (Tbl.get regDef (putIn t x v) o).toNat = if o = x.off then putBits (Tbl.get regDef t x.off).toNat x.lo x.w v else (Tbl.get regDef t o).toNat := by
  unfold putIn
  rw [get_insert]
  split
  · exact word_mod _ (putBits_lt (Tbl.get regDef t x.off).isLt hx)
  · rfl

/-- A field written by the hardware reads as written. -/
theorem get_put_same (x : Fld) (v : Nat) (hx : x.lo + x.w ≤ 32) : (c.put x v).get x = v % 2 ^ x.w := by
  have key : ∀ t : List (Nat × Word), bitsOf (Tbl.get regDef (putIn t x v) x.off).toNat x.lo x.w = v % 2 ^ x.w := by
    intro t; rw [putIn_toNat t x v x.off hx, if_pos rfl, bitsOf_putBits_same]
  unfold Core.put Core.get
  cases x.acc <;> exact key _

/-- A field that shares no bit with the written one keeps its value. -/
theorem get_put_apart (x y : Fld) (v : Nat) (hx : x.lo + x.w ≤ 32) (h : apart x y) : (c.put x v).get y = c.get y := by
  have key : ∀ t : List (Nat × Word), bitsOf (Tbl.get regDef (putIn t x v) y.off).toNat y.lo y.w = bitsOf (Tbl.get regDef t y.off).toNat y.lo y.w := by
    intro t
    rw [putIn_toNat t x v y.off hx]
    split
    · rename_i e
      rw [e]
      rcases h with h | h
      · exact absurd e.symm h
      · exact bitsOf_putBits_apart _ _ _ _ _ _ h
    · rfl
  unfold Core.put Core.get
  cases x.acc <;> cases y.acc <;> first | exact key _ | rfl

theorem get_lt (x : Fld) : c.get x < 2 ^ x.w := by
  unfold Core.get
  cases x.acc <;> exact bitsOf_lt _ _ _

/-- A write of a field of another register leaves a whole word alone. -/
theorem liveW_put (x : Fld) (v o : Nat) (h : o ≠ x.off) : (c.put x v).liveW o = c.liveW o := by
  unfold Core.put Core.liveW
  cases x.acc <;> simp [putIn, h]

/-! ### Reading a part after writing it -/

@[simp] theorem cell_setCell (k j : Nat) (x : Cell) : (c.setCell k x).cell j = if j = k then x else c.cell j := get_insert _ _ _ _ _
@[simp] theorem blk_setBlk (k j : Nat) (x : Blk) : (c.setBlk k x).blk j = if j = k then x else c.blk j := get_insert _ _ _ _ _
@[simp] theorem rgn_setRgn (k j : Nat) (x : Rgn) : (c.setRgn k x).rgn j = if j = k then x else c.rgn j := get_insert _ _ _ _ _
@[simp] theorem lane_setLane (k j : Nat) (x : Lane) : (c.setLane k x).lane j = if j = k then x else c.lane j := get_insert _ _ _ _ _
@[simp] theorem dac_setDac (k j : Nat) (x : OutSt) : (c.setDac k x).dac j = if j = k then x else c.dac j := get_insert _ _ _ _ _
@[simp] theorem bb_setBb (k j : Nat) (x : OutSt) : (c.setBb k x).bb j = if j = k then x else c.bb j := get_insert _ _ _ _ _
@[simp] theorem vec_setVec (k j : Nat) (x : VecSt) : (c.setVec k x).vec j = if j = k then x else c.vec j := get_insert _ _ _ _ _
@[simp] theorem adc_setAdc (k j : Nat) (x : AdcSt) : (c.setAdc k x).adc j = if j = k then x else c.adc j := get_insert _ _ _ _ _
@[simp] theorem acq_setAcq (k j : Nat) (x : Acq) : (c.setAcq k x).acq j = if j = k then x else c.acq j := get_insert _ _ _ _ _
@[simp] theorem book_setBook (k j : Nat) (x : Book) : (c.setBook k x).book j = if j = k then x else c.book j := get_insert _ _ _ _ _
@[simp] theorem arb_setArb (k j : Nat) (x : ArbSt) : (c.setArb k x).arb j = if j = k then x else c.arb j := get_insert _ _ _ _ _
@[simp] theorem port_setPort (k j : Nat) (x : Port) : (c.setPort k x).port j = if j = k then x else c.port j := get_insert _ _ _ _ _
@[simp] theorem ring_modRing (n j : Nat) (f : Ring → Ring) : (c.modRing n f).ring j = if j = n then f (c.ring n) else c.ring j := get_insert _ _ _ _ _
@[simp] theorem pc_modPc (n j : Nat) (f : Pc → Pc) : (c.modPc n f).pc j = if j = n then f (c.pc n) else c.pc j := get_insert _ _ _ _ _

/-! ### Other parts -/

@[simp] theorem put_now_eq (x : Fld) (v : Nat) : (c.put x v).now = c.now := by unfold Core.put; split <;> rfl
@[simp] theorem put_running_eq (x : Fld) (v : Nat) : (c.put x v).running = c.running := by unfold Core.put; split <;> rfl
@[simp] theorem put_freeCtr_eq (x : Fld) (v : Nat) : (c.put x v).freeCtr = c.freeCtr := by unfold Core.put; split <;> rfl
@[simp] theorem put_shd_eq (x : Fld) (v : Nat) : (c.put x v).shd = c.shd := by unfold Core.put; split <;> rfl
@[simp] theorem put_cells_eq (x : Fld) (v : Nat) : (c.put x v).cells = c.cells := by unfold Core.put; split <;> rfl
@[simp] theorem put_blks_eq (x : Fld) (v : Nat) : (c.put x v).blks = c.blks := by unfold Core.put; split <;> rfl
@[simp] theorem put_rgns_eq (x : Fld) (v : Nat) : (c.put x v).rgns = c.rgns := by unfold Core.put; split <;> rfl
@[simp] theorem put_lanes_eq (x : Fld) (v : Nat) : (c.put x v).lanes = c.lanes := by unfold Core.put; split <;> rfl
@[simp] theorem put_dacs_eq (x : Fld) (v : Nat) : (c.put x v).dacs = c.dacs := by unfold Core.put; split <;> rfl
@[simp] theorem put_bbs_eq (x : Fld) (v : Nat) : (c.put x v).bbs = c.bbs := by unfold Core.put; split <;> rfl
@[simp] theorem put_vecs_eq (x : Fld) (v : Nat) : (c.put x v).vecs = c.vecs := by unfold Core.put; split <;> rfl
@[simp] theorem put_adcs_eq (x : Fld) (v : Nat) : (c.put x v).adcs = c.adcs := by unfold Core.put; split <;> rfl
@[simp] theorem put_acqs_eq (x : Fld) (v : Nat) : (c.put x v).acqs = c.acqs := by unfold Core.put; split <;> rfl
@[simp] theorem put_books_eq (x : Fld) (v : Nat) : (c.put x v).books = c.books := by unfold Core.put; split <;> rfl
@[simp] theorem put_bus_eq (x : Fld) (v : Nat) : (c.put x v).bus = c.bus := by unfold Core.put; split <;> rfl
@[simp] theorem put_busSeq_eq (x : Fld) (v : Nat) : (c.put x v).busSeq = c.busSeq := by unfold Core.put; split <;> rfl
@[simp] theorem put_occOld_eq (x : Fld) (v : Nat) : (c.put x v).occOld = c.occOld := by unfold Core.put; split <;> rfl
@[simp] theorem put_srcs_eq (x : Fld) (v : Nat) : (c.put x v).srcs = c.srcs := by unfold Core.put; split <;> rfl
@[simp] theorem put_root_eq (x : Fld) (v : Nat) : (c.put x v).root = c.root := by unfold Core.put; split <;> rfl
@[simp] theorem put_ser_eq (x : Fld) (v : Nat) : (c.put x v).ser = c.ser := by unfold Core.put; split <;> rfl
@[simp] theorem put_host_eq (x : Fld) (v : Nat) : (c.put x v).host = c.host := by unfold Core.put; split <;> rfl
@[simp] theorem put_hbmc_eq (x : Fld) (v : Nat) : (c.put x v).hbmc = c.hbmc := by unfold Core.put; split <;> rfl
@[simp] theorem put_arbs_eq (x : Fld) (v : Nat) : (c.put x v).arbs = c.arbs := by unfold Core.put; split <;> rfl
@[simp] theorem put_ports_eq (x : Fld) (v : Nat) : (c.put x v).ports = c.ports := by unfold Core.put; split <;> rfl
@[simp] theorem put_mon_eq (x : Fld) (v : Nat) : (c.put x v).mon = c.mon := by unfold Core.put; split <;> rfl
@[simp] theorem put_tpt_eq (x : Fld) (v : Nat) : (c.put x v).tpt = c.tpt := by unfold Core.put; split <;> rfl
@[simp] theorem put_cal_eq (x : Fld) (v : Nat) : (c.put x v).cal = c.cal := by unfold Core.put; split <;> rfl
@[simp] theorem put_thm_eq (x : Fld) (v : Nat) : (c.put x v).thm = c.thm := by unfold Core.put; split <;> rfl
@[simp] theorem put_pins_eq (x : Fld) (v : Nat) : (c.put x v).pins = c.pins := by unfold Core.put; split <;> rfl
@[simp] theorem put_boot_eq (x : Fld) (v : Nat) : (c.put x v).boot = c.boot := by unfold Core.put; split <;> rfl
@[simp] theorem put_cell_at (x : Fld) (v : Nat) (j : Nat) : (c.put x v).cell j = c.cell j := by simp [Core.cell]
@[simp] theorem put_blk_at (x : Fld) (v : Nat) (j : Nat) : (c.put x v).blk j = c.blk j := by simp [Core.blk]
@[simp] theorem put_rgn_at (x : Fld) (v : Nat) (j : Nat) : (c.put x v).rgn j = c.rgn j := by simp [Core.rgn]
@[simp] theorem put_lane_at (x : Fld) (v : Nat) (j : Nat) : (c.put x v).lane j = c.lane j := by simp [Core.lane]
@[simp] theorem put_dac_at (x : Fld) (v : Nat) (j : Nat) : (c.put x v).dac j = c.dac j := by simp [Core.dac]
@[simp] theorem put_bb_at (x : Fld) (v : Nat) (j : Nat) : (c.put x v).bb j = c.bb j := by simp [Core.bb]
@[simp] theorem put_vec_at (x : Fld) (v : Nat) (j : Nat) : (c.put x v).vec j = c.vec j := by simp [Core.vec]
@[simp] theorem put_adc_at (x : Fld) (v : Nat) (j : Nat) : (c.put x v).adc j = c.adc j := by simp [Core.adc]
@[simp] theorem put_acq_at (x : Fld) (v : Nat) (j : Nat) : (c.put x v).acq j = c.acq j := by simp [Core.acq]
@[simp] theorem put_book_at (x : Fld) (v : Nat) (j : Nat) : (c.put x v).book j = c.book j := by simp [Core.book]
@[simp] theorem put_arb_at (x : Fld) (v : Nat) (j : Nat) : (c.put x v).arb j = c.arb j := by simp [Core.arb]
@[simp] theorem put_port_at (x : Fld) (v : Nat) (j : Nat) : (c.put x v).port j = c.port j := by simp [Core.port]
@[simp] theorem put_ring_at (x : Fld) (v : Nat) (j : Nat) : (c.put x v).ring j = c.ring j := by simp [Core.ring]
@[simp] theorem put_pc_at (x : Fld) (v : Nat) (j : Nat) : (c.put x v).pc j = c.pc j := by simp [Core.pc]
@[simp] theorem stick_now_eq (x : Fld) (b : Bool) : (c.stick x b).now = c.now := by unfold Core.stick; split <;> simp
@[simp] theorem stick_running_eq (x : Fld) (b : Bool) : (c.stick x b).running = c.running := by unfold Core.stick; split <;> simp
@[simp] theorem stick_freeCtr_eq (x : Fld) (b : Bool) : (c.stick x b).freeCtr = c.freeCtr := by unfold Core.stick; split <;> simp
@[simp] theorem stick_shd_eq (x : Fld) (b : Bool) : (c.stick x b).shd = c.shd := by unfold Core.stick; split <;> simp
@[simp] theorem stick_cells_eq (x : Fld) (b : Bool) : (c.stick x b).cells = c.cells := by unfold Core.stick; split <;> simp
@[simp] theorem stick_blks_eq (x : Fld) (b : Bool) : (c.stick x b).blks = c.blks := by unfold Core.stick; split <;> simp
@[simp] theorem stick_rgns_eq (x : Fld) (b : Bool) : (c.stick x b).rgns = c.rgns := by unfold Core.stick; split <;> simp
@[simp] theorem stick_lanes_eq (x : Fld) (b : Bool) : (c.stick x b).lanes = c.lanes := by unfold Core.stick; split <;> simp
@[simp] theorem stick_dacs_eq (x : Fld) (b : Bool) : (c.stick x b).dacs = c.dacs := by unfold Core.stick; split <;> simp
@[simp] theorem stick_bbs_eq (x : Fld) (b : Bool) : (c.stick x b).bbs = c.bbs := by unfold Core.stick; split <;> simp
@[simp] theorem stick_vecs_eq (x : Fld) (b : Bool) : (c.stick x b).vecs = c.vecs := by unfold Core.stick; split <;> simp
@[simp] theorem stick_adcs_eq (x : Fld) (b : Bool) : (c.stick x b).adcs = c.adcs := by unfold Core.stick; split <;> simp
@[simp] theorem stick_acqs_eq (x : Fld) (b : Bool) : (c.stick x b).acqs = c.acqs := by unfold Core.stick; split <;> simp
@[simp] theorem stick_books_eq (x : Fld) (b : Bool) : (c.stick x b).books = c.books := by unfold Core.stick; split <;> simp
@[simp] theorem stick_bus_eq (x : Fld) (b : Bool) : (c.stick x b).bus = c.bus := by unfold Core.stick; split <;> simp
@[simp] theorem stick_busSeq_eq (x : Fld) (b : Bool) : (c.stick x b).busSeq = c.busSeq := by unfold Core.stick; split <;> simp
@[simp] theorem stick_occOld_eq (x : Fld) (b : Bool) : (c.stick x b).occOld = c.occOld := by unfold Core.stick; split <;> simp
@[simp] theorem stick_srcs_eq (x : Fld) (b : Bool) : (c.stick x b).srcs = c.srcs := by unfold Core.stick; split <;> simp
@[simp] theorem stick_root_eq (x : Fld) (b : Bool) : (c.stick x b).root = c.root := by unfold Core.stick; split <;> simp
@[simp] theorem stick_ser_eq (x : Fld) (b : Bool) : (c.stick x b).ser = c.ser := by unfold Core.stick; split <;> simp
@[simp] theorem stick_host_eq (x : Fld) (b : Bool) : (c.stick x b).host = c.host := by unfold Core.stick; split <;> simp
@[simp] theorem stick_hbmc_eq (x : Fld) (b : Bool) : (c.stick x b).hbmc = c.hbmc := by unfold Core.stick; split <;> simp
@[simp] theorem stick_arbs_eq (x : Fld) (b : Bool) : (c.stick x b).arbs = c.arbs := by unfold Core.stick; split <;> simp
@[simp] theorem stick_ports_eq (x : Fld) (b : Bool) : (c.stick x b).ports = c.ports := by unfold Core.stick; split <;> simp
@[simp] theorem stick_mon_eq (x : Fld) (b : Bool) : (c.stick x b).mon = c.mon := by unfold Core.stick; split <;> simp
@[simp] theorem stick_tpt_eq (x : Fld) (b : Bool) : (c.stick x b).tpt = c.tpt := by unfold Core.stick; split <;> simp
@[simp] theorem stick_cal_eq (x : Fld) (b : Bool) : (c.stick x b).cal = c.cal := by unfold Core.stick; split <;> simp
@[simp] theorem stick_thm_eq (x : Fld) (b : Bool) : (c.stick x b).thm = c.thm := by unfold Core.stick; split <;> simp
@[simp] theorem stick_pins_eq (x : Fld) (b : Bool) : (c.stick x b).pins = c.pins := by unfold Core.stick; split <;> simp
@[simp] theorem stick_boot_eq (x : Fld) (b : Bool) : (c.stick x b).boot = c.boot := by unfold Core.stick; split <;> simp
@[simp] theorem stick_cell_at (x : Fld) (b : Bool) (j : Nat) : (c.stick x b).cell j = c.cell j := by simp [Core.cell]
@[simp] theorem stick_blk_at (x : Fld) (b : Bool) (j : Nat) : (c.stick x b).blk j = c.blk j := by simp [Core.blk]
@[simp] theorem stick_rgn_at (x : Fld) (b : Bool) (j : Nat) : (c.stick x b).rgn j = c.rgn j := by simp [Core.rgn]
@[simp] theorem stick_lane_at (x : Fld) (b : Bool) (j : Nat) : (c.stick x b).lane j = c.lane j := by simp [Core.lane]
@[simp] theorem stick_dac_at (x : Fld) (b : Bool) (j : Nat) : (c.stick x b).dac j = c.dac j := by simp [Core.dac]
@[simp] theorem stick_bb_at (x : Fld) (b : Bool) (j : Nat) : (c.stick x b).bb j = c.bb j := by simp [Core.bb]
@[simp] theorem stick_vec_at (x : Fld) (b : Bool) (j : Nat) : (c.stick x b).vec j = c.vec j := by simp [Core.vec]
@[simp] theorem stick_adc_at (x : Fld) (b : Bool) (j : Nat) : (c.stick x b).adc j = c.adc j := by simp [Core.adc]
@[simp] theorem stick_acq_at (x : Fld) (b : Bool) (j : Nat) : (c.stick x b).acq j = c.acq j := by simp [Core.acq]
@[simp] theorem stick_book_at (x : Fld) (b : Bool) (j : Nat) : (c.stick x b).book j = c.book j := by simp [Core.book]
@[simp] theorem stick_arb_at (x : Fld) (b : Bool) (j : Nat) : (c.stick x b).arb j = c.arb j := by simp [Core.arb]
@[simp] theorem stick_port_at (x : Fld) (b : Bool) (j : Nat) : (c.stick x b).port j = c.port j := by simp [Core.port]
@[simp] theorem stick_ring_at (x : Fld) (b : Bool) (j : Nat) : (c.stick x b).ring j = c.ring j := by simp [Core.ring]
@[simp] theorem stick_pc_at (x : Fld) (b : Bool) (j : Nat) : (c.stick x b).pc j = c.pc j := by simp [Core.pc]
@[simp] theorem setLiveW_now_eq (o v : Nat) : (c.setLiveW o v).now = c.now := rfl
@[simp] theorem setLiveW_running_eq (o v : Nat) : (c.setLiveW o v).running = c.running := rfl
@[simp] theorem setLiveW_freeCtr_eq (o v : Nat) : (c.setLiveW o v).freeCtr = c.freeCtr := rfl
@[simp] theorem setLiveW_act_eq (o v : Nat) : (c.setLiveW o v).act = c.act := rfl
@[simp] theorem setLiveW_shd_eq (o v : Nat) : (c.setLiveW o v).shd = c.shd := rfl
@[simp] theorem setLiveW_cells_eq (o v : Nat) : (c.setLiveW o v).cells = c.cells := rfl
@[simp] theorem setLiveW_blks_eq (o v : Nat) : (c.setLiveW o v).blks = c.blks := rfl
@[simp] theorem setLiveW_rgns_eq (o v : Nat) : (c.setLiveW o v).rgns = c.rgns := rfl
@[simp] theorem setLiveW_lanes_eq (o v : Nat) : (c.setLiveW o v).lanes = c.lanes := rfl
@[simp] theorem setLiveW_dacs_eq (o v : Nat) : (c.setLiveW o v).dacs = c.dacs := rfl
@[simp] theorem setLiveW_bbs_eq (o v : Nat) : (c.setLiveW o v).bbs = c.bbs := rfl
@[simp] theorem setLiveW_vecs_eq (o v : Nat) : (c.setLiveW o v).vecs = c.vecs := rfl
@[simp] theorem setLiveW_adcs_eq (o v : Nat) : (c.setLiveW o v).adcs = c.adcs := rfl
@[simp] theorem setLiveW_acqs_eq (o v : Nat) : (c.setLiveW o v).acqs = c.acqs := rfl
@[simp] theorem setLiveW_books_eq (o v : Nat) : (c.setLiveW o v).books = c.books := rfl
@[simp] theorem setLiveW_bus_eq (o v : Nat) : (c.setLiveW o v).bus = c.bus := rfl
@[simp] theorem setLiveW_busSeq_eq (o v : Nat) : (c.setLiveW o v).busSeq = c.busSeq := rfl
@[simp] theorem setLiveW_occOld_eq (o v : Nat) : (c.setLiveW o v).occOld = c.occOld := rfl
@[simp] theorem setLiveW_srcs_eq (o v : Nat) : (c.setLiveW o v).srcs = c.srcs := rfl
@[simp] theorem setLiveW_root_eq (o v : Nat) : (c.setLiveW o v).root = c.root := rfl
@[simp] theorem setLiveW_ser_eq (o v : Nat) : (c.setLiveW o v).ser = c.ser := rfl
@[simp] theorem setLiveW_host_eq (o v : Nat) : (c.setLiveW o v).host = c.host := rfl
@[simp] theorem setLiveW_hbmc_eq (o v : Nat) : (c.setLiveW o v).hbmc = c.hbmc := rfl
@[simp] theorem setLiveW_arbs_eq (o v : Nat) : (c.setLiveW o v).arbs = c.arbs := rfl
@[simp] theorem setLiveW_ports_eq (o v : Nat) : (c.setLiveW o v).ports = c.ports := rfl
@[simp] theorem setLiveW_mon_eq (o v : Nat) : (c.setLiveW o v).mon = c.mon := rfl
@[simp] theorem setLiveW_tpt_eq (o v : Nat) : (c.setLiveW o v).tpt = c.tpt := rfl
@[simp] theorem setLiveW_cal_eq (o v : Nat) : (c.setLiveW o v).cal = c.cal := rfl
@[simp] theorem setLiveW_thm_eq (o v : Nat) : (c.setLiveW o v).thm = c.thm := rfl
@[simp] theorem setLiveW_pins_eq (o v : Nat) : (c.setLiveW o v).pins = c.pins := rfl
@[simp] theorem setLiveW_boot_eq (o v : Nat) : (c.setLiveW o v).boot = c.boot := rfl
@[simp] theorem setLiveW_cell_at (o v : Nat) (j : Nat) : (c.setLiveW o v).cell j = c.cell j := by simp [Core.cell]
@[simp] theorem setLiveW_blk_at (o v : Nat) (j : Nat) : (c.setLiveW o v).blk j = c.blk j := by simp [Core.blk]
@[simp] theorem setLiveW_rgn_at (o v : Nat) (j : Nat) : (c.setLiveW o v).rgn j = c.rgn j := by simp [Core.rgn]
@[simp] theorem setLiveW_lane_at (o v : Nat) (j : Nat) : (c.setLiveW o v).lane j = c.lane j := by simp [Core.lane]
@[simp] theorem setLiveW_dac_at (o v : Nat) (j : Nat) : (c.setLiveW o v).dac j = c.dac j := by simp [Core.dac]
@[simp] theorem setLiveW_bb_at (o v : Nat) (j : Nat) : (c.setLiveW o v).bb j = c.bb j := by simp [Core.bb]
@[simp] theorem setLiveW_vec_at (o v : Nat) (j : Nat) : (c.setLiveW o v).vec j = c.vec j := by simp [Core.vec]
@[simp] theorem setLiveW_adc_at (o v : Nat) (j : Nat) : (c.setLiveW o v).adc j = c.adc j := by simp [Core.adc]
@[simp] theorem setLiveW_acq_at (o v : Nat) (j : Nat) : (c.setLiveW o v).acq j = c.acq j := by simp [Core.acq]
@[simp] theorem setLiveW_book_at (o v : Nat) (j : Nat) : (c.setLiveW o v).book j = c.book j := by simp [Core.book]
@[simp] theorem setLiveW_arb_at (o v : Nat) (j : Nat) : (c.setLiveW o v).arb j = c.arb j := by simp [Core.arb]
@[simp] theorem setLiveW_port_at (o v : Nat) (j : Nat) : (c.setLiveW o v).port j = c.port j := by simp [Core.port]
@[simp] theorem setLiveW_ring_at (o v : Nat) (j : Nat) : (c.setLiveW o v).ring j = c.ring j := by simp [Core.ring]
@[simp] theorem setLiveW_pc_at (o v : Nat) (j : Nat) : (c.setLiveW o v).pc j = c.pc j := by simp [Core.pc]
@[simp] theorem setShdW_now_eq (o v : Nat) : (c.setShdW o v).now = c.now := rfl
@[simp] theorem setShdW_running_eq (o v : Nat) : (c.setShdW o v).running = c.running := rfl
@[simp] theorem setShdW_freeCtr_eq (o v : Nat) : (c.setShdW o v).freeCtr = c.freeCtr := rfl
@[simp] theorem setShdW_live_eq (o v : Nat) : (c.setShdW o v).live = c.live := rfl
@[simp] theorem setShdW_act_eq (o v : Nat) : (c.setShdW o v).act = c.act := rfl
@[simp] theorem setShdW_cells_eq (o v : Nat) : (c.setShdW o v).cells = c.cells := rfl
@[simp] theorem setShdW_blks_eq (o v : Nat) : (c.setShdW o v).blks = c.blks := rfl
@[simp] theorem setShdW_rgns_eq (o v : Nat) : (c.setShdW o v).rgns = c.rgns := rfl
@[simp] theorem setShdW_lanes_eq (o v : Nat) : (c.setShdW o v).lanes = c.lanes := rfl
@[simp] theorem setShdW_dacs_eq (o v : Nat) : (c.setShdW o v).dacs = c.dacs := rfl
@[simp] theorem setShdW_bbs_eq (o v : Nat) : (c.setShdW o v).bbs = c.bbs := rfl
@[simp] theorem setShdW_vecs_eq (o v : Nat) : (c.setShdW o v).vecs = c.vecs := rfl
@[simp] theorem setShdW_adcs_eq (o v : Nat) : (c.setShdW o v).adcs = c.adcs := rfl
@[simp] theorem setShdW_acqs_eq (o v : Nat) : (c.setShdW o v).acqs = c.acqs := rfl
@[simp] theorem setShdW_books_eq (o v : Nat) : (c.setShdW o v).books = c.books := rfl
@[simp] theorem setShdW_bus_eq (o v : Nat) : (c.setShdW o v).bus = c.bus := rfl
@[simp] theorem setShdW_busSeq_eq (o v : Nat) : (c.setShdW o v).busSeq = c.busSeq := rfl
@[simp] theorem setShdW_occOld_eq (o v : Nat) : (c.setShdW o v).occOld = c.occOld := rfl
@[simp] theorem setShdW_srcs_eq (o v : Nat) : (c.setShdW o v).srcs = c.srcs := rfl
@[simp] theorem setShdW_root_eq (o v : Nat) : (c.setShdW o v).root = c.root := rfl
@[simp] theorem setShdW_ser_eq (o v : Nat) : (c.setShdW o v).ser = c.ser := rfl
@[simp] theorem setShdW_host_eq (o v : Nat) : (c.setShdW o v).host = c.host := rfl
@[simp] theorem setShdW_hbmc_eq (o v : Nat) : (c.setShdW o v).hbmc = c.hbmc := rfl
@[simp] theorem setShdW_arbs_eq (o v : Nat) : (c.setShdW o v).arbs = c.arbs := rfl
@[simp] theorem setShdW_ports_eq (o v : Nat) : (c.setShdW o v).ports = c.ports := rfl
@[simp] theorem setShdW_mon_eq (o v : Nat) : (c.setShdW o v).mon = c.mon := rfl
@[simp] theorem setShdW_tpt_eq (o v : Nat) : (c.setShdW o v).tpt = c.tpt := rfl
@[simp] theorem setShdW_cal_eq (o v : Nat) : (c.setShdW o v).cal = c.cal := rfl
@[simp] theorem setShdW_thm_eq (o v : Nat) : (c.setShdW o v).thm = c.thm := rfl
@[simp] theorem setShdW_pins_eq (o v : Nat) : (c.setShdW o v).pins = c.pins := rfl
@[simp] theorem setShdW_boot_eq (o v : Nat) : (c.setShdW o v).boot = c.boot := rfl
@[simp] theorem setShdW_cell_at (o v : Nat) (j : Nat) : (c.setShdW o v).cell j = c.cell j := by simp [Core.cell]
@[simp] theorem setShdW_blk_at (o v : Nat) (j : Nat) : (c.setShdW o v).blk j = c.blk j := by simp [Core.blk]
@[simp] theorem setShdW_rgn_at (o v : Nat) (j : Nat) : (c.setShdW o v).rgn j = c.rgn j := by simp [Core.rgn]
@[simp] theorem setShdW_lane_at (o v : Nat) (j : Nat) : (c.setShdW o v).lane j = c.lane j := by simp [Core.lane]
@[simp] theorem setShdW_dac_at (o v : Nat) (j : Nat) : (c.setShdW o v).dac j = c.dac j := by simp [Core.dac]
@[simp] theorem setShdW_bb_at (o v : Nat) (j : Nat) : (c.setShdW o v).bb j = c.bb j := by simp [Core.bb]
@[simp] theorem setShdW_vec_at (o v : Nat) (j : Nat) : (c.setShdW o v).vec j = c.vec j := by simp [Core.vec]
@[simp] theorem setShdW_adc_at (o v : Nat) (j : Nat) : (c.setShdW o v).adc j = c.adc j := by simp [Core.adc]
@[simp] theorem setShdW_acq_at (o v : Nat) (j : Nat) : (c.setShdW o v).acq j = c.acq j := by simp [Core.acq]
@[simp] theorem setShdW_book_at (o v : Nat) (j : Nat) : (c.setShdW o v).book j = c.book j := by simp [Core.book]
@[simp] theorem setShdW_arb_at (o v : Nat) (j : Nat) : (c.setShdW o v).arb j = c.arb j := by simp [Core.arb]
@[simp] theorem setShdW_port_at (o v : Nat) (j : Nat) : (c.setShdW o v).port j = c.port j := by simp [Core.port]
@[simp] theorem setShdW_ring_at (o v : Nat) (j : Nat) : (c.setShdW o v).ring j = c.ring j := by simp [Core.ring]
@[simp] theorem setShdW_pc_at (o v : Nat) (j : Nat) : (c.setShdW o v).pc j = c.pc j := by simp [Core.pc]
@[simp] theorem setShdW_get (o v : Nat) (y : Fld) : (c.setShdW o v).get y = c.get y := rfl
@[simp] theorem raise_now_eq (e l i a b : Nat) : (c.raise e l i a b).now = c.now := rfl
@[simp] theorem raise_running_eq (e l i a b : Nat) : (c.raise e l i a b).running = c.running := rfl
@[simp] theorem raise_freeCtr_eq (e l i a b : Nat) : (c.raise e l i a b).freeCtr = c.freeCtr := rfl
@[simp] theorem raise_live_eq (e l i a b : Nat) : (c.raise e l i a b).live = c.live := rfl
@[simp] theorem raise_act_eq (e l i a b : Nat) : (c.raise e l i a b).act = c.act := rfl
@[simp] theorem raise_shd_eq (e l i a b : Nat) : (c.raise e l i a b).shd = c.shd := rfl
@[simp] theorem raise_cells_eq (e l i a b : Nat) : (c.raise e l i a b).cells = c.cells := rfl
@[simp] theorem raise_blks_eq (e l i a b : Nat) : (c.raise e l i a b).blks = c.blks := rfl
@[simp] theorem raise_rgns_eq (e l i a b : Nat) : (c.raise e l i a b).rgns = c.rgns := rfl
@[simp] theorem raise_lanes_eq (e l i a b : Nat) : (c.raise e l i a b).lanes = c.lanes := rfl
@[simp] theorem raise_dacs_eq (e l i a b : Nat) : (c.raise e l i a b).dacs = c.dacs := rfl
@[simp] theorem raise_bbs_eq (e l i a b : Nat) : (c.raise e l i a b).bbs = c.bbs := rfl
@[simp] theorem raise_vecs_eq (e l i a b : Nat) : (c.raise e l i a b).vecs = c.vecs := rfl
@[simp] theorem raise_adcs_eq (e l i a b : Nat) : (c.raise e l i a b).adcs = c.adcs := rfl
@[simp] theorem raise_acqs_eq (e l i a b : Nat) : (c.raise e l i a b).acqs = c.acqs := rfl
@[simp] theorem raise_books_eq (e l i a b : Nat) : (c.raise e l i a b).books = c.books := rfl
@[simp] theorem raise_bus_eq (e l i a b : Nat) : (c.raise e l i a b).bus = c.bus := rfl
@[simp] theorem raise_busSeq_eq (e l i a b : Nat) : (c.raise e l i a b).busSeq = c.busSeq := rfl
@[simp] theorem raise_occOld_eq (e l i a b : Nat) : (c.raise e l i a b).occOld = c.occOld := rfl
@[simp] theorem raise_srcs_eq (e l i a b : Nat) : (c.raise e l i a b).srcs = c.srcs := rfl
@[simp] theorem raise_root_eq (e l i a b : Nat) : (c.raise e l i a b).root = c.root := rfl
@[simp] theorem raise_ser_eq (e l i a b : Nat) : (c.raise e l i a b).ser = c.ser := rfl
@[simp] theorem raise_hbmc_eq (e l i a b : Nat) : (c.raise e l i a b).hbmc = c.hbmc := rfl
@[simp] theorem raise_arbs_eq (e l i a b : Nat) : (c.raise e l i a b).arbs = c.arbs := rfl
@[simp] theorem raise_ports_eq (e l i a b : Nat) : (c.raise e l i a b).ports = c.ports := rfl
@[simp] theorem raise_mon_eq (e l i a b : Nat) : (c.raise e l i a b).mon = c.mon := rfl
@[simp] theorem raise_tpt_eq (e l i a b : Nat) : (c.raise e l i a b).tpt = c.tpt := rfl
@[simp] theorem raise_cal_eq (e l i a b : Nat) : (c.raise e l i a b).cal = c.cal := rfl
@[simp] theorem raise_thm_eq (e l i a b : Nat) : (c.raise e l i a b).thm = c.thm := rfl
@[simp] theorem raise_pins_eq (e l i a b : Nat) : (c.raise e l i a b).pins = c.pins := rfl
@[simp] theorem raise_boot_eq (e l i a b : Nat) : (c.raise e l i a b).boot = c.boot := rfl
@[simp] theorem raise_cell_at (e l i a b : Nat) (j : Nat) : (c.raise e l i a b).cell j = c.cell j := by simp [Core.cell]
@[simp] theorem raise_blk_at (e l i a b : Nat) (j : Nat) : (c.raise e l i a b).blk j = c.blk j := by simp [Core.blk]
@[simp] theorem raise_rgn_at (e l i a b : Nat) (j : Nat) : (c.raise e l i a b).rgn j = c.rgn j := by simp [Core.rgn]
@[simp] theorem raise_lane_at (e l i a b : Nat) (j : Nat) : (c.raise e l i a b).lane j = c.lane j := by simp [Core.lane]
@[simp] theorem raise_dac_at (e l i a b : Nat) (j : Nat) : (c.raise e l i a b).dac j = c.dac j := by simp [Core.dac]
@[simp] theorem raise_bb_at (e l i a b : Nat) (j : Nat) : (c.raise e l i a b).bb j = c.bb j := by simp [Core.bb]
@[simp] theorem raise_vec_at (e l i a b : Nat) (j : Nat) : (c.raise e l i a b).vec j = c.vec j := by simp [Core.vec]
@[simp] theorem raise_adc_at (e l i a b : Nat) (j : Nat) : (c.raise e l i a b).adc j = c.adc j := by simp [Core.adc]
@[simp] theorem raise_acq_at (e l i a b : Nat) (j : Nat) : (c.raise e l i a b).acq j = c.acq j := by simp [Core.acq]
@[simp] theorem raise_book_at (e l i a b : Nat) (j : Nat) : (c.raise e l i a b).book j = c.book j := by simp [Core.book]
@[simp] theorem raise_arb_at (e l i a b : Nat) (j : Nat) : (c.raise e l i a b).arb j = c.arb j := by simp [Core.arb]
@[simp] theorem raise_port_at (e l i a b : Nat) (j : Nat) : (c.raise e l i a b).port j = c.port j := by simp [Core.port]
@[simp] theorem raise_pc_at (e l i a b : Nat) (j : Nat) : (c.raise e l i a b).pc j = c.pc j := by simp [Core.pc]
@[simp] theorem raise_get (e l i a b : Nat) (y : Fld) : (c.raise e l i a b).get y = c.get y := rfl
@[simp] theorem raiseIf_now_eq (q : Bool) (e l i a b : Nat) : (c.raiseIf q e l i a b).now = c.now := by unfold Core.raiseIf; split <;> rfl
@[simp] theorem raiseIf_running_eq (q : Bool) (e l i a b : Nat) : (c.raiseIf q e l i a b).running = c.running := by unfold Core.raiseIf; split <;> rfl
@[simp] theorem raiseIf_freeCtr_eq (q : Bool) (e l i a b : Nat) : (c.raiseIf q e l i a b).freeCtr = c.freeCtr := by unfold Core.raiseIf; split <;> rfl
@[simp] theorem raiseIf_live_eq (q : Bool) (e l i a b : Nat) : (c.raiseIf q e l i a b).live = c.live := by unfold Core.raiseIf; split <;> rfl
@[simp] theorem raiseIf_act_eq (q : Bool) (e l i a b : Nat) : (c.raiseIf q e l i a b).act = c.act := by unfold Core.raiseIf; split <;> rfl
@[simp] theorem raiseIf_shd_eq (q : Bool) (e l i a b : Nat) : (c.raiseIf q e l i a b).shd = c.shd := by unfold Core.raiseIf; split <;> rfl
@[simp] theorem raiseIf_cells_eq (q : Bool) (e l i a b : Nat) : (c.raiseIf q e l i a b).cells = c.cells := by unfold Core.raiseIf; split <;> rfl
@[simp] theorem raiseIf_blks_eq (q : Bool) (e l i a b : Nat) : (c.raiseIf q e l i a b).blks = c.blks := by unfold Core.raiseIf; split <;> rfl
@[simp] theorem raiseIf_rgns_eq (q : Bool) (e l i a b : Nat) : (c.raiseIf q e l i a b).rgns = c.rgns := by unfold Core.raiseIf; split <;> rfl
@[simp] theorem raiseIf_lanes_eq (q : Bool) (e l i a b : Nat) : (c.raiseIf q e l i a b).lanes = c.lanes := by unfold Core.raiseIf; split <;> rfl
@[simp] theorem raiseIf_dacs_eq (q : Bool) (e l i a b : Nat) : (c.raiseIf q e l i a b).dacs = c.dacs := by unfold Core.raiseIf; split <;> rfl
@[simp] theorem raiseIf_bbs_eq (q : Bool) (e l i a b : Nat) : (c.raiseIf q e l i a b).bbs = c.bbs := by unfold Core.raiseIf; split <;> rfl
@[simp] theorem raiseIf_vecs_eq (q : Bool) (e l i a b : Nat) : (c.raiseIf q e l i a b).vecs = c.vecs := by unfold Core.raiseIf; split <;> rfl
@[simp] theorem raiseIf_adcs_eq (q : Bool) (e l i a b : Nat) : (c.raiseIf q e l i a b).adcs = c.adcs := by unfold Core.raiseIf; split <;> rfl
@[simp] theorem raiseIf_acqs_eq (q : Bool) (e l i a b : Nat) : (c.raiseIf q e l i a b).acqs = c.acqs := by unfold Core.raiseIf; split <;> rfl
@[simp] theorem raiseIf_books_eq (q : Bool) (e l i a b : Nat) : (c.raiseIf q e l i a b).books = c.books := by unfold Core.raiseIf; split <;> rfl
@[simp] theorem raiseIf_bus_eq (q : Bool) (e l i a b : Nat) : (c.raiseIf q e l i a b).bus = c.bus := by unfold Core.raiseIf; split <;> rfl
@[simp] theorem raiseIf_busSeq_eq (q : Bool) (e l i a b : Nat) : (c.raiseIf q e l i a b).busSeq = c.busSeq := by unfold Core.raiseIf; split <;> rfl
@[simp] theorem raiseIf_occOld_eq (q : Bool) (e l i a b : Nat) : (c.raiseIf q e l i a b).occOld = c.occOld := by unfold Core.raiseIf; split <;> rfl
@[simp] theorem raiseIf_srcs_eq (q : Bool) (e l i a b : Nat) : (c.raiseIf q e l i a b).srcs = c.srcs := by unfold Core.raiseIf; split <;> rfl
@[simp] theorem raiseIf_root_eq (q : Bool) (e l i a b : Nat) : (c.raiseIf q e l i a b).root = c.root := by unfold Core.raiseIf; split <;> rfl
@[simp] theorem raiseIf_ser_eq (q : Bool) (e l i a b : Nat) : (c.raiseIf q e l i a b).ser = c.ser := by unfold Core.raiseIf; split <;> rfl
@[simp] theorem raiseIf_hbmc_eq (q : Bool) (e l i a b : Nat) : (c.raiseIf q e l i a b).hbmc = c.hbmc := by unfold Core.raiseIf; split <;> rfl
@[simp] theorem raiseIf_arbs_eq (q : Bool) (e l i a b : Nat) : (c.raiseIf q e l i a b).arbs = c.arbs := by unfold Core.raiseIf; split <;> rfl
@[simp] theorem raiseIf_ports_eq (q : Bool) (e l i a b : Nat) : (c.raiseIf q e l i a b).ports = c.ports := by unfold Core.raiseIf; split <;> rfl
@[simp] theorem raiseIf_mon_eq (q : Bool) (e l i a b : Nat) : (c.raiseIf q e l i a b).mon = c.mon := by unfold Core.raiseIf; split <;> rfl
@[simp] theorem raiseIf_tpt_eq (q : Bool) (e l i a b : Nat) : (c.raiseIf q e l i a b).tpt = c.tpt := by unfold Core.raiseIf; split <;> rfl
@[simp] theorem raiseIf_cal_eq (q : Bool) (e l i a b : Nat) : (c.raiseIf q e l i a b).cal = c.cal := by unfold Core.raiseIf; split <;> rfl
@[simp] theorem raiseIf_thm_eq (q : Bool) (e l i a b : Nat) : (c.raiseIf q e l i a b).thm = c.thm := by unfold Core.raiseIf; split <;> rfl
@[simp] theorem raiseIf_pins_eq (q : Bool) (e l i a b : Nat) : (c.raiseIf q e l i a b).pins = c.pins := by unfold Core.raiseIf; split <;> rfl
@[simp] theorem raiseIf_boot_eq (q : Bool) (e l i a b : Nat) : (c.raiseIf q e l i a b).boot = c.boot := by unfold Core.raiseIf; split <;> rfl
@[simp] theorem raiseIf_cell_at (q : Bool) (e l i a b : Nat) (j : Nat) : (c.raiseIf q e l i a b).cell j = c.cell j := by simp [Core.cell]
@[simp] theorem raiseIf_blk_at (q : Bool) (e l i a b : Nat) (j : Nat) : (c.raiseIf q e l i a b).blk j = c.blk j := by simp [Core.blk]
@[simp] theorem raiseIf_rgn_at (q : Bool) (e l i a b : Nat) (j : Nat) : (c.raiseIf q e l i a b).rgn j = c.rgn j := by simp [Core.rgn]
@[simp] theorem raiseIf_lane_at (q : Bool) (e l i a b : Nat) (j : Nat) : (c.raiseIf q e l i a b).lane j = c.lane j := by simp [Core.lane]
@[simp] theorem raiseIf_dac_at (q : Bool) (e l i a b : Nat) (j : Nat) : (c.raiseIf q e l i a b).dac j = c.dac j := by simp [Core.dac]
@[simp] theorem raiseIf_bb_at (q : Bool) (e l i a b : Nat) (j : Nat) : (c.raiseIf q e l i a b).bb j = c.bb j := by simp [Core.bb]
@[simp] theorem raiseIf_vec_at (q : Bool) (e l i a b : Nat) (j : Nat) : (c.raiseIf q e l i a b).vec j = c.vec j := by simp [Core.vec]
@[simp] theorem raiseIf_adc_at (q : Bool) (e l i a b : Nat) (j : Nat) : (c.raiseIf q e l i a b).adc j = c.adc j := by simp [Core.adc]
@[simp] theorem raiseIf_acq_at (q : Bool) (e l i a b : Nat) (j : Nat) : (c.raiseIf q e l i a b).acq j = c.acq j := by simp [Core.acq]
@[simp] theorem raiseIf_book_at (q : Bool) (e l i a b : Nat) (j : Nat) : (c.raiseIf q e l i a b).book j = c.book j := by simp [Core.book]
@[simp] theorem raiseIf_arb_at (q : Bool) (e l i a b : Nat) (j : Nat) : (c.raiseIf q e l i a b).arb j = c.arb j := by simp [Core.arb]
@[simp] theorem raiseIf_port_at (q : Bool) (e l i a b : Nat) (j : Nat) : (c.raiseIf q e l i a b).port j = c.port j := by simp [Core.port]
@[simp] theorem raiseIf_pc_at (q : Bool) (e l i a b : Nat) (j : Nat) : (c.raiseIf q e l i a b).pc j = c.pc j := by simp [Core.pc]
@[simp] theorem raiseIf_get (q : Bool) (e l i a b : Nat) (y : Fld) : (c.raiseIf q e l i a b).get y = c.get y := by unfold Core.raiseIf; split <;> rfl
@[simp] theorem emit_now_eq (o : HostOut) : (c.emit o).now = c.now := rfl
@[simp] theorem emit_running_eq (o : HostOut) : (c.emit o).running = c.running := rfl
@[simp] theorem emit_freeCtr_eq (o : HostOut) : (c.emit o).freeCtr = c.freeCtr := rfl
@[simp] theorem emit_live_eq (o : HostOut) : (c.emit o).live = c.live := rfl
@[simp] theorem emit_act_eq (o : HostOut) : (c.emit o).act = c.act := rfl
@[simp] theorem emit_shd_eq (o : HostOut) : (c.emit o).shd = c.shd := rfl
@[simp] theorem emit_cells_eq (o : HostOut) : (c.emit o).cells = c.cells := rfl
@[simp] theorem emit_blks_eq (o : HostOut) : (c.emit o).blks = c.blks := rfl
@[simp] theorem emit_rgns_eq (o : HostOut) : (c.emit o).rgns = c.rgns := rfl
@[simp] theorem emit_lanes_eq (o : HostOut) : (c.emit o).lanes = c.lanes := rfl
@[simp] theorem emit_dacs_eq (o : HostOut) : (c.emit o).dacs = c.dacs := rfl
@[simp] theorem emit_bbs_eq (o : HostOut) : (c.emit o).bbs = c.bbs := rfl
@[simp] theorem emit_vecs_eq (o : HostOut) : (c.emit o).vecs = c.vecs := rfl
@[simp] theorem emit_adcs_eq (o : HostOut) : (c.emit o).adcs = c.adcs := rfl
@[simp] theorem emit_acqs_eq (o : HostOut) : (c.emit o).acqs = c.acqs := rfl
@[simp] theorem emit_books_eq (o : HostOut) : (c.emit o).books = c.books := rfl
@[simp] theorem emit_bus_eq (o : HostOut) : (c.emit o).bus = c.bus := rfl
@[simp] theorem emit_busSeq_eq (o : HostOut) : (c.emit o).busSeq = c.busSeq := rfl
@[simp] theorem emit_occOld_eq (o : HostOut) : (c.emit o).occOld = c.occOld := rfl
@[simp] theorem emit_srcs_eq (o : HostOut) : (c.emit o).srcs = c.srcs := rfl
@[simp] theorem emit_root_eq (o : HostOut) : (c.emit o).root = c.root := rfl
@[simp] theorem emit_ser_eq (o : HostOut) : (c.emit o).ser = c.ser := rfl
@[simp] theorem emit_hbmc_eq (o : HostOut) : (c.emit o).hbmc = c.hbmc := rfl
@[simp] theorem emit_arbs_eq (o : HostOut) : (c.emit o).arbs = c.arbs := rfl
@[simp] theorem emit_ports_eq (o : HostOut) : (c.emit o).ports = c.ports := rfl
@[simp] theorem emit_mon_eq (o : HostOut) : (c.emit o).mon = c.mon := rfl
@[simp] theorem emit_tpt_eq (o : HostOut) : (c.emit o).tpt = c.tpt := rfl
@[simp] theorem emit_cal_eq (o : HostOut) : (c.emit o).cal = c.cal := rfl
@[simp] theorem emit_thm_eq (o : HostOut) : (c.emit o).thm = c.thm := rfl
@[simp] theorem emit_pins_eq (o : HostOut) : (c.emit o).pins = c.pins := rfl
@[simp] theorem emit_boot_eq (o : HostOut) : (c.emit o).boot = c.boot := rfl
@[simp] theorem emit_cell_at (o : HostOut) (j : Nat) : (c.emit o).cell j = c.cell j := by simp [Core.cell]
@[simp] theorem emit_blk_at (o : HostOut) (j : Nat) : (c.emit o).blk j = c.blk j := by simp [Core.blk]
@[simp] theorem emit_rgn_at (o : HostOut) (j : Nat) : (c.emit o).rgn j = c.rgn j := by simp [Core.rgn]
@[simp] theorem emit_lane_at (o : HostOut) (j : Nat) : (c.emit o).lane j = c.lane j := by simp [Core.lane]
@[simp] theorem emit_dac_at (o : HostOut) (j : Nat) : (c.emit o).dac j = c.dac j := by simp [Core.dac]
@[simp] theorem emit_bb_at (o : HostOut) (j : Nat) : (c.emit o).bb j = c.bb j := by simp [Core.bb]
@[simp] theorem emit_vec_at (o : HostOut) (j : Nat) : (c.emit o).vec j = c.vec j := by simp [Core.vec]
@[simp] theorem emit_adc_at (o : HostOut) (j : Nat) : (c.emit o).adc j = c.adc j := by simp [Core.adc]
@[simp] theorem emit_acq_at (o : HostOut) (j : Nat) : (c.emit o).acq j = c.acq j := by simp [Core.acq]
@[simp] theorem emit_book_at (o : HostOut) (j : Nat) : (c.emit o).book j = c.book j := by simp [Core.book]
@[simp] theorem emit_arb_at (o : HostOut) (j : Nat) : (c.emit o).arb j = c.arb j := by simp [Core.arb]
@[simp] theorem emit_port_at (o : HostOut) (j : Nat) : (c.emit o).port j = c.port j := by simp [Core.port]
@[simp] theorem emit_pc_at (o : HostOut) (j : Nat) : (c.emit o).pc j = c.pc j := by simp [Core.pc]
@[simp] theorem emit_get (o : HostOut) (y : Fld) : (c.emit o).get y = c.get y := rfl
@[simp] theorem modRing_now_eq (n : Nat) (f : Ring → Ring) : (c.modRing n f).now = c.now := rfl
@[simp] theorem modRing_running_eq (n : Nat) (f : Ring → Ring) : (c.modRing n f).running = c.running := rfl
@[simp] theorem modRing_freeCtr_eq (n : Nat) (f : Ring → Ring) : (c.modRing n f).freeCtr = c.freeCtr := rfl
@[simp] theorem modRing_live_eq (n : Nat) (f : Ring → Ring) : (c.modRing n f).live = c.live := rfl
@[simp] theorem modRing_act_eq (n : Nat) (f : Ring → Ring) : (c.modRing n f).act = c.act := rfl
@[simp] theorem modRing_shd_eq (n : Nat) (f : Ring → Ring) : (c.modRing n f).shd = c.shd := rfl
@[simp] theorem modRing_cells_eq (n : Nat) (f : Ring → Ring) : (c.modRing n f).cells = c.cells := rfl
@[simp] theorem modRing_blks_eq (n : Nat) (f : Ring → Ring) : (c.modRing n f).blks = c.blks := rfl
@[simp] theorem modRing_rgns_eq (n : Nat) (f : Ring → Ring) : (c.modRing n f).rgns = c.rgns := rfl
@[simp] theorem modRing_lanes_eq (n : Nat) (f : Ring → Ring) : (c.modRing n f).lanes = c.lanes := rfl
@[simp] theorem modRing_dacs_eq (n : Nat) (f : Ring → Ring) : (c.modRing n f).dacs = c.dacs := rfl
@[simp] theorem modRing_bbs_eq (n : Nat) (f : Ring → Ring) : (c.modRing n f).bbs = c.bbs := rfl
@[simp] theorem modRing_vecs_eq (n : Nat) (f : Ring → Ring) : (c.modRing n f).vecs = c.vecs := rfl
@[simp] theorem modRing_adcs_eq (n : Nat) (f : Ring → Ring) : (c.modRing n f).adcs = c.adcs := rfl
@[simp] theorem modRing_acqs_eq (n : Nat) (f : Ring → Ring) : (c.modRing n f).acqs = c.acqs := rfl
@[simp] theorem modRing_books_eq (n : Nat) (f : Ring → Ring) : (c.modRing n f).books = c.books := rfl
@[simp] theorem modRing_bus_eq (n : Nat) (f : Ring → Ring) : (c.modRing n f).bus = c.bus := rfl
@[simp] theorem modRing_busSeq_eq (n : Nat) (f : Ring → Ring) : (c.modRing n f).busSeq = c.busSeq := rfl
@[simp] theorem modRing_occOld_eq (n : Nat) (f : Ring → Ring) : (c.modRing n f).occOld = c.occOld := rfl
@[simp] theorem modRing_srcs_eq (n : Nat) (f : Ring → Ring) : (c.modRing n f).srcs = c.srcs := rfl
@[simp] theorem modRing_root_eq (n : Nat) (f : Ring → Ring) : (c.modRing n f).root = c.root := rfl
@[simp] theorem modRing_ser_eq (n : Nat) (f : Ring → Ring) : (c.modRing n f).ser = c.ser := rfl
@[simp] theorem modRing_hbmc_eq (n : Nat) (f : Ring → Ring) : (c.modRing n f).hbmc = c.hbmc := rfl
@[simp] theorem modRing_arbs_eq (n : Nat) (f : Ring → Ring) : (c.modRing n f).arbs = c.arbs := rfl
@[simp] theorem modRing_ports_eq (n : Nat) (f : Ring → Ring) : (c.modRing n f).ports = c.ports := rfl
@[simp] theorem modRing_mon_eq (n : Nat) (f : Ring → Ring) : (c.modRing n f).mon = c.mon := rfl
@[simp] theorem modRing_tpt_eq (n : Nat) (f : Ring → Ring) : (c.modRing n f).tpt = c.tpt := rfl
@[simp] theorem modRing_cal_eq (n : Nat) (f : Ring → Ring) : (c.modRing n f).cal = c.cal := rfl
@[simp] theorem modRing_thm_eq (n : Nat) (f : Ring → Ring) : (c.modRing n f).thm = c.thm := rfl
@[simp] theorem modRing_pins_eq (n : Nat) (f : Ring → Ring) : (c.modRing n f).pins = c.pins := rfl
@[simp] theorem modRing_boot_eq (n : Nat) (f : Ring → Ring) : (c.modRing n f).boot = c.boot := rfl
@[simp] theorem modRing_cell_at (n : Nat) (f : Ring → Ring) (j : Nat) : (c.modRing n f).cell j = c.cell j := by simp [Core.cell]
@[simp] theorem modRing_blk_at (n : Nat) (f : Ring → Ring) (j : Nat) : (c.modRing n f).blk j = c.blk j := by simp [Core.blk]
@[simp] theorem modRing_rgn_at (n : Nat) (f : Ring → Ring) (j : Nat) : (c.modRing n f).rgn j = c.rgn j := by simp [Core.rgn]
@[simp] theorem modRing_lane_at (n : Nat) (f : Ring → Ring) (j : Nat) : (c.modRing n f).lane j = c.lane j := by simp [Core.lane]
@[simp] theorem modRing_dac_at (n : Nat) (f : Ring → Ring) (j : Nat) : (c.modRing n f).dac j = c.dac j := by simp [Core.dac]
@[simp] theorem modRing_bb_at (n : Nat) (f : Ring → Ring) (j : Nat) : (c.modRing n f).bb j = c.bb j := by simp [Core.bb]
@[simp] theorem modRing_vec_at (n : Nat) (f : Ring → Ring) (j : Nat) : (c.modRing n f).vec j = c.vec j := by simp [Core.vec]
@[simp] theorem modRing_adc_at (n : Nat) (f : Ring → Ring) (j : Nat) : (c.modRing n f).adc j = c.adc j := by simp [Core.adc]
@[simp] theorem modRing_acq_at (n : Nat) (f : Ring → Ring) (j : Nat) : (c.modRing n f).acq j = c.acq j := by simp [Core.acq]
@[simp] theorem modRing_book_at (n : Nat) (f : Ring → Ring) (j : Nat) : (c.modRing n f).book j = c.book j := by simp [Core.book]
@[simp] theorem modRing_arb_at (n : Nat) (f : Ring → Ring) (j : Nat) : (c.modRing n f).arb j = c.arb j := by simp [Core.arb]
@[simp] theorem modRing_port_at (n : Nat) (f : Ring → Ring) (j : Nat) : (c.modRing n f).port j = c.port j := by simp [Core.port]
@[simp] theorem modRing_pc_at (n : Nat) (f : Ring → Ring) (j : Nat) : (c.modRing n f).pc j = c.pc j := by simp [Core.pc]
@[simp] theorem modRing_get (n : Nat) (f : Ring → Ring) (y : Fld) : (c.modRing n f).get y = c.get y := rfl
@[simp] theorem modPc_now_eq (n : Nat) (f : Pc → Pc) : (c.modPc n f).now = c.now := rfl
@[simp] theorem modPc_running_eq (n : Nat) (f : Pc → Pc) : (c.modPc n f).running = c.running := rfl
@[simp] theorem modPc_freeCtr_eq (n : Nat) (f : Pc → Pc) : (c.modPc n f).freeCtr = c.freeCtr := rfl
@[simp] theorem modPc_live_eq (n : Nat) (f : Pc → Pc) : (c.modPc n f).live = c.live := rfl
@[simp] theorem modPc_act_eq (n : Nat) (f : Pc → Pc) : (c.modPc n f).act = c.act := rfl
@[simp] theorem modPc_shd_eq (n : Nat) (f : Pc → Pc) : (c.modPc n f).shd = c.shd := rfl
@[simp] theorem modPc_cells_eq (n : Nat) (f : Pc → Pc) : (c.modPc n f).cells = c.cells := rfl
@[simp] theorem modPc_blks_eq (n : Nat) (f : Pc → Pc) : (c.modPc n f).blks = c.blks := rfl
@[simp] theorem modPc_rgns_eq (n : Nat) (f : Pc → Pc) : (c.modPc n f).rgns = c.rgns := rfl
@[simp] theorem modPc_lanes_eq (n : Nat) (f : Pc → Pc) : (c.modPc n f).lanes = c.lanes := rfl
@[simp] theorem modPc_dacs_eq (n : Nat) (f : Pc → Pc) : (c.modPc n f).dacs = c.dacs := rfl
@[simp] theorem modPc_bbs_eq (n : Nat) (f : Pc → Pc) : (c.modPc n f).bbs = c.bbs := rfl
@[simp] theorem modPc_vecs_eq (n : Nat) (f : Pc → Pc) : (c.modPc n f).vecs = c.vecs := rfl
@[simp] theorem modPc_adcs_eq (n : Nat) (f : Pc → Pc) : (c.modPc n f).adcs = c.adcs := rfl
@[simp] theorem modPc_acqs_eq (n : Nat) (f : Pc → Pc) : (c.modPc n f).acqs = c.acqs := rfl
@[simp] theorem modPc_books_eq (n : Nat) (f : Pc → Pc) : (c.modPc n f).books = c.books := rfl
@[simp] theorem modPc_bus_eq (n : Nat) (f : Pc → Pc) : (c.modPc n f).bus = c.bus := rfl
@[simp] theorem modPc_busSeq_eq (n : Nat) (f : Pc → Pc) : (c.modPc n f).busSeq = c.busSeq := rfl
@[simp] theorem modPc_occOld_eq (n : Nat) (f : Pc → Pc) : (c.modPc n f).occOld = c.occOld := rfl
@[simp] theorem modPc_srcs_eq (n : Nat) (f : Pc → Pc) : (c.modPc n f).srcs = c.srcs := rfl
@[simp] theorem modPc_root_eq (n : Nat) (f : Pc → Pc) : (c.modPc n f).root = c.root := rfl
@[simp] theorem modPc_ser_eq (n : Nat) (f : Pc → Pc) : (c.modPc n f).ser = c.ser := rfl
@[simp] theorem modPc_host_eq (n : Nat) (f : Pc → Pc) : (c.modPc n f).host = c.host := rfl
@[simp] theorem modPc_arbs_eq (n : Nat) (f : Pc → Pc) : (c.modPc n f).arbs = c.arbs := rfl
@[simp] theorem modPc_ports_eq (n : Nat) (f : Pc → Pc) : (c.modPc n f).ports = c.ports := rfl
@[simp] theorem modPc_mon_eq (n : Nat) (f : Pc → Pc) : (c.modPc n f).mon = c.mon := rfl
@[simp] theorem modPc_tpt_eq (n : Nat) (f : Pc → Pc) : (c.modPc n f).tpt = c.tpt := rfl
@[simp] theorem modPc_cal_eq (n : Nat) (f : Pc → Pc) : (c.modPc n f).cal = c.cal := rfl
@[simp] theorem modPc_thm_eq (n : Nat) (f : Pc → Pc) : (c.modPc n f).thm = c.thm := rfl
@[simp] theorem modPc_pins_eq (n : Nat) (f : Pc → Pc) : (c.modPc n f).pins = c.pins := rfl
@[simp] theorem modPc_boot_eq (n : Nat) (f : Pc → Pc) : (c.modPc n f).boot = c.boot := rfl
@[simp] theorem modPc_cell_at (n : Nat) (f : Pc → Pc) (j : Nat) : (c.modPc n f).cell j = c.cell j := by simp [Core.cell]
@[simp] theorem modPc_blk_at (n : Nat) (f : Pc → Pc) (j : Nat) : (c.modPc n f).blk j = c.blk j := by simp [Core.blk]
@[simp] theorem modPc_rgn_at (n : Nat) (f : Pc → Pc) (j : Nat) : (c.modPc n f).rgn j = c.rgn j := by simp [Core.rgn]
@[simp] theorem modPc_lane_at (n : Nat) (f : Pc → Pc) (j : Nat) : (c.modPc n f).lane j = c.lane j := by simp [Core.lane]
@[simp] theorem modPc_dac_at (n : Nat) (f : Pc → Pc) (j : Nat) : (c.modPc n f).dac j = c.dac j := by simp [Core.dac]
@[simp] theorem modPc_bb_at (n : Nat) (f : Pc → Pc) (j : Nat) : (c.modPc n f).bb j = c.bb j := by simp [Core.bb]
@[simp] theorem modPc_vec_at (n : Nat) (f : Pc → Pc) (j : Nat) : (c.modPc n f).vec j = c.vec j := by simp [Core.vec]
@[simp] theorem modPc_adc_at (n : Nat) (f : Pc → Pc) (j : Nat) : (c.modPc n f).adc j = c.adc j := by simp [Core.adc]
@[simp] theorem modPc_acq_at (n : Nat) (f : Pc → Pc) (j : Nat) : (c.modPc n f).acq j = c.acq j := by simp [Core.acq]
@[simp] theorem modPc_book_at (n : Nat) (f : Pc → Pc) (j : Nat) : (c.modPc n f).book j = c.book j := by simp [Core.book]
@[simp] theorem modPc_arb_at (n : Nat) (f : Pc → Pc) (j : Nat) : (c.modPc n f).arb j = c.arb j := by simp [Core.arb]
@[simp] theorem modPc_port_at (n : Nat) (f : Pc → Pc) (j : Nat) : (c.modPc n f).port j = c.port j := by simp [Core.port]
@[simp] theorem modPc_ring_at (n : Nat) (f : Pc → Pc) (j : Nat) : (c.modPc n f).ring j = c.ring j := by simp [Core.ring]
@[simp] theorem modPc_get (n : Nat) (f : Pc → Pc) (y : Fld) : (c.modPc n f).get y = c.get y := rfl
@[simp] theorem dropWork_now_eq (who tag : Nat) : (c.dropWork who tag).now = c.now := rfl
@[simp] theorem dropWork_running_eq (who tag : Nat) : (c.dropWork who tag).running = c.running := rfl
@[simp] theorem dropWork_freeCtr_eq (who tag : Nat) : (c.dropWork who tag).freeCtr = c.freeCtr := rfl
@[simp] theorem dropWork_live_eq (who tag : Nat) : (c.dropWork who tag).live = c.live := rfl
@[simp] theorem dropWork_act_eq (who tag : Nat) : (c.dropWork who tag).act = c.act := rfl
@[simp] theorem dropWork_shd_eq (who tag : Nat) : (c.dropWork who tag).shd = c.shd := rfl
@[simp] theorem dropWork_cells_eq (who tag : Nat) : (c.dropWork who tag).cells = c.cells := rfl
@[simp] theorem dropWork_blks_eq (who tag : Nat) : (c.dropWork who tag).blks = c.blks := rfl
@[simp] theorem dropWork_rgns_eq (who tag : Nat) : (c.dropWork who tag).rgns = c.rgns := rfl
@[simp] theorem dropWork_lanes_eq (who tag : Nat) : (c.dropWork who tag).lanes = c.lanes := rfl
@[simp] theorem dropWork_dacs_eq (who tag : Nat) : (c.dropWork who tag).dacs = c.dacs := rfl
@[simp] theorem dropWork_bbs_eq (who tag : Nat) : (c.dropWork who tag).bbs = c.bbs := rfl
@[simp] theorem dropWork_vecs_eq (who tag : Nat) : (c.dropWork who tag).vecs = c.vecs := rfl
@[simp] theorem dropWork_adcs_eq (who tag : Nat) : (c.dropWork who tag).adcs = c.adcs := rfl
@[simp] theorem dropWork_acqs_eq (who tag : Nat) : (c.dropWork who tag).acqs = c.acqs := rfl
@[simp] theorem dropWork_books_eq (who tag : Nat) : (c.dropWork who tag).books = c.books := rfl
@[simp] theorem dropWork_bus_eq (who tag : Nat) : (c.dropWork who tag).bus = c.bus := rfl
@[simp] theorem dropWork_busSeq_eq (who tag : Nat) : (c.dropWork who tag).busSeq = c.busSeq := rfl
@[simp] theorem dropWork_occOld_eq (who tag : Nat) : (c.dropWork who tag).occOld = c.occOld := rfl
@[simp] theorem dropWork_srcs_eq (who tag : Nat) : (c.dropWork who tag).srcs = c.srcs := rfl
@[simp] theorem dropWork_root_eq (who tag : Nat) : (c.dropWork who tag).root = c.root := rfl
@[simp] theorem dropWork_ser_eq (who tag : Nat) : (c.dropWork who tag).ser = c.ser := rfl
@[simp] theorem dropWork_host_eq (who tag : Nat) : (c.dropWork who tag).host = c.host := rfl
@[simp] theorem dropWork_arbs_eq (who tag : Nat) : (c.dropWork who tag).arbs = c.arbs := rfl
@[simp] theorem dropWork_ports_eq (who tag : Nat) : (c.dropWork who tag).ports = c.ports := rfl
@[simp] theorem dropWork_mon_eq (who tag : Nat) : (c.dropWork who tag).mon = c.mon := rfl
@[simp] theorem dropWork_tpt_eq (who tag : Nat) : (c.dropWork who tag).tpt = c.tpt := rfl
@[simp] theorem dropWork_cal_eq (who tag : Nat) : (c.dropWork who tag).cal = c.cal := rfl
@[simp] theorem dropWork_thm_eq (who tag : Nat) : (c.dropWork who tag).thm = c.thm := rfl
@[simp] theorem dropWork_pins_eq (who tag : Nat) : (c.dropWork who tag).pins = c.pins := rfl
@[simp] theorem dropWork_boot_eq (who tag : Nat) : (c.dropWork who tag).boot = c.boot := rfl
@[simp] theorem dropWork_cell_at (who tag : Nat) (j : Nat) : (c.dropWork who tag).cell j = c.cell j := by simp [Core.cell]
@[simp] theorem dropWork_blk_at (who tag : Nat) (j : Nat) : (c.dropWork who tag).blk j = c.blk j := by simp [Core.blk]
@[simp] theorem dropWork_rgn_at (who tag : Nat) (j : Nat) : (c.dropWork who tag).rgn j = c.rgn j := by simp [Core.rgn]
@[simp] theorem dropWork_lane_at (who tag : Nat) (j : Nat) : (c.dropWork who tag).lane j = c.lane j := by simp [Core.lane]
@[simp] theorem dropWork_dac_at (who tag : Nat) (j : Nat) : (c.dropWork who tag).dac j = c.dac j := by simp [Core.dac]
@[simp] theorem dropWork_bb_at (who tag : Nat) (j : Nat) : (c.dropWork who tag).bb j = c.bb j := by simp [Core.bb]
@[simp] theorem dropWork_vec_at (who tag : Nat) (j : Nat) : (c.dropWork who tag).vec j = c.vec j := by simp [Core.vec]
@[simp] theorem dropWork_adc_at (who tag : Nat) (j : Nat) : (c.dropWork who tag).adc j = c.adc j := by simp [Core.adc]
@[simp] theorem dropWork_acq_at (who tag : Nat) (j : Nat) : (c.dropWork who tag).acq j = c.acq j := by simp [Core.acq]
@[simp] theorem dropWork_book_at (who tag : Nat) (j : Nat) : (c.dropWork who tag).book j = c.book j := by simp [Core.book]
@[simp] theorem dropWork_arb_at (who tag : Nat) (j : Nat) : (c.dropWork who tag).arb j = c.arb j := by simp [Core.arb]
@[simp] theorem dropWork_port_at (who tag : Nat) (j : Nat) : (c.dropWork who tag).port j = c.port j := by simp [Core.port]
@[simp] theorem dropWork_ring_at (who tag : Nat) (j : Nat) : (c.dropWork who tag).ring j = c.ring j := by simp [Core.ring]
@[simp] theorem dropWork_get (who tag : Nat) (y : Fld) : (c.dropWork who tag).get y = c.get y := rfl
@[simp] theorem dropWork_pc_at (who tag : Nat) (j : Nat) : (c.dropWork who tag).pc j = c.pc j := rfl
@[simp] theorem complete_now_eq (n : Nat) (st : Sts) (a b : Nat) : (c.complete n st a b).now = c.now := by unfold Core.complete; split <;> simp
@[simp] theorem complete_running_eq (n : Nat) (st : Sts) (a b : Nat) : (c.complete n st a b).running = c.running := by unfold Core.complete; split <;> simp
@[simp] theorem complete_freeCtr_eq (n : Nat) (st : Sts) (a b : Nat) : (c.complete n st a b).freeCtr = c.freeCtr := by unfold Core.complete; split <;> simp
@[simp] theorem complete_shd_eq (n : Nat) (st : Sts) (a b : Nat) : (c.complete n st a b).shd = c.shd := by unfold Core.complete; split <;> simp
@[simp] theorem complete_cells_eq (n : Nat) (st : Sts) (a b : Nat) : (c.complete n st a b).cells = c.cells := by unfold Core.complete; split <;> simp
@[simp] theorem complete_blks_eq (n : Nat) (st : Sts) (a b : Nat) : (c.complete n st a b).blks = c.blks := by unfold Core.complete; split <;> simp
@[simp] theorem complete_rgns_eq (n : Nat) (st : Sts) (a b : Nat) : (c.complete n st a b).rgns = c.rgns := by unfold Core.complete; split <;> simp
@[simp] theorem complete_lanes_eq (n : Nat) (st : Sts) (a b : Nat) : (c.complete n st a b).lanes = c.lanes := by unfold Core.complete; split <;> simp
@[simp] theorem complete_dacs_eq (n : Nat) (st : Sts) (a b : Nat) : (c.complete n st a b).dacs = c.dacs := by unfold Core.complete; split <;> simp
@[simp] theorem complete_bbs_eq (n : Nat) (st : Sts) (a b : Nat) : (c.complete n st a b).bbs = c.bbs := by unfold Core.complete; split <;> simp
@[simp] theorem complete_vecs_eq (n : Nat) (st : Sts) (a b : Nat) : (c.complete n st a b).vecs = c.vecs := by unfold Core.complete; split <;> simp
@[simp] theorem complete_adcs_eq (n : Nat) (st : Sts) (a b : Nat) : (c.complete n st a b).adcs = c.adcs := by unfold Core.complete; split <;> simp
@[simp] theorem complete_acqs_eq (n : Nat) (st : Sts) (a b : Nat) : (c.complete n st a b).acqs = c.acqs := by unfold Core.complete; split <;> simp
@[simp] theorem complete_books_eq (n : Nat) (st : Sts) (a b : Nat) : (c.complete n st a b).books = c.books := by unfold Core.complete; split <;> simp
@[simp] theorem complete_bus_eq (n : Nat) (st : Sts) (a b : Nat) : (c.complete n st a b).bus = c.bus := by unfold Core.complete; split <;> simp
@[simp] theorem complete_busSeq_eq (n : Nat) (st : Sts) (a b : Nat) : (c.complete n st a b).busSeq = c.busSeq := by unfold Core.complete; split <;> simp
@[simp] theorem complete_occOld_eq (n : Nat) (st : Sts) (a b : Nat) : (c.complete n st a b).occOld = c.occOld := by unfold Core.complete; split <;> simp
@[simp] theorem complete_srcs_eq (n : Nat) (st : Sts) (a b : Nat) : (c.complete n st a b).srcs = c.srcs := by unfold Core.complete; split <;> simp
@[simp] theorem complete_root_eq (n : Nat) (st : Sts) (a b : Nat) : (c.complete n st a b).root = c.root := by unfold Core.complete; split <;> simp
@[simp] theorem complete_ser_eq (n : Nat) (st : Sts) (a b : Nat) : (c.complete n st a b).ser = c.ser := by unfold Core.complete; split <;> simp
@[simp] theorem complete_arbs_eq (n : Nat) (st : Sts) (a b : Nat) : (c.complete n st a b).arbs = c.arbs := by unfold Core.complete; split <;> simp
@[simp] theorem complete_ports_eq (n : Nat) (st : Sts) (a b : Nat) : (c.complete n st a b).ports = c.ports := by unfold Core.complete; split <;> simp
@[simp] theorem complete_mon_eq (n : Nat) (st : Sts) (a b : Nat) : (c.complete n st a b).mon = c.mon := by unfold Core.complete; split <;> simp
@[simp] theorem complete_tpt_eq (n : Nat) (st : Sts) (a b : Nat) : (c.complete n st a b).tpt = c.tpt := by unfold Core.complete; split <;> simp
@[simp] theorem complete_cal_eq (n : Nat) (st : Sts) (a b : Nat) : (c.complete n st a b).cal = c.cal := by unfold Core.complete; split <;> simp
@[simp] theorem complete_thm_eq (n : Nat) (st : Sts) (a b : Nat) : (c.complete n st a b).thm = c.thm := by unfold Core.complete; split <;> simp
@[simp] theorem complete_pins_eq (n : Nat) (st : Sts) (a b : Nat) : (c.complete n st a b).pins = c.pins := by unfold Core.complete; split <;> simp
@[simp] theorem complete_boot_eq (n : Nat) (st : Sts) (a b : Nat) : (c.complete n st a b).boot = c.boot := by unfold Core.complete; split <;> simp
@[simp] theorem complete_cell_at (n : Nat) (st : Sts) (a b : Nat) (j : Nat) : (c.complete n st a b).cell j = c.cell j := by simp [Core.cell]
@[simp] theorem complete_blk_at (n : Nat) (st : Sts) (a b : Nat) (j : Nat) : (c.complete n st a b).blk j = c.blk j := by simp [Core.blk]
@[simp] theorem complete_rgn_at (n : Nat) (st : Sts) (a b : Nat) (j : Nat) : (c.complete n st a b).rgn j = c.rgn j := by simp [Core.rgn]
@[simp] theorem complete_lane_at (n : Nat) (st : Sts) (a b : Nat) (j : Nat) : (c.complete n st a b).lane j = c.lane j := by simp [Core.lane]
@[simp] theorem complete_dac_at (n : Nat) (st : Sts) (a b : Nat) (j : Nat) : (c.complete n st a b).dac j = c.dac j := by simp [Core.dac]
@[simp] theorem complete_bb_at (n : Nat) (st : Sts) (a b : Nat) (j : Nat) : (c.complete n st a b).bb j = c.bb j := by simp [Core.bb]
@[simp] theorem complete_vec_at (n : Nat) (st : Sts) (a b : Nat) (j : Nat) : (c.complete n st a b).vec j = c.vec j := by simp [Core.vec]
@[simp] theorem complete_adc_at (n : Nat) (st : Sts) (a b : Nat) (j : Nat) : (c.complete n st a b).adc j = c.adc j := by simp [Core.adc]
@[simp] theorem complete_acq_at (n : Nat) (st : Sts) (a b : Nat) (j : Nat) : (c.complete n st a b).acq j = c.acq j := by simp [Core.acq]
@[simp] theorem complete_book_at (n : Nat) (st : Sts) (a b : Nat) (j : Nat) : (c.complete n st a b).book j = c.book j := by simp [Core.book]
@[simp] theorem complete_arb_at (n : Nat) (st : Sts) (a b : Nat) (j : Nat) : (c.complete n st a b).arb j = c.arb j := by simp [Core.arb]
@[simp] theorem complete_port_at (n : Nat) (st : Sts) (a b : Nat) (j : Nat) : (c.complete n st a b).port j = c.port j := by simp [Core.port]
@[simp] theorem complete_pc_at (n : Nat) (st : Sts) (a b : Nat) (j : Nat) : (c.complete n st a b).pc j = c.pc j := by unfold Core.complete; split <;> simp
@[simp] theorem free_now_eq : (c.free.2).now = c.now := rfl
@[simp] theorem free_running_eq : (c.free.2).running = c.running := rfl
@[simp] theorem free_live_eq : (c.free.2).live = c.live := rfl
@[simp] theorem free_act_eq : (c.free.2).act = c.act := rfl
@[simp] theorem free_shd_eq : (c.free.2).shd = c.shd := rfl
@[simp] theorem free_cells_eq : (c.free.2).cells = c.cells := rfl
@[simp] theorem free_blks_eq : (c.free.2).blks = c.blks := rfl
@[simp] theorem free_rgns_eq : (c.free.2).rgns = c.rgns := rfl
@[simp] theorem free_lanes_eq : (c.free.2).lanes = c.lanes := rfl
@[simp] theorem free_dacs_eq : (c.free.2).dacs = c.dacs := rfl
@[simp] theorem free_bbs_eq : (c.free.2).bbs = c.bbs := rfl
@[simp] theorem free_vecs_eq : (c.free.2).vecs = c.vecs := rfl
@[simp] theorem free_adcs_eq : (c.free.2).adcs = c.adcs := rfl
@[simp] theorem free_acqs_eq : (c.free.2).acqs = c.acqs := rfl
@[simp] theorem free_books_eq : (c.free.2).books = c.books := rfl
@[simp] theorem free_bus_eq : (c.free.2).bus = c.bus := rfl
@[simp] theorem free_busSeq_eq : (c.free.2).busSeq = c.busSeq := rfl
@[simp] theorem free_occOld_eq : (c.free.2).occOld = c.occOld := rfl
@[simp] theorem free_srcs_eq : (c.free.2).srcs = c.srcs := rfl
@[simp] theorem free_root_eq : (c.free.2).root = c.root := rfl
@[simp] theorem free_ser_eq : (c.free.2).ser = c.ser := rfl
@[simp] theorem free_host_eq : (c.free.2).host = c.host := rfl
@[simp] theorem free_hbmc_eq : (c.free.2).hbmc = c.hbmc := rfl
@[simp] theorem free_arbs_eq : (c.free.2).arbs = c.arbs := rfl
@[simp] theorem free_ports_eq : (c.free.2).ports = c.ports := rfl
@[simp] theorem free_mon_eq : (c.free.2).mon = c.mon := rfl
@[simp] theorem free_tpt_eq : (c.free.2).tpt = c.tpt := rfl
@[simp] theorem free_cal_eq : (c.free.2).cal = c.cal := rfl
@[simp] theorem free_thm_eq : (c.free.2).thm = c.thm := rfl
@[simp] theorem free_pins_eq : (c.free.2).pins = c.pins := rfl
@[simp] theorem free_boot_eq : (c.free.2).boot = c.boot := rfl
@[simp] theorem free_cell_at (j : Nat) : (c.free.2).cell j = c.cell j := by simp [Core.cell]
@[simp] theorem free_blk_at (j : Nat) : (c.free.2).blk j = c.blk j := by simp [Core.blk]
@[simp] theorem free_rgn_at (j : Nat) : (c.free.2).rgn j = c.rgn j := by simp [Core.rgn]
@[simp] theorem free_lane_at (j : Nat) : (c.free.2).lane j = c.lane j := by simp [Core.lane]
@[simp] theorem free_dac_at (j : Nat) : (c.free.2).dac j = c.dac j := by simp [Core.dac]
@[simp] theorem free_bb_at (j : Nat) : (c.free.2).bb j = c.bb j := by simp [Core.bb]
@[simp] theorem free_vec_at (j : Nat) : (c.free.2).vec j = c.vec j := by simp [Core.vec]
@[simp] theorem free_adc_at (j : Nat) : (c.free.2).adc j = c.adc j := by simp [Core.adc]
@[simp] theorem free_acq_at (j : Nat) : (c.free.2).acq j = c.acq j := by simp [Core.acq]
@[simp] theorem free_book_at (j : Nat) : (c.free.2).book j = c.book j := by simp [Core.book]
@[simp] theorem free_arb_at (j : Nat) : (c.free.2).arb j = c.arb j := by simp [Core.arb]
@[simp] theorem free_port_at (j : Nat) : (c.free.2).port j = c.port j := by simp [Core.port]
@[simp] theorem free_ring_at (j : Nat) : (c.free.2).ring j = c.ring j := by simp [Core.ring]
@[simp] theorem free_pc_at (j : Nat) : (c.free.2).pc j = c.pc j := by simp [Core.pc]
@[simp] theorem free_get (y : Fld) : (c.free.2).get y = c.get y := rfl
@[simp] theorem setCell_now_eq (k : Nat) (x : Cell) : (c.setCell k x).now = c.now := rfl
@[simp] theorem setCell_running_eq (k : Nat) (x : Cell) : (c.setCell k x).running = c.running := rfl
@[simp] theorem setCell_freeCtr_eq (k : Nat) (x : Cell) : (c.setCell k x).freeCtr = c.freeCtr := rfl
@[simp] theorem setCell_live_eq (k : Nat) (x : Cell) : (c.setCell k x).live = c.live := rfl
@[simp] theorem setCell_act_eq (k : Nat) (x : Cell) : (c.setCell k x).act = c.act := rfl
@[simp] theorem setCell_shd_eq (k : Nat) (x : Cell) : (c.setCell k x).shd = c.shd := rfl
@[simp] theorem setCell_blks_eq (k : Nat) (x : Cell) : (c.setCell k x).blks = c.blks := rfl
@[simp] theorem setCell_rgns_eq (k : Nat) (x : Cell) : (c.setCell k x).rgns = c.rgns := rfl
@[simp] theorem setCell_lanes_eq (k : Nat) (x : Cell) : (c.setCell k x).lanes = c.lanes := rfl
@[simp] theorem setCell_dacs_eq (k : Nat) (x : Cell) : (c.setCell k x).dacs = c.dacs := rfl
@[simp] theorem setCell_bbs_eq (k : Nat) (x : Cell) : (c.setCell k x).bbs = c.bbs := rfl
@[simp] theorem setCell_vecs_eq (k : Nat) (x : Cell) : (c.setCell k x).vecs = c.vecs := rfl
@[simp] theorem setCell_adcs_eq (k : Nat) (x : Cell) : (c.setCell k x).adcs = c.adcs := rfl
@[simp] theorem setCell_acqs_eq (k : Nat) (x : Cell) : (c.setCell k x).acqs = c.acqs := rfl
@[simp] theorem setCell_books_eq (k : Nat) (x : Cell) : (c.setCell k x).books = c.books := rfl
@[simp] theorem setCell_bus_eq (k : Nat) (x : Cell) : (c.setCell k x).bus = c.bus := rfl
@[simp] theorem setCell_busSeq_eq (k : Nat) (x : Cell) : (c.setCell k x).busSeq = c.busSeq := rfl
@[simp] theorem setCell_occOld_eq (k : Nat) (x : Cell) : (c.setCell k x).occOld = c.occOld := rfl
@[simp] theorem setCell_srcs_eq (k : Nat) (x : Cell) : (c.setCell k x).srcs = c.srcs := rfl
@[simp] theorem setCell_root_eq (k : Nat) (x : Cell) : (c.setCell k x).root = c.root := rfl
@[simp] theorem setCell_ser_eq (k : Nat) (x : Cell) : (c.setCell k x).ser = c.ser := rfl
@[simp] theorem setCell_host_eq (k : Nat) (x : Cell) : (c.setCell k x).host = c.host := rfl
@[simp] theorem setCell_hbmc_eq (k : Nat) (x : Cell) : (c.setCell k x).hbmc = c.hbmc := rfl
@[simp] theorem setCell_arbs_eq (k : Nat) (x : Cell) : (c.setCell k x).arbs = c.arbs := rfl
@[simp] theorem setCell_ports_eq (k : Nat) (x : Cell) : (c.setCell k x).ports = c.ports := rfl
@[simp] theorem setCell_mon_eq (k : Nat) (x : Cell) : (c.setCell k x).mon = c.mon := rfl
@[simp] theorem setCell_tpt_eq (k : Nat) (x : Cell) : (c.setCell k x).tpt = c.tpt := rfl
@[simp] theorem setCell_cal_eq (k : Nat) (x : Cell) : (c.setCell k x).cal = c.cal := rfl
@[simp] theorem setCell_thm_eq (k : Nat) (x : Cell) : (c.setCell k x).thm = c.thm := rfl
@[simp] theorem setCell_pins_eq (k : Nat) (x : Cell) : (c.setCell k x).pins = c.pins := rfl
@[simp] theorem setCell_boot_eq (k : Nat) (x : Cell) : (c.setCell k x).boot = c.boot := rfl
@[simp] theorem setCell_blk_at (k : Nat) (x : Cell) (j : Nat) : (c.setCell k x).blk j = c.blk j := by simp [Core.blk]
@[simp] theorem setCell_rgn_at (k : Nat) (x : Cell) (j : Nat) : (c.setCell k x).rgn j = c.rgn j := by simp [Core.rgn]
@[simp] theorem setCell_lane_at (k : Nat) (x : Cell) (j : Nat) : (c.setCell k x).lane j = c.lane j := by simp [Core.lane]
@[simp] theorem setCell_dac_at (k : Nat) (x : Cell) (j : Nat) : (c.setCell k x).dac j = c.dac j := by simp [Core.dac]
@[simp] theorem setCell_bb_at (k : Nat) (x : Cell) (j : Nat) : (c.setCell k x).bb j = c.bb j := by simp [Core.bb]
@[simp] theorem setCell_vec_at (k : Nat) (x : Cell) (j : Nat) : (c.setCell k x).vec j = c.vec j := by simp [Core.vec]
@[simp] theorem setCell_adc_at (k : Nat) (x : Cell) (j : Nat) : (c.setCell k x).adc j = c.adc j := by simp [Core.adc]
@[simp] theorem setCell_acq_at (k : Nat) (x : Cell) (j : Nat) : (c.setCell k x).acq j = c.acq j := by simp [Core.acq]
@[simp] theorem setCell_book_at (k : Nat) (x : Cell) (j : Nat) : (c.setCell k x).book j = c.book j := by simp [Core.book]
@[simp] theorem setCell_arb_at (k : Nat) (x : Cell) (j : Nat) : (c.setCell k x).arb j = c.arb j := by simp [Core.arb]
@[simp] theorem setCell_port_at (k : Nat) (x : Cell) (j : Nat) : (c.setCell k x).port j = c.port j := by simp [Core.port]
@[simp] theorem setCell_ring_at (k : Nat) (x : Cell) (j : Nat) : (c.setCell k x).ring j = c.ring j := by simp [Core.ring]
@[simp] theorem setCell_pc_at (k : Nat) (x : Cell) (j : Nat) : (c.setCell k x).pc j = c.pc j := by simp [Core.pc]
@[simp] theorem setCell_get (k : Nat) (x : Cell) (y : Fld) : (c.setCell k x).get y = c.get y := rfl
@[simp] theorem setBlk_now_eq (k : Nat) (x : Blk) : (c.setBlk k x).now = c.now := rfl
@[simp] theorem setBlk_running_eq (k : Nat) (x : Blk) : (c.setBlk k x).running = c.running := rfl
@[simp] theorem setBlk_freeCtr_eq (k : Nat) (x : Blk) : (c.setBlk k x).freeCtr = c.freeCtr := rfl
@[simp] theorem setBlk_live_eq (k : Nat) (x : Blk) : (c.setBlk k x).live = c.live := rfl
@[simp] theorem setBlk_act_eq (k : Nat) (x : Blk) : (c.setBlk k x).act = c.act := rfl
@[simp] theorem setBlk_shd_eq (k : Nat) (x : Blk) : (c.setBlk k x).shd = c.shd := rfl
@[simp] theorem setBlk_cells_eq (k : Nat) (x : Blk) : (c.setBlk k x).cells = c.cells := rfl
@[simp] theorem setBlk_rgns_eq (k : Nat) (x : Blk) : (c.setBlk k x).rgns = c.rgns := rfl
@[simp] theorem setBlk_lanes_eq (k : Nat) (x : Blk) : (c.setBlk k x).lanes = c.lanes := rfl
@[simp] theorem setBlk_dacs_eq (k : Nat) (x : Blk) : (c.setBlk k x).dacs = c.dacs := rfl
@[simp] theorem setBlk_bbs_eq (k : Nat) (x : Blk) : (c.setBlk k x).bbs = c.bbs := rfl
@[simp] theorem setBlk_vecs_eq (k : Nat) (x : Blk) : (c.setBlk k x).vecs = c.vecs := rfl
@[simp] theorem setBlk_adcs_eq (k : Nat) (x : Blk) : (c.setBlk k x).adcs = c.adcs := rfl
@[simp] theorem setBlk_acqs_eq (k : Nat) (x : Blk) : (c.setBlk k x).acqs = c.acqs := rfl
@[simp] theorem setBlk_books_eq (k : Nat) (x : Blk) : (c.setBlk k x).books = c.books := rfl
@[simp] theorem setBlk_bus_eq (k : Nat) (x : Blk) : (c.setBlk k x).bus = c.bus := rfl
@[simp] theorem setBlk_busSeq_eq (k : Nat) (x : Blk) : (c.setBlk k x).busSeq = c.busSeq := rfl
@[simp] theorem setBlk_occOld_eq (k : Nat) (x : Blk) : (c.setBlk k x).occOld = c.occOld := rfl
@[simp] theorem setBlk_srcs_eq (k : Nat) (x : Blk) : (c.setBlk k x).srcs = c.srcs := rfl
@[simp] theorem setBlk_root_eq (k : Nat) (x : Blk) : (c.setBlk k x).root = c.root := rfl
@[simp] theorem setBlk_ser_eq (k : Nat) (x : Blk) : (c.setBlk k x).ser = c.ser := rfl
@[simp] theorem setBlk_host_eq (k : Nat) (x : Blk) : (c.setBlk k x).host = c.host := rfl
@[simp] theorem setBlk_hbmc_eq (k : Nat) (x : Blk) : (c.setBlk k x).hbmc = c.hbmc := rfl
@[simp] theorem setBlk_arbs_eq (k : Nat) (x : Blk) : (c.setBlk k x).arbs = c.arbs := rfl
@[simp] theorem setBlk_ports_eq (k : Nat) (x : Blk) : (c.setBlk k x).ports = c.ports := rfl
@[simp] theorem setBlk_mon_eq (k : Nat) (x : Blk) : (c.setBlk k x).mon = c.mon := rfl
@[simp] theorem setBlk_tpt_eq (k : Nat) (x : Blk) : (c.setBlk k x).tpt = c.tpt := rfl
@[simp] theorem setBlk_cal_eq (k : Nat) (x : Blk) : (c.setBlk k x).cal = c.cal := rfl
@[simp] theorem setBlk_thm_eq (k : Nat) (x : Blk) : (c.setBlk k x).thm = c.thm := rfl
@[simp] theorem setBlk_pins_eq (k : Nat) (x : Blk) : (c.setBlk k x).pins = c.pins := rfl
@[simp] theorem setBlk_boot_eq (k : Nat) (x : Blk) : (c.setBlk k x).boot = c.boot := rfl
@[simp] theorem setBlk_cell_at (k : Nat) (x : Blk) (j : Nat) : (c.setBlk k x).cell j = c.cell j := by simp [Core.cell]
@[simp] theorem setBlk_rgn_at (k : Nat) (x : Blk) (j : Nat) : (c.setBlk k x).rgn j = c.rgn j := by simp [Core.rgn]
@[simp] theorem setBlk_lane_at (k : Nat) (x : Blk) (j : Nat) : (c.setBlk k x).lane j = c.lane j := by simp [Core.lane]
@[simp] theorem setBlk_dac_at (k : Nat) (x : Blk) (j : Nat) : (c.setBlk k x).dac j = c.dac j := by simp [Core.dac]
@[simp] theorem setBlk_bb_at (k : Nat) (x : Blk) (j : Nat) : (c.setBlk k x).bb j = c.bb j := by simp [Core.bb]
@[simp] theorem setBlk_vec_at (k : Nat) (x : Blk) (j : Nat) : (c.setBlk k x).vec j = c.vec j := by simp [Core.vec]
@[simp] theorem setBlk_adc_at (k : Nat) (x : Blk) (j : Nat) : (c.setBlk k x).adc j = c.adc j := by simp [Core.adc]
@[simp] theorem setBlk_acq_at (k : Nat) (x : Blk) (j : Nat) : (c.setBlk k x).acq j = c.acq j := by simp [Core.acq]
@[simp] theorem setBlk_book_at (k : Nat) (x : Blk) (j : Nat) : (c.setBlk k x).book j = c.book j := by simp [Core.book]
@[simp] theorem setBlk_arb_at (k : Nat) (x : Blk) (j : Nat) : (c.setBlk k x).arb j = c.arb j := by simp [Core.arb]
@[simp] theorem setBlk_port_at (k : Nat) (x : Blk) (j : Nat) : (c.setBlk k x).port j = c.port j := by simp [Core.port]
@[simp] theorem setBlk_ring_at (k : Nat) (x : Blk) (j : Nat) : (c.setBlk k x).ring j = c.ring j := by simp [Core.ring]
@[simp] theorem setBlk_pc_at (k : Nat) (x : Blk) (j : Nat) : (c.setBlk k x).pc j = c.pc j := by simp [Core.pc]
@[simp] theorem setBlk_get (k : Nat) (x : Blk) (y : Fld) : (c.setBlk k x).get y = c.get y := rfl
@[simp] theorem setRgn_now_eq (k : Nat) (x : Rgn) : (c.setRgn k x).now = c.now := rfl
@[simp] theorem setRgn_running_eq (k : Nat) (x : Rgn) : (c.setRgn k x).running = c.running := rfl
@[simp] theorem setRgn_freeCtr_eq (k : Nat) (x : Rgn) : (c.setRgn k x).freeCtr = c.freeCtr := rfl
@[simp] theorem setRgn_live_eq (k : Nat) (x : Rgn) : (c.setRgn k x).live = c.live := rfl
@[simp] theorem setRgn_act_eq (k : Nat) (x : Rgn) : (c.setRgn k x).act = c.act := rfl
@[simp] theorem setRgn_shd_eq (k : Nat) (x : Rgn) : (c.setRgn k x).shd = c.shd := rfl
@[simp] theorem setRgn_cells_eq (k : Nat) (x : Rgn) : (c.setRgn k x).cells = c.cells := rfl
@[simp] theorem setRgn_blks_eq (k : Nat) (x : Rgn) : (c.setRgn k x).blks = c.blks := rfl
@[simp] theorem setRgn_lanes_eq (k : Nat) (x : Rgn) : (c.setRgn k x).lanes = c.lanes := rfl
@[simp] theorem setRgn_dacs_eq (k : Nat) (x : Rgn) : (c.setRgn k x).dacs = c.dacs := rfl
@[simp] theorem setRgn_bbs_eq (k : Nat) (x : Rgn) : (c.setRgn k x).bbs = c.bbs := rfl
@[simp] theorem setRgn_vecs_eq (k : Nat) (x : Rgn) : (c.setRgn k x).vecs = c.vecs := rfl
@[simp] theorem setRgn_adcs_eq (k : Nat) (x : Rgn) : (c.setRgn k x).adcs = c.adcs := rfl
@[simp] theorem setRgn_acqs_eq (k : Nat) (x : Rgn) : (c.setRgn k x).acqs = c.acqs := rfl
@[simp] theorem setRgn_books_eq (k : Nat) (x : Rgn) : (c.setRgn k x).books = c.books := rfl
@[simp] theorem setRgn_bus_eq (k : Nat) (x : Rgn) : (c.setRgn k x).bus = c.bus := rfl
@[simp] theorem setRgn_busSeq_eq (k : Nat) (x : Rgn) : (c.setRgn k x).busSeq = c.busSeq := rfl
@[simp] theorem setRgn_occOld_eq (k : Nat) (x : Rgn) : (c.setRgn k x).occOld = c.occOld := rfl
@[simp] theorem setRgn_srcs_eq (k : Nat) (x : Rgn) : (c.setRgn k x).srcs = c.srcs := rfl
@[simp] theorem setRgn_root_eq (k : Nat) (x : Rgn) : (c.setRgn k x).root = c.root := rfl
@[simp] theorem setRgn_ser_eq (k : Nat) (x : Rgn) : (c.setRgn k x).ser = c.ser := rfl
@[simp] theorem setRgn_host_eq (k : Nat) (x : Rgn) : (c.setRgn k x).host = c.host := rfl
@[simp] theorem setRgn_hbmc_eq (k : Nat) (x : Rgn) : (c.setRgn k x).hbmc = c.hbmc := rfl
@[simp] theorem setRgn_arbs_eq (k : Nat) (x : Rgn) : (c.setRgn k x).arbs = c.arbs := rfl
@[simp] theorem setRgn_ports_eq (k : Nat) (x : Rgn) : (c.setRgn k x).ports = c.ports := rfl
@[simp] theorem setRgn_mon_eq (k : Nat) (x : Rgn) : (c.setRgn k x).mon = c.mon := rfl
@[simp] theorem setRgn_tpt_eq (k : Nat) (x : Rgn) : (c.setRgn k x).tpt = c.tpt := rfl
@[simp] theorem setRgn_cal_eq (k : Nat) (x : Rgn) : (c.setRgn k x).cal = c.cal := rfl
@[simp] theorem setRgn_thm_eq (k : Nat) (x : Rgn) : (c.setRgn k x).thm = c.thm := rfl
@[simp] theorem setRgn_pins_eq (k : Nat) (x : Rgn) : (c.setRgn k x).pins = c.pins := rfl
@[simp] theorem setRgn_boot_eq (k : Nat) (x : Rgn) : (c.setRgn k x).boot = c.boot := rfl
@[simp] theorem setRgn_cell_at (k : Nat) (x : Rgn) (j : Nat) : (c.setRgn k x).cell j = c.cell j := by simp [Core.cell]
@[simp] theorem setRgn_blk_at (k : Nat) (x : Rgn) (j : Nat) : (c.setRgn k x).blk j = c.blk j := by simp [Core.blk]
@[simp] theorem setRgn_lane_at (k : Nat) (x : Rgn) (j : Nat) : (c.setRgn k x).lane j = c.lane j := by simp [Core.lane]
@[simp] theorem setRgn_dac_at (k : Nat) (x : Rgn) (j : Nat) : (c.setRgn k x).dac j = c.dac j := by simp [Core.dac]
@[simp] theorem setRgn_bb_at (k : Nat) (x : Rgn) (j : Nat) : (c.setRgn k x).bb j = c.bb j := by simp [Core.bb]
@[simp] theorem setRgn_vec_at (k : Nat) (x : Rgn) (j : Nat) : (c.setRgn k x).vec j = c.vec j := by simp [Core.vec]
@[simp] theorem setRgn_adc_at (k : Nat) (x : Rgn) (j : Nat) : (c.setRgn k x).adc j = c.adc j := by simp [Core.adc]
@[simp] theorem setRgn_acq_at (k : Nat) (x : Rgn) (j : Nat) : (c.setRgn k x).acq j = c.acq j := by simp [Core.acq]
@[simp] theorem setRgn_book_at (k : Nat) (x : Rgn) (j : Nat) : (c.setRgn k x).book j = c.book j := by simp [Core.book]
@[simp] theorem setRgn_arb_at (k : Nat) (x : Rgn) (j : Nat) : (c.setRgn k x).arb j = c.arb j := by simp [Core.arb]
@[simp] theorem setRgn_port_at (k : Nat) (x : Rgn) (j : Nat) : (c.setRgn k x).port j = c.port j := by simp [Core.port]
@[simp] theorem setRgn_ring_at (k : Nat) (x : Rgn) (j : Nat) : (c.setRgn k x).ring j = c.ring j := by simp [Core.ring]
@[simp] theorem setRgn_pc_at (k : Nat) (x : Rgn) (j : Nat) : (c.setRgn k x).pc j = c.pc j := by simp [Core.pc]
@[simp] theorem setRgn_get (k : Nat) (x : Rgn) (y : Fld) : (c.setRgn k x).get y = c.get y := rfl
@[simp] theorem setLane_now_eq (k : Nat) (x : Lane) : (c.setLane k x).now = c.now := rfl
@[simp] theorem setLane_running_eq (k : Nat) (x : Lane) : (c.setLane k x).running = c.running := rfl
@[simp] theorem setLane_freeCtr_eq (k : Nat) (x : Lane) : (c.setLane k x).freeCtr = c.freeCtr := rfl
@[simp] theorem setLane_live_eq (k : Nat) (x : Lane) : (c.setLane k x).live = c.live := rfl
@[simp] theorem setLane_act_eq (k : Nat) (x : Lane) : (c.setLane k x).act = c.act := rfl
@[simp] theorem setLane_shd_eq (k : Nat) (x : Lane) : (c.setLane k x).shd = c.shd := rfl
@[simp] theorem setLane_cells_eq (k : Nat) (x : Lane) : (c.setLane k x).cells = c.cells := rfl
@[simp] theorem setLane_blks_eq (k : Nat) (x : Lane) : (c.setLane k x).blks = c.blks := rfl
@[simp] theorem setLane_rgns_eq (k : Nat) (x : Lane) : (c.setLane k x).rgns = c.rgns := rfl
@[simp] theorem setLane_dacs_eq (k : Nat) (x : Lane) : (c.setLane k x).dacs = c.dacs := rfl
@[simp] theorem setLane_bbs_eq (k : Nat) (x : Lane) : (c.setLane k x).bbs = c.bbs := rfl
@[simp] theorem setLane_vecs_eq (k : Nat) (x : Lane) : (c.setLane k x).vecs = c.vecs := rfl
@[simp] theorem setLane_adcs_eq (k : Nat) (x : Lane) : (c.setLane k x).adcs = c.adcs := rfl
@[simp] theorem setLane_acqs_eq (k : Nat) (x : Lane) : (c.setLane k x).acqs = c.acqs := rfl
@[simp] theorem setLane_books_eq (k : Nat) (x : Lane) : (c.setLane k x).books = c.books := rfl
@[simp] theorem setLane_bus_eq (k : Nat) (x : Lane) : (c.setLane k x).bus = c.bus := rfl
@[simp] theorem setLane_busSeq_eq (k : Nat) (x : Lane) : (c.setLane k x).busSeq = c.busSeq := rfl
@[simp] theorem setLane_occOld_eq (k : Nat) (x : Lane) : (c.setLane k x).occOld = c.occOld := rfl
@[simp] theorem setLane_srcs_eq (k : Nat) (x : Lane) : (c.setLane k x).srcs = c.srcs := rfl
@[simp] theorem setLane_root_eq (k : Nat) (x : Lane) : (c.setLane k x).root = c.root := rfl
@[simp] theorem setLane_ser_eq (k : Nat) (x : Lane) : (c.setLane k x).ser = c.ser := rfl
@[simp] theorem setLane_host_eq (k : Nat) (x : Lane) : (c.setLane k x).host = c.host := rfl
@[simp] theorem setLane_hbmc_eq (k : Nat) (x : Lane) : (c.setLane k x).hbmc = c.hbmc := rfl
@[simp] theorem setLane_arbs_eq (k : Nat) (x : Lane) : (c.setLane k x).arbs = c.arbs := rfl
@[simp] theorem setLane_ports_eq (k : Nat) (x : Lane) : (c.setLane k x).ports = c.ports := rfl
@[simp] theorem setLane_mon_eq (k : Nat) (x : Lane) : (c.setLane k x).mon = c.mon := rfl
@[simp] theorem setLane_tpt_eq (k : Nat) (x : Lane) : (c.setLane k x).tpt = c.tpt := rfl
@[simp] theorem setLane_cal_eq (k : Nat) (x : Lane) : (c.setLane k x).cal = c.cal := rfl
@[simp] theorem setLane_thm_eq (k : Nat) (x : Lane) : (c.setLane k x).thm = c.thm := rfl
@[simp] theorem setLane_pins_eq (k : Nat) (x : Lane) : (c.setLane k x).pins = c.pins := rfl
@[simp] theorem setLane_boot_eq (k : Nat) (x : Lane) : (c.setLane k x).boot = c.boot := rfl
@[simp] theorem setLane_cell_at (k : Nat) (x : Lane) (j : Nat) : (c.setLane k x).cell j = c.cell j := by simp [Core.cell]
@[simp] theorem setLane_blk_at (k : Nat) (x : Lane) (j : Nat) : (c.setLane k x).blk j = c.blk j := by simp [Core.blk]
@[simp] theorem setLane_rgn_at (k : Nat) (x : Lane) (j : Nat) : (c.setLane k x).rgn j = c.rgn j := by simp [Core.rgn]
@[simp] theorem setLane_dac_at (k : Nat) (x : Lane) (j : Nat) : (c.setLane k x).dac j = c.dac j := by simp [Core.dac]
@[simp] theorem setLane_bb_at (k : Nat) (x : Lane) (j : Nat) : (c.setLane k x).bb j = c.bb j := by simp [Core.bb]
@[simp] theorem setLane_vec_at (k : Nat) (x : Lane) (j : Nat) : (c.setLane k x).vec j = c.vec j := by simp [Core.vec]
@[simp] theorem setLane_adc_at (k : Nat) (x : Lane) (j : Nat) : (c.setLane k x).adc j = c.adc j := by simp [Core.adc]
@[simp] theorem setLane_acq_at (k : Nat) (x : Lane) (j : Nat) : (c.setLane k x).acq j = c.acq j := by simp [Core.acq]
@[simp] theorem setLane_book_at (k : Nat) (x : Lane) (j : Nat) : (c.setLane k x).book j = c.book j := by simp [Core.book]
@[simp] theorem setLane_arb_at (k : Nat) (x : Lane) (j : Nat) : (c.setLane k x).arb j = c.arb j := by simp [Core.arb]
@[simp] theorem setLane_port_at (k : Nat) (x : Lane) (j : Nat) : (c.setLane k x).port j = c.port j := by simp [Core.port]
@[simp] theorem setLane_ring_at (k : Nat) (x : Lane) (j : Nat) : (c.setLane k x).ring j = c.ring j := by simp [Core.ring]
@[simp] theorem setLane_pc_at (k : Nat) (x : Lane) (j : Nat) : (c.setLane k x).pc j = c.pc j := by simp [Core.pc]
@[simp] theorem setLane_get (k : Nat) (x : Lane) (y : Fld) : (c.setLane k x).get y = c.get y := rfl
@[simp] theorem setDac_now_eq (k : Nat) (x : OutSt) : (c.setDac k x).now = c.now := rfl
@[simp] theorem setDac_running_eq (k : Nat) (x : OutSt) : (c.setDac k x).running = c.running := rfl
@[simp] theorem setDac_freeCtr_eq (k : Nat) (x : OutSt) : (c.setDac k x).freeCtr = c.freeCtr := rfl
@[simp] theorem setDac_live_eq (k : Nat) (x : OutSt) : (c.setDac k x).live = c.live := rfl
@[simp] theorem setDac_act_eq (k : Nat) (x : OutSt) : (c.setDac k x).act = c.act := rfl
@[simp] theorem setDac_shd_eq (k : Nat) (x : OutSt) : (c.setDac k x).shd = c.shd := rfl
@[simp] theorem setDac_cells_eq (k : Nat) (x : OutSt) : (c.setDac k x).cells = c.cells := rfl
@[simp] theorem setDac_blks_eq (k : Nat) (x : OutSt) : (c.setDac k x).blks = c.blks := rfl
@[simp] theorem setDac_rgns_eq (k : Nat) (x : OutSt) : (c.setDac k x).rgns = c.rgns := rfl
@[simp] theorem setDac_lanes_eq (k : Nat) (x : OutSt) : (c.setDac k x).lanes = c.lanes := rfl
@[simp] theorem setDac_bbs_eq (k : Nat) (x : OutSt) : (c.setDac k x).bbs = c.bbs := rfl
@[simp] theorem setDac_vecs_eq (k : Nat) (x : OutSt) : (c.setDac k x).vecs = c.vecs := rfl
@[simp] theorem setDac_adcs_eq (k : Nat) (x : OutSt) : (c.setDac k x).adcs = c.adcs := rfl
@[simp] theorem setDac_acqs_eq (k : Nat) (x : OutSt) : (c.setDac k x).acqs = c.acqs := rfl
@[simp] theorem setDac_books_eq (k : Nat) (x : OutSt) : (c.setDac k x).books = c.books := rfl
@[simp] theorem setDac_bus_eq (k : Nat) (x : OutSt) : (c.setDac k x).bus = c.bus := rfl
@[simp] theorem setDac_busSeq_eq (k : Nat) (x : OutSt) : (c.setDac k x).busSeq = c.busSeq := rfl
@[simp] theorem setDac_occOld_eq (k : Nat) (x : OutSt) : (c.setDac k x).occOld = c.occOld := rfl
@[simp] theorem setDac_srcs_eq (k : Nat) (x : OutSt) : (c.setDac k x).srcs = c.srcs := rfl
@[simp] theorem setDac_root_eq (k : Nat) (x : OutSt) : (c.setDac k x).root = c.root := rfl
@[simp] theorem setDac_ser_eq (k : Nat) (x : OutSt) : (c.setDac k x).ser = c.ser := rfl
@[simp] theorem setDac_host_eq (k : Nat) (x : OutSt) : (c.setDac k x).host = c.host := rfl
@[simp] theorem setDac_hbmc_eq (k : Nat) (x : OutSt) : (c.setDac k x).hbmc = c.hbmc := rfl
@[simp] theorem setDac_arbs_eq (k : Nat) (x : OutSt) : (c.setDac k x).arbs = c.arbs := rfl
@[simp] theorem setDac_ports_eq (k : Nat) (x : OutSt) : (c.setDac k x).ports = c.ports := rfl
@[simp] theorem setDac_mon_eq (k : Nat) (x : OutSt) : (c.setDac k x).mon = c.mon := rfl
@[simp] theorem setDac_tpt_eq (k : Nat) (x : OutSt) : (c.setDac k x).tpt = c.tpt := rfl
@[simp] theorem setDac_cal_eq (k : Nat) (x : OutSt) : (c.setDac k x).cal = c.cal := rfl
@[simp] theorem setDac_thm_eq (k : Nat) (x : OutSt) : (c.setDac k x).thm = c.thm := rfl
@[simp] theorem setDac_pins_eq (k : Nat) (x : OutSt) : (c.setDac k x).pins = c.pins := rfl
@[simp] theorem setDac_boot_eq (k : Nat) (x : OutSt) : (c.setDac k x).boot = c.boot := rfl
@[simp] theorem setDac_cell_at (k : Nat) (x : OutSt) (j : Nat) : (c.setDac k x).cell j = c.cell j := by simp [Core.cell]
@[simp] theorem setDac_blk_at (k : Nat) (x : OutSt) (j : Nat) : (c.setDac k x).blk j = c.blk j := by simp [Core.blk]
@[simp] theorem setDac_rgn_at (k : Nat) (x : OutSt) (j : Nat) : (c.setDac k x).rgn j = c.rgn j := by simp [Core.rgn]
@[simp] theorem setDac_lane_at (k : Nat) (x : OutSt) (j : Nat) : (c.setDac k x).lane j = c.lane j := by simp [Core.lane]
@[simp] theorem setDac_bb_at (k : Nat) (x : OutSt) (j : Nat) : (c.setDac k x).bb j = c.bb j := by simp [Core.bb]
@[simp] theorem setDac_vec_at (k : Nat) (x : OutSt) (j : Nat) : (c.setDac k x).vec j = c.vec j := by simp [Core.vec]
@[simp] theorem setDac_adc_at (k : Nat) (x : OutSt) (j : Nat) : (c.setDac k x).adc j = c.adc j := by simp [Core.adc]
@[simp] theorem setDac_acq_at (k : Nat) (x : OutSt) (j : Nat) : (c.setDac k x).acq j = c.acq j := by simp [Core.acq]
@[simp] theorem setDac_book_at (k : Nat) (x : OutSt) (j : Nat) : (c.setDac k x).book j = c.book j := by simp [Core.book]
@[simp] theorem setDac_arb_at (k : Nat) (x : OutSt) (j : Nat) : (c.setDac k x).arb j = c.arb j := by simp [Core.arb]
@[simp] theorem setDac_port_at (k : Nat) (x : OutSt) (j : Nat) : (c.setDac k x).port j = c.port j := by simp [Core.port]
@[simp] theorem setDac_ring_at (k : Nat) (x : OutSt) (j : Nat) : (c.setDac k x).ring j = c.ring j := by simp [Core.ring]
@[simp] theorem setDac_pc_at (k : Nat) (x : OutSt) (j : Nat) : (c.setDac k x).pc j = c.pc j := by simp [Core.pc]
@[simp] theorem setDac_get (k : Nat) (x : OutSt) (y : Fld) : (c.setDac k x).get y = c.get y := rfl
@[simp] theorem setBb_now_eq (k : Nat) (x : OutSt) : (c.setBb k x).now = c.now := rfl
@[simp] theorem setBb_running_eq (k : Nat) (x : OutSt) : (c.setBb k x).running = c.running := rfl
@[simp] theorem setBb_freeCtr_eq (k : Nat) (x : OutSt) : (c.setBb k x).freeCtr = c.freeCtr := rfl
@[simp] theorem setBb_live_eq (k : Nat) (x : OutSt) : (c.setBb k x).live = c.live := rfl
@[simp] theorem setBb_act_eq (k : Nat) (x : OutSt) : (c.setBb k x).act = c.act := rfl
@[simp] theorem setBb_shd_eq (k : Nat) (x : OutSt) : (c.setBb k x).shd = c.shd := rfl
@[simp] theorem setBb_cells_eq (k : Nat) (x : OutSt) : (c.setBb k x).cells = c.cells := rfl
@[simp] theorem setBb_blks_eq (k : Nat) (x : OutSt) : (c.setBb k x).blks = c.blks := rfl
@[simp] theorem setBb_rgns_eq (k : Nat) (x : OutSt) : (c.setBb k x).rgns = c.rgns := rfl
@[simp] theorem setBb_lanes_eq (k : Nat) (x : OutSt) : (c.setBb k x).lanes = c.lanes := rfl
@[simp] theorem setBb_dacs_eq (k : Nat) (x : OutSt) : (c.setBb k x).dacs = c.dacs := rfl
@[simp] theorem setBb_vecs_eq (k : Nat) (x : OutSt) : (c.setBb k x).vecs = c.vecs := rfl
@[simp] theorem setBb_adcs_eq (k : Nat) (x : OutSt) : (c.setBb k x).adcs = c.adcs := rfl
@[simp] theorem setBb_acqs_eq (k : Nat) (x : OutSt) : (c.setBb k x).acqs = c.acqs := rfl
@[simp] theorem setBb_books_eq (k : Nat) (x : OutSt) : (c.setBb k x).books = c.books := rfl
@[simp] theorem setBb_bus_eq (k : Nat) (x : OutSt) : (c.setBb k x).bus = c.bus := rfl
@[simp] theorem setBb_busSeq_eq (k : Nat) (x : OutSt) : (c.setBb k x).busSeq = c.busSeq := rfl
@[simp] theorem setBb_occOld_eq (k : Nat) (x : OutSt) : (c.setBb k x).occOld = c.occOld := rfl
@[simp] theorem setBb_srcs_eq (k : Nat) (x : OutSt) : (c.setBb k x).srcs = c.srcs := rfl
@[simp] theorem setBb_root_eq (k : Nat) (x : OutSt) : (c.setBb k x).root = c.root := rfl
@[simp] theorem setBb_ser_eq (k : Nat) (x : OutSt) : (c.setBb k x).ser = c.ser := rfl
@[simp] theorem setBb_host_eq (k : Nat) (x : OutSt) : (c.setBb k x).host = c.host := rfl
@[simp] theorem setBb_hbmc_eq (k : Nat) (x : OutSt) : (c.setBb k x).hbmc = c.hbmc := rfl
@[simp] theorem setBb_arbs_eq (k : Nat) (x : OutSt) : (c.setBb k x).arbs = c.arbs := rfl
@[simp] theorem setBb_ports_eq (k : Nat) (x : OutSt) : (c.setBb k x).ports = c.ports := rfl
@[simp] theorem setBb_mon_eq (k : Nat) (x : OutSt) : (c.setBb k x).mon = c.mon := rfl
@[simp] theorem setBb_tpt_eq (k : Nat) (x : OutSt) : (c.setBb k x).tpt = c.tpt := rfl
@[simp] theorem setBb_cal_eq (k : Nat) (x : OutSt) : (c.setBb k x).cal = c.cal := rfl
@[simp] theorem setBb_thm_eq (k : Nat) (x : OutSt) : (c.setBb k x).thm = c.thm := rfl
@[simp] theorem setBb_pins_eq (k : Nat) (x : OutSt) : (c.setBb k x).pins = c.pins := rfl
@[simp] theorem setBb_boot_eq (k : Nat) (x : OutSt) : (c.setBb k x).boot = c.boot := rfl
@[simp] theorem setBb_cell_at (k : Nat) (x : OutSt) (j : Nat) : (c.setBb k x).cell j = c.cell j := by simp [Core.cell]
@[simp] theorem setBb_blk_at (k : Nat) (x : OutSt) (j : Nat) : (c.setBb k x).blk j = c.blk j := by simp [Core.blk]
@[simp] theorem setBb_rgn_at (k : Nat) (x : OutSt) (j : Nat) : (c.setBb k x).rgn j = c.rgn j := by simp [Core.rgn]
@[simp] theorem setBb_lane_at (k : Nat) (x : OutSt) (j : Nat) : (c.setBb k x).lane j = c.lane j := by simp [Core.lane]
@[simp] theorem setBb_dac_at (k : Nat) (x : OutSt) (j : Nat) : (c.setBb k x).dac j = c.dac j := by simp [Core.dac]
@[simp] theorem setBb_vec_at (k : Nat) (x : OutSt) (j : Nat) : (c.setBb k x).vec j = c.vec j := by simp [Core.vec]
@[simp] theorem setBb_adc_at (k : Nat) (x : OutSt) (j : Nat) : (c.setBb k x).adc j = c.adc j := by simp [Core.adc]
@[simp] theorem setBb_acq_at (k : Nat) (x : OutSt) (j : Nat) : (c.setBb k x).acq j = c.acq j := by simp [Core.acq]
@[simp] theorem setBb_book_at (k : Nat) (x : OutSt) (j : Nat) : (c.setBb k x).book j = c.book j := by simp [Core.book]
@[simp] theorem setBb_arb_at (k : Nat) (x : OutSt) (j : Nat) : (c.setBb k x).arb j = c.arb j := by simp [Core.arb]
@[simp] theorem setBb_port_at (k : Nat) (x : OutSt) (j : Nat) : (c.setBb k x).port j = c.port j := by simp [Core.port]
@[simp] theorem setBb_ring_at (k : Nat) (x : OutSt) (j : Nat) : (c.setBb k x).ring j = c.ring j := by simp [Core.ring]
@[simp] theorem setBb_pc_at (k : Nat) (x : OutSt) (j : Nat) : (c.setBb k x).pc j = c.pc j := by simp [Core.pc]
@[simp] theorem setBb_get (k : Nat) (x : OutSt) (y : Fld) : (c.setBb k x).get y = c.get y := rfl
@[simp] theorem setVec_now_eq (k : Nat) (x : VecSt) : (c.setVec k x).now = c.now := rfl
@[simp] theorem setVec_running_eq (k : Nat) (x : VecSt) : (c.setVec k x).running = c.running := rfl
@[simp] theorem setVec_freeCtr_eq (k : Nat) (x : VecSt) : (c.setVec k x).freeCtr = c.freeCtr := rfl
@[simp] theorem setVec_live_eq (k : Nat) (x : VecSt) : (c.setVec k x).live = c.live := rfl
@[simp] theorem setVec_act_eq (k : Nat) (x : VecSt) : (c.setVec k x).act = c.act := rfl
@[simp] theorem setVec_shd_eq (k : Nat) (x : VecSt) : (c.setVec k x).shd = c.shd := rfl
@[simp] theorem setVec_cells_eq (k : Nat) (x : VecSt) : (c.setVec k x).cells = c.cells := rfl
@[simp] theorem setVec_blks_eq (k : Nat) (x : VecSt) : (c.setVec k x).blks = c.blks := rfl
@[simp] theorem setVec_rgns_eq (k : Nat) (x : VecSt) : (c.setVec k x).rgns = c.rgns := rfl
@[simp] theorem setVec_lanes_eq (k : Nat) (x : VecSt) : (c.setVec k x).lanes = c.lanes := rfl
@[simp] theorem setVec_dacs_eq (k : Nat) (x : VecSt) : (c.setVec k x).dacs = c.dacs := rfl
@[simp] theorem setVec_bbs_eq (k : Nat) (x : VecSt) : (c.setVec k x).bbs = c.bbs := rfl
@[simp] theorem setVec_adcs_eq (k : Nat) (x : VecSt) : (c.setVec k x).adcs = c.adcs := rfl
@[simp] theorem setVec_acqs_eq (k : Nat) (x : VecSt) : (c.setVec k x).acqs = c.acqs := rfl
@[simp] theorem setVec_books_eq (k : Nat) (x : VecSt) : (c.setVec k x).books = c.books := rfl
@[simp] theorem setVec_bus_eq (k : Nat) (x : VecSt) : (c.setVec k x).bus = c.bus := rfl
@[simp] theorem setVec_busSeq_eq (k : Nat) (x : VecSt) : (c.setVec k x).busSeq = c.busSeq := rfl
@[simp] theorem setVec_occOld_eq (k : Nat) (x : VecSt) : (c.setVec k x).occOld = c.occOld := rfl
@[simp] theorem setVec_srcs_eq (k : Nat) (x : VecSt) : (c.setVec k x).srcs = c.srcs := rfl
@[simp] theorem setVec_root_eq (k : Nat) (x : VecSt) : (c.setVec k x).root = c.root := rfl
@[simp] theorem setVec_ser_eq (k : Nat) (x : VecSt) : (c.setVec k x).ser = c.ser := rfl
@[simp] theorem setVec_host_eq (k : Nat) (x : VecSt) : (c.setVec k x).host = c.host := rfl
@[simp] theorem setVec_hbmc_eq (k : Nat) (x : VecSt) : (c.setVec k x).hbmc = c.hbmc := rfl
@[simp] theorem setVec_arbs_eq (k : Nat) (x : VecSt) : (c.setVec k x).arbs = c.arbs := rfl
@[simp] theorem setVec_ports_eq (k : Nat) (x : VecSt) : (c.setVec k x).ports = c.ports := rfl
@[simp] theorem setVec_mon_eq (k : Nat) (x : VecSt) : (c.setVec k x).mon = c.mon := rfl
@[simp] theorem setVec_tpt_eq (k : Nat) (x : VecSt) : (c.setVec k x).tpt = c.tpt := rfl
@[simp] theorem setVec_cal_eq (k : Nat) (x : VecSt) : (c.setVec k x).cal = c.cal := rfl
@[simp] theorem setVec_thm_eq (k : Nat) (x : VecSt) : (c.setVec k x).thm = c.thm := rfl
@[simp] theorem setVec_pins_eq (k : Nat) (x : VecSt) : (c.setVec k x).pins = c.pins := rfl
@[simp] theorem setVec_boot_eq (k : Nat) (x : VecSt) : (c.setVec k x).boot = c.boot := rfl
@[simp] theorem setVec_cell_at (k : Nat) (x : VecSt) (j : Nat) : (c.setVec k x).cell j = c.cell j := by simp [Core.cell]
@[simp] theorem setVec_blk_at (k : Nat) (x : VecSt) (j : Nat) : (c.setVec k x).blk j = c.blk j := by simp [Core.blk]
@[simp] theorem setVec_rgn_at (k : Nat) (x : VecSt) (j : Nat) : (c.setVec k x).rgn j = c.rgn j := by simp [Core.rgn]
@[simp] theorem setVec_lane_at (k : Nat) (x : VecSt) (j : Nat) : (c.setVec k x).lane j = c.lane j := by simp [Core.lane]
@[simp] theorem setVec_dac_at (k : Nat) (x : VecSt) (j : Nat) : (c.setVec k x).dac j = c.dac j := by simp [Core.dac]
@[simp] theorem setVec_bb_at (k : Nat) (x : VecSt) (j : Nat) : (c.setVec k x).bb j = c.bb j := by simp [Core.bb]
@[simp] theorem setVec_adc_at (k : Nat) (x : VecSt) (j : Nat) : (c.setVec k x).adc j = c.adc j := by simp [Core.adc]
@[simp] theorem setVec_acq_at (k : Nat) (x : VecSt) (j : Nat) : (c.setVec k x).acq j = c.acq j := by simp [Core.acq]
@[simp] theorem setVec_book_at (k : Nat) (x : VecSt) (j : Nat) : (c.setVec k x).book j = c.book j := by simp [Core.book]
@[simp] theorem setVec_arb_at (k : Nat) (x : VecSt) (j : Nat) : (c.setVec k x).arb j = c.arb j := by simp [Core.arb]
@[simp] theorem setVec_port_at (k : Nat) (x : VecSt) (j : Nat) : (c.setVec k x).port j = c.port j := by simp [Core.port]
@[simp] theorem setVec_ring_at (k : Nat) (x : VecSt) (j : Nat) : (c.setVec k x).ring j = c.ring j := by simp [Core.ring]
@[simp] theorem setVec_pc_at (k : Nat) (x : VecSt) (j : Nat) : (c.setVec k x).pc j = c.pc j := by simp [Core.pc]
@[simp] theorem setVec_get (k : Nat) (x : VecSt) (y : Fld) : (c.setVec k x).get y = c.get y := rfl
@[simp] theorem setAdc_now_eq (k : Nat) (x : AdcSt) : (c.setAdc k x).now = c.now := rfl
@[simp] theorem setAdc_running_eq (k : Nat) (x : AdcSt) : (c.setAdc k x).running = c.running := rfl
@[simp] theorem setAdc_freeCtr_eq (k : Nat) (x : AdcSt) : (c.setAdc k x).freeCtr = c.freeCtr := rfl
@[simp] theorem setAdc_live_eq (k : Nat) (x : AdcSt) : (c.setAdc k x).live = c.live := rfl
@[simp] theorem setAdc_act_eq (k : Nat) (x : AdcSt) : (c.setAdc k x).act = c.act := rfl
@[simp] theorem setAdc_shd_eq (k : Nat) (x : AdcSt) : (c.setAdc k x).shd = c.shd := rfl
@[simp] theorem setAdc_cells_eq (k : Nat) (x : AdcSt) : (c.setAdc k x).cells = c.cells := rfl
@[simp] theorem setAdc_blks_eq (k : Nat) (x : AdcSt) : (c.setAdc k x).blks = c.blks := rfl
@[simp] theorem setAdc_rgns_eq (k : Nat) (x : AdcSt) : (c.setAdc k x).rgns = c.rgns := rfl
@[simp] theorem setAdc_lanes_eq (k : Nat) (x : AdcSt) : (c.setAdc k x).lanes = c.lanes := rfl
@[simp] theorem setAdc_dacs_eq (k : Nat) (x : AdcSt) : (c.setAdc k x).dacs = c.dacs := rfl
@[simp] theorem setAdc_bbs_eq (k : Nat) (x : AdcSt) : (c.setAdc k x).bbs = c.bbs := rfl
@[simp] theorem setAdc_vecs_eq (k : Nat) (x : AdcSt) : (c.setAdc k x).vecs = c.vecs := rfl
@[simp] theorem setAdc_acqs_eq (k : Nat) (x : AdcSt) : (c.setAdc k x).acqs = c.acqs := rfl
@[simp] theorem setAdc_books_eq (k : Nat) (x : AdcSt) : (c.setAdc k x).books = c.books := rfl
@[simp] theorem setAdc_bus_eq (k : Nat) (x : AdcSt) : (c.setAdc k x).bus = c.bus := rfl
@[simp] theorem setAdc_busSeq_eq (k : Nat) (x : AdcSt) : (c.setAdc k x).busSeq = c.busSeq := rfl
@[simp] theorem setAdc_occOld_eq (k : Nat) (x : AdcSt) : (c.setAdc k x).occOld = c.occOld := rfl
@[simp] theorem setAdc_srcs_eq (k : Nat) (x : AdcSt) : (c.setAdc k x).srcs = c.srcs := rfl
@[simp] theorem setAdc_root_eq (k : Nat) (x : AdcSt) : (c.setAdc k x).root = c.root := rfl
@[simp] theorem setAdc_ser_eq (k : Nat) (x : AdcSt) : (c.setAdc k x).ser = c.ser := rfl
@[simp] theorem setAdc_host_eq (k : Nat) (x : AdcSt) : (c.setAdc k x).host = c.host := rfl
@[simp] theorem setAdc_hbmc_eq (k : Nat) (x : AdcSt) : (c.setAdc k x).hbmc = c.hbmc := rfl
@[simp] theorem setAdc_arbs_eq (k : Nat) (x : AdcSt) : (c.setAdc k x).arbs = c.arbs := rfl
@[simp] theorem setAdc_ports_eq (k : Nat) (x : AdcSt) : (c.setAdc k x).ports = c.ports := rfl
@[simp] theorem setAdc_mon_eq (k : Nat) (x : AdcSt) : (c.setAdc k x).mon = c.mon := rfl
@[simp] theorem setAdc_tpt_eq (k : Nat) (x : AdcSt) : (c.setAdc k x).tpt = c.tpt := rfl
@[simp] theorem setAdc_cal_eq (k : Nat) (x : AdcSt) : (c.setAdc k x).cal = c.cal := rfl
@[simp] theorem setAdc_thm_eq (k : Nat) (x : AdcSt) : (c.setAdc k x).thm = c.thm := rfl
@[simp] theorem setAdc_pins_eq (k : Nat) (x : AdcSt) : (c.setAdc k x).pins = c.pins := rfl
@[simp] theorem setAdc_boot_eq (k : Nat) (x : AdcSt) : (c.setAdc k x).boot = c.boot := rfl
@[simp] theorem setAdc_cell_at (k : Nat) (x : AdcSt) (j : Nat) : (c.setAdc k x).cell j = c.cell j := by simp [Core.cell]
@[simp] theorem setAdc_blk_at (k : Nat) (x : AdcSt) (j : Nat) : (c.setAdc k x).blk j = c.blk j := by simp [Core.blk]
@[simp] theorem setAdc_rgn_at (k : Nat) (x : AdcSt) (j : Nat) : (c.setAdc k x).rgn j = c.rgn j := by simp [Core.rgn]
@[simp] theorem setAdc_lane_at (k : Nat) (x : AdcSt) (j : Nat) : (c.setAdc k x).lane j = c.lane j := by simp [Core.lane]
@[simp] theorem setAdc_dac_at (k : Nat) (x : AdcSt) (j : Nat) : (c.setAdc k x).dac j = c.dac j := by simp [Core.dac]
@[simp] theorem setAdc_bb_at (k : Nat) (x : AdcSt) (j : Nat) : (c.setAdc k x).bb j = c.bb j := by simp [Core.bb]
@[simp] theorem setAdc_vec_at (k : Nat) (x : AdcSt) (j : Nat) : (c.setAdc k x).vec j = c.vec j := by simp [Core.vec]
@[simp] theorem setAdc_acq_at (k : Nat) (x : AdcSt) (j : Nat) : (c.setAdc k x).acq j = c.acq j := by simp [Core.acq]
@[simp] theorem setAdc_book_at (k : Nat) (x : AdcSt) (j : Nat) : (c.setAdc k x).book j = c.book j := by simp [Core.book]
@[simp] theorem setAdc_arb_at (k : Nat) (x : AdcSt) (j : Nat) : (c.setAdc k x).arb j = c.arb j := by simp [Core.arb]
@[simp] theorem setAdc_port_at (k : Nat) (x : AdcSt) (j : Nat) : (c.setAdc k x).port j = c.port j := by simp [Core.port]
@[simp] theorem setAdc_ring_at (k : Nat) (x : AdcSt) (j : Nat) : (c.setAdc k x).ring j = c.ring j := by simp [Core.ring]
@[simp] theorem setAdc_pc_at (k : Nat) (x : AdcSt) (j : Nat) : (c.setAdc k x).pc j = c.pc j := by simp [Core.pc]
@[simp] theorem setAdc_get (k : Nat) (x : AdcSt) (y : Fld) : (c.setAdc k x).get y = c.get y := rfl
@[simp] theorem setAcq_now_eq (k : Nat) (x : Acq) : (c.setAcq k x).now = c.now := rfl
@[simp] theorem setAcq_running_eq (k : Nat) (x : Acq) : (c.setAcq k x).running = c.running := rfl
@[simp] theorem setAcq_freeCtr_eq (k : Nat) (x : Acq) : (c.setAcq k x).freeCtr = c.freeCtr := rfl
@[simp] theorem setAcq_live_eq (k : Nat) (x : Acq) : (c.setAcq k x).live = c.live := rfl
@[simp] theorem setAcq_act_eq (k : Nat) (x : Acq) : (c.setAcq k x).act = c.act := rfl
@[simp] theorem setAcq_shd_eq (k : Nat) (x : Acq) : (c.setAcq k x).shd = c.shd := rfl
@[simp] theorem setAcq_cells_eq (k : Nat) (x : Acq) : (c.setAcq k x).cells = c.cells := rfl
@[simp] theorem setAcq_blks_eq (k : Nat) (x : Acq) : (c.setAcq k x).blks = c.blks := rfl
@[simp] theorem setAcq_rgns_eq (k : Nat) (x : Acq) : (c.setAcq k x).rgns = c.rgns := rfl
@[simp] theorem setAcq_lanes_eq (k : Nat) (x : Acq) : (c.setAcq k x).lanes = c.lanes := rfl
@[simp] theorem setAcq_dacs_eq (k : Nat) (x : Acq) : (c.setAcq k x).dacs = c.dacs := rfl
@[simp] theorem setAcq_bbs_eq (k : Nat) (x : Acq) : (c.setAcq k x).bbs = c.bbs := rfl
@[simp] theorem setAcq_vecs_eq (k : Nat) (x : Acq) : (c.setAcq k x).vecs = c.vecs := rfl
@[simp] theorem setAcq_adcs_eq (k : Nat) (x : Acq) : (c.setAcq k x).adcs = c.adcs := rfl
@[simp] theorem setAcq_books_eq (k : Nat) (x : Acq) : (c.setAcq k x).books = c.books := rfl
@[simp] theorem setAcq_bus_eq (k : Nat) (x : Acq) : (c.setAcq k x).bus = c.bus := rfl
@[simp] theorem setAcq_busSeq_eq (k : Nat) (x : Acq) : (c.setAcq k x).busSeq = c.busSeq := rfl
@[simp] theorem setAcq_occOld_eq (k : Nat) (x : Acq) : (c.setAcq k x).occOld = c.occOld := rfl
@[simp] theorem setAcq_srcs_eq (k : Nat) (x : Acq) : (c.setAcq k x).srcs = c.srcs := rfl
@[simp] theorem setAcq_root_eq (k : Nat) (x : Acq) : (c.setAcq k x).root = c.root := rfl
@[simp] theorem setAcq_ser_eq (k : Nat) (x : Acq) : (c.setAcq k x).ser = c.ser := rfl
@[simp] theorem setAcq_host_eq (k : Nat) (x : Acq) : (c.setAcq k x).host = c.host := rfl
@[simp] theorem setAcq_hbmc_eq (k : Nat) (x : Acq) : (c.setAcq k x).hbmc = c.hbmc := rfl
@[simp] theorem setAcq_arbs_eq (k : Nat) (x : Acq) : (c.setAcq k x).arbs = c.arbs := rfl
@[simp] theorem setAcq_ports_eq (k : Nat) (x : Acq) : (c.setAcq k x).ports = c.ports := rfl
@[simp] theorem setAcq_mon_eq (k : Nat) (x : Acq) : (c.setAcq k x).mon = c.mon := rfl
@[simp] theorem setAcq_tpt_eq (k : Nat) (x : Acq) : (c.setAcq k x).tpt = c.tpt := rfl
@[simp] theorem setAcq_cal_eq (k : Nat) (x : Acq) : (c.setAcq k x).cal = c.cal := rfl
@[simp] theorem setAcq_thm_eq (k : Nat) (x : Acq) : (c.setAcq k x).thm = c.thm := rfl
@[simp] theorem setAcq_pins_eq (k : Nat) (x : Acq) : (c.setAcq k x).pins = c.pins := rfl
@[simp] theorem setAcq_boot_eq (k : Nat) (x : Acq) : (c.setAcq k x).boot = c.boot := rfl
@[simp] theorem setAcq_cell_at (k : Nat) (x : Acq) (j : Nat) : (c.setAcq k x).cell j = c.cell j := by simp [Core.cell]
@[simp] theorem setAcq_blk_at (k : Nat) (x : Acq) (j : Nat) : (c.setAcq k x).blk j = c.blk j := by simp [Core.blk]
@[simp] theorem setAcq_rgn_at (k : Nat) (x : Acq) (j : Nat) : (c.setAcq k x).rgn j = c.rgn j := by simp [Core.rgn]
@[simp] theorem setAcq_lane_at (k : Nat) (x : Acq) (j : Nat) : (c.setAcq k x).lane j = c.lane j := by simp [Core.lane]
@[simp] theorem setAcq_dac_at (k : Nat) (x : Acq) (j : Nat) : (c.setAcq k x).dac j = c.dac j := by simp [Core.dac]
@[simp] theorem setAcq_bb_at (k : Nat) (x : Acq) (j : Nat) : (c.setAcq k x).bb j = c.bb j := by simp [Core.bb]
@[simp] theorem setAcq_vec_at (k : Nat) (x : Acq) (j : Nat) : (c.setAcq k x).vec j = c.vec j := by simp [Core.vec]
@[simp] theorem setAcq_adc_at (k : Nat) (x : Acq) (j : Nat) : (c.setAcq k x).adc j = c.adc j := by simp [Core.adc]
@[simp] theorem setAcq_book_at (k : Nat) (x : Acq) (j : Nat) : (c.setAcq k x).book j = c.book j := by simp [Core.book]
@[simp] theorem setAcq_arb_at (k : Nat) (x : Acq) (j : Nat) : (c.setAcq k x).arb j = c.arb j := by simp [Core.arb]
@[simp] theorem setAcq_port_at (k : Nat) (x : Acq) (j : Nat) : (c.setAcq k x).port j = c.port j := by simp [Core.port]
@[simp] theorem setAcq_ring_at (k : Nat) (x : Acq) (j : Nat) : (c.setAcq k x).ring j = c.ring j := by simp [Core.ring]
@[simp] theorem setAcq_pc_at (k : Nat) (x : Acq) (j : Nat) : (c.setAcq k x).pc j = c.pc j := by simp [Core.pc]
@[simp] theorem setAcq_get (k : Nat) (x : Acq) (y : Fld) : (c.setAcq k x).get y = c.get y := rfl
@[simp] theorem setBook_now_eq (k : Nat) (x : Book) : (c.setBook k x).now = c.now := rfl
@[simp] theorem setBook_running_eq (k : Nat) (x : Book) : (c.setBook k x).running = c.running := rfl
@[simp] theorem setBook_freeCtr_eq (k : Nat) (x : Book) : (c.setBook k x).freeCtr = c.freeCtr := rfl
@[simp] theorem setBook_live_eq (k : Nat) (x : Book) : (c.setBook k x).live = c.live := rfl
@[simp] theorem setBook_act_eq (k : Nat) (x : Book) : (c.setBook k x).act = c.act := rfl
@[simp] theorem setBook_shd_eq (k : Nat) (x : Book) : (c.setBook k x).shd = c.shd := rfl
@[simp] theorem setBook_cells_eq (k : Nat) (x : Book) : (c.setBook k x).cells = c.cells := rfl
@[simp] theorem setBook_blks_eq (k : Nat) (x : Book) : (c.setBook k x).blks = c.blks := rfl
@[simp] theorem setBook_rgns_eq (k : Nat) (x : Book) : (c.setBook k x).rgns = c.rgns := rfl
@[simp] theorem setBook_lanes_eq (k : Nat) (x : Book) : (c.setBook k x).lanes = c.lanes := rfl
@[simp] theorem setBook_dacs_eq (k : Nat) (x : Book) : (c.setBook k x).dacs = c.dacs := rfl
@[simp] theorem setBook_bbs_eq (k : Nat) (x : Book) : (c.setBook k x).bbs = c.bbs := rfl
@[simp] theorem setBook_vecs_eq (k : Nat) (x : Book) : (c.setBook k x).vecs = c.vecs := rfl
@[simp] theorem setBook_adcs_eq (k : Nat) (x : Book) : (c.setBook k x).adcs = c.adcs := rfl
@[simp] theorem setBook_acqs_eq (k : Nat) (x : Book) : (c.setBook k x).acqs = c.acqs := rfl
@[simp] theorem setBook_bus_eq (k : Nat) (x : Book) : (c.setBook k x).bus = c.bus := rfl
@[simp] theorem setBook_busSeq_eq (k : Nat) (x : Book) : (c.setBook k x).busSeq = c.busSeq := rfl
@[simp] theorem setBook_occOld_eq (k : Nat) (x : Book) : (c.setBook k x).occOld = c.occOld := rfl
@[simp] theorem setBook_srcs_eq (k : Nat) (x : Book) : (c.setBook k x).srcs = c.srcs := rfl
@[simp] theorem setBook_root_eq (k : Nat) (x : Book) : (c.setBook k x).root = c.root := rfl
@[simp] theorem setBook_ser_eq (k : Nat) (x : Book) : (c.setBook k x).ser = c.ser := rfl
@[simp] theorem setBook_host_eq (k : Nat) (x : Book) : (c.setBook k x).host = c.host := rfl
@[simp] theorem setBook_hbmc_eq (k : Nat) (x : Book) : (c.setBook k x).hbmc = c.hbmc := rfl
@[simp] theorem setBook_arbs_eq (k : Nat) (x : Book) : (c.setBook k x).arbs = c.arbs := rfl
@[simp] theorem setBook_ports_eq (k : Nat) (x : Book) : (c.setBook k x).ports = c.ports := rfl
@[simp] theorem setBook_mon_eq (k : Nat) (x : Book) : (c.setBook k x).mon = c.mon := rfl
@[simp] theorem setBook_tpt_eq (k : Nat) (x : Book) : (c.setBook k x).tpt = c.tpt := rfl
@[simp] theorem setBook_cal_eq (k : Nat) (x : Book) : (c.setBook k x).cal = c.cal := rfl
@[simp] theorem setBook_thm_eq (k : Nat) (x : Book) : (c.setBook k x).thm = c.thm := rfl
@[simp] theorem setBook_pins_eq (k : Nat) (x : Book) : (c.setBook k x).pins = c.pins := rfl
@[simp] theorem setBook_boot_eq (k : Nat) (x : Book) : (c.setBook k x).boot = c.boot := rfl
@[simp] theorem setBook_cell_at (k : Nat) (x : Book) (j : Nat) : (c.setBook k x).cell j = c.cell j := by simp [Core.cell]
@[simp] theorem setBook_blk_at (k : Nat) (x : Book) (j : Nat) : (c.setBook k x).blk j = c.blk j := by simp [Core.blk]
@[simp] theorem setBook_rgn_at (k : Nat) (x : Book) (j : Nat) : (c.setBook k x).rgn j = c.rgn j := by simp [Core.rgn]
@[simp] theorem setBook_lane_at (k : Nat) (x : Book) (j : Nat) : (c.setBook k x).lane j = c.lane j := by simp [Core.lane]
@[simp] theorem setBook_dac_at (k : Nat) (x : Book) (j : Nat) : (c.setBook k x).dac j = c.dac j := by simp [Core.dac]
@[simp] theorem setBook_bb_at (k : Nat) (x : Book) (j : Nat) : (c.setBook k x).bb j = c.bb j := by simp [Core.bb]
@[simp] theorem setBook_vec_at (k : Nat) (x : Book) (j : Nat) : (c.setBook k x).vec j = c.vec j := by simp [Core.vec]
@[simp] theorem setBook_adc_at (k : Nat) (x : Book) (j : Nat) : (c.setBook k x).adc j = c.adc j := by simp [Core.adc]
@[simp] theorem setBook_acq_at (k : Nat) (x : Book) (j : Nat) : (c.setBook k x).acq j = c.acq j := by simp [Core.acq]
@[simp] theorem setBook_arb_at (k : Nat) (x : Book) (j : Nat) : (c.setBook k x).arb j = c.arb j := by simp [Core.arb]
@[simp] theorem setBook_port_at (k : Nat) (x : Book) (j : Nat) : (c.setBook k x).port j = c.port j := by simp [Core.port]
@[simp] theorem setBook_ring_at (k : Nat) (x : Book) (j : Nat) : (c.setBook k x).ring j = c.ring j := by simp [Core.ring]
@[simp] theorem setBook_pc_at (k : Nat) (x : Book) (j : Nat) : (c.setBook k x).pc j = c.pc j := by simp [Core.pc]
@[simp] theorem setBook_get (k : Nat) (x : Book) (y : Fld) : (c.setBook k x).get y = c.get y := rfl
@[simp] theorem setArb_now_eq (k : Nat) (x : ArbSt) : (c.setArb k x).now = c.now := rfl
@[simp] theorem setArb_running_eq (k : Nat) (x : ArbSt) : (c.setArb k x).running = c.running := rfl
@[simp] theorem setArb_freeCtr_eq (k : Nat) (x : ArbSt) : (c.setArb k x).freeCtr = c.freeCtr := rfl
@[simp] theorem setArb_live_eq (k : Nat) (x : ArbSt) : (c.setArb k x).live = c.live := rfl
@[simp] theorem setArb_act_eq (k : Nat) (x : ArbSt) : (c.setArb k x).act = c.act := rfl
@[simp] theorem setArb_shd_eq (k : Nat) (x : ArbSt) : (c.setArb k x).shd = c.shd := rfl
@[simp] theorem setArb_cells_eq (k : Nat) (x : ArbSt) : (c.setArb k x).cells = c.cells := rfl
@[simp] theorem setArb_blks_eq (k : Nat) (x : ArbSt) : (c.setArb k x).blks = c.blks := rfl
@[simp] theorem setArb_rgns_eq (k : Nat) (x : ArbSt) : (c.setArb k x).rgns = c.rgns := rfl
@[simp] theorem setArb_lanes_eq (k : Nat) (x : ArbSt) : (c.setArb k x).lanes = c.lanes := rfl
@[simp] theorem setArb_dacs_eq (k : Nat) (x : ArbSt) : (c.setArb k x).dacs = c.dacs := rfl
@[simp] theorem setArb_bbs_eq (k : Nat) (x : ArbSt) : (c.setArb k x).bbs = c.bbs := rfl
@[simp] theorem setArb_vecs_eq (k : Nat) (x : ArbSt) : (c.setArb k x).vecs = c.vecs := rfl
@[simp] theorem setArb_adcs_eq (k : Nat) (x : ArbSt) : (c.setArb k x).adcs = c.adcs := rfl
@[simp] theorem setArb_acqs_eq (k : Nat) (x : ArbSt) : (c.setArb k x).acqs = c.acqs := rfl
@[simp] theorem setArb_books_eq (k : Nat) (x : ArbSt) : (c.setArb k x).books = c.books := rfl
@[simp] theorem setArb_bus_eq (k : Nat) (x : ArbSt) : (c.setArb k x).bus = c.bus := rfl
@[simp] theorem setArb_busSeq_eq (k : Nat) (x : ArbSt) : (c.setArb k x).busSeq = c.busSeq := rfl
@[simp] theorem setArb_occOld_eq (k : Nat) (x : ArbSt) : (c.setArb k x).occOld = c.occOld := rfl
@[simp] theorem setArb_srcs_eq (k : Nat) (x : ArbSt) : (c.setArb k x).srcs = c.srcs := rfl
@[simp] theorem setArb_root_eq (k : Nat) (x : ArbSt) : (c.setArb k x).root = c.root := rfl
@[simp] theorem setArb_ser_eq (k : Nat) (x : ArbSt) : (c.setArb k x).ser = c.ser := rfl
@[simp] theorem setArb_host_eq (k : Nat) (x : ArbSt) : (c.setArb k x).host = c.host := rfl
@[simp] theorem setArb_hbmc_eq (k : Nat) (x : ArbSt) : (c.setArb k x).hbmc = c.hbmc := rfl
@[simp] theorem setArb_ports_eq (k : Nat) (x : ArbSt) : (c.setArb k x).ports = c.ports := rfl
@[simp] theorem setArb_mon_eq (k : Nat) (x : ArbSt) : (c.setArb k x).mon = c.mon := rfl
@[simp] theorem setArb_tpt_eq (k : Nat) (x : ArbSt) : (c.setArb k x).tpt = c.tpt := rfl
@[simp] theorem setArb_cal_eq (k : Nat) (x : ArbSt) : (c.setArb k x).cal = c.cal := rfl
@[simp] theorem setArb_thm_eq (k : Nat) (x : ArbSt) : (c.setArb k x).thm = c.thm := rfl
@[simp] theorem setArb_pins_eq (k : Nat) (x : ArbSt) : (c.setArb k x).pins = c.pins := rfl
@[simp] theorem setArb_boot_eq (k : Nat) (x : ArbSt) : (c.setArb k x).boot = c.boot := rfl
@[simp] theorem setArb_cell_at (k : Nat) (x : ArbSt) (j : Nat) : (c.setArb k x).cell j = c.cell j := by simp [Core.cell]
@[simp] theorem setArb_blk_at (k : Nat) (x : ArbSt) (j : Nat) : (c.setArb k x).blk j = c.blk j := by simp [Core.blk]
@[simp] theorem setArb_rgn_at (k : Nat) (x : ArbSt) (j : Nat) : (c.setArb k x).rgn j = c.rgn j := by simp [Core.rgn]
@[simp] theorem setArb_lane_at (k : Nat) (x : ArbSt) (j : Nat) : (c.setArb k x).lane j = c.lane j := by simp [Core.lane]
@[simp] theorem setArb_dac_at (k : Nat) (x : ArbSt) (j : Nat) : (c.setArb k x).dac j = c.dac j := by simp [Core.dac]
@[simp] theorem setArb_bb_at (k : Nat) (x : ArbSt) (j : Nat) : (c.setArb k x).bb j = c.bb j := by simp [Core.bb]
@[simp] theorem setArb_vec_at (k : Nat) (x : ArbSt) (j : Nat) : (c.setArb k x).vec j = c.vec j := by simp [Core.vec]
@[simp] theorem setArb_adc_at (k : Nat) (x : ArbSt) (j : Nat) : (c.setArb k x).adc j = c.adc j := by simp [Core.adc]
@[simp] theorem setArb_acq_at (k : Nat) (x : ArbSt) (j : Nat) : (c.setArb k x).acq j = c.acq j := by simp [Core.acq]
@[simp] theorem setArb_book_at (k : Nat) (x : ArbSt) (j : Nat) : (c.setArb k x).book j = c.book j := by simp [Core.book]
@[simp] theorem setArb_port_at (k : Nat) (x : ArbSt) (j : Nat) : (c.setArb k x).port j = c.port j := by simp [Core.port]
@[simp] theorem setArb_ring_at (k : Nat) (x : ArbSt) (j : Nat) : (c.setArb k x).ring j = c.ring j := by simp [Core.ring]
@[simp] theorem setArb_pc_at (k : Nat) (x : ArbSt) (j : Nat) : (c.setArb k x).pc j = c.pc j := by simp [Core.pc]
@[simp] theorem setArb_get (k : Nat) (x : ArbSt) (y : Fld) : (c.setArb k x).get y = c.get y := rfl
@[simp] theorem setPort_now_eq (k : Nat) (x : Port) : (c.setPort k x).now = c.now := rfl
@[simp] theorem setPort_running_eq (k : Nat) (x : Port) : (c.setPort k x).running = c.running := rfl
@[simp] theorem setPort_freeCtr_eq (k : Nat) (x : Port) : (c.setPort k x).freeCtr = c.freeCtr := rfl
@[simp] theorem setPort_live_eq (k : Nat) (x : Port) : (c.setPort k x).live = c.live := rfl
@[simp] theorem setPort_act_eq (k : Nat) (x : Port) : (c.setPort k x).act = c.act := rfl
@[simp] theorem setPort_shd_eq (k : Nat) (x : Port) : (c.setPort k x).shd = c.shd := rfl
@[simp] theorem setPort_cells_eq (k : Nat) (x : Port) : (c.setPort k x).cells = c.cells := rfl
@[simp] theorem setPort_blks_eq (k : Nat) (x : Port) : (c.setPort k x).blks = c.blks := rfl
@[simp] theorem setPort_rgns_eq (k : Nat) (x : Port) : (c.setPort k x).rgns = c.rgns := rfl
@[simp] theorem setPort_lanes_eq (k : Nat) (x : Port) : (c.setPort k x).lanes = c.lanes := rfl
@[simp] theorem setPort_dacs_eq (k : Nat) (x : Port) : (c.setPort k x).dacs = c.dacs := rfl
@[simp] theorem setPort_bbs_eq (k : Nat) (x : Port) : (c.setPort k x).bbs = c.bbs := rfl
@[simp] theorem setPort_vecs_eq (k : Nat) (x : Port) : (c.setPort k x).vecs = c.vecs := rfl
@[simp] theorem setPort_adcs_eq (k : Nat) (x : Port) : (c.setPort k x).adcs = c.adcs := rfl
@[simp] theorem setPort_acqs_eq (k : Nat) (x : Port) : (c.setPort k x).acqs = c.acqs := rfl
@[simp] theorem setPort_books_eq (k : Nat) (x : Port) : (c.setPort k x).books = c.books := rfl
@[simp] theorem setPort_bus_eq (k : Nat) (x : Port) : (c.setPort k x).bus = c.bus := rfl
@[simp] theorem setPort_busSeq_eq (k : Nat) (x : Port) : (c.setPort k x).busSeq = c.busSeq := rfl
@[simp] theorem setPort_occOld_eq (k : Nat) (x : Port) : (c.setPort k x).occOld = c.occOld := rfl
@[simp] theorem setPort_srcs_eq (k : Nat) (x : Port) : (c.setPort k x).srcs = c.srcs := rfl
@[simp] theorem setPort_root_eq (k : Nat) (x : Port) : (c.setPort k x).root = c.root := rfl
@[simp] theorem setPort_ser_eq (k : Nat) (x : Port) : (c.setPort k x).ser = c.ser := rfl
@[simp] theorem setPort_host_eq (k : Nat) (x : Port) : (c.setPort k x).host = c.host := rfl
@[simp] theorem setPort_hbmc_eq (k : Nat) (x : Port) : (c.setPort k x).hbmc = c.hbmc := rfl
@[simp] theorem setPort_arbs_eq (k : Nat) (x : Port) : (c.setPort k x).arbs = c.arbs := rfl
@[simp] theorem setPort_mon_eq (k : Nat) (x : Port) : (c.setPort k x).mon = c.mon := rfl
@[simp] theorem setPort_tpt_eq (k : Nat) (x : Port) : (c.setPort k x).tpt = c.tpt := rfl
@[simp] theorem setPort_cal_eq (k : Nat) (x : Port) : (c.setPort k x).cal = c.cal := rfl
@[simp] theorem setPort_thm_eq (k : Nat) (x : Port) : (c.setPort k x).thm = c.thm := rfl
@[simp] theorem setPort_pins_eq (k : Nat) (x : Port) : (c.setPort k x).pins = c.pins := rfl
@[simp] theorem setPort_boot_eq (k : Nat) (x : Port) : (c.setPort k x).boot = c.boot := rfl
@[simp] theorem setPort_cell_at (k : Nat) (x : Port) (j : Nat) : (c.setPort k x).cell j = c.cell j := by simp [Core.cell]
@[simp] theorem setPort_blk_at (k : Nat) (x : Port) (j : Nat) : (c.setPort k x).blk j = c.blk j := by simp [Core.blk]
@[simp] theorem setPort_rgn_at (k : Nat) (x : Port) (j : Nat) : (c.setPort k x).rgn j = c.rgn j := by simp [Core.rgn]
@[simp] theorem setPort_lane_at (k : Nat) (x : Port) (j : Nat) : (c.setPort k x).lane j = c.lane j := by simp [Core.lane]
@[simp] theorem setPort_dac_at (k : Nat) (x : Port) (j : Nat) : (c.setPort k x).dac j = c.dac j := by simp [Core.dac]
@[simp] theorem setPort_bb_at (k : Nat) (x : Port) (j : Nat) : (c.setPort k x).bb j = c.bb j := by simp [Core.bb]
@[simp] theorem setPort_vec_at (k : Nat) (x : Port) (j : Nat) : (c.setPort k x).vec j = c.vec j := by simp [Core.vec]
@[simp] theorem setPort_adc_at (k : Nat) (x : Port) (j : Nat) : (c.setPort k x).adc j = c.adc j := by simp [Core.adc]
@[simp] theorem setPort_acq_at (k : Nat) (x : Port) (j : Nat) : (c.setPort k x).acq j = c.acq j := by simp [Core.acq]
@[simp] theorem setPort_book_at (k : Nat) (x : Port) (j : Nat) : (c.setPort k x).book j = c.book j := by simp [Core.book]
@[simp] theorem setPort_arb_at (k : Nat) (x : Port) (j : Nat) : (c.setPort k x).arb j = c.arb j := by simp [Core.arb]
@[simp] theorem setPort_ring_at (k : Nat) (x : Port) (j : Nat) : (c.setPort k x).ring j = c.ring j := by simp [Core.ring]
@[simp] theorem setPort_pc_at (k : Nat) (x : Port) (j : Nat) : (c.setPort k x).pc j = c.pc j := by simp [Core.pc]
@[simp] theorem setPort_get (k : Nat) (x : Port) (y : Fld) : (c.setPort k x).get y = c.get y := rfl
@[simp] theorem raise_ring_at (e l i a b : Nat) (j : Nat) : (c.raise e l i a b).ring j = c.ring j := rfl
@[simp] theorem emit_ring_at (o : HostOut) (j : Nat) : (c.emit o).ring j = c.ring j := rfl

end Sys2Proof.Laws
end

