-- ==== Sys2Proof/Laws/Frames.lean ====
section
/-!
SUPPORT. Lemmas for completion and frame statements: how a completed command is shown, and how "no other register changes" passes through the basic updates.
-/
namespace Sys2Proof.Laws

open Sys2Proof Sys2Proof.Machine

/-- A command whose effect is on the core alone completes. -/
theorem completes_onCore {c : Instr} {s : State} {f : Mems → Core → Core} {P : State → Prop} (e : exec c s = s.onCore f)
    (h : P { s with core := f s.mem s.core }) : Completes c s P := ⟨_, e, h⟩

/-- A command over the memories and the core completes. -/
theorem completes_onBoth {c : Instr} {s : State} {f : Mems → Core → Mems × Core} {P : State → Prop} (e : exec c s = s.onBoth f)
    (h : P { s with mem := (f s.mem s.core).1, core := (f s.mem s.core).2 }) : Completes c s P := ⟨_, e, h⟩

/-- A command whose effect is on the core alone gives that core. -/
theorem gives_onCore {c : Instr} {s : State} {f : Mems → Core → Core} {d : Core} (e : exec c s = s.onCore f) (h : f s.mem s.core = d) : Gives c s d := by
  rw [Gives, e, State.onCore, h]

/-- The same for a command that could have changed the memories and did not. -/
theorem gives_onBoth {c : Instr} {s : State} {f : Mems → Core → Mems × Core} {d : Core} (e : exec c s = s.onBoth f) (h : f s.mem s.core = (s.mem, d)) :
    Gives c s d := by
  rw [Gives, e, State.onBoth, h]

theorem apart_symm {x y : Fld} (h : Apart x y) : Apart y x := by
  unfold Apart at *
  omega

/-- A write of a field that is no SH field changes the table of the other registers only. -/
theorem put_of_live (c : Core) (x : Fld) (v : Nat) (h : x.acc ≠ .sh) : c.put x v = { c with live := putIn c.live x v } := by
  unfold Core.put; split
  · exact absurd (by assumption) h
  · rfl

/-- A write of an SH field by the hardware changes the active set only. -/
theorem put_of_sh (c : Core) (x : Fld) (v : Nat) (h : x.acc = .sh) : c.put x v = { c with act := putIn c.act x v } := by
  unfold Core.put; rw [h]

/-- A field that shares no bit with the written one keeps its value. -/
theorem get_put_other (c : Core) (x y : Fld) (v : Nat) (hx : x.lo + x.w ≤ 32) (h : Apart x y) : (c.put x v).get y = c.get y :=
  get_put_apart c x y v hx h

/-- The shadow set after a write by the hardware. -/
@[simp] theorem put_sh (c : Core) (x y : Fld) (v : Nat) : (c.put x v).sh y = c.sh y := by simp [Core.sh]

theorem keepsRegs_refl (xs : List Fld) (c : Core) : KeepsRegs xs c c := fun _ _ => ⟨rfl, rfl⟩

theorem KeepsRegs.trans {xs : List Fld} {c d e : Core} (h : KeepsRegs xs c d) (k : KeepsRegs xs d e) : KeepsRegs xs c e :=
  fun y hy => ⟨(k y hy).1.trans (h y hy).1, (k y hy).2.trans (h y hy).2⟩

/-- A write of a field that may change. -/
theorem KeepsRegs.put {xs : List Fld} {c d : Core} {x : Fld} (v : Nat) (hx : x.lo + x.w ≤ 32) (hm : x ∈ xs) (h : KeepsRegs xs c d) :
    KeepsRegs xs c (d.put x v) :=
  fun y hy => ⟨(get_put_other d x y v hx (hy x hm)).trans (h y hy).1, (put_sh d x y v).trans (h y hy).2⟩

/-- An update of parts that hold no register. -/
theorem KeepsRegs.of_regs {xs : List Fld} {c d e : Core} (h : KeepsRegs xs c d) (h1 : e.live = d.live) (h2 : e.act = d.act) (h3 : e.shd = d.shd) :
    KeepsRegs xs c e :=
  fun y hy => by
    have g : e.get y = d.get y := by unfold Core.get; rw [h1, h2]
    have k : e.sh y = d.sh y := by unfold Core.sh; rw [h3]
    exact ⟨g.trans (h y hy).1, k.trans (h y hy).2⟩

/-- A register reads the same in two cores with the same tables of registers. -/
theorem get_congr {c d : Core} (x : Fld) (h1 : d.live = c.live) (h2 : d.act = c.act) : d.get x = c.get x := by
  unfold Core.get; rw [h1, h2]

end Sys2Proof.Laws
end

