-- ==== Sys2Proof/Laws/Complete.lean ====
section
/-!
SUPPORT. The command slot of a ring: what beginning, going into execution and completing a command do to the rings.
-/
namespace Sys2Proof.Laws

open Sys2Proof Sys2Proof.Machine

/-- Completing an empty slot changes nothing. -/
theorem complete_none {c : Core} {n : Nat} (h : (c.ring n).cmd = none) (st : Sts) (a b : Nat) : c.complete n st a b = c := by
  unfold Core.complete; rw [h]

/-- The block before the completion joins its ring: the slot is empty, the command counted, what it had at the stack over. -/
def slotOff (c : Core) (n : Nat) (halt : Bool) : Core :=
  (((c.dropWork 169 (cmdTag n)).dropWork 169 (cmdBackTag n)).modRing n (fun r => { r with cmd := none, done := r.done + 1 })).stick (Fd.CHP_RING_STS_HALTED n) halt

/-- Completing the command `k`: the slot is emptied, then the completion joins the ring that COMPL names. -/
theorem complete_some {c : Core} {n : Nat} {k : Cmd} (h : (c.ring n).cmd = some k) (st : Sts) (a b : Nat) :
    c.complete n st a b = (slotOff c n (descBits k.desc 1 1 == 1 && st != Sts.ok)).modRing (c.get (Fd.CHP_RING_CFG_COMPL n)) (fun r =>
      { r with comps := r.comps ++ [compOf n k st (a % 2 ^ 64) (b % 2 ^ 64) c.now], reserved := r.reserved - 1 }) := by
  have e : ∀ q, (slotOff c n q).get (Fd.CHP_RING_CFG_COMPL n) = c.get (Fd.CHP_RING_CFG_COMPL n) := by
    intro q
    unfold slotOff Core.stick
    split
    · rw [get_put_other _ _ _ _ (by simp [Fd.CHP_RING_STS_HALTED]) (by left; simp only [Fd.CHP_RING_STS_HALTED, Fd.CHP_RING_CFG_COMPL, Fd.CHP_RING_STS, Fd.CHP_RING_CFG]; omega)]
      simp
    · simp
  unfold Core.complete
  rw [h]
  simp only [compOf]
  conv_lhs => rw [show ((((c.dropWork 169 (cmdTag n)).dropWork 169 (cmdBackTag n)).modRing n (fun r => { r with cmd := none, done := r.done + 1 })).stick (Fd.CHP_RING_STS_HALTED n)
    (descBits k.desc 1 1 == 1 && st != Sts.ok)) = slotOff c n (descBits k.desc 1 1 == 1 && st != Sts.ok) from rfl]
  rw [e]

@[simp] theorem slotOff_ring (c : Core) (n j : Nat) (q : Bool) :
    (slotOff c n q).ring j = if j = n then { c.ring n with cmd := none, done := (c.ring n).done + 1 } else c.ring j := by
  simp [slotOff]

/-- The slot of the ring after completion. -/
theorem complete_slot {c : Core} {n : Nat} {k : Cmd} (h : (c.ring n).cmd = some k) (st : Sts) (a b : Nat) :
    ((c.complete n st a b).ring n).cmd = none ∧ ((c.complete n st a b).ring n).done = (c.ring n).done + 1 := by
  rw [complete_some h, ring_modRing, slotOff_ring, slotOff_ring, if_pos rfl]
  split
  · next e => rw [if_pos e.symm]; exact ⟨rfl, rfl⟩
  · exact ⟨rfl, rfl⟩

/-- The completions that wait for the ring that COMPL names. -/
theorem complete_comps {c : Core} {n : Nat} {k : Cmd} (h : (c.ring n).cmd = some k) (st : Sts) (a b : Nat) :
    ((c.complete n st a b).ring (c.get (Fd.CHP_RING_CFG_COMPL n))).comps =
      (c.ring (c.get (Fd.CHP_RING_CFG_COMPL n))).comps ++ [compOf n k st (a % 2 ^ 64) (b % 2 ^ 64) c.now] := by
  rw [complete_some h, ring_modRing, slotOff_ring, if_pos rfl]
  split
  · next e => rw [e]
  · rfl

/-- A field apart from HALTED reads as before. -/
theorem complete_get {c : Core} {n : Nat} (st : Sts) (a b : Nat) (y : Fld) (hy : Apart (Fd.CHP_RING_STS_HALTED n) y) :
    (c.complete n st a b).get y = c.get y := by
  cases h : (c.ring n).cmd with
  | none => rw [complete_none h]
  | some k =>
    rw [complete_some h]
    simp only [modRing_get, slotOff, Core.stick]
    split
    · rw [get_put_other _ _ _ _ (by simp [Fd.CHP_RING_STS_HALTED]) hy]; simp
    · simp

/-- HALTED after a completion that asks for it. -/
theorem complete_halted {c : Core} {n : Nat} {k : Cmd} (h : (c.ring n).cmd = some k) (st : Sts) (a b : Nat)
    (hh : descBits k.desc 1 1 = 1) (hs : st ≠ .ok) : (c.complete n st a b).get (Fd.CHP_RING_STS_HALTED n) = 1 := by
  rw [complete_some h]
  have : (descBits k.desc 1 1 == 1 && st != Sts.ok) = true := by simp [hh, hs]
  simp only [modRing_get, slotOff, Core.stick, this, if_true]
  rw [get_put_same _ _ _ (by simp [Fd.CHP_RING_STS_HALTED])]
  rfl

/-- A core whose ring `n` still holds the command of `s`, completed. -/
theorem done_complete {s t : State} {c : Core} {n : Nat} {st : Sts} {r0 r1 : Nat} {k k' : Cmd} (ht : t.core = c.complete n st r0 r1)
    (hs : (s.core.ring n).cmd = some k) (hc : (c.ring n).cmd = some k') (hd : k'.desc = k.desc) (hi : k'.index = k.index)
    (hz : c.get (Fd.CHP_RING_CFG_COMPL n) = s.core.get (Fd.CHP_RING_CFG_COMPL n))
    (hq : (c.ring (s.core.get (Fd.CHP_RING_CFG_COMPL n))).comps = (s.core.ring (s.core.get (Fd.CHP_RING_CFG_COMPL n))).comps)
    (hdone : (c.ring n).done = (s.core.ring n).done) (hnow : c.now = s.core.now) (h0 : r0 < 2 ^ 64) (h1 : r1 < 2 ^ 64) : Done n st r0 r1 s t := by
  refine ⟨k, hs, ?_, ?_, ?_, ?_⟩
  · rw [ht]; exact (complete_slot hc st r0 r1).1
  · rw [ht, (complete_slot hc st r0 r1).2, hdone]
  · rw [ht, ← hz, complete_comps hc st r0 r1, hz, hq, hnow]
    simp only [compOf, hd, hi, Nat.mod_eq_of_lt h0, Nat.mod_eq_of_lt h1]
  · intro hh hne
    rw [ht]
    exact complete_halted hc st r0 r1 (hd ▸ hh) hne

/-- What `waits` says of the slot. -/
theorem waits_some {c : Core} {n : Nat} {op : CmdOp} {d : Desc} (h : c.waits n op = some d) :
    ∃ k, (c.ring n).cmd = some k ∧ k.desc = d ∧ k.exec = false ∧ c.svc = true := by
  unfold Core.waits at h
  cases e : (c.ring n).cmd with
  | none => simp [e] at h
  | some k =>
    rw [e] at h
    simp only [Option.ite_none_right_eq_some, Bool.and_eq_true, Bool.not_eq_true', Option.some.injEq] at h
    exact ⟨k, rfl, h.2, h.1.1.1.1.2, h.1.1.1.1.1⟩

/-- A command that may start runs its own effect on the core in which it has begun. -/
theorem runCmd_ready {s : State} {n : Nat} {op : CmdOp} {d : Desc} (m : Mems) (f : Mems → Core → Desc → Mems × Core) (h : Ready n op d s) :
    runCmd m s.core n op f = f m (s.core.begin_ n) d := by
  obtain ⟨_, hw, he⟩ := h
  unfold runCmd
  rw [hw]
  have : (s.core.begin_ n).on (Fd.CHP_RING_CFG_EN n) = true := by
    simp [Core.begin_, he]
  simp only [this, if_true]

/-- The core in which a command has begun differs from the one before in its rings only. -/
theorem begin_eq (c : Core) (n : Nat) : c.begin_ n = { c with host := { c.host with rings := (c.begin_ n).host.rings } } := rfl

/-- The rings after a command has begun. -/
theorem begin_ring (c : Core) (n j : Nat) : (c.begin_ n).ring j =
    if j = n then { (if n = c.get (Fd.CHP_RING_CFG_COMPL n) then { c.ring n with reserved := (c.ring n).reserved + 1 } else c.ring n) with
       cmd := (c.ring n).cmd.map (fun k => { k with start := c.now }) }
    else if j = c.get (Fd.CHP_RING_CFG_COMPL n) then { c.ring j with reserved := (c.ring j).reserved + 1 } else c.ring j := by
  simp only [Core.begin_, ring_modRing]
  split
  · split
    · next e e' => simp [← e']
    · rfl
  · split
    · next e => simp [e]
    · rfl

/-- The slot notes the start tick. -/
theorem begin_cmd {c : Core} {n : Nat} {k : Cmd} (h : (c.ring n).cmd = some k) : ((c.begin_ n).ring n).cmd = some { k with start := c.now } := by
  rw [begin_ring, if_pos rfl]; simp [h]
theorem begin_comps (c : Core) (n j : Nat) : ((c.begin_ n).ring j).comps = (c.ring j).comps := by
  rw [begin_ring]; split
  · next e => subst e; split <;> rfl
  · split <;> rfl
theorem begin_done (c : Core) (n j : Nat) : ((c.begin_ n).ring j).done = (c.ring j).done := by
  rw [begin_ring]; split
  · next e => subst e; split <;> rfl
  · split <;> rfl

/-- A completion entry is reserved. -/
theorem begin_reserved (c : Core) (n : Nat) : ((c.begin_ n).ring (c.get (Fd.CHP_RING_CFG_COMPL n))).reserved = (c.ring (c.get (Fd.CHP_RING_CFG_COMPL n))).reserved + 1 := by
  rw [begin_ring]; split
  · next e => rw [e]; simp
  · simp
@[simp] theorem begin_get (c : Core) (n : Nat) (x : Fld) : (c.begin_ n).get x = c.get x := get_congr _ rfl rfl

/-- A command that begins and completes in one step is done. -/
theorem done_begin {s t : State} {n : Nat} {op : CmdOp} {d : Desc} {st : Sts} {r0 r1 : Nat} {c : Core} (h : Ready n op d s)
   (ht : t.core = c.complete n st r0 r1) (hr : ∀ j, c.ring j = (s.core.begin_ n).ring j) (hz : c.get (Fd.CHP_RING_CFG_COMPL n) = s.core.get (Fd.CHP_RING_CFG_COMPL n))
   (hnow : c.now = s.core.now) (h0 : r0 < 2 ^ 64) (h1 : r1 < 2 ^ 64) : Done n st r0 r1 s t := by
  obtain ⟨k, hk, -, -, -⟩ := waits_some h.2.1
  exact done_complete ht hk (k' := { k with start := s.core.now }) (by rw [hr]; exact begin_cmd hk) rfl rfl hz (by rw [hr, begin_comps]) (by rw [hr, begin_done]) hnow h0 h1

end Sys2Proof.Laws
end

