-- ==== Sys2Proof/Laws/Engine.lean ====
section
/-!
SUPPORT. The two slots of a bundle: what issuing slot A, issuing slot B and a fault of a bundle do to the machine.
-/
namespace Sys2Proof.Laws

open Sys2Proof Sys2Proof.Machine

/-- A bundle about to issue is legal in both slots. -/
theorem legal_slots {g : Nat} {b : Bndl} {s : State} (h : AtBundle g b s) : slotALegal b = true ∧ slotBLegal b = true := by
  obtain ⟨_, _, _, h4, _, _⟩ := h
  simp only [bundleIllegal, Bool.or_eq_false_iff, Bool.not_eq_false'] at h4
  exact ⟨h4.1.1.1, h4.1.1.2⟩

/-- A unit of a cell that runs does what it does (R90). -/
theorem unitOf_live {c : Core} {g : Nat} (h : c.cellLive g = true) (m : Mems) (f : Core → Core) : c.unitOf m g f = f c := by
  unfold Core.unitOf
  have : (c.get (Fd.CEL_STS_STATE g) == 3) = false := by
    simp only [Core.cellLive, Bool.or_eq_true, beq_iff_eq] at h
    rcases h with h | h <;> simp [h]
  simp [this]

/-- An engine that runs is that of a live cell (R91). -/
theorem live_of_runs {c : Core} {g : Nat} (h : c.phxRuns g = true) : c.cellLive g = true := by
  simp only [Core.phxRuns, Bool.and_eq_true] at h
  exact h.1.1.1.1.2

/-- An engine that issues bundles runs (R70, R91, R448). -/
theorem runs_of_on {g : Nat} {s : State} (h : EngineOn g s) : s.core.phxRuns g = true := by
  obtain ⟨h1, h2, h3, h4, h5, h6⟩ := h
  rcases h2 with h2 | h2 <;> simp [Core.phxRuns, Core.cellLive, Core.on, h1, h2, h3, h4, h5, h6]

/-- The fetch of a bundle about to issue hands it on (R64, R85). -/
theorem fetch_eq {g : Nat} {b : Bndl} {s : State} (h : AtBundle g b s) (k : Core → Bndl → Core) : s.core.phxFetch s.mem g k = k s.core b := by
  obtain ⟨h1, h2, h3, h4, h5, -⟩ := h
  have h1 := runs_of_on h1
  unfold Core.phxFetch Core.eccRead
  rw [unitOf_live (live_of_runs h1)]
  dsimp only
  rw [h5, h3, h4, h1, if_neg (Nat.not_le.mpr h2)]
  cases (s.core.cell g).phx.aDone <;> rfl

/-- A fetch outside the engine's part of program memory faults the cell (R64). -/
theorem fetch_range {g : Nat} {s : State} (h1 : s.core.phxRuns g = true) (h2 : s.core.seqW g ≤ (s.core.cell g).phx.pc) (k : Core → Bndl → Core) :
    s.core.phxFetch s.mem g k = s.core.faultCell s.mem g [3] := by
  unfold Core.phxFetch; rw [unitOf_live (live_of_runs h1)]; simp [h1, h2]

/-- An illegal bundle faults the cell (R85, R90). -/
theorem fetch_illegal {g : Nat} {s : State} (h1 : s.core.phxRuns g = true) (h2 : (s.core.cell g).phx.pc < s.core.seqW g)
    (h3 : flawAt s.mem 1 (g * 4096 + (s.core.cell g).phx.pc) = none)
    (h4 : bundleIllegal (s.core.cell g).phx (bundle (pmWord s.mem g (s.core.cell g).phx.pc)) = true) (k : Core → Bndl → Core) :
    s.core.phxFetch s.mem g k =
      bundleFault s g (2 :: s.core.slotBFaults g (s.core.cell g).phx (bundle (pmWord s.mem g (s.core.cell g).phx.pc))) := by
  unfold Core.phxFetch Core.eccRead
  rw [unitOf_live (live_of_runs h1)]
  dsimp only
  rw [h3, h1, if_neg (Nat.not_le.mpr h2)]
  cases (s.core.cell g).phx.aDone <;> simp [h4, Core.refuseBundle, bundleFault]

/-- Slot A issues: its results and whether it saturated are those of the operation (R82). -/
theorem slotA_issued {s : State} {g op lat : Nat} {b : Bndl} {f : Bndl → Phx → Option PWrite × Bool} {ws : List PEntry} {sat : Bool} (h : AtBundle g b s)
    (ha : (s.core.cell g).phx.aDone = false) (ho : b.opa = op) (hw : ((f b (s.core.cell g).phx).1.map (fun w => ({ w := w, left := lat } : PEntry))).toList = ws)
    (hs : (f b (s.core.cell g).phx).2 = sat) : SlotAIssued g ws sat s { s with core := s.core.slotA s.mem g op lat f } := by
  have e : s.core.slotA s.mem g op lat f =
      (s.core.modCell g (fun x => { x with phx := { (s.core.cell g).phx with curA := ws, aDone := true } })).stick (Fd.CEL_STS_SAT g) sat := by
    unfold Core.slotA
    rw [fetch_eq h, if_neg (by simp [ho, ha, h.2.2.2.2.2]), ← hw, ← hs]
    generalize f b (s.core.cell g).phx = y
    obtain ⟨y | w, q⟩ := y <;> rfl
  unfold SlotAIssued
  rw [e]
  refine ⟨by simp, fun j hj => by simp [hj], ?_, ?_, rfl, rfl⟩ <;> unfold Core.stick <;> split
  · rw [get_put_same _ _ _ (by simp [Fd.CEL_STS_SAT])]; rfl
  · rfl
  · exact KeepsRegs.put _ (by simp [Fd.CEL_STS_SAT]) (by simp) (KeepsRegs.of_regs (keepsRegs_refl _ _) rfl rfl rfl)
  · exact KeepsRegs.of_regs (keepsRegs_refl _ _) rfl rfl rfl

/-- Slot B of a bundle whose slot A has issued, or is NOPA: a fault, or the bundle issues and `after` follows (R74, R83). -/
theorem slotB_eq {s : State} {g op : Nat} {b : Bndl} {f : Core → Bndl → Phx → BOut} {after : Core → Bndl → Core} (h : AtBundle g b s)
    (ha : (s.core.cell g).phx.aDone = true ∨ b.opa = 0) (ho : b.opb = op) :
    s.core.slotB s.mem g op f after =
      if (f s.core b (s.core.cell g).phx).fault.isEmpty then
        after ((s.core.put (Fd.CEL_STS_PHX_PC g) (s.core.cell g).phx.pc).setPhx g
          ((s.core.cell g).phx.issue (f s.core b (s.core.cell g).phx).ws (f s.core b (s.core.cell g).phx).nx).1
          ((s.core.cell g).phx.issue (f s.core b (s.core.cell g).phx).ws (f s.core b (s.core.cell g).phx).nx).2) b
      else bundleFault s g (f s.core b (s.core.cell g).phx).fault := by
  have hn : ¬ (b.opb ≠ op ∨ ((s.core.cell g).phx.aDone = false ∧ b.opa ≠ 0) ∨ s.core.phxStall g b = true) := by
    simp only [ho, h.2.2.2.2.2]
    rcases ha with ha | ha <;> simp [ha]
  unfold Core.slotB
  rw [fetch_eq h, if_neg hn]
  cases e : (f s.core b (s.core.cell g).phx).fault.isEmpty <;> simp only [e, bundleFault] <;> rfl

/-- A bundle that faults (R89). -/
theorem slotB_faults {s : State} {g op : Nat} {b : Bndl} {f : Core → Bndl → Phx → BOut} {after : Core → Bndl → Core} {codes : List Nat} (h : AtBundle g b s)
    (ha : (s.core.cell g).phx.aDone = true ∨ b.opa = 0) (ho : b.opb = op) (hf : (f s.core b (s.core.cell g).phx).fault = codes) (hc : codes ≠ []) :
    s.core.slotB s.mem g op f after = bundleFault s g codes := by
  rw [slotB_eq h ha ho, hf, if_neg (by simpa using hc)]

/-- A bundle that issues, before what its operation does besides (R74, R83). -/
theorem setPhx_issued {s : State} {g : Nat} {ws : List PEntry} {nx : PNext} (xs : List Fld) :
    SlotBIssued g ws nx id xs s
      { s with core := (s.core.put (Fd.CEL_STS_PHX_PC g) (s.core.cell g).phx.pc).setPhx g ((s.core.cell g).phx.issue ws nx).1 ((s.core.cell g).phx.issue ws nx).2 } := by
  have hp : (Fd.CEL_STS_PHX_PC g).lo + (Fd.CEL_STS_PHX_PC g).w ≤ 32 := by simp [Fd.CEL_STS_PHX_PC]
  have hv : (Fd.CEL_STS_AOV g).lo + (Fd.CEL_STS_AOV g).w ≤ 32 := by simp [Fd.CEL_STS_AOV]
  have hd : Apart (Fd.CEL_STS_AOV g) (Fd.CEL_STS_PHX_PC g) := by simp [Apart, Fd.CEL_STS_AOV, Fd.CEL_STS_PHX_PC]
  unfold SlotBIssued Core.setPhx Core.stick
  refine ⟨?_, ?_, ?_, ?_, ?_, rfl⟩
  · split <;> simp
  · intro j hj; split <;> simp [hj]
  · split
    · rw [get_put_other _ _ _ _ hv hd]; exact get_put_same _ _ _ hp
    · exact get_put_same _ _ _ hp
  · intro e
    simp only [e, if_true]
    rw [get_put_same _ _ _ hv]; rfl
  · split
    · exact KeepsRegs.put _ hv (by simp) (KeepsRegs.of_regs (KeepsRegs.put _ hp (by simp) (keepsRegs_refl _ _)) rfl rfl rfl)
    · exact KeepsRegs.of_regs (KeepsRegs.put _ hp (by simp) (keepsRegs_refl _ _)) rfl rfl rfl

/-- A slot-B operation that does nothing but write results (R83). -/
theorem slotB_done {s : State} {g op : Nat} {b : Bndl} {f : Core → Bndl → Phx → BOut} {ws : List PEntry} {nx : PNext} (h : AtBundle g b s)
    (ha : (s.core.cell g).phx.aDone = true ∨ b.opa = 0) (ho : b.opb = op) (hf : f s.core b (s.core.cell g).phx = { ws := ws, nx := nx, fault := [] }) :
    SlotBIssued g ws nx id [] s { s with core := s.core.slotB s.mem g op f (fun c _ => c) } := by
  rw [slotB_eq h ha ho, hf]
  exact setPhx_issued []

end Sys2Proof.Laws
end

