-- ==== Sys2Proof/Laws/Memory.lean ====
section
/-!
SUPPORT. Every operation over the memories keeps their canonical form.
-/
namespace Sys2Proof.Laws

open Sys2Proof.Machine

/-! ### The canonical form, memory by memory -/

theorem mems_wf (m : Mems) : m.wf = true ↔
    Tbl.wf zeroByte m.pmA = true ∧ Tbl.wf zeroByte m.pmS = true ∧ Tbl.wf zeroByte m.dmcA = true ∧ Tbl.wf zeroByte m.dmcS = true ∧
    Tbl.wf zeroByte m.mtA = true ∧ Tbl.wf zeroByte m.mtS = true ∧ Tbl.wf zeroByte m.syA = true ∧ Tbl.wf zeroByte m.syS = true ∧
    Tbl.wf zeroByte m.dmw = true ∧ Tbl.wf zeroByte m.seg = true ∧ Tbl.wf zeroByte m.blk = true ∧ Tbl.wf zeroByte m.dir = true ∧
    Tbl.wf almByte m.alm = true ∧ Tbl.wf m.hbmFree m.hbm = true := by
  simp [Mems.wf, and_assoc]

theorem mems_empty : Mems.empty.wf = true := by simp [mems_wf, Mems.empty]

/-- Words with errors are no part of the canonical form. -/
theorem wf_errs {m : Mems} (u k : List Nat) (h : m.wf = true) : ({ m with ue := u, ce := k } : Mems).wf = true := h
theorem wf_flaw {m : Mems} (u : List (Nat × Nat × Bool)) (h : m.wf = true) : ({ m with flaw := u } : Mems).wf = true := h

theorem wf_dmw {m : Mems} {t : List (Nat × Byte)} (h : m.wf = true) (ht : Tbl.wf zeroByte t = true) : ({ m with dmw := t } : Mems).wf = true := by
  obtain ⟨h1, h2, h3, h4, h5, h6, h7, h8, _, h10, h11, h12, h13, h14⟩ := (mems_wf m).1 h
  exact (mems_wf _).2 ⟨h1, h2, h3, h4, h5, h6, h7, h8, ht, h10, h11, h12, h13, h14⟩
theorem wf_seg {m : Mems} {t : List (Nat × Byte)} (h : m.wf = true) (ht : Tbl.wf zeroByte t = true) : ({ m with seg := t } : Mems).wf = true := by
  obtain ⟨h1, h2, h3, h4, h5, h6, h7, h8, h9, _, h11, h12, h13, h14⟩ := (mems_wf m).1 h
  exact (mems_wf _).2 ⟨h1, h2, h3, h4, h5, h6, h7, h8, h9, ht, h11, h12, h13, h14⟩
theorem wf_blk {m : Mems} {t : List (Nat × Byte)} (h : m.wf = true) (ht : Tbl.wf zeroByte t = true) : ({ m with blk := t } : Mems).wf = true := by
  obtain ⟨h1, h2, h3, h4, h5, h6, h7, h8, h9, h10, _, h12, h13, h14⟩ := (mems_wf m).1 h
  exact (mems_wf _).2 ⟨h1, h2, h3, h4, h5, h6, h7, h8, h9, h10, ht, h12, h13, h14⟩
theorem wf_dir {m : Mems} {t : List (Nat × Byte)} (h : m.wf = true) (ht : Tbl.wf zeroByte t = true) : ({ m with dir := t } : Mems).wf = true := by
  obtain ⟨h1, h2, h3, h4, h5, h6, h7, h8, h9, h10, h11, _, h13, h14⟩ := (mems_wf m).1 h
  exact (mems_wf _).2 ⟨h1, h2, h3, h4, h5, h6, h7, h8, h9, h10, h11, ht, h13, h14⟩
theorem wf_alm {m : Mems} {t : List (Nat × Byte)} (h : m.wf = true) (ht : Tbl.wf almByte t = true) : ({ m with alm := t } : Mems).wf = true := by
  obtain ⟨h1, h2, h3, h4, h5, h6, h7, h8, h9, h10, h11, h12, _, h14⟩ := (mems_wf m).1 h
  exact (mems_wf _).2 ⟨h1, h2, h3, h4, h5, h6, h7, h8, h9, h10, h11, h12, ht, h14⟩
theorem wf_pmS {m : Mems} {t : List (Nat × Byte)} (h : m.wf = true) (ht : Tbl.wf zeroByte t = true) : ({ m with pmS := t } : Mems).wf = true := by
  obtain ⟨h1, _, h3, h4, h5, h6, h7, h8, h9, h10, h11, h12, h13, h14⟩ := (mems_wf m).1 h
  exact (mems_wf _).2 ⟨h1, ht, h3, h4, h5, h6, h7, h8, h9, h10, h11, h12, h13, h14⟩
theorem wf_dmcS {m : Mems} {t : List (Nat × Byte)} (h : m.wf = true) (ht : Tbl.wf zeroByte t = true) : ({ m with dmcS := t } : Mems).wf = true := by
  obtain ⟨h1, h2, h3, _, h5, h6, h7, h8, h9, h10, h11, h12, h13, h14⟩ := (mems_wf m).1 h
  exact (mems_wf _).2 ⟨h1, h2, h3, ht, h5, h6, h7, h8, h9, h10, h11, h12, h13, h14⟩
theorem wf_mtS {m : Mems} {t : List (Nat × Byte)} (h : m.wf = true) (ht : Tbl.wf zeroByte t = true) : ({ m with mtS := t } : Mems).wf = true := by
  obtain ⟨h1, h2, h3, h4, h5, _, h7, h8, h9, h10, h11, h12, h13, h14⟩ := (mems_wf m).1 h
  exact (mems_wf _).2 ⟨h1, h2, h3, h4, h5, ht, h7, h8, h9, h10, h11, h12, h13, h14⟩
theorem wf_syS {m : Mems} {t : List (Nat × Byte)} (h : m.wf = true) (ht : Tbl.wf zeroByte t = true) : ({ m with syS := t } : Mems).wf = true := by
  obtain ⟨h1, h2, h3, h4, h5, h6, h7, _, h9, h10, h11, h12, h13, h14⟩ := (mems_wf m).1 h
  exact (mems_wf _).2 ⟨h1, h2, h3, h4, h5, h6, h7, ht, h9, h10, h11, h12, h13, h14⟩
theorem wf_hbm {m : Mems} {t : List (Nat × Byte)} (u k : List Nat) (h : m.wf = true) (ht : Tbl.wf m.hbmFree t = true) :
    ({ m with hbm := t, ue := u, ce := k } : Mems).wf = true := by
  obtain ⟨h1, h2, h3, h4, h5, h6, h7, h8, h9, h10, h11, h12, h13, _⟩ := (mems_wf m).1 h
  exact (mems_wf _).2 ⟨h1, h2, h3, h4, h5, h6, h7, h8, h9, h10, h11, h12, h13, ht⟩

/-- A stack without contents. -/
theorem wf_hbmGone {m : Mems} (h : m.wf = true) : m.hbmGone.wf = true := by
  obtain ⟨h1, h2, h3, h4, h5, h6, h7, h8, h9, h10, h11, h12, h13, _⟩ := (mems_wf m).1 h
  exact (mems_wf _).2 ⟨h1, h2, h3, h4, h5, h6, h7, h8, h9, h10, h11, h12, h13, rfl⟩

/-! ### Repeated steps -/

/-- A property of the memories that every step of a fold keeps is kept by the fold. -/
theorem foldl_keeps {β γ : Type} {P : γ → Prop} {f : γ → β → γ} (hf : ∀ a b, P a → P (f a b)) (l : List β) (a : γ) (h : P a) : P (l.foldl f a) := by
  induction l generalizing a with
  | nil => exact h
  | cons b l ih => exact ih _ (hf a b h)

/-- The memories of a pair are in their canonical form. -/
structure Keeps (y : Mems × Core) : Prop where
  wf : y.1.wf = true

theorem keeps_mk {m : Mems} {c : Core} (h : m.wf = true) : Keeps (m, c) := ⟨h⟩

theorem keeps_ite {p : Prop} [Decidable p] {a b : Mems × Core} (ha : Keeps a) (hb : Keeps b) : Keeps (if p then a else b) := by
  split <;> assumption

theorem wf_ite {p : Prop} [Decidable p] {a b : Mems} (ha : a.wf = true) (hb : b.wf = true) : (if p then a else b).wf = true := by
  split <;> assumption

/-- A fold of steps that keep the canonical form keeps it. -/
theorem keeps_foldl {β : Type} {f : Mems × Core → β → Mems × Core} (hf : ∀ a b, Keeps a → Keeps (f a b)) (l : List β) {a : Mems × Core}
    (h : Keeps a) : Keeps (l.foldl f a) := foldl_keeps hf l a h

/-! ### The mixed table of a swap -/

theorem wf_mixTbl {d : Nat → Byte} (p : Nat → Bool) {a : List (Nat × Byte)} (b : List (Nat × Byte)) (ha : Tbl.wf d a = true) :
    Tbl.wf d (mixTbl d p a b) = true := by
  unfold mixTbl
  exact foldl_keeps (P := fun t => Tbl.wf d t = true) (fun t e h => wf_set _ _ h) _ _ (wf_filter _ ha)

theorem wf_swapMem {m : Mems} (r : Nat) (h : m.wf = true) : (swapMem m r).wf = true := by
  rw [mems_wf] at h
  obtain ⟨h1, h2, h3, h4, h5, h6, h7, h8, h9, h10, h11, h12, h13, h14⟩ := h
  simp only [swapMem, mems_wf, wf_mixTbl _ _ h1, wf_mixTbl _ _ h2, wf_mixTbl _ _ h3, wf_mixTbl _ _ h4, wf_mixTbl _ _ h5, wf_mixTbl _ _ h6,
    wf_mixTbl _ _ h7, wf_mixTbl _ _ h8, h9, h10, h11, h12, h13, true_and]
  exact h14

theorem wf_swapFlaw {m : Mems} (r : Nat) (h : m.wf = true) : (swapFlaw m r).wf = true := wf_flaw _ h

theorem wf_workMode {m : Mems} (c : Core) (w : Bool) (g : Nat) (h : m.wf = true) : (workMode m c w g).wf = true := by
  have h' := (mems_wf m).1 h
  unfold workMode
  dsimp only
  split
  · exact wf_dmw h (wf_mixTbl _ _ h'.2.2.2.2.2.2.2.2.1)
  · split
    · exact wf_dmw h (wf_clrBytes _ _ h'.2.2.2.2.2.2.2.2.1)
    · exact h

/-! ### The almanac -/

theorem wf_almPut {m : Mems} (now e sts : Nat) (v : AlmVal) (h : m.wf = true) : (almPut m now e sts v).wf = true := by
  unfold almPut
  split
  · exact h
  · exact wf_alm h (wf_wrBytes _ _ ((mems_wf m).1 h).2.2.2.2.2.2.2.2.2.2.2.2.1)

theorem keeps_almAccept {m : Mems} (c : Core) (e : Nat) (v : AlmVal) (h : m.wf = true) : Keeps (almAccept m c e v) := by
  unfold almAccept
  extract_lets
  exact keeps_ite ⟨h⟩ ⟨wf_almPut _ _ _ _ h⟩

theorem keeps_almRefuse {m : Mems} (c : Core) (e : Nat) (h : m.wf = true) : Keeps (almRefuse m c e) := by
  unfold almRefuse
  split
  · exact ⟨h⟩
  · extract_lets
    exact keeps_ite ⟨h⟩ ⟨wf_almPut _ _ _ _ h⟩

theorem keeps_almResult {m : Mems} (c : Core) (e : Nat) (ok : Bool) (v : AlmVal) (h : m.wf = true) : Keeps (almResult m c e ok v) := by
  unfold almResult
  exact keeps_ite (keeps_almAccept _ _ _ h) (keeps_almRefuse _ _ h)

theorem keeps_almStore {m : Mems} (c : Core) (e : Nat) (v : AlmVal) (h : m.wf = true) : Keeps (almStore m c e v) := by
  unfold almStore
  exact keeps_ite ⟨h⟩ ⟨wf_almPut _ _ _ _ h⟩

theorem keeps_manualPut {m : Mems} (c : Core) (x : AlmHead) (e : Nat) (v : AlmVal) (h : m.wf = true) : Keeps (manualPut m c x e v) :=
  ⟨wf_almPut _ _ _ _ h⟩

theorem wf_almSupplied {m : Mems} (c : Core) (b : List Byte) (h : m.wf = true) : (almSupplied m c b).1.wf = true := by
  unfold almSupplied
  extract_lets
  split
  · exact h
  · split
    · exact h
    · split
      · exact h
      · split
        · split
          · exact wf_almPut _ _ _ _ h
          · exact h
        · split
          · exact wf_almPut _ _ _ _ h
          · exact h

theorem keeps_storeAll {m : Mems} (c : Core) (lo hi : Nat) (res : List CalMeas) (h : m.wf = true) : Keeps (storeAll m c lo hi res) :=
  keeps_foldl (fun _ _ h => keeps_almResult _ _ _ _ h.wf) _ ⟨h⟩

theorem keeps_fullUnit (j : CalJob) (res : List CalMeas) (a : Mems × Core) (e : Nat) (h : a.1.wf = true) : Keeps (fullUnit j res a e) := by
  unfold fullUnit
  extract_lets c
  refine keeps_ite ⟨h⟩ ?_
  split
  · exact keeps_ite ⟨h⟩ ⟨(keeps_almRefuse _ _ h).wf⟩
  · extract_lets
    exact keeps_ite ⟨h⟩ ⟨(keeps_almResult _ _ _ _ h).wf⟩

theorem keeps_sensorCal (a : Mems × Core) (s count : Nat) (t : Int) (h : a.1.wf = true) : Keeps (sensorCal a s count t) := by
  unfold sensorCal
  extract_lets
  exact keeps_ite ⟨h⟩ (keeps_ite (keeps_almRefuse _ _ h) (keeps_almAccept _ _ _ h))

theorem keeps_analogResult (a : Mems × Core) (x : CalMeas) (h : a.1.wf = true) : Keeps (analogResult a x) := by
  have r := keeps_almRefuse a.2 x.entry h
  unfold analogResult
  split
  · exact ⟨h⟩
  · split
    · exact keeps_ite (keeps_almAccept _ _ _ h) r
    · extract_lets
      exact keeps_ite (keeps_almAccept _ _ _ h) r
    · exact keeps_almResult _ _ _ _ h
    · exact keeps_almResult _ _ _ _ h
    · exact keeps_almResult _ _ _ _ h
    · exact ⟨h⟩

theorem keeps_thrDrain {m : Mems} (c : Core) (g x : Nat) (h : m.wf = true) : Keeps (thrDrain m c g x) := by
  unfold thrDrain
  extract_lets e man v w c' y t a
  have ha : Keeps a := keeps_ite (keeps_almAccept _ _ _ h) ⟨h⟩
  exact keeps_ite (keeps_almRefuse _ _ ha.wf) ha

theorem keeps_eqAccept {m : Mems} (c : Core) (p l : Nat) (v : List Int) (a b : Nat) (h : m.wf = true) : Keeps (eqAccept m c p l v a b) := by
  unfold eqAccept
  extract_lets
  exact keeps_almAccept _ _ _ h

theorem keeps_laneEq {m : Mems} (c : Core) (p l : Nat) (h : m.wf = true) : Keeps (laneEq m c p l) := by
  unfold laneEq
  extract_lets
  exact keeps_ite ⟨h⟩ (keeps_ite (keeps_almRefuse _ _ h) (keeps_eqAccept _ _ _ _ _ _ h))

theorem keeps_trainPort {m : Mems} (c : Core) (p : Nat) (tr : PortTrain) (h : m.wf = true) : Keeps (trainPort m c p tr) := by
  have k : ∀ (l : List Nat) (c : Core), Keeps (l.foldl (fun (a : Mems × Core) l => laneEq a.1 a.2 p l) (m, c)) :=
    fun l c => keeps_foldl (fun a l h => keeps_laneEq a.2 p l h.wf) l ⟨h⟩
  unfold trainPort
  extract_lets _ _ _ _ _ _ lanes _ _ _ _ _ _ _ _ y z
  have hz : Keeps z := k lanes y.1
  clear_value z
  exact keeps_ite ⟨h⟩ (keeps_ite ⟨h⟩ ⟨hz.wf⟩)

/-! ### The stack -/

theorem wf_hWrite {m : Mems} (a : Nat) (data : List Byte) (h : m.wf = true) : (hWrite m a data).wf = true :=
  wf_hbm _ _ h (wf_wrBytes _ _ ((mems_wf m).1 h).2.2.2.2.2.2.2.2.2.2.2.2.2)

theorem wf_hFlaw {m : Mems} (a : Nat) (corr ue : Bool) (h : m.wf = true) : (hFlaw m a corr ue).wf = true := by
  unfold hFlaw
  extract_lets w
  exact wf_ite h (wf_ite h h)

theorem keeps_hIssue {m : Mems} (c : Core) (p : Nat) (r : HReq) (corr ue : Bool) (h : m.wf = true) : Keeps (hIssue m c p r corr ue) := by
  unfold hIssue
  extract_lets b row c1 c2 m'
  have hm : m'.wf = true := wf_ite h (wf_hFlaw _ _ _ h)
  clear_value m' c2
  refine keeps_ite (keeps_ite (keeps_ite ⟨hm⟩ ⟨wf_hWrite _ _ hm⟩) ⟨wf_hWrite _ _ hm⟩) ⟨hm⟩

theorem keeps_noHbm {m : Mems} (c : Core) (h : m.wf = true) : Keeps (noHbm m c) := ⟨wf_hbmGone h⟩

theorem wf_dropLibrary {m : Mems} (p : Nat → Bool) (h : m.wf = true) : (dropLibrary m p).1.wf = true :=
  wf_dir h (foldl_keeps (P := fun t => Tbl.wf zeroByte t = true) (fun _ _ h => wf_wrBytes _ _ h) _ _ ((mems_wf m).1 h).2.2.2.2.2.2.2.2.2.2.2.1)

theorem keeps_stackUndefined {m : Mems} (c : Core) (h : m.wf = true) : Keeps (stackUndefined m c) := ⟨wf_hbmGone (wf_dropLibrary _ h)⟩

theorem wf_stackLost {m : Mems} (c : Core) (lost : Nat) (h : m.wf = true) : (stackLost m c lost).wf = true := by
  unfold stackLost
  split
  · exact h
  · obtain ⟨h1, h2, h3, h4, h5, h6, h7, h8, h9, h10, h11, h12, h13, h14⟩ := (mems_wf m).1 h
    refine (mems_wf _).2 ⟨h1, h2, h3, h4, h5, h6, h7, h8, h9, h10, h11, h12, h13, wf_default (wf_filter _ h14) ?_⟩
    intro e he
    obtain ⟨hm, hk⟩ := List.mem_filter.1 he
    have hl : bitAt lost (pcOf c.blocked e.1) = false := by simpa [Core.hPc] using hk
    have hd := wf_listed h14 hm
    simpa [Mems.hbmFree, lossAt, hl] using hd

theorem wf_restart {m : Mems} (kept : Bool) (h : m.wf = true) : (m.restart kept).wf = true := by
  have h' := ((mems_wf m).1 h).2.2.2.2.2.2.2.2.2.2.2.2.2
  obtain ⟨h1, h2, h3, h4, h5, h6, h7, h8, h9, h10, h11, h12, h13, _⟩ := (mems_wf _).1 mems_empty
  refine (mems_wf _).2 ⟨h1, h2, h3, h4, h5, h6, h7, h8, h9, h10, h11, h12, h13, ?_⟩
  cases kept
  · rfl
  · exact h'

/-! ### Bring-up -/

theorem keeps_resetTo {m : Mems} (c : Core) (aon : Bool) (cause : Nat) (kept : Bool) (st : Straps) (h : m.wf = true) :
    Keeps (resetTo m c aon cause kept st) := ⟨wf_restart kept h⟩

theorem keeps_restoreCopy {m : Mems} (c : Core) (k : Nat) (h : m.wf = true) : Keeps (restoreCopy m c k) := by
  unfold restoreCopy
  generalize upFrom 0 32768 = l
  refine keeps_foldl ?_ _ ⟨h⟩
  intro a e ha
  split
  · exact ha
  · extract_lets
    exact keeps_ite (keeps_manualPut _ _ _ _ ha.wf) ha

theorem keeps_restoreFrom {m : Mems} (c : Core) (o : Option Nat) (h : m.wf = true) : Keeps (restoreFrom m c o) := by
  cases o with
  | none => exact ⟨h⟩
  | some k =>
    unfold restoreFrom
    exact keeps_mk (keeps_restoreCopy c k h).wf

theorem keeps_almRestore {m : Mems} (c : Core) (h : m.wf = true) : Keeps (almRestore m c) := keeps_restoreFrom _ _ h

/-! ### Loads and stores -/

theorem wf_dmWrite {m : Mems} (g a n v : Nat) (h : m.wf = true) : (dmWrite m g a n v).wf = true :=
  wf_dmw h (wf_wrBytes _ _ ((mems_wf m).1 h).2.2.2.2.2.2.2.2.1)

theorem keeps_storeOp {m : Mems} (c : Core) (g op n : Nat) (f : Bndl → Phx → Nat) (h : m.wf = true) : Keeps (storeOp m c g op n f) := by
  unfold storeOp
  extract_lets
  exact ⟨wf_ite (wf_dmWrite _ _ _ _ h) h⟩

theorem wf_segStore {m : Mems} (k : SegCmd) (data : List Byte) (h : m.wf = true) : (segStore m k data).wf = true := by
  have h' := (mems_wf m).1 h
  unfold segStore
  exact wf_ite (wf_seg h (wf_wrBytes _ _ h'.2.2.2.2.2.2.2.2.2.1)) (wf_ite (wf_blk h (wf_wrBytes _ _ h'.2.2.2.2.2.2.2.2.2.2.1)) h)

/-- A directory entry written. -/
theorem wf_dirPut {m : Mems} (a : Nat) (l : List Byte) (h : m.wf = true) : ({ m with dir := wrBytes zeroByte m.dir a l } : Mems).wf = true :=
  wf_dir h (wf_wrBytes _ _ ((mems_wf m).1 h).2.2.2.2.2.2.2.2.2.2.2.1)

theorem keeps_segDone {m : Mems} (c : Core) (n : Nat) (k : SegCmd) (h : m.wf = true) : Keeps (segDone m c n k) := ⟨wf_dirPut _ _ h⟩

theorem keeps_segLib {m : Mems} (c : Core) (n : Nat) (k : SegCmd) (data : List Byte) (h : m.wf = true) : Keeps (segLib m c n k data) := by
  unfold segLib
  refine keeps_ite ⟨h⟩ ?_
  split
  · exact ⟨h⟩
  · exact keeps_ite ⟨h⟩ (keeps_ite ⟨wf_dirPut _ _ h⟩ (keeps_segDone _ _ _ h))

theorem keeps_segGo {m : Mems} (c : Core) (n : Nat) (x : Cmd) (h : m.wf = true) : Keeps (segGo m c n x) := by
  unfold segGo
  extract_lets k y
  exact keeps_ite ⟨h⟩ (keeps_ite (keeps_segLib _ _ _ _ h) (keeps_segDone _ _ _ (wf_segStore _ _ h)))

theorem wf_shadowMem {m : Mems} (sp u o : Nat) (data : List Byte) (h : m.wf = true) : (shadowMem m sp u o data).wf = true := by
  have h' := (mems_wf m).1 h
  unfold shadowMem
  split
  · exact wf_pmS h (wf_wrBytes _ _ h'.2.1)
  · split
    · exact wf_dmcS h (wf_wrBytes _ _ h'.2.2.2.1)
    · split
      · exact wf_mtS h (wf_wrBytes _ _ h'.2.2.2.2.2.1)
      · split
        · exact wf_syS h (wf_wrBytes _ _ h'.2.2.2.2.2.2.2.1)
        · exact h

theorem wf_healWords {m : Mems} (sp u o len : Nat) (h : m.wf = true) : (healWords m sp u o len).wf = true := wf_flaw _ h

theorem keeps_profApply {m : Mems} (c : Core) (k : ProfRec) (h : m.wf = true) : Keeps (profApply m c k) := by
  unfold profApply
  split
  · exact ⟨h⟩
  · extract_lets y
    have hy : Keeps y := by
      refine keeps_foldl ?_ _ ⟨h⟩
      intro a e ha
      split
      · exact ha
      · exact keeps_ite ⟨ha.wf⟩ ⟨wf_healWords _ _ _ _ (wf_shadowMem _ _ _ _ ha.wf)⟩
    clear_value y
    exact ⟨hy.wf⟩

/-- A command of a ring keeps the canonical form when its own effect does. -/
theorem keeps_runCmd {m : Mems} (c : Core) (n : Nat) (op : CmdOp) (f : Mems → Core → Desc → Mems × Core)
    (hf : ∀ c d, Keeps (f m c d)) (h : m.wf = true) : Keeps (runCmd m c n op f) := by
  unfold runCmd
  split
  · exact ⟨h⟩
  · extract_lets
    exact keeps_ite (hf _ _) ⟨h⟩

/-- A command that carries data keeps it when its going on does. -/
theorem keeps_carryCmd {m : Mems} (c : Core) (n t : Nat) (data : List Byte) (go : Mems → Core → Cmd → Mems × Core)
    (hg : ∀ c k, Keeps (go m c k)) (h : m.wf = true) : Keeps (carryCmd m c n t data go) := by
  unfold carryCmd
  extract_lets
  split
  · exact hg _ _
  · exact ⟨h⟩

/-- A command that starts and goes on keeps it when both do. -/
theorem keeps_stepCmd {m : Mems} (c : Core) (n : Nat) (op : CmdOp) (start : Mems → Core → Desc → Mems × Core) (go : Mems → Core → Cmd → Mems × Core)
    (hs : ∀ c d, Keeps (start m c d)) (hg : ∀ c k, Keeps (go m c k)) (h : m.wf = true) : Keeps (stepCmd m c n op start go) := by
  unfold stepCmd
  split
  · exact hg _ _
  · exact keeps_runCmd _ _ _ _ hs h

theorem keeps_cfgApply {m : Mems} (c : Core) (d : Desc) (data : List Byte) (h : m.wf = true) : Keeps (cfgApply m c d data) := by
  unfold cfgApply
  extract_lets
  exact keeps_ite ⟨h⟩ ⟨wf_healWords _ _ _ _ (wf_shadowMem _ _ _ _ h)⟩

theorem keeps_cfgGo {m : Mems} (f : Mems → Core → Desc → List Byte → Mems × Core) (c : Core) (n : Nat) (x : Cmd)
    (hf : ∀ c d l, Keeps (f m c d l)) (h : m.wf = true) : Keeps (cfgGo f m c n x) := by
  unfold cfgGo
  extract_lets y
  exact keeps_ite ⟨h⟩ ⟨(hf _ _ _).wf⟩

/-- A LOAD_CONFIG keeps it when what it writes does. -/
theorem keeps_cfgRun {m : Mems} (prof : Bool) (c : Core) (n : Nat) (data : Option (List Byte)) (ref : Mems → Core → Desc → Option Sts)
    (f : Mems → Core → Desc → List Byte → Mems × Core) (hf : ∀ c d l, Keeps (f m c d l)) (h : m.wf = true) : Keeps (cfgRun prof m c n data ref f) := by
  unfold cfgRun
  refine keeps_ite ⟨h⟩ ?_
  split
  · exact keeps_cfgGo _ _ _ _ hf h
  · refine keeps_ite ⟨h⟩ (keeps_runCmd _ _ _ _ ?_ h)
    intro c d
    split
    · exact ⟨h⟩
    · exact keeps_carryCmd _ _ _ _ _ (fun _ _ => keeps_cfgGo _ _ _ _ hf h) h

theorem keeps_qGo {m : Mems} (c : Core) (n : Nat) (x : Cmd) (h : m.wf = true) : Keeps (qGo m c n x) := by
  unfold qGo
  extract_lets k
  split
  · exact ⟨h⟩
  · refine keeps_ite (keeps_ite ⟨h⟩ ?_) ?_
    · split
      · exact ⟨h⟩
      · exact keeps_ite ⟨h⟩ (keeps_ite ⟨h⟩ ⟨h⟩)
    · extract_lets
      exact keeps_ite ⟨h⟩ ⟨h⟩

theorem keeps_qSnap {m : Mems} (c : Core) (n t : Nat) (k : QCmd) (h : m.wf = true) : Keeps (qSnap m c n t k) :=
  keeps_carryCmd _ _ _ _ _ (fun _ _ => keeps_qGo _ _ _ h) h

/-! ### Lines -/

theorem wf_stagePut {m : Mems} (c : Core) (r b segid line : Nat) (data : List Byte) (h : m.wf = true) : (c.stagePut m r b segid line data).1.wf = true := by
  unfold Core.stagePut
  split
  · exact h
  · exact wf_blk h (wf_wrBytes _ _ ((mems_wf m).1 h).2.2.2.2.2.2.2.2.2.2.1)

theorem keeps_takeLine {m : Mems} (c : Core) (g segid line p q : Nat) (h : m.wf = true) : Keeps (takeLine m c g segid line p q) :=
  ⟨wf_seg h (wf_wrBytes _ _ ((mems_wf m).1 h).2.2.2.2.2.2.2.2.2.1)⟩

theorem keeps_postLines (r b k : Nat) (a : Mems × Core) (h : Keeps a) : Keeps (Core.postLines r b k a) := by
  induction k generalizing a with
  | zero => exact h
  | succ k ih =>
    obtain ⟨m, c⟩ := a
    unfold Core.postLines
    split
    · exact h
    · refine keeps_ite h ?_
      extract_lets y
      refine keeps_ite ⟨h.wf⟩ ?_
      extract_lets
      exact ih _ ⟨wf_stagePut _ _ _ _ _ _ h.wf⟩

theorem keeps_refillPost {m : Mems} (c : Core) (a : Arb) (h : m.wf = true) : Keeps (c.refillPost m a) := by
  unfold Core.refillPost
  split
  · exact keeps_postLines _ _ _ _ ⟨h⟩
  · exact ⟨h⟩

/-! ### Swaps -/

theorem wf_workModes {m : Mems} (c : Core) (w : Bool) (l : List Nat) (h : m.wf = true) : (l.foldl (fun m g => workMode m c w g) m).wf = true :=
  foldl_keeps (P := fun m : Mems => m.wf = true) (fun _ _ h => wf_workMode _ _ _ h) _ _ h

theorem keeps_swapRgn (a : Mems × Core) (r : Nat) (h : Keeps a) : Keeps (swapRgn a r) := by
  unfold swapRgn
  extract_lets c n m h'
  have hm : m.wf = true := wf_swapFlaw _ (wf_swapMem _ h.wf)
  clear_value m n
  refine keeps_ite ⟨hm⟩ ?_
  extract_lets
  exact ⟨wf_ite (wf_workModes _ _ _ hm) hm⟩

/-! ### Calibration commands -/

theorem keeps_calRun {m : Mems} (c : Core) (n kind : Nat) (hold : Bool) (f : Mems → Core → Desc → CalJob → Mems × Core)
    (hf : ∀ c d j, Keeps (f m c d j)) (h : m.wf = true) : Keeps (calRun n kind hold m c f) := by
  unfold calRun
  split
  · exact ⟨h⟩
  · extract_lets
    refine keeps_ite ⟨h⟩ (keeps_runCmd _ _ _ _ ?_ h)
    intro c d
    extract_lets opt bytes addr count
    split
    · exact ⟨h⟩
    · exact hf _ _ _

theorem keeps_almApply {m : Mems} (c : Core) (j : CalJob) (l : List Byte) (h : m.wf = true) : Keeps (almApply m c j l) := by
  unfold almApply
  extract_lets y
  have hy : y.1.wf = true := foldl_keeps (P := fun (a : Mems × Core × List (Nat × Nat)) => a.1.wf = true)
    (fun a b (ha : a.1.wf = true) => by
      have hb := wf_almSupplied a.2.1 b ha
      revert hb
      generalize almSupplied a.1 a.2.1 b = x
      exact id) _ _ h
  clear_value y
  exact ⟨hy⟩

theorem keeps_almGo {m : Mems} (c : Core) (n : Nat) (k : Cmd) (h : m.wf = true) : Keeps (almGo m c n k) := by
  unfold almGo
  extract_lets j y
  exact keeps_ite (keeps_almApply _ _ _ h) ⟨h⟩

/-- A window keeps the memories, or shuts the device down, with the almanac left as it was. -/
theorem keeps_windowJudge {m : Mems} (c : Core) (fs : List (Nat × Nat × Bool)) (zs : List Nat) (h : m.wf = true) : Keeps (c.windowJudge m fs zs) := by
  have hr : ({ m.restart false with alm := m.alm } : Mems).wf = true := wf_alm (wf_restart false h) ((mems_wf m).1 h).2.2.2.2.2.2.2.2.2.2.2.2.1
  unfold Core.windowJudge
  extract_lets +onlyGivenNames held blind c1 c2
  clear_value c2
  generalize c2.shutSensor = o
  cases o with
  | none => exact ⟨h⟩
  | some x => exact ⟨hr⟩

/-! ### Steps -/

/-- A step that touches no memory keeps the invariant. -/
theorem inv_onCore {s t : State} (f : Mems → Core → Core) (h : Inv s) (e : s.onCore f = .next t) : Inv t := by
  cases e; exact h

/-- A step over both keeps the invariant when its memories do. -/
theorem inv_onBoth {s t : State} (f : Mems → Core → Mems × Core) (hf : s.mem.wf = true → Keeps (f s.mem s.core)) (h : Inv s)
    (e : s.onBoth f = .next t) : Inv t := by
  cases e; exact (hf h).wf

/-- One idle step: the tick counts while the counter runs; the count past its top is the one fault. -/
theorem idle_cases (s : State) :
    (s.core.running = false ∧ idle s = .next s) ∨
    (s.core.running = true ∧ s.core.now + 1 < 2 ^ 64 ∧ idle s = .next { s with core := ({ s.core.tickEnd with now := s.core.now + 1 }).ticked }) ∨
    (s.core.running = true ∧ 2 ^ 64 ≤ s.core.now + 1 ∧ idle s = .fault .meridianWrap) := by
  unfold idle
  cases h : s.core.running
  · simp
  · simp only [if_true]
    split
    · right; left; exact ⟨trivial, by assumption, rfl⟩
    · right; right; exact ⟨trivial, by omega, rfl⟩

end Sys2Proof.Laws
end

