-- ==== Sys2Proof/WellFormed.lean ====
section
/-!
DEFINITION. Well-formed commands: every unit number lies in the range that the spec gives it (R1, R6), and data has the size its descriptor field can name.
-/
namespace Sys2Proof

/-- A region (R6). -/
def okR (r : Nat) : Bool := decide (r < 8)
/-- A block of a region (R6). -/
def okB (r b : Nat) : Bool := okR r && decide (b < 16)
/-- A cell by its global number (R6). -/
def okG (g : Nat) : Bool := decide (g < 2304)
/-- A ring (R271). -/
def okRing (n : Nat) : Bool := decide (n < 64)
/-- An acquisition channel (R210). -/
def okCh (ch : Nat) : Bool := decide (ch < 32)
/-- A Sorzil port (R343). -/
def okPort (p : Nat) : Bool := decide (p < 4)
/-- A physical lane of a Sorzil port (R343). -/
def okLane (p l : Nat) : Bool := okPort p && decide (l < 6)
/-- A vector pin by its number `8 r + w` (R236). -/
def okVec (v : Nat) : Bool := decide (v < 64)
/-- A pseudo-channel of the HBM stack (R304). -/
def okPc (pc : Nat) : Bool := decide (pc < 16)
/-- An access inside BAR0 of at least one byte (R454). -/
def okAcc (off len : Nat) : Bool := decide (1 ≤ len) && decide (off < 2 ^ 26)
/-- An output unit. -/
def okOut : OutUnit → Bool
  | .dac r i => okR r && decide (i < 8)
  | .bb r b m => okB r b && decide (m < 2)
  | .vec r w => okR r && decide (w < 8)
/-- An arbiter (R331). -/
def okArb : Arb → Bool
  | .block r b => okB r b
  | .region r => okR r
  | .chip l => decide (l < 4)
/-- A requester of the HBM controller (R313). -/
def okReq : HbmReq → Bool
  | .refill r b => okB r b
  | .acq ch => okCh ch
  | .gatherer r => okR r
  | _ => true
/-- A unit of self-test (R443). -/
def okUnit : TestUnit → Bool
  | .core => true
  | .timePort => true
  | .region r => okR r
  | .block r b => okB r b
  | .cell r b c => okB r b && decide (c < 18)
  | .dac r i => okR r && decide (i < 8)
  | .adc r j => okR r && decide (j < 4)
  | .bb r b m => okB r b && decide (m < 2)

/-- Is a command well-formed? -/
def Instr.wf : Instr → Bool
  | .selfTest failed _ => failed.all okUnit
  | .reinitDone r failed => okR r && failed.all okUnit
  | .laneTrain ports _ => decide (ports.length ≤ 4)
  | .loadSegment n _ | .loadConfig n _ | .loadConfigProfile n _ | .commit n | .commitCheckOnly n | .run n | .stop n | .stopCut n | .armCapture n
  | .postSpool n _ | .calibrateMon n | .calibrateHbm n | .calibrateColl n | .calibrateMis n | .adcFull n | .dacFull n | .bbFull n
  | .foregroundCalEnd n _ | .almWrite n _ | .almBackup n | .query n | .queryDrainSnapshot n | .fence n | .fenceTimeout n | .lockRelease n
  | .descriptorFetch n _ | .phaseRetry n _ | .ringEnable n _ _ | .resume n | .completionWrite n | .writeBack n | .ringInterrupt n
  | .streamRecord n _ => okRing n
  | .doorbell n off len _ => okRing n && okAcc off len
  | .registerWrite off len _ _ | .registerReadClear off len | .captureRead off len => okAcc off len
  | .unoccupiedAccess off _ => decide (off < 2 ^ 26)
  | .bar4Access _ _ data => decide (data.length ≤ 4096)
  | .quarReq g | .hostEv g | .celFrameWrite g _ _ => okG g
  | .park r | .unpark r | .shotFirstStamp r | .drainStart r | .drainGather r | .frameDrainApply r | .drainPostSwap r | .drainEnd r
  | .leadLoopUpdate r | .roundOpen r | .roundClose r | .defectForm r | .importDeadline r | .groupLookup r | .toggleSend r | .collMeasure r _ _
  | .collStep r | .regionFault r => okR r
  | .ledgerCheck (some r) | .swap (some r) => okR r
  | .misUpdate r j | .adcSample r j _ _ => okR r && decide (j < 4)
  | .blockFault r b | .priorityWrite r b _ _ _ => okB r b
  | .vrAck p | .vrTimeout p => decide (p < 9)
  | .graceExpiry z => decide (z < 9)
  | .seqNop g | .seqPlay g | .seqGap g | .seqMeasure g | .seqWait g | .seqJmp g | .seqLoop g | .seqEndl g | .seqSignal g | .seqPrefetch g
  | .seqEnd g | .seqSetf g | .seqSetp g | .seqAddp g | .seqSeta g | .seqLock g | .seqUnlock g | .seqMtag g | .seqSround g | .seqFrame g
  | .underrun g | .queueEntryArrival g | .markerArrival g | .exitSelect g | .waitHolds g | .waitExpiry g | .signalPost g
  | .discriminatorLatch g | .frameWriteTick g | .eventTake g => okG g
  | .stageLineArrival g segid _ => okG g && decide (segid < 65536)
  | .watchSlotFill g x => okG g && decide (x < 8)
  | .laneRelease u => okOut u
  | .compareRunPost v | .vectorStrobe v _ => okVec v
  | .trigInEdge x _ _ | .trigOutStart x | .trigOutEnd x => decide (x < 4)
  | .decisionFlitSend p | .decisionFlitDeliver p | .flitSend p | .sendLate p _ | .flitAccept p _ | .replay p | .linkFlitRx p _ | .timeFlitRx p _ _
  | .portTraining p _ | .recoveryEnd p _ | .portRetry p | .retrain p | .down p => okPort p
  | .defectImport p r => okPort p && okR r
  | .alignmentMarker p l _ | .laneFail p l _ | .eqUpdate p l _ _ _ => okLane p l
  | .arm ch | .disarm ch | .softTrig ch | .rateReset ch | .acqTrigger ch | .autoTimeout ch | .plateClose ch | .acqReady ch | .rateCheck ch | .loss ch
  | .plateSpooled ch => okCh ch
  | .hbmRequest q _ _ _ _ | .srHeldRequest q _ _ _ _ => okReq q
  | .hbmAccessIssue pc _ _ | .retrainPause pc => okPc pc
  | .hbmRefresh pc bank => okPc pc && decide (bank < 32)
  | .arbGrant a _ _ | .starve a _ _ => okArb a
  | .burstExpiry q | .arbWatchdog q => okArb q.arb
  | .thmMaskWrite i _ _ => decide (i < 3)
  | .phxNopa g | .phxVmov g | .phxVadd g | .phxVsub g | .phxVcmul g | .phxVconj g | .phxValn g | .phxVbcst g | .phxMacz g | .phxMac g | .phxMacc g
  | .phxMsub g | .phxMova g | .phxNop g | .phxAdd g | .phxSub g | .phxAnd g | .phxOr g | .phxXor g | .phxShl g | .phxShr g | .phxSar g
  | .phxMul g | .phxLi g | .phxLui g | .phxAddi g | .phxLd g | .phxSt g | .phxLdv g | .phxStv g | .phxMovp g | .phxMovm g | .phxSetl g
  | .phxVget g | .phxVput g | .phxIn g | .phxOut g | .phxOuta g | .phxJmp g | .phxBr g | .phxLoop g | .phxWaite g | .phxRete g | .phxHalt g
  | .phxMovxRead g | .phxMovxWrite g => okG g
  | .smbSensorTemp s => decide (s < 72)
  | .jtagBypass code => !([0x00, 0x01, 0x02, 0x04, 0x05] : List (BitVec 8)).contains code
  | .jtagSamplePreload pins load => pins.length == bsrLen && load.length == bsrLen
  | .jtagExtest pins load => pins.length == bsrLen && load.all (fun l => l.length == bsrLen)
  | .powerOn _ | .pwrOkLow _ | .perst _ | .chipReset _ _ _ | .flr | .powerGood _ _ | .refLock _ _ | .syncListenEnd _ | .syncFrameRx _ _ _ | .syncFrameTx
  | .fuseLoad _ _ _ | .jtagEnRelease | .analogCal _ _ _ | .hbmTrain _ _ _ | .service _ _ | .d3hotEntry | .d0Return | .commitComplete | .eventWrite
  | .resultDelivery | .chipUnpark | .chipFault _ | .shotBegin | .ledgerCheck none | .swap none | .copybackEnd | .handshakeRequest _ _
  | .handshakeAck _ _ | .monEntryConvert _ | .monSelfCal _ _ | .scrub _ _ | .retrainApply _ _ | .hbmRateChange _ | .rateChangeDone _ _ _
  | .hbmMappingWrite _ _ _ | .standby _ _ | .autoSrEntry | .srExitDone | .timeLinkChange _ | .srEntryDone | .standbyRetry | .retrainPauseEnd | .ppsPulseEnd
  | .tptCorr _ _ | .accept | .set | .driftTick | .txFrame _ _ | .rxFrame _ _ _ | .txtsPop | .ppsOut | .ppsIn _ | .almanacBackup | .sensorWindow _
  | .thermalRestart _ _ | .jtagIdcode | .jtagClamp | .jtagHighz | .smbStatus | .smbMaxTemp
  | .smbMaxSensor | .smbShutdowns | .smbResetCause | .smbPart => true

end Sys2Proof
end

