-- ==== Sys2Proof/Tests/Slice0.lean ====
section
/-!
SUPPORT. Tests: the smoke of WellFormed, witnesses that the hypotheses of the statements can be met together, and small checks of single steps. Each is a named theorem.
-/
namespace Sys2Proof.Tests

open Sys2Proof Sys2Proof.Machine

set_option Elab.async false
set_option synthInstance.maxSize 1024
set_option linter.unusedSimpArgs false
set_option linter.unnecessarySeqFocus false

/-- The reset core with register fields set. -/
def regs (l : List (Fld × Nat)) : Core := l.foldl (fun c e => c.put e.1 e.2) Core.reset
/-- A state with a core and empty memories. -/
def st (c : Core) : State := { State.reset with core := c }
/-- Registers of a chip in SERVICE with region 0, its first block and its converters present. -/
def svcL : List (Fld × Nat) :=
  [(Fd.CHP_BOOT_STS_STAGE, 8), (Fd.CHP_CAPS_REGIONS, 255), (Fd.CHP_UNIT_STS_REGION_OK, 255), (Fd.RGN_UNIT_STS_BLOCK_OK 0, 0xFFFF),
   (Fd.RGN_UNIT_STS_DAC_OK 0, 0xFF), (Fd.RGN_UNIT_STS_ADC_OK 0, 0xF), (Fd.BLK_UNIT_STS_CELL_OK 0 0, 0x3FFFF), (Fd.BLK_UNIT_STS_BB_OK 0 0, 3)]
/-- A chip in SERVICE at tick `now`, with further registers set. -/
def svc (now : Nat) (l : List (Fld × Nat)) : Core := { regs (svcL ++ l) with now := now, running := true }
/-- A descriptor of an opcode with fields (first bit, value). -/
def desc (op : CmdOp) (l : List (Nat × Nat)) : Desc := BitVec.ofNat 512 (l.foldl (fun a f => a + f.2 * 2 ^ f.1) (op.code * 256))
/-- COMMAND ring 0 with COMPLETION ring 1. -/
def ringL : List (Fld × Nat) :=
  [(Fd.CHP_RING_CFG_EN 0, 1), (Fd.CHP_RING_CFG_COMPL 0, 1), (Fd.CHP_RING_CFG_SIZE_EXP 0, 4), (Fd.CHP_RING_STS_DEV_PHASE 0, 1),
   (Fd.CHP_RING_CFG_EN 1, 1), (Fd.CHP_RING_CFG_KIND 1, 1), (Fd.CHP_RING_CFG_SIZE_EXP 1, 4), (Fd.CHP_RING_STS_DEV_PHASE 1, 1)]
/-- A command in a slot, of index 0. -/
def cmdOf (d : Desc) (start : Nat) (exec : Bool) (deps : List (Nat × Nat)) : Cmd := { desc := d, index := 0, start := start, exec := exec, deps := deps, taken := [] }
/-- A core with a descriptor in the command slot of ring 0. -/
def slotC (c : Core) (d : Desc) : Core := c.modRing 0 (fun r => { r with cmd := some (cmdOf d 0 false []), fetched := 1 })
/-- In SERVICE at tick `now`, a descriptor in the slot of ring 0 and further registers. -/
def slot (now : Nat) (d : Desc) (l : List (Fld × Nat)) : State := st (slotC (svc now (ringL ++ l)) d)
/-- Does a command complete with a core of which `p` holds? -/
def out (c : Instr) (s : State) (p : Core → Bool) : Bool :=
  match exec c s with
  | .next t => p t.core
  | _ => false
/-- The status of the completion that waits for ring 1 after a command. -/
def status (c : Instr) (s : State) : Option Nat :=
  match exec c s with
  | .next t => ((t.core.ring 1).comps.head?).map (fun k => k.status)
  | _ => none

/-- The command of ring 0 changed. -/
def cmdC (c : Core) (f : Cmd → Cmd) : Core := c.modRing 0 (fun r => { r with cmd := r.cmd.map f })
/-- The command of ring 0 in execution since tick 4, with its legs done and the bytes it carries. -/
def goesC (c : Core) (leg : Nat) (snap : Option (Nat × List Byte)) : Core := cmdC c (fun k => { k with exec := true, start := 4, leg := leg, snap := snap })
/-- Ports granted to requesters. -/
def granted (c : Core) (l : List (Arb × Nat)) : Core := l.foldl (fun c e => c.modArb (arbKey e.1) (fun s => { s with owner := some e.2 })) c
/-- With no port in use, none is granted and no transfer is half moved. -/
theorem idle_ports {s : State} (h : s.core.arbs = []) : PortsIdle s := by
  intro k; simp [Core.arb, h, Tbl.get, ArbSt.init]

/-! ### WellFormed refuses, by each of its checks -/

theorem test_wf_r : Instr.wf (.park 8) = false ∧ Instr.wf (.park 7) = true := by decide
theorem test_wf_b : Instr.wf (.blockFault 0 16) = false ∧ Instr.wf (.blockFault 8 0) = false ∧ Instr.wf (.blockFault 7 15) = true := by decide
theorem test_wf_g : Instr.wf (.seqNop 2304) = false ∧ Instr.wf (.seqNop 2303) = true := by decide
theorem test_wf_ring : Instr.wf (.resume 64) = false ∧ Instr.wf (.resume 63) = true := by decide
theorem test_wf_ch : Instr.wf (.disarm 32) = false ∧ Instr.wf (.disarm 31) = true := by decide
theorem test_wf_port : Instr.wf (.down 4) = false ∧ Instr.wf (.down 3) = true := by decide
theorem test_wf_lane : Instr.wf (.laneFail 0 6 1) = false ∧ Instr.wf (.laneFail 4 0 1) = false ∧ Instr.wf (.laneFail 3 5 1) = true := by decide
theorem test_wf_vec : Instr.wf (.compareRunPost 64) = false ∧ Instr.wf (.compareRunPost 63) = true := by decide
theorem test_wf_pc : Instr.wf (.retrainPause 16) = false ∧ Instr.wf (.hbmRefresh 0 32) = false ∧ Instr.wf (.hbmRefresh 15 31) = true := by decide
theorem test_wf_acc : Instr.wf (.registerWrite 0 0 255 0) = false ∧ Instr.wf (.registerReadClear (2 ^ 26) 4) = false ∧ Instr.wf (.registerReadClear 0 4) = true := by decide
theorem test_wf_out : Instr.wf (.laneRelease (.dac 0 8)) = false ∧ Instr.wf (.laneRelease (.bb 0 0 2)) = false ∧ Instr.wf (.laneRelease (.vec 0 8)) = false ∧
    Instr.wf (.laneRelease (.vec 0 7)) = true := by decide
theorem test_wf_arb : Instr.wf (.burstExpiry ⟨.chip 4, 0⟩) = false ∧ Instr.wf (.arbWatchdog ⟨.region 8, 0⟩) = false ∧ Instr.wf (.starve (.block 0 16) 0 0) = false ∧
    Instr.wf (.arbGrant (.chip 4) 0 []) = false ∧ Instr.wf (.burstExpiry ⟨.chip 3, 0⟩) = true := by decide
theorem test_wf_req : Instr.wf (.hbmRequest (.acq 32) 0 64 false []) = false ∧ Instr.wf (.hbmRequest (.refill 0 16) 0 128 false []) = false ∧
    Instr.wf (.hbmRequest (.gatherer 8) 0 64 false []) = false ∧ Instr.wf (.hbmRequest .bar4 0 64 false []) = true := by decide
theorem test_wf_unit : Instr.wf (.selfTest [.cell 0 0 18] true) = false ∧ Instr.wf (.selfTest [.dac 0 8] true) = false ∧ Instr.wf (.selfTest [.adc 0 4] true) = false ∧
    Instr.wf (.selfTest [.bb 0 0 2] true) = false ∧ Instr.wf (.selfTest [.core] true) = true := by decide
theorem test_wf_small : Instr.wf (.vrAck 9) = false ∧ Instr.wf (.graceExpiry 9) = false ∧ Instr.wf (.watchSlotFill 0 8) = false ∧ Instr.wf (.trigOutStart 4) = false ∧
    Instr.wf (.thmMaskWrite 3 15 0) = false ∧ Instr.wf (.smbSensorTemp 72) = false ∧ Instr.wf (.adcSample 0 4 [] []) = false ∧ Instr.wf (.stageLineArrival 0 65536 0) = false := by
  decide
/-- No row of the table gives bits. -/
theorem test_no_word_spells_a_command : decodeTableWord 8 0 = none ∧ decodeTableWord 64 0xFFFF = none ∧ State.reset.withFetchWord 8 5 = State.reset := by decide

/-! ### Step and bring-up -/

theorem wit_StepRunsTheFrontCommand : ({ State.reset with pending := [.flr, .accept] } : State).pending = .flr :: [.accept] := by decide
theorem wit_IdleStepIsOneTick : State.reset.pending = [] ∧ State.reset.core.running = false ∧
    (svc 5 []).running = true ∧ (svc 5 []).now + 1 < 2 ^ 64 ∧ (svc (2 ^ 64 - 1) []).running = true ∧ ¬ (svc (2 ^ 64 - 1) []).now + 1 < 2 ^ 64 ∧ QuietTick (svc 5 []) := by
  unfold QuietTick; decide +kernel
theorem test_idle_counts : ((match step (st (svc 5 [])) with | .next t => t.core.now | _ => 0) = 6) ∧
    (match step (st (svc (2 ^ 64 - 1) [])) with | .fault .meridianWrap => true | _ => false) = true := by decide +kernel
theorem wit_EveryStepKeepsMemoriesCanonical : State.reset.mem.wf = true ∧ (match step { State.reset with pending := [.flr] } with | .next _ => true | _ => false) = true := by
  decide +kernel
theorem wit_ConfigurationMemoriesHaveTheirWriters : (match exec .accept State.reset with | .next _ => true | _ => false) = true ∧ resets .accept = false ∧
    (∀ r, Instr.accept ≠ .swap r) ∧ Instr.accept ≠ .copybackEnd ∧ (∀ n data, Instr.accept ≠ .loadConfig n data ∧ Instr.accept ≠ .loadConfigProfile n data) :=
  ⟨by decide +kernel, by decide, nofun, nofun, fun _ _ => ⟨nofun, nofun⟩⟩
/-- A thermal shutdown that has cooled down. -/
def cooled : State := st { regs [] with thm := { Thm.init with shut := true, cool := 1000000 } }
theorem wit_ResetReleaseRestartsTheDevice : State.reset.core.thm.shut = false ∧
    ((svc 9 []).thm.shut = false ∧ (svc 9 []).bar0 Fd.CHP_RST_CTL = true ∧ ∀ x ∈ ([(15, 0x1A5, 5), (15, 0x1A4, 0), (1, 0x1A5, 0), (3, 0xFFFF01A5, 5)] : List (Nat × Nat × Nat)),
      let w := Nat.land (BitVec.ofNat 32 x.2.1).toNat (enMask (BitVec.ofNat 4 x.1))
      w < 2 ^ 10 ∧ (w % 2 ^ 8 = 0xA5 ∧ w / 2 ^ 8 % 2 = 1 ↔ x.2.2 = 5)) ∧
    cooled.core.thm.shut = true ∧ cooled.core.thm.released = false ∧ 1000000 ≤ cooled.core.thm.cool ∧
    (let c := { cooled.core with thm := { cooled.core.thm with released := true } }
     c.thm.shut = true ∧ c.thm.released = true) := by decide +kernel
/-- A wrong KEY, or its byte not enabled, resets nothing. -/
theorem test_chip_reset_key : out (.chipReset 15 0x1A4 Straps.low) (st (svc 9 [])) (fun c => c.svc && c.now == 9) = true ∧
    out (.chipReset 2 0x1A5 Straps.low) (st (svc 9 [])) (fun c => c.svc && c.now == 9) = true ∧
    out (.chipReset 15 0x1A5 Straps.low) (st (svc 9 [])) (fun c => !c.svc && c.get Fd.CHP_RST_STS_CAUSE == 5) = true := by decide +kernel
/-- A chip in a stage of bring-up. -/
def staged (k : Nat) (l : Bool) : Core :=
  { regs [(Fd.CHP_BOOT_STS_STAGE, k), (Fd.CHP_CAPS_REGIONS, 255)] with boot := { Boot.init with listen := l, window := l } }
theorem wit_BringupStagesInOrder : State.reset.core.inStage 1 = true ∧ ((staged 2 false).inStage 2 = true ∧ (staged 2 false).boot.listen = false ∧ (staged 2 false).boot.window = false) ∧
    (staged 2 true).inStage 2 = true ∧ (staged 2 true).boot.listen = true ∧ (staged 2 true).boot.window = true := by decide +kernel
theorem wit_SyncFramesAlignAndCheck : ((staged 2 true).inStage 2 = true ∧ (staged 2 true).boot.listen = true) ∧
    ((0x00#8).toNat = crcBits 8 0x07 0 (bitsUp (0#64).toNat 64) ∧ (0x01#8).toNat ≠ crcBits 8 0x07 0 (bitsUp (0#64).toNat 64)) ∧
    (∀ now ∈ [0, 65536], let c := svc now [(Fd.CHP_SYNC_CTL_MON_EN, 1), (Fd.CHP_SYNC_STS_ROLE, 2), (Fd.CHP_SYNC_STS_DLY, 0)]
     let off : Int := c.now - ((0#64).toNat + c.get Fd.CHP_SYNC_STS_DLY : Nat)
     c.svc = true ∧ c.get Fd.CHP_SYNC_CTL_MON_EN = 1 ∧ c.get Fd.CHP_SYNC_STS_ROLE = 2 ∧ -2147483648 ≤ off ∧ off ≤ 2147483647 ∧ (off = 0 ↔ now = 0)) ∧
    ((svc 65456 []).running = true ∧ (svc 65456 []).thm.shut = false ∧ ((svc 65456 []).now + 80) % 65536 = 0) ∧
    (∀ k ∈ [0, 1, 2, 65, 66, 73, 74, 80], let c := { svc (65456 + k) [(Fd.CHP_SYNC_CTL_OUT_EN, 1)] with pins := { Pins.init with syncE := some 65536 } }
     c.running = true ∧ c.get Fd.CHP_SYNC_CTL_OUT_EN = 1 ∧ c.pins.syncE = some 65536 ∧ c.now + 80 = 65536 + k) := by decide +kernel
theorem wit_BringupUnitsAreTestedAndCalibrated : (staged 3 false).inStage 3 = true ∧
    ((staged 4 false).inStage 4 = true ∧ (staged 4 false).boot.jtagWait = false ∧ (staged 4 false).minimumSet [] = true ∧ (staged 4 false).minimumSet [.core] = false ∧
      (∀ z ∈ upFrom 0 9, (staged 4 false).get (zStep z) ≠ 3) ∧ (staged 4 false).exists_ 7 = true ∧ ((staged 4 false).put (zStep 7) 3).get (zStep 7) = 3 ∧
      ((staged 4 false).put (zStep 7) 3).minimumSet [] = true) ∧
    (staged 5 false).inStage 5 = true ∧ (staged 6 false).inStage 6 = true ∧ ((staged 7 false).inStage 7 = true ∧ (staged 7 false).boot.ready = false) ∧
    (let c := { staged 7 false with boot := { Boot.init with ready := true } }
     c.inStage 7 = true ∧ c.boot.ready = true ∧ c.get Fd.CHP_RST_STS_CAUSE ≠ 3 ∧ (c.put Fd.CHP_RST_STS_CAUSE 3).get Fd.CHP_RST_STS_CAUSE = 3) := by decide +kernel
theorem wit_LowPowerStatesAndFunctionReset : cooled.core.cfgAnswer = .silent ∧ State.reset.core.cfgAnswer = .retry ∧
    ((svc 9 []).cfgAnswer = .normal ∧ (svc 9 []).pins.d3 = false ∧ (svc 9 []).runIs .idle = true ∧ (svc 9 []).hbmIs .active = false) ∧
    (let c := svc 9 [(Fd.HBM_STS_STATE, 2)]
     c.cfgAnswer = .normal ∧ c.pins.d3 = false ∧ c.hbmIs .active = true ∧ c.hbmc.pausing = false ∧ c.hbmc.rateDue = false) ∧
    (let c := regs [(Fd.CHP_BOOT_STS_STAGE, 3), (Fd.CHP_BOOT_STS_FAILED, 1)]
     c.cfgAnswer = .normal ∧ c.runIs .idle = true) ∧
    ({ svc 9 [] with pins := { Pins.init with d3 := true } } : Core).pins.d3 = true := by decide +kernel
/-- R431: a stack in a retraining pause goes into self-refresh at the first tick that lets it. -/
theorem test_d3_pausing : out .d3hotEntry (st { svc 9 [(Fd.HBM_STS_STATE, 2)] with hbmc := { HbmCtl.init with pausing := true } }) (fun c => c.pins.d3 && c.hbmIs .active && c.pins.srDue == 1) = true := by
  decide +kernel

/-! ### Host commands -/

theorem wit_CompletionsFollowTheDescriptor : 0 < 64 ∧ ((svc 9 ringL).ring 0).cmd = none ∧
    (((slot 9 (desc .query []) []).core.ring 0).cmd = some (cmdOf (desc .query []) 0 false [])) := by decide +kernel
/-- LOAD_SEGMENT of 4 granules (one line) into line 64 of cell 0. -/
def segD (home len : Nat) : Desc := desc .loadSegment [(64, 5), (80, home), (128, if home = 3 then 0 else 64), (160, len), (224, if home = 3 then 0 else ceilDiv len 7 * 128)]
def segData : Option (List Byte) := some (List.replicate 128 7)
def segSt (home len : Nat) : State := slot 9 (segD home len) [(Fd.CEL_SEQ_CFG_STAGE_LINES 0, 16), (Fd.BLK_SEG_CFG_STAGE_LINES 0 0, 64), (Fd.HBM_STS_STATE, 2), (Fd.HBM_PART_SIZE 0, 1)]
/-- The four conditions of a LOAD_SEGMENT, as the statement names them. -/
def segTests (s : State) (d : Desc) : List Bool :=
  let k := segCmd d
  let lines := ceilDiv k.len 7
  [onlyBits d [(8, 0, 16), (10, 0, 2), (12, 0, 12), (16, 0, 27), (20, 0, 20), (24, 0, 8), (28, 0, 32), (32, 0, 64)] && decide ((k.home ≠ 3 → k.stream = 0) ∧
     (k.home = 0 ∨ k.home = 3 → k.owner < 2304 ∧ s.core.bOk (cellR k.owner) (cellB k.owner) = true) ∧ (k.home = 1 → k.owner < 128 ∧ s.core.bOk (k.owner / 16) (k.owner % 16) = true) ∧
     (k.home = 2 → k.owner = 0) ∧ (k.home = 3 → k.line = 0)),
   decide (k.addr % 64 = 0 ∧ k.bytes % 64 = 0),
   decide (4 ≤ k.len ∧ k.bytes = (if k.home = 3 then 0 else lines * 128) ∧ (k.home = 0 → s.core.get (Fd.CEL_SEQ_CFG_STAGE_LINES k.owner) ≤ k.line ∧ k.line + lines ≤ 256) ∧
     (k.home = 1 → s.core.get (Fd.BLK_SEG_CFG_STAGE_LINES (k.owner / 16) (k.owner % 16)) ≤ k.line ∧ k.line + lines ≤ 4096) ∧
     (k.home = 2 → s.core.get Fd.CHP_BOOT_STS_NO_HBM = 0 → k.line + lines ≤ s.core.get (Fd.HBM_PART_SIZE 0) * 524288)),
   decide (∀ i ∈ s.core.inPlay s.mem, i ≠ k.id ∧ (k.home ≠ 3 → let e := dirEntry s.mem i
     dirValid e = true → dirHome e = k.home → dirOwner e = k.owner → k.line + lines ≤ dirLine e ∨ dirLine e + ceilDiv (dirLen e) 7 ≤ k.line))]
theorem wit_LoadsWriteTheirTargets_segment : ∀ home ∈ [0, 1, 2, 3], ∀ len ∈ [4, 7], let d := segD home len; let s := segSt home len; let k := segCmd d
    Inv s ∧ Ready 0 .loadSegment d s ∧ s.core.setIs .checking = false ∧ s.core.loading 0 = false ∧ segTests s d = [true, true, true, true] ∧ s.core.get Fd.CHP_BOOT_STS_NO_HBM = 0 ∧
    k.home = home ∧ (home ≠ 3 → k.bytes ≤ (List.replicate 128 (7 : Byte)).length) ∧ s.core.arbs = [] := by
  unfold Ready Inv; decide +kernel
/-- One state for each refusal, in the order of R280: a reserved bit, an odd address, three granules, a segment in play, no HBM; and a command that has to wait. -/
theorem wit_LoadsWriteTheirTargets_refused :
    (let d := desc .loadSegment [(56, 1)]; let s := slot 9 d []
     Inv s ∧ Ready 0 .loadSegment d s ∧ s.core.setIs .checking = false ∧ s.core.loading 0 = false ∧ segTests s d = [false, true, false, true]) ∧
    (let d := segD 2 7 + desc .loadSegment [(256, 1)] - desc .loadSegment []; let s := slot 9 d [(Fd.HBM_PART_SIZE 0, 1)]
     Ready 0 .loadSegment d s ∧ segTests s d = [true, false, true, true]) ∧
    (let d := segD 2 3; let s := slot 9 d [(Fd.HBM_PART_SIZE 0, 1)]
     Ready 0 .loadSegment d s ∧ segTests s d = [true, true, false, true]) ∧
    (let d := segD 2 7; let s := slot 9 d [(Fd.HBM_PART_SIZE 0, 1)]; let t := st { s.core with root := { s.core.root with inPlay := [5] } }
     Ready 0 .loadSegment d t ∧ segTests t d = [true, true, true, false]) ∧
    (let d := segD 2 7; let s := slot 9 d [(Fd.CHP_BOOT_STS_NO_HBM, 1)]
     Ready 0 .loadSegment d s ∧ segTests s d = [true, true, true, true] ∧ s.core.get Fd.CHP_BOOT_STS_NO_HBM = 1) ∧
    (let d := segD 2 7; let s := slot 9 d [(Fd.CHP_CFG_STS_SET_STATE, 1)]
     Ready 0 .loadSegment d s ∧ (s.core.setIs .checking = true ∨ s.core.loading 0 = true)) := by
  unfold Ready Inv; decide +kernel
/-- A LOAD_SEGMENT in execution: on its first leg, past its legs, and at the stack with nothing, part, all or a failure of its work done. -/
theorem wit_LoadsWriteTheirTargets_goes : ∀ home ∈ [0, 1, 2, 3],
    (let c := granted (goesC (segSt home 7).core 0 (some (4, List.replicate 128 7))) [(.chip 1, 9)]
     (c.goes 0 .loadSegment).isSome = true ∧ c.arbPart (.chip 0) 9 1 < ceilDiv 128 128 ∧ c.laneOf 9 = some (.chip 1) ∧ c.laneOf 8 = none ∧ c.arbPart (.chip 0) 8 1 = 0) ∧
    (let c := goesC (segSt home 7).core 3 (some (4, List.replicate 128 7))
     ((c.goes 0 .loadSegment).map (fun k => k.leg)) = some 3 ∧ c.get Fd.CHP_BOOT_STS_NO_HBM = 0 ∧ (c.put Fd.CHP_BOOT_STS_NO_HBM 1).get Fd.CHP_BOOT_STS_NO_HBM = 1 ∧ c.workOf 169 1 = none ∧
     ∀ todo ∈ ([[], [(0, 128, none)]] : List (List (Nat × Nat × Option (List Byte)))), ∀ bad ∈ [false, true],
       let w : HWork := { id := 1, who := 169, tag := 1, todo := todo, out := 0, got := [], bad := bad, off := 0 }
       let e := { c with hbmc := { c.hbmc with works := [w] } }
       e.workOf 169 1 = some w ∧ (e.goes 0 .loadSegment).isSome = true) := by
  decide +kernel
/-- LOAD_CONFIG of 64 bytes into byte 64 of program memory of cell 1. -/
def cfgD (sp u o len : Nat) : Desc := desc .loadConfig [(64, sp), (96, u), (128, o), (160, len)]
theorem wit_LoadsWriteTheirTargets_config : ∀ x ∈ ([(0, 0, Fd.CEL_CFG 0 / 64 * 64, 2 ^ 25), (1, 1, 32704, 32768), (2, 1, 4032, 4096), (3, 1, 192, 256), (4, 7, 327616, 327680)] : List (Nat × Nat × Nat × Nat)),
    let d := cfgD x.1 x.2.1 x.2.2.1 64; let s := slot 9 d []
    Inv s ∧ Ready 0 .loadConfig d s ∧ s.core.loading 0 = false ∧ onlyBits d [(8, 0, 4), (12, 0, 32), (16, 0, 32), (20, 0, 32), (24, 0, 64)] = true ∧ s.core.setIs .clean = true ∧
    (s.core.put Fd.CHP_CFG_STS_SET_STATE 1).setIs .clean = false ∧ dField d 8 0 4 = x.1 ∧
    dField d 12 0 32 = x.2.1 ∧ dField d 16 0 32 = x.2.2.1 ∧ dField d 20 0 32 = 64 ∧ dField d 24 0 64 % 64 = 0 ∧ x.2.2.1 % 64 = 0 ∧ 64 ≤ (List.replicate 64 (3 : Byte)).length ∧
    x.2.2.1 + 64 ≤ x.2.2.2 ∧ s.core.bOk (cellR 1) (cellB 1) = true ∧ s.core.rOk 7 = true ∧ s.core.arbs = [] ∧
    (let c := granted (goesC s.core 0 (some (4, List.replicate 64 3))) [(.chip 2, 9)]
     (c.goes 0 .loadConfig).any (fun k => k.leg == 0 && k.data.length == 64 && dField k.desc 8 0 4 == x.1) = true ∧ c.laneOf 9 = some (.chip 2) ∧ c.laneOf 8 = none ∧
     c.arbPart (.chip 0) 9 1 = 0 ∧ c.arbPart (.chip 0) 8 1 = 0) ∧
    (let c := granted (goesC s.core 1 (some (4, List.replicate 256 3))) [(.chip 2, 8)]
     (c.goes 0 .loadConfig).any (fun k => k.leg == 1) = true ∧ c.laneOf 8 = some (.chip 2) ∧ c.arbRoom (.chip 2) 8 2 = 2 ∧ c.arbRoom (.chip 2) 8 4 + c.arbPart (.chip 0) 8 1 < 4) ∧
    ((goesC s.core 2 (some (4, List.replicate 64 3))).goes 0 .loadConfig).any (fun k => k.leg == 2 && k.data.length % 64 == 0) = true := by
  unfold Ready Inv; decide +kernel
/-- Target, alignment and length of a LOAD_CONFIG that fail: space 5, a cell that is not there, byte offset 32, no bytes, past the end of the space. -/
theorem wit_LoadsWriteTheirTargets_config_refused : ∀ x ∈ ([(5, 0, 0, 64), (1, 2304, 0, 64), (4, 8, 0, 64), (1, 0, 32, 64), (1, 0, 0, 0), (1, 0, 32704, 128)] : List (Nat × Nat × Nat × Nat)),
    let d := cfgD x.1 x.2.1 x.2.2.1 x.2.2.2; let s := slot 9 d []
    Ready 0 .loadConfig d s ∧ dField d 8 0 4 = x.1 ∧ s.core.setIs .clean = true ∧ s.core.loading 0 = false ∧ dField d 12 0 32 = x.2.1 ∧ dField d 16 0 32 = x.2.2.1 ∧ dField d 20 0 32 = x.2.2.2 := by
  unfold Ready; decide +kernel
/-- A word of LOAD_CONFIG space 0: CEL_CFG of cell 0 lies in the 64 bytes loaded, inside its unit's window, with every bit of the word a field. -/
theorem wit_LoadsWriteTheirTargets_word : let c := (slot 9 (cfgD 0 0 (Fd.CEL_CFG 0 / 64 * 64) 64) []).core; let i := Fd.CEL_CFG 0 % 64 / 4
    Fd.CEL_CFG 0 / 64 * 64 + 4 * i = Fd.CEL_CFG 0 ∧ 4 * i < 64 ∧ (regAt (Fd.CEL_CFG 0)).any (fun row => row.isSh && row.fields.any (fun q => q.lo == (Fd.CEL_CFG_ROLE 0).lo && q.w == (Fd.CEL_CFG_ROLE 0).w) &&
      Nat.land 1 (0xFFFFFFFF - maskOf (fun _ => true) row.fields) == 0) = true ∧ c.window (Fd.CEL_CFG 0) = true ∧ c.deadBits (Fd.CEL_CFG 0) = 0 := by decide +kernel
/-- The data of a profile of one record: FUNC, UNIT and one entry with SPACE, LOC and IMAGE. -/
def profL (f u sp loc image : Nat) : List Byte := toLE 1 f ++ toLE 1 1 ++ toLE 2 0 ++ toLE 4 u ++ toLE 4 (loc + sp * 2 ^ 28) ++ toLE 4 image ++ List.replicate 240 0
theorem wit_LoadsWriteTheirTargets_profile : ∀ x ∈ ([(1, 0, Fd.CEL_CFG 0), (6, 3, 12), (7, 4, 0x600)] : List (Nat × Nat × Nat)),
    let d := desc .loadConfig [(64, 15), (160, 256)]; let s := slot 9 d []; let l := profL x.1 0 x.2.1 x.2.2 1; let rs := profRecs (l.take 256)
    Inv s ∧ Ready 0 .loadConfig d s ∧ s.core.loading 0 = false ∧ s.core.arbs = [] ∧ onlyBits d [(8, 0, 4), (12, 0, 32), (16, 0, 32), (20, 0, 32), (24, 0, 64)] = true ∧ s.core.setIs .clean = true ∧ dField d 8 0 4 = 15 ∧
    dField d 16 0 32 = 0 ∧ dField d 20 0 32 = 256 ∧ l.length = 256 ∧ rs.length = 1 ∧
    (∀ r ∈ rs, (profFn r.func).isSome = true ∧ (∀ f ∈ profFn r.func, s.core.profUnit f r.unit = true ∧ r.nent = 1 ∧ r.ents.length = 1 ∧
      ∀ e ∈ r.ents, e.loc % 4 = 0 ∧ (e.sp = 0 → (profRegs f r.unit).any (fun k => k.1 == e.loc && k.2.1 != 0) = true) ∧ (e.sp ≠ 0 → profMem s.mem s.core f r.unit e.sp e.loc ≠ 0))) := by
  unfold Ready Inv; decide +kernel
theorem wit_CommitsCheckTheShadowSet : ∀ only ∈ [false, true], let d := desc .commit [(64, b2n only)]; let s := slot 9 d []
    (Ready 0 .commit d s ∧ s.core.loading 0 = false ∧ onlyBits d [(8, 0, 1)] = true ∧ s.core.setIs .clean = true ∧ dField d 8 0 1 = b2n only ∧
     (s.core.put Fd.CHP_CFG_STS_SET_STATE 2).setIs .clean = false) ∧
    (let e := desc .commit [(64, b2n only), (80, 1)]
     Ready 0 .commit e (slot 9 e []) ∧ onlyBits e [(8, 0, 1)] = false ∧ dField e 8 0 1 = b2n only) ∧
    (let t := st { s.core with root := { s.core.root with commit := some (0, only, 9) } }
     Inv t ∧ t.core.svc = true ∧ t.core.root.commit = some (0, only, 9) ∧ (t.core.ring 0).cmd = some (cmdOf d 0 false []) ∧ t.core.now < 2 ^ 64) := by
  unfold Ready Inv; decide +kernel
/-- Another ring executes a LOAD_CONFIG: a COMMIT waits. -/
theorem wit_CommitsCheckTheShadowSet_loading : let d := desc .commit []; let s := slot 9 d []
    let t := st (s.core.modRing 2 (fun r => { r with cmd := some (cmdOf (cfgD 0 0 0 64) 4 true []) }))
    Ready 0 .commit d t ∧ t.core.loading 0 = true := by
  unfold Ready; decide +kernel
/-- A shadow set to be checked, for a chip with region 0 alone and register fields set, over shadow program memories; COMMIT of ring 0 is in execution. -/
def chkS (l : List (Fld × Nat)) (m : Mems) : State :=
  let c := (slot 9 (desc .commit []) ((Fd.CHP_UNIT_STS_REGION_OK, 1) :: l)).core
  { st { c with shd := c.act, act := [], root := { c.root with commit := some (0, false, 9) } } with mem := { m with pmS := m.pmA, pmA := [] } }
/-- What the checks of R254 refuse on a chip with region 0 alone and in it at most block 0, whose active cells are among `cs` and hold the words `ws`: no less than they refuse. -/
def fewChecks (m : Mems) (c : Core) (cs : List Nat) (ws : Nat → List Nat) (k : Nat) : Prop :=
  let cells := fun (x : Nat) => ((blkCells 0 0).filter (fun g => c.role g == x)).length
  match k with
  | 1 => ∃ f ∈ m.flaw, f.2.2 = true ∧ f.1 ∈ [9, 10, 12, 13]
  | 2 => c.bOk 0 0 = true ∧ (8 < cells 1 ∨ 8 < cells 2 ∨ 2 < cells 3 ∨ ∃ g ∈ blkCells 0 0, c.cOk g = false ∧ c.get (Fd.CEL_CFG_ROLE g) ≠ 0)
  | 3 => (∃ g ∈ cs, ∃ h ∈ cs, g ≠ h ∧ c.role g = 1 ∧ c.role h = 1 ∧ c.toneOf g = c.toneOf h) ∨ 32 < ((rgnCells 0).filter (fun g => c.role g == 2)).length
  | 4 => ∃ g ∈ cs,
      let bb := fun (h : Nat) => c.get (Fd.BLK_TONE_ROUTE_BB (cellR g) (cellB g) (cellC h))
      c.role g = 1 ∧ c.get (Fd.RGN_DAC_CFG_EN (cellR g) (c.toneOf g).1) = 0 ∨
      c.role g = 3 ∧ (c.get (Fd.BLK_BB_CFG_EN (cellR g) (cellB g) (bb g)) = 0 ∨ ∃ h ∈ blkCells (cellR g) (cellB g), h ≠ g ∧ c.role h = 3 ∧ bb h = bb g) ∨
      c.role g = 2 ∧ (c.get (Fd.RGN_ADC_CFG_EN (cellR g) (c.chanOf g).1) = 0 ∨ (c.chanOf g).2 = 1 ∧ c.get (Fd.RGN_ADC_CFG_MODE (cellR g) (c.chanOf g).1) = 0)
  | 5 => ∃ g ∈ cs, c.get (Fd.CEL_CFG_PM_SPLIT g) = 0 ∨ c.get (Fd.CEL_CFG_PM_SPLIT g) * 128 ≤ c.get (Fd.CEL_CFG_START g) ∨ c.get (Fd.CEL_CFG_PHX_INLINE g) = 1 ∧ c.get (Fd.CEL_CFG_PHX_EN g) = 0 ∨
      c.get (Fd.CEL_CFG_EV_EN g) ≠ 0 ∧ c.get (Fd.CEL_CFG_START g) < 32
  | 6 => ∃ g ∈ cs,
      let h := pmWord m g (c.seqW g)
      h % 4096 < c.seqW g + 69 ∨ 256 < bitsOf h 16 9 ∨ bitsOf h 12 4 ≠ 0 ∨ h / 2 ^ 25 ≠ 0 ∨ (∃ x, x < 8 ∧ BadSlot c (watchEntry m c g x)) ∨ segCount m c g ≠ 0 ∨
      ∃ w ∈ ws g, ((unassigned (sqOp w)).all (fun l => l.any (fun f => bitsOf w f.1 f.2 != 0))) = true ∨ roleMay (sqOp w) (c.role g) = false ∨ sqOp w ∈ [0x01, 0x02, 0x03, 0x0B, 0x0C, 0x09] ∨
        (sqOp w = 0x04 ∧ (¬ seqStart m c g ≤ sqTgt w ∨ sqSeg w = 0 ∨ sqLow16 w = 0 ∨ ∃ k, k < 8 ∧ bitAt (sqSeg w) k = true ∧ wKind (watchEntry m c g k) = 0))
  | 7 => (∃ g ∈ cs, ∃ w ∈ ws g, sqOp w = 0x10) ∨
      ∃ i, i < 8 ∧ (c.get (Fd.RGN_DAC_CFG_MODE 0 i) = 3 ∨ 4 < c.get (Fd.RGN_DAC_CFG_COMB_SHIFT 0 i) ∨ 4 < c.get (Fd.RGN_DAC_CFG_LOCK_SHIFT 0 i) ∨
        c.get (Fd.RGN_DAC_CFG_ZONE 0 i) ≠ bitsOf (c.get (Fd.RGN_DAC_FTW_HI_FTW_HI 0 i)) 15 1)
  | 8 => ∃ j, j < 4 ∧ ∃ x, x < 2 ∧ c.get (Fd.RGN_ADC_CFG_EN 0 j) = 1 ∧ (x = 1 → c.get (Fd.RGN_ADC_CFG_MODE 0 j) = 1) ∧
      0xAAAAAAAAAAAA < c.get (Fd.RGN_ADC_FTW_LO_FTW_LO 0 j x) + 2 ^ 32 * c.get (Fd.RGN_ADC_FTW_HI_FTW_HI 0 j x)
  | 9 => ∃ g ∈ cs, c.role g = 2 ∧ (32 < c.get (Fd.CEL_RO_CFG_NSLOT g) ∨ 2 ^ 10 ≤ c.actW (Fd.CEL_RO_CFG g) ∨ ∃ w ∈ ws g, sqOp w = 0x03)
  | 0xA => (∃ g ∈ cs, (∃ w ∈ ws g, sqOp w = 0x1C) ∨ ∃ x, x < 8 ∧ wKind (watchEntry m c g x) = 3) ∨ BadTables m c 0 ∨
      ∃ p, p < 4 ∧ ∃ e, e < 80 ∧ (c.get (Fd.CHP_DEC_EXPORT_EN p e) = 1 ∧ c.isRo (c.get (Fd.CHP_DEC_EXPORT_CELL p e)) = false ∨ c.get (Fd.CHP_DEC_IMPORT_EN p e) = 1)
  | 0xB => (∃ w, w < 8 ∧ (c.get (Fd.VIO_PIN_CFG_EN 0 w) = 1 ∨ c.get (Fd.VIO_PIN_CFG_REST 0 w) = 3 ∨ c.get (Fd.VIO_PIN_THR_VTH 0 w) ≤ c.get (Fd.VIO_PIN_THR_VTL 0 w) ∨
         2 ^ 21 ≤ c.actW (Fd.VIO_PIN_CFG 0 w) ∨ 2 ^ 16 ≤ c.actW (Fd.VIO_PIN_THR 0 w))) ∨
      (∃ x, x < 4 ∧ (2 ^ 6 ≤ c.actW (Fd.CHP_TRIG_IN_CFG x) ∨ BadSel c (c.get (Fd.CHP_TRIG_OUT_CFG_SRC x)) (c.get (Fd.CHP_TRIG_OUT_CFG_SEL x)) ∨
        2 ^ 27 ≤ c.actW (Fd.CHP_TRIG_OUT_CFG x))) ∨
      ∃ g ∈ cs, ∃ x, x < 8 ∧ 3 < wKind (watchEntry m c g x)
  | 0xC => ∃ g ∈ cs, ∃ w ∈ ws g, sqOp w = 0x04
  | _ => False
theorem few_rgn {c : Core} (h : c.get Fd.CHP_UNIT_STS_REGION_OK = 1) {r : Nat} (hr : c.rOk r = true) : r = 0 := by
  unfold Core.rOk at hr
  rw [h] at hr
  simp only [Bool.and_eq_true, decide_eq_true_eq] at hr
  obtain ⟨h8, hb⟩ := hr
  interval_cases r <;> first | rfl | exact absurd hb (by decide)
theorem few_blk {c : Core} (h : c.get Fd.CHP_UNIT_STS_REGION_OK = 1) (hb : c.get (Fd.RGN_UNIT_STS_BLOCK_OK 0) ≤ 1) {r b : Nat} (hr : c.bOk r b = true) : r = 0 ∧ b = 0 := by
  unfold Core.bOk at hr
  simp only [Bool.and_eq_true, decide_eq_true_eq] at hr
  obtain ⟨⟨hr, h16⟩, hb'⟩ := hr
  obtain rfl := few_rgn h hr
  refine ⟨rfl, ?_⟩
  have hv : c.get (Fd.RGN_UNIT_STS_BLOCK_OK 0) = 0 ∨ c.get (Fd.RGN_UNIT_STS_BLOCK_OK 0) = 1 := by omega
  rcases hv with hv | hv <;> rw [hv] at hb' <;> interval_cases b <;> first | rfl | exact absurd hb' (by decide)
theorem few_cells {c : Core} (h : c.get Fd.CHP_UNIT_STS_REGION_OK = 1) (hb : c.get (Fd.RGN_UNIT_STS_BLOCK_OK 0) ≤ 1) {cs : List Nat} (hc : ∀ g ∈ blkCells 0 0, c.role g ≠ 0 → g ∈ cs)
    {g : Nat} (hg : c.role g ≠ 0) : g ∈ cs := by
  have hk : c.cOk g = true := by
    unfold Core.role at hg
    by_contra hk
    simp [hk] at hg
  unfold Core.cOk at hk
  simp only [Bool.and_eq_true] at hk
  obtain ⟨h1, h2⟩ := few_blk h hb hk.1
  unfold cellR at h1
  unfold cellB at h2
  have : g < 18 := by omega
  refine hc g ?_ hg
  interval_cases g <;> decide
/-- Every check that fails on such a chip fails there too. -/
theorem few_of {m : Mems} {c : Core} {cs : List Nat} {ws : Nat → List Nat} (h : c.get Fd.CHP_UNIT_STS_REGION_OK = 1) (hb : c.get (Fd.RGN_UNIT_STS_BLOCK_OK 0) ≤ 1)
    (hc : ∀ g ∈ blkCells 0 0, c.role g ≠ 0 → g ∈ cs) (hw : ∀ g ∈ cs, seqStart m c g = 4095 → pmWord m g 4095 ∈ ws g)
    (hs : ∀ g ∈ cs, seqStart m c g ≠ 4095 → False) {k : Nat} (hf : FailsCheck m c k) : fewChecks m c cs ws k := by
  have ha : ∀ g ∈ c.active, g ∈ cs := fun g hg => by
    unfold Core.active at hg
    exact few_cells h hb hc (by simpa using (List.mem_filter.1 hg).2)
  have hi : ∀ g ∈ cs, ∀ w, IsWord m c g w → w ∈ ws g := fun g hg w ⟨x, h1, h2, h3⟩ => by
    have hq : seqStart m c g = 4095 := by
      by_contra hq
      exact hs g hg hq
    obtain rfl : x = 4095 := by omega
    exact h3 ▸ hw g hg hq
  match k, hf with
  | 1, hf => exact hf
  | 2, ⟨r, b, hr, hx⟩ => obtain ⟨rfl, rfl⟩ := few_blk h hb hr; exact ⟨hr, hx⟩
  | 3, ⟨r, hr, hx⟩ =>
    obtain rfl := few_rgn h hr
    rcases hx with ⟨g, _, g', _, h1, h2, h3, h4⟩ | ⟨y, hy⟩
    · exact .inl ⟨g, few_cells h hb hc (by omega), g', few_cells h hb hc (by omega), h1, h2, h3, h4⟩
    · refine .inr (lt_of_lt_of_le hy ?_)
      exact (List.monotone_filter_right _ (fun x hx => by simp only [Bool.and_eq_true] at hx; exact hx.1)).length_le
  | 4, ⟨g, hg, hx⟩ => exact ⟨g, ha g hg, hx⟩
  | 5, ⟨g, hg, hx⟩ => exact ⟨g, ha g hg, hx⟩
  | 6, ⟨g, hg, hx⟩ =>
    refine ⟨g, ha g hg, ?_⟩
    rcases hx with hx | hx | hx | hx | hx | ⟨x, hx, _⟩ | ⟨w, hw', hx⟩
    · exact .inl hx
    · exact .inr (.inl hx)
    · exact .inr (.inr (.inl hx))
    · exact .inr (.inr (.inr (.inl hx)))
    · exact .inr (.inr (.inr (.inr (.inl hx))))
    · exact .inr (.inr (.inr (.inr (.inr (.inl (by omega))))))
    · refine .inr (.inr (.inr (.inr (.inr (.inr ⟨w, hi g (ha g hg) w hw', ?_⟩)))))
      unfold BadWord EmptySlot at hx
      rcases hx with hx | ⟨l, hl, f, hf, hx⟩ | hx | ⟨ho, _⟩ | ⟨ho, _⟩ | ⟨ho, hx⟩ | ⟨ho, _⟩ | ⟨ho, hx⟩ | ⟨ho, _⟩ | ⟨ho, hx⟩
      · simp [hx]
      · refine .inl ?_
        rw [hl]
        simp only [Option.all_some, List.any_eq_true, bne_iff_ne]
        exact ⟨f, hf, hx⟩
      · exact .inr (.inl hx)
      · exact .inr (.inr (.inl (by simp at ho ⊢; omega)))
      · exact .inr (.inr (.inl (by simp at ho ⊢; omega)))
      · exact .inr (.inr (.inl (by simp at ho ⊢; omega)))
      · exact .inr (.inr (.inl (by simp at ho ⊢; omega)))
      · simp only [List.mem_cons, List.not_mem_nil, or_false] at ho
        rcases ho with ho | ho
        · exact .inr (.inr (.inl (by simp [ho])))
        · exact .inr (.inr (.inr ⟨ho, .inl hx⟩))
      · exact .inr (.inr (.inl (by simp [ho])))
      · exact .inr (.inr (.inr ⟨ho, .inr hx⟩))
  | 7, hf =>
    rcases hf with ⟨g, hg, w, hw', ho, _⟩ | ⟨r, i, hr, hx⟩
    · exact .inl ⟨g, ha g hg, w, hi g (ha g hg) w hw', ho⟩
    · obtain rfl := few_rgn h hr
      exact .inr ⟨i, hx⟩
  | 8, ⟨r, j, x, hr, hj, hx⟩ => obtain rfl := few_rgn h hr; exact ⟨j, hj, x, hx⟩
  | 9, ⟨g, hg, h2, hx⟩ =>
    refine ⟨g, ha g hg, h2, ?_⟩
    rcases hx with hx | hx | ⟨w, hw', ho, _⟩
    · exact .inl hx
    · exact .inr (.inl hx)
    · exact .inr (.inr ⟨w, hi g (ha g hg) w hw', ho⟩)
  | 10, hf =>
    rcases hf with ⟨g, hg, ⟨w, hw', ho, _⟩ | ⟨x, hx, h3, _⟩⟩ | ⟨r, hr, hx⟩ | ⟨p, e, hp, he, hx⟩
    · exact .inl ⟨g, ha g hg, .inl ⟨w, hi g (ha g hg) w hw', ho⟩⟩
    · exact .inl ⟨g, ha g hg, .inr ⟨x, hx, h3⟩⟩
    · obtain rfl := few_rgn h hr
      exact .inr (.inl hx)
    · refine .inr (.inr ⟨p, hp, e, he, ?_⟩)
      rcases hx with hx | hx
      · exact .inl hx
      · exact .inr hx.1
  | 11, hf =>
    rcases hf with ⟨r, w, hr, h8, hx⟩ | hx | ⟨g, hg, x, hx, h4⟩
    · obtain rfl := few_rgn h hr
      refine .inl ⟨w, h8, ?_⟩
      rcases hx with hx | hx
      · exact .inl hx.1
      · exact .inr hx
    · exact .inr (.inl hx)
    · exact .inr (.inr ⟨g, ha g hg, x, hx, by omega⟩)
  | 12, ⟨g, hx⟩ =>
    obtain ⟨b, hx, _⟩ := Relation.TransGen.head'_iff.1 hx
    obtain ⟨hg, _, _, _, w, hw', ho, _⟩ := hx
    exact ⟨g, ha g hg, w, hi g (ha g hg) w hw', ho⟩
  | 0, hf => exact hf.elim
  | n + 13, hf => exact hf.elim
/-- Cells 0 (DRIVE) and 1 (READOUT) of block 0 with a program of one word each, and their routing. -/
def cellL : List (Fld × Nat) :=
  [(Fd.RGN_UNIT_STS_BLOCK_OK 0, 1), (Fd.BLK_UNIT_STS_CELL_OK 0 0, 3), (Fd.CEL_CFG_ROLE 0, 1), (Fd.CEL_CFG_ROLE 1, 2)] ++ (upFrom 2 16).map (fun g => (Fd.CEL_CFG_ROLE g, 0)) ++
  [(Fd.RGN_DAC_CFG_EN 0 0, 1), (Fd.RGN_ADC_CFG_EN 0 0, 1), (Fd.CEL_CFG_PM_SPLIT 0, 1), (Fd.CEL_CFG_PM_SPLIT 1, 1), (Fd.CEL_CFG_START 0, 64), (Fd.CEL_CFG_START 1, 64)]
/-- The program of a cell: SEQ_START 4,095, watch slot 0, the word. -/
def prog (g slot w : Nat) (l : List (Nat × Byte)) : List (Nat × Byte) := wrBytes zeroByte (wrBytes zeroByte l (g * 32768 + 1024) (toLE 8 4095 ++ toLE 4 slot)) (g * 32768 + 32760) (toLE 8 w)
def cellM (a b wa wb : Nat) : Mems := { Mems.empty with pmA := prog 1 b wb (prog 0 a wa []) }
def endW : Nat := 0x3F * 2 ^ 58
def waitW : Nat := 4 * 2 ^ 58 + 2 ^ 50 + 4095 * 2 ^ 28 + 1
/-- The conditions of `few_of` on a state whose shadow set is checked. -/
def Few (s : State) (cs : List Nat) (ws : Nat → List Nat) : Prop :=
  let v := shadowView s.mem s.core
  v.2.get Fd.CHP_UNIT_STS_REGION_OK = 1 ∧ v.2.get (Fd.RGN_UNIT_STS_BLOCK_OK 0) ≤ 1 ∧ (∀ g ∈ blkCells 0 0, v.2.role g ≠ 0 → g ∈ cs) ∧ ∀ g ∈ cs, seqStart v.1 v.2 g = 4095 ∧ pmWord v.1 g 4095 ∈ ws g
theorem few_view {s : State} {cs : List Nat} {ws : Nat → List Nat} (h : Few s cs ws) {k : Nat} (hk : ¬ fewChecks (shadowView s.mem s.core).1 (shadowView s.mem s.core).2 cs ws k) :
    ¬ FailsCheck (shadowView s.mem s.core).1 (shadowView s.mem s.core).2 k :=
  fun hf => hk (few_of h.1 h.2.1 h.2.2.1 (fun g hg _ => (h.2.2.2 g hg).2) (fun g hg hn => hn (h.2.2.2 g hg).1) hf)
/-- Shadow sets that fail one check after the other, none before it: by a corrupt word, roles, tones, a disabled converter, START, a watch slot, a DAC's mode, a channel's frequency, NSLOT, an
export of no READOUT cell, a pin's REST. -/
def badSet (k : Nat) : State :=
  let l := cellL ++ [(Fd.BLK_TONE_ROUTE_TONE 0 0 1, 3)]
  let m := cellM 0 0 endW endW
  match k with
  | 1 => chkS l { m with flaw := [(9, 0, true)] }
  | 2 => chkS (l ++ [(Fd.CEL_CFG_ROLE 2, 1)]) m
  | 3 => chkS (l ++ [(Fd.CEL_CFG_ROLE 1, 1), (Fd.BLK_TONE_ROUTE_TONE 0 0 1, 0)]) m
  | 4 => chkS (l ++ [(Fd.RGN_DAC_CFG_EN 0 0, 0)]) m
  | 5 => chkS (l ++ [(Fd.CEL_CFG_START 1, 128)]) m
  | 6 => chkS l (cellM 1 0 endW endW)
  | 7 => chkS (l ++ [(Fd.RGN_DAC_CFG_MODE 0 7, 3)]) m
  | 8 => chkS (l ++ [(Fd.RGN_ADC_FTW_HI_FTW_HI 0 0 0, 0xFFFF)]) m
  | 9 => chkS (l ++ [(Fd.CEL_RO_CFG_NSLOT 1, 33)]) m
  | 10 => chkS (l ++ [(Fd.CHP_DEC_EXPORT_EN 3 79, 1)]) m
  | 11 => chkS (l ++ [(Fd.VIO_PIN_CFG_REST 0 7, 3)]) m
  | 12 => chkS l (cellM 17 2 waitW waitW)
  | _ => chkS l m
/-- The words of their cells. -/
def badWords (k : Nat) (_ : Nat) : List Nat := if k = 12 then [waitW] else [endW]
theorem wit_CommitsCheckTheShadowSet_state : ∀ k ∈ upFrom 1 13, let s := badSet k
    Inv s ∧ s.core.svc = true ∧ s.core.root.commit = some (0, false, 9) ∧ (s.core.ring 0).cmd.isSome = true ∧ s.core.now < 2 ^ 64 ∧ (k ≠ 1 → Few s [0, 1] (badWords k)) := by
  unfold Inv Few; decide +kernel
theorem few_none_2 : ∀ j, 1 ≤ j → j < 2 → ¬ fewChecks (shadowView (badSet 2).mem (badSet 2).core).1 (shadowView (badSet 2).mem (badSet 2).core).2 [0, 1] (badWords 2) j := by
  intro j h1 h2; interval_cases j <;> (simp only [fewChecks, BadTables, BadSel, BadSlot]; decide +kernel)
theorem few_none_3 : ∀ j, 1 ≤ j → j < 3 → ¬ fewChecks (shadowView (badSet 3).mem (badSet 3).core).1 (shadowView (badSet 3).mem (badSet 3).core).2 [0, 1] (badWords 3) j := by
  intro j h1 h2; interval_cases j <;> (simp only [fewChecks, BadTables, BadSel, BadSlot]; decide +kernel)
theorem few_none_4 : ∀ j, 1 ≤ j → j < 4 → ¬ fewChecks (shadowView (badSet 4).mem (badSet 4).core).1 (shadowView (badSet 4).mem (badSet 4).core).2 [0, 1] (badWords 4) j := by
  intro j h1 h2; interval_cases j <;> (simp only [fewChecks, BadTables, BadSel, BadSlot]; decide +kernel)
theorem few_none_5 : ∀ j, 1 ≤ j → j < 5 → ¬ fewChecks (shadowView (badSet 5).mem (badSet 5).core).1 (shadowView (badSet 5).mem (badSet 5).core).2 [0, 1] (badWords 5) j := by
  intro j h1 h2; interval_cases j <;> (simp only [fewChecks, BadTables, BadSel, BadSlot]; decide +kernel)
theorem few_none_6 : ∀ j, 1 ≤ j → j < 6 → ¬ fewChecks (shadowView (badSet 6).mem (badSet 6).core).1 (shadowView (badSet 6).mem (badSet 6).core).2 [0, 1] (badWords 6) j := by
  intro j h1 h2; interval_cases j <;> (simp only [fewChecks, BadTables, BadSel, BadSlot]; decide +kernel)
theorem few_none_7 : ∀ j, 1 ≤ j → j < 7 → ¬ fewChecks (shadowView (badSet 7).mem (badSet 7).core).1 (shadowView (badSet 7).mem (badSet 7).core).2 [0, 1] (badWords 7) j := by
  intro j h1 h2; interval_cases j <;> (simp only [fewChecks, BadTables, BadSel, BadSlot]; decide +kernel)
theorem few_none_8 : ∀ j, 1 ≤ j → j < 8 → ¬ fewChecks (shadowView (badSet 8).mem (badSet 8).core).1 (shadowView (badSet 8).mem (badSet 8).core).2 [0, 1] (badWords 8) j := by
  intro j h1 h2; interval_cases j <;> (simp only [fewChecks, BadTables, BadSel, BadSlot]; decide +kernel)
theorem few_none_9 : ∀ j, 1 ≤ j → j < 9 → ¬ fewChecks (shadowView (badSet 9).mem (badSet 9).core).1 (shadowView (badSet 9).mem (badSet 9).core).2 [0, 1] (badWords 9) j := by
  intro j h1 h2; interval_cases j <;> (simp only [fewChecks, BadTables, BadSel, BadSlot]; decide +kernel)
theorem few_none_10 : ∀ j, 1 ≤ j → j < 10 → ¬ fewChecks (shadowView (badSet 10).mem (badSet 10).core).1 (shadowView (badSet 10).mem (badSet 10).core).2 [0, 1] (badWords 10) j := by
  intro j h1 h2; interval_cases j <;> (simp only [fewChecks, BadTables, BadSel, BadSlot]; decide +kernel)
theorem few_none_11 : ∀ j, 1 ≤ j → j < 11 → ¬ fewChecks (shadowView (badSet 11).mem (badSet 11).core).1 (shadowView (badSet 11).mem (badSet 11).core).2 [0, 1] (badWords 11) j := by
  intro j h1 h2; interval_cases j <;> (simp only [fewChecks, BadTables, BadSel, BadSlot]; decide +kernel)
theorem few_none_12 : ∀ j, 1 ≤ j → j < 12 → ¬ fewChecks (shadowView (badSet 12).mem (badSet 12).core).1 (shadowView (badSet 12).mem (badSet 12).core).2 [0, 1] (badWords 12) j := by
  intro j h1 h2; interval_cases j <;> (simp only [fewChecks, BadTables, BadSel, BadSlot]; decide +kernel)
theorem few_none_13 : ∀ j, 1 ≤ j → j < 13 → ¬ fewChecks (shadowView (badSet 13).mem (badSet 13).core).1 (shadowView (badSet 13).mem (badSet 13).core).2 [0, 1] (badWords 13) j := by
  intro j h1 h2; interval_cases j <;> (simp only [fewChecks, BadTables, BadSel, BadSlot]; decide +kernel)
/-- No check fails before the one that does. -/
theorem wit_CommitsCheckTheShadowSet_first (k : Nat) (hk : k ∈ upFrom 1 13) (j : Nat) (hj : j < k) : ¬ FailsCheck (shadowView (badSet k).mem (badSet k).core).1 (shadowView (badSet k).mem (badSet k).core).2 j := by
  have h0 : ∀ s : State, ¬ FailsCheck (shadowView s.mem s.core).1 (shadowView s.mem s.core).2 0 := fun s h => h.elim
  have hF := (wit_CommitsCheckTheShadowSet_state k hk).2.2.2.2.2
  rcases Nat.eq_zero_or_pos j with rfl | hp
  · exact h0 _
  have hk' : 1 < k := by omega
  have hF := hF (by omega)
  have h13 : ∀ k ∈ upFrom 1 13, k ≤ 13 := by decide
  have hk13 := h13 k hk
  interval_cases k
  · exact few_view hF (few_none_2 j hp hj)
  · exact few_view hF (few_none_3 j hp hj)
  · exact few_view hF (few_none_4 j hp hj)
  · exact few_view hF (few_none_5 j hp hj)
  · exact few_view hF (few_none_6 j hp hj)
  · exact few_view hF (few_none_7 j hp hj)
  · exact few_view hF (few_none_8 j hp hj)
  · exact few_view hF (few_none_9 j hp hj)
  · exact few_view hF (few_none_10 j hp hj)
  · exact few_view hF (few_none_11 j hp hj)
  · exact few_view hF (few_none_12 j hp hj)
  · exact few_view hF (few_none_13 j hp hj)
/-- The check that fails. -/
theorem wit_CommitsCheckTheShadowSet_fails (k : Nat) (hk : k ∈ upFrom 1 12) : FailsCheck (shadowView (badSet k).mem (badSet k).core).1 (shadowView (badSet k).mem (badSet k).core).2 k := by
  have h : k ≤ 12 := by revert hk; revert k; decide
  have h1 : 1 ≤ k := by revert hk; revert k; decide
  interval_cases k
  · exact ⟨(9, 0, true), by decide, rfl, by decide⟩
  · exact ⟨0, 0, by decide +kernel, .inr (.inr (.inr (by decide +kernel)))⟩
  · exact ⟨0, by decide +kernel, .inl ⟨0, by decide +kernel, 1, by decide +kernel, by decide +kernel⟩⟩
  · exact ⟨0, by decide +kernel, .inl (by decide +kernel)⟩
  · exact ⟨1, by decide +kernel, by decide +kernel⟩
  · exact ⟨0, by decide +kernel, .inr (.inr (.inr (.inr (.inl ⟨0, by decide, by unfold BadSlot; decide +kernel⟩))))⟩
  · exact .inr ⟨0, 7, by decide +kernel, by decide, .inl (by decide +kernel)⟩
  · exact ⟨0, 0, 0, by decide +kernel, by decide, by decide, by decide +kernel⟩
  · exact ⟨1, by decide +kernel, by decide +kernel, .inl (by decide +kernel)⟩
  · exact .inr (.inr ⟨3, 79, by decide, by decide, .inl (by decide +kernel)⟩)
  · exact .inl ⟨0, 7, by decide +kernel, by decide, .inr (.inl (by decide +kernel))⟩
  · have e1 : WaitEdge (shadowView (badSet 12).mem (badSet 12).core).1 (shadowView (badSet 12).mem (badSet 12).core).2 0 1 :=
      ⟨by decide +kernel, by decide, by decide +kernel, by decide, waitW, ⟨4095, by decide +kernel, by decide, by decide +kernel⟩, by decide +kernel, 0, by decide, by decide +kernel, by decide +kernel, by decide +kernel⟩
    have e2 : WaitEdge (shadowView (badSet 12).mem (badSet 12).core).1 (shadowView (badSet 12).mem (badSet 12).core).2 1 0 :=
      ⟨by decide +kernel, by decide, by decide +kernel, by decide, waitW, ⟨4095, by decide +kernel, by decide, by decide +kernel⟩, by decide +kernel, 0, by decide, by decide +kernel, by decide +kernel, by decide +kernel⟩
    exact ⟨0, .tail (.single e1) e2⟩
/-- A set that fails none. -/
theorem wit_CommitsCheckTheShadowSet_passes : ∀ k, ¬ FailsCheck (shadowView (badSet 13).mem (badSet 13).core).1 (shadowView (badSet 13).mem (badSet 13).core).2 k := fun k h => by
  rcases Nat.lt_or_ge k 13 with hk | hk
  · exact wit_CommitsCheckTheShadowSet_first 13 (by decide) k hk h
  · obtain ⟨n, rfl⟩ : ∃ n, k = n + 13 := ⟨k - 13, by omega⟩
    exact h.elim
/-- RUN of 3 shots in mode 0, after a first COMMIT has been swapped in. -/
def runD (mode : Nat) : Desc := desc .run [(64, 3), (96, mode), (192, if mode = 1 then 1000 else 0)]
def runSt (mode : Nat) : State := let c := (slot 9 (runD mode) []).core; st { c with root := { c.root with ever := true } }
theorem wit_RunAndStopGovernTheSeries_run : ∀ mode ∈ [0, 1, 2, 3], let d := runD mode; let s := runSt mode
    Ready 0 .run d s ∧ s.core.pins.settleTo ≤ s.core.now ∧ s.core.cal.jobs = [] ∧ onlyBits d [(8, 0, 32), (12, 0, 4), (16, 0, 32), (24, 0, 64)] = true ∧ (∀ g ∈ s.core.active, streamsOf s.mem s.core g = []) ∧
    s.core.runIs .idle = true ∧ (s.core.rOk 0 = true ∧ s.core.parked 0 = false) ∧ s.core.root.ever = true ∧ dField d 8 0 32 ≠ 0 ∧ dField d 12 0 2 = mode ∧
    (dField d 12 0 2 = 1 → s.core.now + 256 ≤ dField d 24 0 64) ∧ s.core.now + 256 < 2 ^ 64 := by
  unfold Ready; decide +kernel
/-- A RUN that settling holds, one that a foreground calibration of DACs holds, and one state for each refusal: a reserved bit, no COMMIT yet, no shots, an instant too early. -/
theorem wit_RunAndStopGovernTheSeries_refused :
    (let s := runSt 0; let c := s.core
     (let t := st { c with pins := { c.pins with settleTo := 10 } }
      Ready 0 .run (runD 0) t ∧ t.core.now < t.core.pins.settleTo) ∧
     (let t := st { c with cal := { c.cal with jobs := [⟨1, 0x13, 4, 0, [1568], false, 4, [], 0, 0, 0, []⟩] } }
      Ready 0 .run (runD 0) t ∧ ∃ j ∈ t.core.cal.jobs, j.kind = 0x13 ∨ j.kind = 0x14) ∧
     (let t := st { c with root := { c.root with ever := false } }
      Ready 0 .run (runD 0) t ∧ ¬ t.core.root.ever = true)) ∧
    (let d := desc .run [(64, 3), (104, 1)]
     Ready 0 .run d (slot 9 d []) ∧ ¬ onlyBits d [(8, 0, 32), (12, 0, 4), (16, 0, 32), (24, 0, 64)] = true) ∧
    (∀ x ∈ ([(0, 0, 0), (3, 1, 264)] : List (Nat × Nat × Nat)), let d := desc .run [(64, x.1), (96, x.2.1), (192, x.2.2)]; let c := (slot 9 d []).core; let t := st { c with root := { c.root with ever := true } }
     Ready 0 .run d t ∧ onlyBits d [(8, 0, 32), (12, 0, 4), (16, 0, 32), (24, 0, 64)] = true ∧ t.core.root.ever = true ∧
     ¬ (dField d 8 0 32 ≠ 0 ∧ (dField d 12 0 2 = 1 → t.core.now + 256 ≤ dField d 24 0 64))) := by
  unfold Ready; decide +kernel
def shotC (c : Core) (d0 : Option Nat) (f : RgnShot → RgnShot) : Core := c.modRgn 0 (fun r => { r with shot := f { RgnShot.init with inShot := true, ts := 100, d0 := d0 } })
theorem wit_RunAndStopGovernTheSeries_stop : ∀ cut ∈ [false, true], let d := desc .stop [(64, b2n cut)]
    let a := slot 9 d [(Fd.CHP_RUN_STS_STATE, 1)]
    let b := st { (shotC (slot 9 d [(Fd.CHP_RUN_STS_STATE, 2), (Fd.CEL_CFG_ROLE 0, 1), (Fd.CEL_STS_STATE 0, 1)]).core none id) with ser := { Series.init with shotOn := true } }
    (Ready 0 .stop d a ∧ onlyBits d [(8, 0, 1)] = true ∧ dField d 8 0 1 = b2n cut ∧ a.core.runIs .armed = true ∧ a.core.ser.stopRings = [] ∧ a.core.ser.next < 2 ^ 32) ∧
    (Ready 0 .stop d b ∧ b.core.runIs .running = true ∧ b.core.ser.shotOn = true ∧ 0 ∈ b.core.regions ∧ (b.core.rgn 0).shot.inShot = true ∧ (b.core.rgn 0).shot.d0 = none ∧
      0 ∈ b.core.rgnActive 0) ∧
    (let z := slot 9 d []
     Ready 0 .stop d z ∧ z.core.runIs .armed = false ∧ z.core.runIs .running = false) ∧
    (let e := desc .stop [(64, b2n cut), (72, 1)]
     Ready 0 .stop e (slot 9 e []) ∧ dField e 8 0 1 = b2n cut ∧ onlyBits e [(8, 0, 1)] = false) := by
  unfold Ready; decide +kernel
/-- A spool ring 2 for captures: RAW of macro 0 (SRC 0) with COUNT 0, PRE 8, POST 8 into ring 2. -/
def spoolL : List (Fld × Nat) := [(Fd.CHP_RING_CFG_EN 2, 1), (Fd.CHP_RING_CFG_KIND 2, 4), (Fd.CHP_RING_CFG_SIZE_EXP 2, 4), (Fd.CHP_RING_STS_DEV_PHASE 2, 1), (Fd.RGN_ADC_CFG_EN 0 0, 1), (Fd.RGN_DAC_CFG_EN 0 0, 1)]
/-- The register images of ARM_CAPTURE. -/
def armI (src mode tsrc slope : Nat) : List Nat := [src + mode * 2 ^ 8, 2, 8, 8, 0, 50, tsrc + slope * 2 ^ 16, 0, 0, 0]
def armD (i : List Nat) : Desc := desc .armCapture ((upFrom 0 10).map (fun k => (96 + 32 * k, i.getD k 0)))
theorem wit_CapturesSpoolsAndLocks_arm : ∀ x ∈ ([(0, 0, 0, 0), (1, 1, 4, 1), (2, 2, 5, 2), (0, 2, 1, 3)] : List (Nat × Nat × Nat × Nat)),
    let i := armI x.1 x.2.1 x.2.2.1 x.2.2.2; let d := armD i; let s := slot 9 d spoolL
    Ready 0 .armCapture d s ∧ onlyBits d ([(8, 0, 5), (9, 0, 1)] ++ (upFrom 0 10).map (fun i => (12 + 4 * i, 0, 32))) = true ∧ s.core.runIs .parked = false ∧ dField d 8 0 5 = 0 ∧
    dField d 9 0 1 = 0 ∧ (upFrom 0 10).map (fun k => dField d (12 + 4 * k) 0 32) = i ∧ (∀ e ∈ (acqOffs 0 0).zip i, Nat.land e.2 (reservedOf e.1) = 0) ∧ s.core.rOk 0 = true ∧
    CaptureNames s.core 0 i ∧ CaptureFits i := by
  unfold Ready CaptureNames CaptureFits; decide +kernel
/-- Refusals of an ARM_CAPTURE: a reserved bit of a register image; with the chip PARKED, a source that is there and one that is not. -/
theorem wit_CapturesSpoolsAndLocks_arm_refused :
    (let d := armD [0, 2 ^ 6]; let s := slot 9 d spoolL
     Ready 0 .armCapture d s ∧ dField d 9 0 1 = 0 ∧ Nat.land (dField d 16 0 32) (reservedOf (Fd.ACQ_CH_RING 0 0)) ≠ 0) ∧
    (∀ src ∈ [0, 5], let i := armI src 0 0 0; let d := armD i; let s := slot 9 d (spoolL ++ [(Fd.CHP_RUN_STS_STATE, 4)])
     Ready 0 .armCapture d s ∧ s.core.runIs .parked = true ∧ (∀ e ∈ (acqOffs 0 0).zip i, Nat.land e.2 (reservedOf e.1) = 0) ∧ s.core.rOk 0 = true ∧ (CaptureNames s.core 0 i ↔ src = 0)) := by
  unfold Ready CaptureNames; decide +kernel
/-- An ARM_CAPTURE of ring 0, in execution, that arrives at channel 5 with the next tick. -/
def armK (i : List Nat) (keep : Bool) : Arming := ⟨10, i, keep, 0⟩
def armSt (i : List Nat) (keep : Bool) (l : List (Fld × Nat)) : State :=
  let c := cmdC (slot 9 (armD i) (spoolL ++ [(Fd.RGN_ADC_CFG_EN 1 0, 1), (Fd.RGN_UNIT_STS_ADC_OK 1, 0xF)] ++ l)).core (fun k => { k with exec := true, start := 8 })
  st (c.modAcq 5 (fun a => { a with arming := [armK i keep] }))
theorem wit_CapturesSpoolsAndLocks_arrival : ∀ x ∈ ([(0, 0, 0), (5, 0, 0), (0, 1, 0), (0, 0, 1)] : List (Nat × Nat × Nat)),
    let i := (armI x.1 0 0 0).set 3 (if x.2.2 = 1 then 0 else 8) |>.set 2 (if x.2.2 = 1 then 0 else 8)
    let s := armSt i false (if x.2.1 = 1 then [(Fd.ACQ_CH_STS_STATE 1 1, 2)] else [])
    s.pending = [] ∧ s.core.running = true ∧ s.core.now + 1 < 2 ^ 64 ∧ QuietTick (s.core.modAcq 5 (fun a => { a with arming := [] })) ∧ (s.core.acq 5).arming = [armK i false] ∧
    (armK i false).at_ = s.core.now + 1 ∧ (s.core.ring (armK i false).ring).cmd.any (fun x => x.exec) = true ∧ i.length = 10 ∧
    (CaptureNames s.core 5 i ↔ x.1 = 0) ∧ (s.core.acqState 5 = 0 ∧ s.core.parked 1 = false ↔ x.2.1 = 0) ∧ (CaptureFits i ↔ x.2.2 = 0) := by
  unfold QuietTick CaptureNames CaptureFits; decide +kernel
/-- A scatter entry with PHASE 1: 4,096 bytes at host address 0x1000. -/
def scatE : Desc := BitVec.ofNat 512 (1 + 0x1000 * 2 ^ 64 + 4096 * 2 ^ 128)
theorem wit_CapturesSpoolsAndLocks_spool : ∀ reset ∈ [0, 1], ∀ size ∈ [0, 8192], let d := desc .postSpool [(64, 2), (72, reset), (96, 1)]
    let s := st (granted ((slot 9 d spoolL).core.modRing 2 (fun r => { r with s := size, segs := if size = 0 then [] else [(0x8000, 8192)] })) [(.chip 0, 9)])
    let t := st { s.core with arbs := [] }
    Ready 0 .postSpool d s ∧ Ready 0 .postSpool d t ∧ onlyBits d [(8, 0, 6), (9, 0, 1), (12, 0, 32)] = true ∧ dField d 8 0 6 = 2 ∧ dField d 9 0 1 = reset ∧ s.core.ringIs 2 .spool = true ∧
    s.core.get (Fd.CHP_RING_CFG_SIZE_EXP 2) ≤ 16 ∧ (s.core.ring 2).stopped = false ∧ (∀ k ∈ upFrom 1 63, (s.core.ring k).cmd = none) ∧ [scatE].length = min (dField d 12 0 32) (s.core.ringSize 2) ∧
    Passes 9 [scatE].length s ∧ (s.core.ring 2).segs.length + 1 ≤ s.core.ringSize 2 ∧ s.core.hostSpool 2 = false ∧ (∀ ch ∈ upFrom 0 32, s.core.acqState ch = 0) ∧
    s.core.get Fd.CHP_RESULT_CFG_EN = 0 ∧ s.core.get Fd.TPT_CFG_EN = 0 ∧ s.core.inPlay s.mem = [] ∧
    descBits scatE 0 1 = phaseAt (s.core.ringSize 2) 0 1 0 ∧ s.core.devIdx 2 = 0 ∧ s.core.get (Fd.CHP_RING_STS_DEV_PHASE 2) = 1 ∧ (scatter scatE).1 % 64 = 0 ∧
    (scatter scatE).2 % 64 = 0 ∧ (scatter scatE).2 ≠ 0 ∧ 8192 + (scatter scatE).2 + s.core.otherSpools 2 ≤ 2 ^ 41 := by
  unfold Ready Passes; decide +kernel
/-- Refusals of a POST_SPOOL: no SPOOL ring, a host spool without RESET, no entries, a stopped ring, a misaligned and an empty scatter entry; and one of another ring on the same spool. -/
theorem wit_CapturesSpoolsAndLocks_spool_refused :
    (∀ x ∈ ([(3, 0, 1), (2, 0, 0), (2, 0, 1)] : List (Nat × Nat × Nat)), let d := desc .postSpool [(64, x.1), (72, x.2.1), (96, x.2.2)]; let s := slot 9 d spoolL
     Ready 0 .postSpool d s ∧ (s.core.ringIs (dField d 8 0 6) .spool = true ↔ x.1 = 2) ∧ dField d 12 0 32 = x.2.2 ∧
     ((s.core.modRing 2 (fun r => { r with stopped := true })).ring 2).stopped = true ∧ (s.core.put (Fd.CHP_RING_CFG_DIR 2) 1).hostSpool 2 = true ∧ dField d 9 0 1 = 0) ∧
    (∀ x ∈ ([0x20 * 2 ^ 64 + 4096 * 2 ^ 128, 0x1000 * 2 ^ 64] : List Nat), let e : Desc := BitVec.ofNat 512 (1 + x)
     (scatter e).1 % 64 ≠ 0 ∨ (scatter e).2 = 0) ∧
    (let d := desc .postSpool [(64, 2), (96, 1)]; let s := st ((slot 9 d spoolL).core.modRing 5 (fun r => { r with cmd := some (cmdOf d 4 true []) }))
     Ready 0 .postSpool d s ∧ (s.core.ring 5).cmd.any (fun x => x.exec && descBits x.desc 8 8 == CmdOp.postSpool.code && dField x.desc 8 0 6 == 2) = true) := by
  unfold Ready; decide +kernel
theorem wit_CapturesSpoolsAndLocks_lock : ∀ lock ∈ [0, 1, 2], let d := desc .lockRelease [(64, 3)]; let s := slot 9 d [(Fd.CHP_RUN_STS_STATE, 2), (Fd.RGN_DAC_STS_LOCK_STATE 0 3, lock)]
    Ready 0 .lockRelease d s ∧ onlyBits d [(8, 0, 6), (9, 0, 1)] = true ∧ dField d 8 0 6 = 3 ∧ dField d 9 0 1 = 0 ∧ s.core.dacOk 0 3 = true ∧ s.core.dacOk 7 7 = false ∧ s.core.shots = true ∧
    (s.core.dac 3).breakBy = none ∧ s.core.get (Fd.RGN_DAC_STS_LOCK_STATE 0 3) = lock ∧ s.core.get (Fd.RGN_DAC_STS_OWNER 0 3) = 0 ∧ (s.core.mainLane 0).isSome = true := by
  unfold Ready; decide +kernel
/-- A state whose ring 0 executes a FENCE since tick 4, with a dependency that is not met. -/
def fenceSt (done lim : Nat) : State :=
  st ((slot 9000 (desc .fence [(64, 4), (160, lim)]) []).core.modRing 0 (fun r => { r with cmd := r.cmd.map (fun k => { k with exec := true, start := 4, deps := [(2, done)] }) }))
theorem wit_FencesAndQueries_fence : (∀ deps ∈ [[], [(2, 1)]], let d := desc .fence [(64, 4)]
      let s := st ((slot 9 d []).core.modRing 0 (fun r => { r with cmd := r.cmd.map (fun k => { k with deps := deps }) }))
      (s.core.ring 0).cmd = some (cmdOf d 0 false deps) ∧ Ready 0 .fence d s ∧ onlyBits d [(8, 0, 64), (16, 0, 2), (20, 0, 32)] = true ∧
      ((∀ e ∈ deps, e.2 ≤ (s.core.ring e.1).done) ↔ deps = []) ∧ dField d 16 0 1 = 0 ∧ dField d 16 1 1 = 0) ∧
    (∀ done ∈ [0, 1], ∀ lim ∈ [0, 1, 100], let s := fenceSt done lim; let k : Cmd := cmdOf (desc .fence [(64, 4), (160, lim)]) 4 true [(2, done)]
      (s.core.ring 0).cmd = some k ∧ k.exec = true ∧ descBits k.desc 8 8 = 10 ∧ ((∀ e ∈ k.deps, e.2 ≤ (s.core.ring e.1).done) ↔ done = 0) ∧ dField k.desc 16 0 1 = 0 ∧
      dField k.desc 16 1 1 = 0 ∧ dField k.desc 20 0 32 = lim ∧ (lim = 1 → k.start + 500 * lim ≤ s.core.now) ∧ (lim = 100 → s.core.now < k.start + 500 * lim) ∧ s.core.now < 2 ^ 64) := by
  unfold Ready; decide +kernel
/-- QUERY of 64 bytes of the segment directory, and of DM_WORK. -/
def qryD (q sp unit off : Nat) : Desc := desc .query [(64, q), (72, sp), (96, unit), (128, off), (160, 64)]
/-- Segment 5 of 7 granules in the directory, at a home. -/
def dirM (home : Nat) : Mems := { Mems.empty with dir := wrBytes zeroByte [] 80 (toLE 16 (mkDir 1 home 0 3 7 0 1)) }
theorem wit_FencesAndQueries_query : ∀ x ∈ ([(1, 0, 65535, 0), (2, 0, 0, 4032), (3, 0, 0, 0), (4, 0, 0, 2 ^ 25 - 64), (4, 1, 0, 32704), (5, 2, 0, 4032), (5, 3, 0, 192), (4, 4, 7, 327616), (6, 0, 5, 64),
      (7, 0, 0, 2 ^ 20 - 64)] : List (Nat × Nat × Nat × Nat)), ∀ home ∈ [0, 1, 2], ∀ shots ∈ [0, 2],
    let d := qryD x.1 x.2.1 x.2.2.1 x.2.2.2; let s : State := { slot 9 d [(Fd.CHP_RUN_STS_STATE, shots), (Fd.HBM_STS_STATE, 2)] with mem := dirM home }; let q := qCmd d
    (s.core.ring 0).cmd = some (cmdOf d 0 false []) ∧ Ready 0 .query d s ∧ onlyBits d [(8, 0, 4), (9, 0, 4), (12, 0, 32), (16, 0, 32), (20, 0, 32), (24, 0, 64)] = true ∧ q.addr % 64 = 0 ∧
    q.off % 64 = 0 ∧ q.bytes = 64 ∧ q.q = x.1 ∧ q.sp = x.2.1 ∧ q.unit = x.2.2.1 ∧ q.off = x.2.2.2 ∧ s.core.bOk 0 0 = true ∧ s.core.rOk 7 = true ∧ s.core.now < 2 ^ 64 ∧
    (x.1 = 6 → let e := dirEntry s.mem q.unit
      dirValid e = true ∧ dirHome e = home ∧ q.off + q.bytes ≤ ceilDiv (dirLen e) 7 * 128) ∧
    (s.core.shots = true ↔ shots = 2) ∧ s.core.parked 0 = false ∧ s.core.inPlay s.mem = [] ∧ s.core.get Fd.CHP_BOOT_STS_NO_HBM = 0 ∧ s.core.workOf 169 1 = none ∧ s.core.arbs = [] ∧
    s.mem.flaw = [] ∧ (qLegs s.mem q = [] ↔ x.1 ∈ [1, 7] ∨ x.1 = 6 ∧ home = 2) := by
  unfold Ready; decide +kernel
/-- Refusals of a QUERY: no such number, a cell that is not there, a segment that is not valid, an odd offset, no bytes, past the end; an almanac word that cannot be corrected. -/
theorem wit_FencesAndQueries_refused : (∀ x ∈ ([(8, 0, 0, 0, 64), (2, 0, 2304, 0, 64), (6, 0, 9, 0, 64), (1, 0, 0, 32, 64), (1, 0, 0, 0, 0), (3, 0, 0, 64, 64)] : List (Nat × Nat × Nat × Nat × Nat)),
      let d := desc .query [(64, x.1), (72, x.2.1), (96, x.2.2.1), (128, x.2.2.2.1), (160, x.2.2.2.2)]; let s : State := { slot 9 d [] with mem := dirM 0 }
      Ready 0 .query d s ∧ (s.core.ring 0).cmd = some (cmdOf d 0 false []) ∧ (qCmd d).q = x.1 ∧ (qCmd d).unit = x.2.2.1 ∧ (qCmd d).off = x.2.2.2.1 ∧ (qCmd d).bytes = x.2.2.2.2 ∧
      (x.1 = 6 → dirValid (dirEntry s.mem 9) = false)) ∧
    (let d := qryD 7 0 0 0; let s : State := { slot 9 d [] with mem := { Mems.empty with flaw := [(6, 1, true)] } }
     Ready 0 .query d s ∧ flawAt s.mem 6 1 = some true ∧ 0 / 32 ≤ 1 ∧ 1 < 0 / 32 + 64 / 32) := by
  unfold Ready; decide +kernel
/-- A QUERY in execution: on its first leg, past its legs, and of a LIBRARY segment with its read at the stack in each state. -/
theorem wit_FencesAndQueries_goes :
    (∀ q ∈ [2, 3], let c := granted (goesC (slot 9 (qryD q 0 0 0) []).core 0 (some (9, List.replicate 64 3))) [(.region 0, 0)]
     (c.goes 0 .query).any (fun k => k.leg == 0 && k.snap == some (9, List.replicate 64 3)) = true ∧ c.workOf 169 1 = none ∧ c.laneOf 0 = none ∧ c.arbPart (.chip 0) 0 1 = 0 ∧
     c.arbPart (.region 0) 0 1 = 0 ∧ 0 < ceilDiv 64 128 ∧ c.arbRoom (.region 0) 0 1 = 1) ∧
    (let c := goesC (slot 9 (qryD 2 0 0 0) []).core 2 (some (9, List.replicate 64 3))
     (c.goes 0 .query).any (fun k => k.leg == 2) = true ∧ c.workOf 169 1 = none ∧ (qLegs Mems.empty (qCmd (qryD 2 0 0 0))).length = 2) ∧
    (let c := goesC (slot 9 (qryD 6 0 5 0) []).core 0 (some (9, []))
     dirHome (dirEntry (dirM 2) 5) = 2 ∧ c.get Fd.CHP_BOOT_STS_NO_HBM = 0 ∧ (c.put Fd.CHP_BOOT_STS_NO_HBM 1).get Fd.CHP_BOOT_STS_NO_HBM = 1 ∧
     ∀ todo ∈ ([[], [(0, 64, none)]] : List (List (Nat × Nat × Option (List Byte)))), ∀ bad ∈ [false, true],
       let w : HWork := { id := 1, who := 169, tag := 1, todo := todo, out := 0, got := [], bad := bad, off := 0 }
       let e := { c with hbmc := { c.hbmc with works := [w] } }
       e.workOf 169 1 = some w ∧ (e.goes 0 .query).any (fun k => k.snap == some (9, [])) = true) := by
  decide +kernel
theorem wit_FencesAndQueries_snapshot : let k : Cmd := cmdOf (qryD 2 0 0 0) 4 true []
    let c := shotC ((svc 232 (ringL ++ [(Fd.CHP_RUN_STS_STATE, 2)])).modRing 0 (fun r => { r with cmd := some k })) (some 200) id
    (c.ring 0).cmd = some k ∧ c.goes 0 .query = some k ∧ k.snap = none ∧ (qCmd k.desc).bytes ≠ 0 ∧ c.workOf 169 1 = none ∧ c.arbs = [] ∧ (qCmd k.desc).q = 2 ∧ cellR (qCmd k.desc).unit = 0 ∧
    c.shots = true ∧ (c.put Fd.CHP_RUN_STS_STATE 0).shots = false ∧ c.parked 0 = false ∧ (c.rgn 0).shot.inShot = true ∧
    (c.rgn 0).shot.d0 = some 200 ∧ (c.rgn 0).shot.swapped = false ∧ (c.rgn 0).shot.posted = false ∧ k.start ≤ 232 ∧ 232 ≤ c.now := by decide +kernel
def calD (kind level index : Nat) : Desc := desc .calibrate [(64, kind), (72, level), (96, index)]
theorem wit_CalibratesStartTheirUnits : ∀ x ∈ ([(0x01, 0, 0), (0x05, 0, 3), (0x10, 1, 0), (0x11, 1, 0), (0x12, 1, 0), (0x13, 1, 0), (0x14, 1, 0)] : List (Nat × Nat × Nat)), ∀ off ∈ [0, 1],
    let d := calD x.1 x.2.1 x.2.2; let s := slot 9 d [(Fd.CHP_BOOT_STS_NO_HBM, off)]; let u := (s.core.calUnits x.1 x.2.1 x.2.2).getD []
    Inv s ∧ u ≠ [] ∧ CalAccepted 0 x.1 d u s ∧ s.core.get Fd.CHP_BOOT_STS_NO_HBM = off ∧ s.core.now < 2 ^ 64 ∧ s.core.rOk 7 = true ∧ s.core.bOk 0 0 = true := by
  unfold CalAccepted Ready Inv; decide +kernel
theorem wit_CalibratesStartTheirUnits_none : let d := calD 0x10 4 64; let s := slot 9 d []
    Ready 0 .calibrate d s ∧ dField d 8 0 8 = 0x10 ∧ s.core.calUnits 0x10 (dField d 9 0 3) (dField d 12 0 32) = none := by
  unfold Ready; decide +kernel
/-- Refusals of a CALIBRATE: with the chip PARKED, in a series, of an odd buffer, of an address without a length. -/
theorem wit_CalibratesStartTheirUnits_refused : ∀ x ∈ ([(4, 0x10, 0, 0), (1, 0x13, 0, 0), (0, 0x10, 32, 64), (0, 0x10, 64, 0)] : List (Nat × Nat × Nat × Nat)),
    let d := desc .calibrate [(64, x.2.1), (72, 4), (192, x.2.2.2), (256, x.2.2.1)]; let s := slot 9 d [(Fd.CHP_RUN_STS_STATE, x.1)]
    Ready 0 .calibrate d s ∧ dField d 8 0 8 = x.2.1 ∧ onlyBits d [(8, 0, 8), (9, 0, 3), (12, 0, 32), (16, 0, 64), (24, 0, 32), (32, 0, 64)] = true ∧
    Nat.land (dField d 16 0 64) (2 ^ 64 - 1 - calOptions x.2.1) = 0 ∧ s.core.calUnits x.2.1 (dField d 9 0 3) (dField d 12 0 32) ≠ none ∧
    (s.core.runIs .parked = true ↔ x.1 = 4) ∧ (x.1 = 1 → s.core.runIs .idle = false) ∧ dField d 32 0 64 = x.2.2.1 ∧ dField d 24 0 32 = x.2.2.2 := by
  unfold Ready; decide +kernel
theorem wit_CalibrationsEndInTheAlmanac_end : ∀ en ∈ [0, 1], ∀ x ∈ ([(0x12, 1536, 250004), (0x13, 1568, 1000004), (0x14, 1632, 500004)] : List (Nat × Nat × Nat)),
    let s := slot 9 (calD x.1 0 0) [(Fd.RGN_ADC_CFG_EN 0 0, en), (Fd.RGN_DAC_CFG_EN 0 0, en), (Fd.BLK_BB_CFG_EN 0 0 0, en)]
    let c := { s.core with now := x.2.2 }
    Inv s ∧ c.svc = true ∧ (c.ring 0).cmd.isSome = true ∧ c.almExists x.2.1 = true ∧ c.get (Fd.RGN_ADC_CFG_EN 0 0) = en ∧ c.get (Fd.RGN_DAC_CFG_EN 0 0) = en ∧
    c.get (Fd.BLK_BB_CFG_EN 0 0 0) = en ∧ max 4 (c.adc 0).settle = 4 ∧ c.factoryVal x.2.1 = ⟨0, 0, 0, 0⟩ ∧ c.get Fd.MON_STS_CAL = 0 ∧ c.get Fd.HBM_STS_GATHERING = 0 ∧
    (∀ dry ∈ [false, true], ∀ dead ∈ [[], [x.2.1]], let j : CalJob := ⟨0, x.1, 4, 0, [x.2.1], dry, 4, [], 0, 0, 0, dead⟩
      { c with cal := { c.cal with jobs := [j] } }.cal.jobs = [j] ∧ (x.2.1 ∈ j.dead ↔ dead ≠ [])) := by
  unfold Inv; decide +kernel
/-- A measurement that equals an all-zero factory value is sound; an ADC macro's comes with sound values of its 16 slices. -/
theorem wit_CalibrationsEndInTheAlmanac_sound : sx 8 (bitsOf (0 : Word).toNat 0 8) = 0 ∧ sx 8 (bitsOf (0 : Word).toNat 24 8) = 0 ∧ sx 16 (bitsOf (0 : Word).toNat 16 16) = 0 ∧
    (let x : CalMeas := ⟨1536, ⟨0, 0, 0, 0⟩, true, List.replicate 16 ⟨0, 0, 0, 0⟩⟩
     [x].find? (fun y => y.entry == 1536) = some x ∧ x.ok = true ∧ x.slices.length = 16 ∧ x.slices[15]? = some ⟨0, 0, 0, 0⟩ ∧ ([] : List CalMeas).find? (fun y => y.entry == 1536) = none) := by
  decide +kernel
/-- An ALM_WRITE record of a kind, with STATE and VALUE0: for the first entry of that kind. -/
def almL (kind st v : Nat) : List Byte := toLE 4 (kind + (if kind = 0x10 then 4 else if kind = 0x11 then 5 else 0) * 2 ^ 8) ++ toLE 4 st ++ toLE 8 0 ++ toLE 4 v ++ toLE 12 0
def almD : Desc := desc .calibrate [(64, 0x30), (96, 1)]
theorem wit_CalibrationsEndInTheAlmanac_start : let s := slot 9 almD []
    Inv s ∧ Ready 0 .calibrate almD s ∧ dField almD 8 0 8 = 0x30 ∧ dField almD 9 0 3 = 0 ∧ dField almD 12 0 32 = 1 ∧ s.core.now < 2 ^ 64 ∧
    onlyBits almD [(8, 0, 8), (9, 0, 3), (12, 0, 32), (16, 0, 64), (24, 0, 32), (32, 0, 64)] = true ∧ dField almD 16 0 64 % 64 = 0 ∧
    s.core.runIs .parked = false ∧ dField almD 32 0 64 = 0 ∧ dField almD 24 0 32 = 0 ∧ s.core.arbs = [] ∧ (almL 1 0 0).length = 32 := by
  unfold Ready Inv; decide +kernel
/-- Refusals of an ALM_WRITE: a LEVEL, the chip PARKED, an odd buffer, no entries. -/
theorem wit_CalibrationsEndInTheAlmanac_refused : ∀ x ∈ ([(1, 0, 0, 1), (0, 4, 0, 1), (0, 0, 32, 1), (0, 0, 0, 0)] : List (Nat × Nat × Nat × Nat)),
    let d := desc .calibrate [(64, 0x30), (72, x.1), (96, x.2.2.2), (192, 64), (256, x.2.2.1)]; let s := slot 9 d [(Fd.CHP_RUN_STS_STATE, x.2.1)]
    Ready 0 .calibrate d s ∧ dField d 8 0 8 = 0x30 ∧ dField d 9 0 3 = x.1 ∧ (s.core.runIs .parked = true ↔ x.2.1 = 4) ∧ dField d 32 0 64 = x.2.2.1 ∧ dField d 12 0 32 = x.2.2.2 := by
  unfold Ready; decide +kernel
/-- An ALM_WRITE in execution, on its leg over the spine and past it, with an entry that is released, that names no writable state, that passes its checks or fails them. -/
theorem wit_CalibrationsEndInTheAlmanac_write : ∀ x ∈ ([(0x01, 0), (0x10, 256), (0x11, 1024)] : List (Nat × Nat)), ∀ y ∈ ([(0, 0), (1, 0), (2, 0), (3, 0), (3, 0x7FF07FF)] : List (Nat × Nat)),
    let s := slot 9 almD []; let l := almL x.1 y.1 y.2; let w := fromLE (l.take 4); let c := goesC s.core 1 (some (9, l))
    Inv s ∧ (c.goes 0 .calibrate).any (fun k => k.leg == 1 && k.data == l && dField k.desc 8 0 8 == 0x30 && dField k.desc 12 0 32 == 1) = true ∧
    (let e := granted (goesC (slot 9 (desc .calibrate [(64, 0x30), (96, 128)]) []).core 0 (some (9, (List.replicate 128 l).flatten))) [(.chip 3, 9)]
     (e.goes 0 .calibrate).any (fun k => k.leg == 0) = true ∧ e.laneOf 9 = some (.chip 3) ∧ e.arbPart (.chip 0) 9 1 = 0 ∧ e.arbRoom (.chip 3) 9 32 < 32) ∧ l.length = 32 ∧
    (almHead x.2).any (fun h => w % 2 ^ 8 == h.kind.code && bitsOf w 8 3 == h.level && bitsOf w 16 16 == h.index && bitsOf w 11 5 == h.sub && h.kind != .lead &&
      (h.kind == .mon || y.2 != 0 || s.core.manualOk s.mem h x.2 (supplied l))) = true ∧ s.core.almExists x.2 = true ∧
    bitsOf (fromLE ((l.drop 4).take 4)) 0 2 = y.1 ∧ (x.1 = 0x10 → y.2 = 0 → sx 12 (bitsOf (supplied l).v0.toNat 0 12) = 0) ∧
    (x.1 = 0x10 → y.2 ≠ 0 → 1535 < sx 12 (bitsOf (supplied l).v0.toNat 0 12)) ∧ (x.1 = 0x11 → y.2 ≠ 0 → 1966 < sx 16 (bitsOf (supplied l).v0.toNat 16 16)) ∧
    (x.1 = 0x11 → y.2 = 0 → sx 16 (bitsOf (supplied l).v0.toNat 0 16) = 0 ∧ sx 16 (bitsOf (supplied l).v0.toNat 16 16) = 0 ∧ sx 8 (bitsOf (supplied l).v1.toNat 0 8) = 0) := by
  unfold Inv; decide +kernel
theorem wit_CalibrationsEndInTheAlmanac_backup : ∀ off ∈ [0, 1], let d := calD 0x31 0 0; let s := slot 9 d [(Fd.CHP_BOOT_STS_NO_HBM, off), (Fd.HBM_STS_STATE, 2)]
    CalAccepted 0 0x31 d [] s ∧ s.core.get Fd.CHP_BOOT_STS_NO_HBM = off ∧ s.core.hbmIs .rateChange = false ∧ s.core.get Fd.HBM_PWR_CTL_STANDBY = 0 ∧ s.core.hbmc.works = [] ∧
    (s.core.put Fd.HBM_PWR_CTL_STANDBY 1).get Fd.HBM_PWR_CTL_STANDBY = 1 := by
  unfold CalAccepted Ready; decide +kernel
/-- An ALM_BACKUP in execution: without its work at the stack, with it under way, and with it done. -/
theorem wit_CalibrationsEndInTheAlmanac_copy : let c := { goesC (slot 9 (calD 0x31 0 0) []).core 0 none with cal := { Cal.init with backing := some (1, 7) } }
    (c.goes 0 .calibrate).any (fun k => dField k.desc 8 0 8 == 0x31) = true ∧ c.workOf 169 129 = none ∧ c.cal.backing = some (1, 7) ∧
    ∀ todo ∈ ([[], [(0, 64, none)]] : List (List (Nat × Nat × Option (List Byte)))), let w : HWork := { id := 1, who := 169, tag := 129, todo := todo, out := 0, got := [], bad := false, off := 0 }
      ({ c with hbmc := { c.hbmc with works := [w] } } : Core).workOf 169 129 = some w := by decide +kernel
theorem wit_RingsFetchTheirEntries : let c := (svc 9 ringL).modRing 0 (fun r => { r with host := 3 })
    let e := desc .query [(0, 1)]
    (c.get (Fd.CHP_RING_CFG_SIZE_EXP 0) ≤ 16 ∧ c.svc = true ∧ c.ringIs 0 .command = true ∧ (c.ring 0).stopped = false ∧ c.get (Fd.CHP_RING_STS_HALTED 0) = 0 ∧
      c.devIdx 0 ≠ (c.ring 0).host ∧ (c.ring 0).cmd = none ∧ (c.ring 0).retry = 0 ∧ (∀ k ∈ upFrom 1 63, c.fetchDue k = false) ∧ c.laneOf 9 = none ∧ Passes 9 1 (st (granted c [(.chip 0, 9)])) ∧ c.complRoom 0 = true ∧
      (∀ x ∈ ([(0, 0), (12, 0), (8, 2)] : List (Nat × Nat)), let e : Desc := BitVec.ofNat 512 (1 + x.1 * 256 + x.2 * 2 ^ 64)
        descBits e 0 1 = c.get (Fd.CHP_RING_STS_DEV_PHASE 0) ∧ (descBits e 8 8 = 0 ∨ 11 < descBits e 8 8 ∨ descBits e 8 8 = 8 ∧ dField e 8 0 8 ∉ [0x01, 0x05, 0x10, 0x11, 0x12, 0x13, 0x14, 0x30, 0x31])) ∧
      (let d := c.modRing 0 (fun r => { r with retry := 16, retryAt := 9 })
       (d.ring 0).retry = 16 ∧ (d.ring 0).retryAt ≤ d.now ∧ d.devIdx 0 ≠ (d.ring 0).host) ∧
      descBits e 0 1 = c.get (Fd.CHP_RING_STS_DEV_PHASE 0) ∧ 1 ≤ descBits e 8 8 ∧ descBits e 8 8 ≤ 11 ∧ descBits e 8 8 ≠ 8 ∧ descBits (desc .query []) 0 1 ≠ c.get (Fd.CHP_RING_STS_DEV_PHASE 0)) ∧
    (c.svc = true ∧ c.pins.d3 = false ∧ c.get (Fd.CHP_RING_CFG_EN 0) = 1 ∧ c.ringIs 0 .spool = false ∧ (5#64).toNat % 2 ^ 16 < c.ringSize 0 ∧ c.ringSize 0 ≤ (16#64).toNat % 2 ^ 16) := by
  unfold Passes; decide +kernel
/-- R282: at its fetch a descriptor is issued and, once in the slot, returned; nothing of book 0x8 stays in flight while the command waits. -/
theorem test_fetch_book : out (.descriptorFetch 0 (.entry (desc .query [(0, 1)]))) (st (granted ((svc 9 ringL).modRing 0 (fun r => { r with host := 3 })) [(.chip 0, 9)]))
    (fun c => (c.ring 0).cmd.isSome && decide (c.book (bookKey 8 0 0) = ⟨1, 1, 0, 0⟩) && (c.firstBad (fun _ => true)).isNone) = true := by decide +kernel
def devSp : Core := (svc 9 spoolL).modRing 2 (fun r => { r with s := 4096, p := 1024 })
def hostSp : Core := (svc 9 (spoolL ++ [(Fd.CHP_RING_CFG_DIR 2, 1)])).modRing 2 (fun r => { r with s := 4096 })
theorem wit_RingsFetchTheirEntries_spools : ∀ c ∈ [devSp, hostSp], c.get (Fd.CHP_RING_CFG_SIZE_EXP 2) ≤ 16 ∧ c.svc = true ∧ c.pins.d3 = false ∧ c.get (Fd.CHP_RING_CFG_EN 2) = 1 ∧ c.ringIs 2 .spool = true ∧
    (∀ v ∈ [512, 513, 4096], (v < (c.ring 2).s ∧ v % 64 = 0 ↔ v = 512)) ∧ (c.get (Fd.CHP_RING_CFG_DIR 2) = 0 → 512 - (c.ring 2).c ≤ (c.ring 2).p - (c.ring 2).c) ∧
    (c.get (Fd.CHP_RING_CFG_DIR 2) = 1 → (c.ring 2).p = 0 ∧ (c.ring 2).c = 0 ∧ 512 ≤ (c.ring 2).s - 64) ∧
    ((c.modRing 2 (fun r => { r with dbLow := some 512 })).ring 2).dbLow = some 512 := by decide +kernel
theorem wit_RingsFetchTheirEntries_enable : ∀ en ∈ [0, 1], ∀ e ∈ [4, 3], ∀ n ∈ [0, 5], let v : Word := BitVec.ofNat 32 (en + 1 * 2 ^ (Fd.CHP_RING_CFG_KIND 5).lo + e * 2 ^ (Fd.CHP_RING_CFG_SIZE_EXP 5).lo)
    let c := svc 9 ringL; let w := byteMerge (c.liveW (Fd.CHP_RING_CFG n)) 15 v
    c.get (Fd.CHP_RING_CFG_SIZE_EXP n) ≤ 16 ∧ c.bar0 (Fd.CHP_RING_CFG n) = true ∧ (15 : BitVec 4) ≠ 0 ∧ w < 2 ^ 25 ∧ w % 2 = en ∧ (c.get (Fd.CHP_RING_CFG_EN n) = 1 ↔ n = 0) ∧
    c.get Fd.CHP_BOOT_STS_NO_TIME = 0 ∧ c.ringBase 5 % 4096 = 0 ∧ c.ringWb 5 % 64 = 0 ∧
    bitsOf w (Fd.CHP_RING_CFG_KIND 5).lo (Fd.CHP_RING_CFG_KIND 5).w = 1 ∧ bitsOf w (Fd.CHP_RING_CFG_SIZE_EXP 5).lo (Fd.CHP_RING_CFG_SIZE_EXP 5).w = e ∧
    State.reset.core.bar0 (Fd.CHP_RING_CFG n) = false := by decide +kernel
/-- R457: a write of the low byte of a ring's register alone changes no field of the others. -/
theorem test_ring_enable_bytes : out (.ringEnable 5 1 0xFFFFFF43) (st (svc 9 [(Fd.CHP_RING_CFG_SIZE_EXP 5, 4), (Fd.CHP_RING_CFG_KIND 5, 1)])) (fun c =>
    c.liveW (Fd.CHP_RING_CFG 5) == 0x50043) = true := by decide +kernel
def cmp0 : Comp := ⟨9, 0, 0, 0, 0, 0, 0, 9, false⟩
theorem wit_TheDeviceWritesItsEntries : let c := (svc 9 (ringL ++ [(Fd.CHP_RING_CFG_IRQ_EN 1, 1), (Fd.CHP_EVT_CFG_EN, 1), (Fd.CHP_EVT_CFG_RING, 3), (Fd.CHP_RING_CFG_EN 3, 1), (Fd.CHP_RING_CFG_KIND 3, 2),
      (Fd.CHP_RING_CFG_SIZE_EXP 3, 4)])).modRing 1 (fun r => { r with comps := [cmp0], host := 15, dirty := true, intNow := true, unsig := 1 })
    let d := c.modRing 3 (fun r => { r with host := 15 })
    let e : Evt := { code := 1, level := 0, index := 0, stamp := 9, arg0 := 0, arg1 := 0 }
    ((c.ring 1).comps = cmp0 :: [] ∧ HasRoom 1 .completion (st c)) ∧
    (c.svc = true ∧ c.get (Fd.CHP_RING_CFG_EN 1) = 1 ∧ c.get (Fd.CHP_RING_CFG_DIR 1) ≤ 1 ∧ (c.ring 1).dirty = true ∧ c.get (Fd.CHP_RING_CFG_KIND 1) ∈ [1, 2, 3, 4, 6] ∧
      c.get (Fd.CHP_RING_CFG_IRQ_EN 1) = 1 ∧ 1 ≤ (c.ring 1).unsig ∧ (c.ring 1).intNow = true ∧ c.msixWord (0xF0000 + 12) % 2 = 1) ∧
    (d.get Fd.CHP_EVT_CFG_EN = 1 ∧ d.get Fd.CHP_EVT_CFG_RING = 3 ∧ HasRoom 3 .event (st d) ∧ { d.host with ovfCnt := 2 }.ovfCnt ≠ 0 ∧ d.host.ovfCnt = 0 ∧ { d.host with evq := [e] }.evq = e :: []) ∧
    (svc 9 []).get Fd.CHP_EVT_CFG_EN = 0 := by
  unfold HasRoom; decide +kernel
theorem wit_TheDeviceWritesItsEntries_record : ∀ offs ∈ [[], [(0, 0)]], let c := (svc 9 [(Fd.CHP_RESULT_CFG_EN, 1), (Fd.CHP_RESULT_CFG_RING, 4), (Fd.CHP_RESULT_CFG_SPOOL, 2), (Fd.CHP_RING_CFG_EN 2, 1), (Fd.CHP_RING_CFG_KIND 2, 4),
      (Fd.CHP_RING_CFG_SIZE_EXP 2, 4), (Fd.CHP_RING_CFG_EN 4, 1), (Fd.CHP_RING_CFG_KIND 4, 3), (Fd.CHP_RING_CFG_SIZE_EXP 4, 4), (Fd.HBM_STS_STATE, 2)]).modRing 2 (fun r => { r with s := 4096, segs := [(0x10000, 4096)] })
    let d := c.modRing 4 (fun r => { r with host := 15 })
    let k : ShotRec := ⟨offs.map (fun e => (e.1, 64)), offs, List.replicate 64 0, List.replicate 64 1⟩
    let e : Core := { d with host := { d.host with recs := [k] } }
    let r := e.ring 2
    e.host.recs = k :: [] ∧ e.get Fd.CHP_RESULT_CFG_EN = 1 ∧ e.get Fd.CHP_RESULT_CFG_RING = 4 ∧ HasRoom 4 .result (st e) ∧ e.get Fd.CHP_RESULT_CFG_SPOOL = 2 ∧ e.devSpool 2 = true ∧ r.stopped = false ∧
    e.spoolHeld 2 32 = false ∧ r.sNew = none ∧ r.p < r.s ∧ r.segs = [(0x10000, r.s)] ∧
    k.data.length + (if k.offs = [] then 0 else (k.secs.map (fun e => e.2)).foldl (fun a b => a + b) 0) ≤ r.s - 64 - (r.p - r.c) ∧ r.c ≤ r.p ∧ k.data ≠ [] ∧
    e.workOf 168 0 = none ∧ (∀ x ∈ k.offs, e.workOf (160 + x.1) x.2 = none) ∧
    (∀ todo ∈ ([[], [(0, 64, none)]] : List (List (Nat × Nat × Option (List Byte)))), ∀ who ∈ [160, 168], let w : HWork := { id := 1, who := who, tag := 0, todo := todo, out := 0, got := [], bad := false, off := 0 }
      ({ e with hbmc := { e.hbmc with works := [w] } } : Core).workOf who 0 = some w) := by
  unfold HasRoom; decide +kernel
theorem wit_HostAccessesReachTheBlock : let c := svc 9 []
    (c.svc = true ∧ c.pins.d3 = false ∧ c.get Fd.CHP_BOOT_STS_NO_HBM = 0 ∧ 2 ^ 34 - 64 + (List.replicate 64 (1 : Byte)).length ≤ 2 ^ 34 ∧ ¬ 2 ^ 34 - 63 + (List.replicate 64 (1 : Byte)).length ≤ 2 ^ 34 ∧
      c.hPart (248 * 2 ^ 26) = 3 ∧ c.hPart (2 ^ 34 - 64) ∉ [1, 2, 3] ∧ (c.put Fd.CHP_RUN_STS_STATE 2).inSeries = true ∧ c.inSeries = false ∧ Inv (st c)) ∧ (c.bar0 0 = true ∧ c.svc = true) ∧
    ((regAt (Fd.RGN_DAC_CFG 0 0)).any (fun row => row.isSh && Nat.land (maskOf (fun a => a == Acc.sh) row.fields) (enMask 1) != 0 &&
       Nat.land (Nat.land 1 (enMask 1)) (0xFFFFFFFF - maskOf (fun _ => true) row.fields) == 0) = true ∧ BitVec.ofNat 4 (0x01 : BitVec 8).toNat = 1 ∧ BitVec.ofNat 4 (0xF0 : BitVec 8).toNat = 0 ∧
     Fd.RGN_DAC_CFG 0 0 % 4 = 0 ∧ 0xF1020 ≤ Fd.RGN_DAC_CFG 0 0 ∧ Fd.RGN_DAC_CFG 0 0 < 0x2000000 ∧ c.get Fd.CHP_BOOT_STS_FAILED = 0 ∧ c.window (Fd.RGN_DAC_CFG 0 0) = true ∧
     c.deadBits (Fd.RGN_DAC_CFG 0 0) = 0 ∧ c.setIs .clean = true ∧ (c.put Fd.CHP_CFG_STS_SET_STATE 1).setIs .clean = false ∧ Fd.RGN_DAC_CFG 0 0 ∉ c.root.loaded ∧
     (let d := { c with root := { c.root with loadAt := 9, loaded := [Fd.RGN_DAC_CFG 0 0] } }
      d.root.loadAt = d.now ∧ Fd.RGN_DAC_CFG 0 0 ∈ d.root.loaded ∧ d.setIs .clean = true)) ∧
    ((regAt Fd.CHP_SCRATCH).any (fun row => !row.isSh && row.fields.all (fun f => f.acc != .rc)) = true ∧ captured Fd.CHP_SCRATCH = false ∧ captures Fd.CHP_SCRATCH = false) ∧
    (c.bar0 0x1FFC = true ∧ c.window 0x1FFC = true ∧ regAt (0x1FFC / 4 * 4) = none) := by unfold Inv; decide +kernel
/-- Segment 5 of 7 granules (one line) with its home: in the directory and in the first place of the segment table of cell 0. -/
def segM (home : Nat) : Mems := { Mems.empty with dir := wrBytes zeroByte [] 80 (toLE 16 (mkDir 1 home 0 3 7 9 1)), pmA := wrBytes zeroByte [] (8 * (svc 9 []).seqW 0) (toLE 8 (2 ^ 16) ++ List.replicate 32 0 ++ toLE 2 5) }
/-- Stream 1 of ring 2 (a HOST_WRITE spool with 192 bytes used), owned by cell 0. -/
def strC (use : Nat) : Core := { hostSp.modRing 2 (fun r => { r with p := use }) with host := { (hostSp.modRing 2 (fun r => { r with p := use })).host with binds := [(1, 2), (9, 2)] }, arbs := [(arbKey (.chip 0), { ArbSt.init with owner := some 9 })] }
/-- A stream record of stream `z`, line 0. -/
def strL (z : Nat) : List Byte := toLE 1 z ++ List.replicate 191 0
theorem wit_HostAccessesReachTheBlock_stream : let c := (strC 192).put Fd.CHP_RUN_STS_STATE 1; let m : Mems := segM 3
    c.svc = true ∧ c.hostSpool 2 = true ∧ c.inSeries = true ∧ (1, 2) ∈ c.host.binds ∧ (9, 2) ∈ c.host.binds ∧ (strL 1).length = 192 ∧ (c.ring 2).c ≤ (c.ring 2).p ∧ 192 ≤ (c.ring 2).p - (c.ring 2).c ∧
    (c.ring 2).stopped = false ∧ fromLE ((strL 1).take 1) = 1 ∧ fromLE ((strL 3).take 1) = 3 ∧ c.host.binds.contains (3, 2) = false ∧ streamOwner Mems.empty c 1 = none ∧ streamOwner m c 9 = some 0 ∧
    c.streamHeld 0 9 0 = false ∧ (c.modBlk 0 (fun b => { b with inbox := [⟨65536 + 9, 0, []⟩] })).streamHeld 0 9 0 = true ∧ ¬ (0 * 7 + 6 < (c.cell 0).streamAt m 9) ∧ (c.blk 0).cache = [] ∧ (c.blk 0).inbox = [] ∧
    0 < c.get (Fd.BLK_SEG_CFG_STAGE_LINES 0 0) ∧ Passes 9 1 (st c) ∧ ({ c with arbs := [] } : Core).laneOf 9 = none ∧ (∃ e ∈ c.host.binds, e.2 = 2) := by unfold Passes; decide +kernel
/-- Host accesses: a dropped write of a shadowed register outside CLEAN, bytes 0 and 2 of a scratch word (R457). -/
theorem test_register_writes : out (.registerWrite (Fd.RGN_DAC_CFG 0 0) 4 15 1) (st (svc 9 [(Fd.CHP_CFG_STS_SET_STATE, 1)])) (fun c => c.get Fd.CHP_CFG_STS_WR_DROP == 1 && c.shdW (Fd.RGN_DAC_CFG 0 0) == (svc 9 []).shdW (Fd.RGN_DAC_CFG 0 0)) = true ∧
    out (.registerWrite Fd.CHP_SCRATCH 4 5 0x12345678) (st (svc 9 [])) (fun c => c.liveW Fd.CHP_SCRATCH == 0x00340078) = true := by decide +kernel
/-- R34's read pair: LO captures HI. -/
theorem test_meridian_capture : out (.captureRead Fd.CHP_MERIDIAN_LO 4) (st (svc (7 * 2 ^ 32 + 3) [])) (fun c =>
    c.host.out == [.readAns [3, 0, 0, 0] false] && Tbl.get (fun _ => 0) c.host.capture Fd.CHP_MERIDIAN_HI == 7) = true := by decide +kernel
/-- Statuses of R280: a reserved bit is ST_TARGET, data that do not come are ST_ABORTED, a stream segment is loaded at once (ST_OK). -/
theorem test_load_segment_status : status (.loadSegment 0 none) (segSt 3 4) = some 0 ∧
    status (.loadSegment 0 segData) (slot 9 (segD 0 4 ||| (1#512 <<< 500)) []) = some Sts.target.code ∧ status (.loadSegment 0 none) (segSt 0 4) = some Sts.aborted.code := by decide +kernel
/-- R331: a LOAD_SEGMENT without a granted port moves nothing and has not completed. -/
theorem test_load_segment_waits : status (.loadSegment 0 segData) (segSt 0 4) = none ∧ out (.loadSegment 0 segData) (segSt 0 4) (fun c => (c.goes 0 .loadSegment).any (fun k => k.leg == 0)) = true := by
  decide +kernel
theorem test_run_needs_a_commit : status (.run 0) (slot 9 (runD 0) []) = some Sts.state.code ∧ status (.run 0) (runSt 0) = some 0 := by decide +kernel

/-! ### Containment, shots, drains, swaps -/

/-- In SERVICE with a shot RUNNING, cell 0 a running DRIVE cell and cell 1 a running READOUT cell. -/
def run (now : Nat) (l : List (Fld × Nat)) : Core := svc now ([(Fd.CHP_RUN_STS_STATE, 2), (Fd.CEL_CFG_ROLE 0, 1), (Fd.CEL_CFG_ROLE 1, 2), (Fd.CEL_STS_STATE 0, 1), (Fd.CEL_STS_STATE 1, 1)] ++ l)
theorem wit_CellsAndBlocksAreContained : (run 99 []).svc = true ∧ (run 99 []).cOk 0 = true ∧ (run 99 []).get (Fd.CEL_STS_STATE 0) = 1 ∧ (run 99 [(Fd.CEL_STS_STATE 0, 2)]).get (Fd.CEL_STS_STATE 0) = 2 ∧
    (run 99 []).parked (cellR 0) = false ∧
    (let c := run 99 [(Fd.RGN_DAC_STS_LOCK_STATE 0 5, 1)]
     c.get (Fd.RGN_DAC_STS_LOCK_STATE 0 5) = 1 ∧ c.get (Fd.RGN_DAC_STS_OWNER 0 5) = 0) ∧
    (svc 9 []).cOk 17 = true ∧ (svc 9 []).get (Fd.CEL_STS_STATE 17) = 0 ∧ bitAt ((run 99 [(Fd.CEL_CFG_EV_EN 0, 128)]).get (Fd.CEL_CFG_EV_EN 0)) 7 = true ∧
    bitAt ((run 99 []).get (Fd.CEL_CFG_EV_EN 0)) 7 = false ∧ (svc 9 [(Fd.CEL_CFG_ROLE 17, 0)]).role 17 = 0 ∧ (svc 9 []).cOk 17 = true ∧
    (let c := shotC (run 100 []) none id
     let h := (c.rgn (cellR 0)).shot
     c.role 0 = 1 ∧ c.role 1 = 2 ∧ h.inShot = true ∧ h.framed = false ∧ c.parked (cellR 0) = false ∧ h.ts ≤ c.now ∧ (run 99 []).role 0 = 1 ∧ ((run 99 []).rgn 0).shot.inShot = false ∧ ((run 99 []).rgn 0).shot.d0.isSome = false) ∧
    ((run 99 [(Fd.RGN_SUP_STS_PARKED 0, 1)]).parked 0 = true ∧ (run 99 [(Fd.CEL_STS_STATE 0, 3)]).get (Fd.CEL_STS_STATE 0) = 3) ∧
    ((svc 9 []).bOk 0 0 = true ∧ ((svc 9 []).blk 0).qAt = none ∧ (svc 9 []).parked 0 = false ∧
     ((svc 9 []).put (Fd.RGN_SUP_CFG_BLK_ESC 0) 0).get (Fd.RGN_SUP_CFG_BLK_ESC 0) = 0 ∧ ((svc 9 []).put (Fd.RGN_SUP_CFG_BLK_ESC 0) 1).get (Fd.RGN_SUP_CFG_BLK_ESC 0) = 1 ∧
     (((svc 9 []).modBlk 0 (fun b => { b with qAt := some 5 })).blk 0).qAt.isSome = true ∧ ((svc 9 []).put (Fd.RGN_SUP_CFG_BLK_REPEAT 0) 0).get (Fd.RGN_SUP_CFG_BLK_REPEAT 0) = 0) := by decide +kernel
/-- In SERVICE with region 0 parked. -/
def parkedC (l : List (Fld × Nat)) : Core := svc 9 ((Fd.RGN_SUP_STS_PARKED 0, 1) :: l)
theorem wit_RegionsAndChipPark : ((svc 9 []).svc = true ∧ (svc 9 []).rOk 7 = true ∧ (svc 9 []).parked 7 = false) ∧
    ((parkedC []).svc = true ∧ (parkedC []).rOk 0 = true ∧ (parkedC []).parked 0 = true ∧ ((parkedC []).rgn 0).parkAt ≠ some (parkedC []).now ∧
      (((parkedC []).modRgn 0 (fun x => { x with parkAt := some 9 })).rgn 0).parkAt = some (parkedC []).now ∧ (parkedC []).get (Fd.RGN_SUP_STS_REINIT 0) = 0 ∧
      (parkedC []).get (Fd.RGN_LEDGER_STS_MISMATCH 0) = 0 ∧ (parkedC []).get (Fd.RGN_THERM_STS_STEP 0) ≠ 3 ∧ (parkedC []).get (Fd.RGN_THERM_STS_HELD 0) = 0 ∧
      (parkedC []).runIs .parked = false ∧ (parkedC [(Fd.RGN_LEDGER_STS_MISMATCH 0, 1)]).get (Fd.RGN_LEDGER_STS_MISMATCH 0) = 1) ∧
    (let c := parkedC [(Fd.RGN_SUP_STS_REINIT 0, 1)]
     c.get (Fd.RGN_SUP_STS_REINIT 0) = 1 ∧ c.runIs .parked = false ∧ TestUnit.region 0 ∉ ([] : List TestUnit) ∧ TestUnit.region 0 ∈ [TestUnit.region 0] ∧
      (∀ j ∈ upFrom 0 4, (c.adc (4 * 0 + j)).settle ≤ c.now) ∧ c.now < ((c.modAdc 2 (fun x => { x with settle := 1009 })).adc (4 * 0 + 2)).settle) ∧
    ((svc 9 []).get Fd.CHP_FAULT_STS_FAULT = 0 ∧ (svc 9 []).rOk 0 = true) ∧
    (let c := svc 9 [(Fd.CHP_RUN_STS_STATE, 4)]
     c.runIs .parked = true ∧ c.get Fd.CHP_LEDGER_STS_MISMATCH = 0 ∧ c.get Fd.CHP_FAULT_STS_FAULT = 0) := by decide +kernel
/-- A parking with each course of the series: another region goes on, the shot in progress drains, nothing runs. -/
theorem wit_RegionsAndChipPark_series : let c := run 99 []; let p := upFrom 1 7 |>.foldl (fun (c : Core) q => c.put (Fd.RGN_SUP_STS_PARKED q) 1) c
    (¬ (∀ q ∈ c.regions, q ≠ 0 → c.parked q = true)) ∧ (∀ q ∈ p.regions, q ≠ 0 → p.parked q = true) ∧ p.runIs .running = true ∧ p.ser.shotOn = false ∧
    ({ p with ser := { p.ser with shotOn := true } } : Core).ser.shotOn = true ∧ (p.put Fd.CHP_RUN_STS_STATE 0).runIs .running = false := by decide +kernel
/-- Region 0 in a shot with its drain flags set by `f`; the shot is under way in the series. -/
def drainC (now : Nat) (l : List (Fld × Nat)) (f : RgnShot → RgnShot) : Core :=
  let c := run now l
  { (c.modRgn 0 (fun r => { r with shot := f { RgnShot.init with inShot := true, ts := 100 } })) with ser := { Series.init with shotOn := true, begun := true, present := 1, count := 3, ledger := 0 } }
theorem wit_ShotsBeginAndDrain : ∀ n ∈ [0, 1], ∀ part ∈ [0, 1], ∀ state ∈ [1, 2], let c := { svc 100 [(Fd.CHP_RUN_STS_STATE, state), (Fd.HBM_PART_SIZE 2, part), (Fd.CHP_BOOT_STS_NO_HBM, n), (Fd.CEL_CFG_ROLE 1, 2)] with
      ser := { Series.init with ts := some 148, count := 2 } }
    c.svc = true ∧ c.ser.ts = some 148 ∧ (c.runIs .armed = true ∨ c.runIs .running = true) ∧ c.ser.stopping = false ∧ c.ser.shotOn = false ∧ 148 ≤ c.now + 48 ∧ c.now < 148 ∧
    c.root.cC = none ∧ c.host.recs = [] ∧ c.rOk 0 = true ∧ c.parked 0 = false ∧ (c.get Fd.CHP_BOOT_STS_NO_HBM = n) ∧ (n = 0 → (c.secLen 0 ≤ c.get (Fd.HBM_PART_SIZE 2) * 2 ^ 23 ↔ part = 1)) ∧
    (n = 1 → 64 + (((upFrom 0 8).map c.secLen).foldl (fun a b => a + b) 0) ≤ 2 ^ 18) ∧ (∀ g ∈ upFrom 0 2304, flawAt Mems.empty 1 (g * 4096 + c.seqW g) ≠ some true) ∧
    (let d := upFrom 0 8 |>.foldl (fun (c : Core) q => c.put (Fd.RGN_SUP_STS_PARKED q) 1) c
     (upFrom 0 8).filter (fun r => d.rOk r && !d.parked r) = [] ∧ d.ser = c.ser ∧ d.now = 100) := by decide +kernel
/-- A shot that finds every region PARKED ends the series (R448, R258). -/
theorem test_no_region_no_shot : out .shotBegin (st { svc 100 (((upFrom 0 8).map (fun q => (Fd.RGN_SUP_STS_PARKED q, 1))) ++ [(Fd.CHP_RUN_STS_STATE, 1)]) with ser := { Series.init with ts := some 148, count := 2 } })
    (fun c => c.runIs .idle && c.ser.ts == none) = true := by decide +kernel
theorem wit_ShotsBeginAndDrain_drain : (let c := drainC 100 [] id
     c.svc = true ∧ (c.rgn 0).shot.inShot = true ∧ (c.rgn 0).shot.ts = c.now ∧ c.role 1 = 2 ∧ c.parked 0 = false ∧ (c.put (Fd.RGN_SUP_STS_PARKED 0) 1).parked 0 = true) ∧
    (let d := { drainC 400 [] id with cells := (upFrom 0 18).map (fun g => (g, { Cell.init with endAt := some 310 })) }
     (d.rgn 0).shot.inShot = true ∧ (d.rgn 0).shot.d0 = none ∧ (d.rgn 0).shot.cutAt = none ∧ (∀ g ∈ d.rgnActive 0, (d.cellEnd g (d.rgn 0).shot.ts).isSome = true) ∧
     maxList (d.rgn 0).shot.ts ((d.rgnActive 0).map (fun g => (d.cellEnd g (d.rgn 0).shot.ts).getD 0)) + 1 = 311 ∧ 311 ≤ d.now ∧
     ((drainC 400 [] (fun h => { h with cutAt := some 132 })).rgn 0).shot.cutAt = some 132) ∧
    (let c := drainC 400 [] (fun h => { h with d0 := some 311 })
     let e := { c with books := [(bookKey 1 0 3, { issued := 2, returned := 1, inflight := 1 })] }
     let bad : Nat × Book → Bool := fun e => decide (bookCode e.1 ≤ 5) && bookRgn e.1 == 0 && (decide (e.2.issued ≠ e.2.returned) || e.2.inflight != 0)
     (c.rgn 0).shot.d0 = some 311 ∧ 311 + 24 ≤ c.now ∧ (c.rgn 0).shot.ledgered = false ∧ c.books.find? bad = none ∧
     e.books.find? bad = some (bookKey 1 0 3, { issued := 2, returned := 1, inflight := 1 }) ∧ e.svc = true) ∧
    (let c := drainC 400 [] (fun h => { h with d0 := some 311, ledgered := true })
     311 + 32 ≤ c.now ∧ (c.rgn 0).shot.ledgered = true ∧ (c.rgn 0).shot.gathered = false ∧ (c.rgn 0).synd.opens = [] ∧ (c.rgn 0).synd.rounds = [] ∧ bitAt c.ser.present 0 = true ∧
     (∀ k ∈ upFrom 0 8, k ≠ 0 → bitAt c.ser.present k = false) ∧
     (let d := { c with ser := { c.ser with present := 3 } }
      ∃ k ∈ upFrom 0 8, k ≠ 0 ∧ bitAt d.ser.present k = true ∧ (d.rgn k).shot.gathered = false)) ∧
    (let c := drainC 400 [] (fun h => { h with d0 := some 311 })
     let rs := c.regions.filter (fun r => (c.rgn r).shot.inShot)
     let e := { c with books := [(bookKey 6 0 3, { issued := 2, returned := 1, inflight := 1 })] }
     let bad : Nat × Book → Bool := fun e => decide (6 ≤ bookCode e.1) && (decide (e.2.issued ≠ e.2.returned) || e.2.inflight != 0)
     c.ser.shotOn = true ∧ rs = [0] ∧ (c.rgn 0).shot.d0 = some 311 ∧ 311 + 24 ≤ c.now ∧ c.ser.ledger ≠ c.ser.next + 1 ∧ c.books.find? bad = none ∧
     e.books.find? bad = some (bookKey 6 0 3, { issued := 2, returned := 1, inflight := 1 })) := by decide +kernel
theorem wit_SwapsExchangeTheSets : Inv State.reset ∧ (run 400 []).svc = true ∧
    (let c := drainC 400 [] (fun h => { h with d0 := some 311 })
     (c.rgn 0).shot.d0 = some 311 ∧ (c.rgn 0).shot.framed = false ∧ max 311 ((c.rgn 0).shot.lastTog.getD 0) ≤ c.now ∧ (c.cell 0).frameHeld = none ∧ (c.cell 0).frameOps = [] ∧
     (c.rgn 0).toggles = []) ∧
    (let c := { svc 116 [] with root := { CfgRoot.init with cC := some 100 } }
     c.svc = true ∧ c.rOk 0 = true ∧ c.root.cC = some 100 ∧ c.shots = false ∧ 0 ∉ c.root.swapped ∧ 100 + 16 ≤ c.now ∧ c.parked 0 = false ∧ c.beginDue = false ∧
     offRgn 0 (Fd.RGN_DAC_CFG_EN 0 0).off = true ∧ (Fd.RGN_DAC_CFG_EN 0 0).acc = .sh) ∧
    (let c := { drainC 400 [] (fun h => { h with d0 := some 311, gathered := true }) with root := { CfgRoot.init with cC := some 100 } }
     c.shots = true ∧ c.ser.begun = true ∧ bitAt c.ser.present 0 = true ∧ (c.rgn 0).synd.opens = [] ∧ (c.rgn 0).synd.rounds = [] ∧ (c.rgn 0).shot.gathered = true ∧ (c.rgn 0).shot.d0 = some 311 ∧
     max (max (311 + 64) (100 + 16)) ((c.rgn 0).shot.uR + 1) ≤ c.now ∧ c.parked 0 = false ∧ c.now ≠ 100 + 16) ∧
    (let c := drainC 400 [] (fun h => { h with d0 := some 311, posted := false, gathered := true, framed := true, uR := 300 })
     (c.rgn 0).shot.inShot = true ∧ (c.rgn 0).shot.d0 = some 311 ∧ (c.rgn 0).shot.posted = false ∧ (c.rgn 0).shot.gathered = true ∧ 311 + 65 ≤ c.now ∧ (c.rgn 0).shot.uR < c.now ∧
     c.swapAt 0 = none) := by unfold Inv; decide +kernel
theorem wit_SwapsExchangeTheSets_end : (∀ stop ∈ [false, true], ∀ more ∈ [0, 2], let c := drainC 4000 [] (fun h => { h with d0 := some 311, gathered := true, framed := true, posted := true })
     let d := ({ c with ser := { c.ser with present := 1 + more, stopping := stop } } : Core).modRgn 1 (fun r => { r with shot := { r.shot with inShot := decide (more = 2) } })
     (d.rgn 0).shot.inShot = true ∧ (d.rgn 0).shot.d0 = some 311 ∧ (d.rgn 0).shot.posted = true ∧ (d.rgn 0).shot.framed = true ∧ d.drainCloses 0 311 ≤ d.now ∧ d.ser.shotOn = true ∧
     d.runIs .draining = false ∧ d.ser.stopRings = [] ∧ ((d.rgn 1).shot.inShot = true ↔ more = 2) ∧ 1 ∈ d.regions ∧ d.parked 1 = false ∧ (bitAt d.ser.present 1 = true ↔ more = 2)) ∧
    (let c := { svc 116 [] with root := { CfgRoot.init with cC := some 100, swapped := [0, 1, 2, 3, 4, 5, 6, 7] } }
     c.root.cC = some 100 ∧ max (100 + 16) c.root.swapTick ≤ c.now ∧ (∀ r ∈ upFrom 0 8, c.rOk r = true → r ∈ c.root.swapped) ∧ c.beginDue = false) ∧
    (let c := { run 4000 [(Fd.RGN_SUP_STS_PARKED 7, 1)] with root := { CfgRoot.init with cC := some 100, swapped := [0, 1, 2, 3, 4, 5, 6] } }
     c.root.cC = some 100 ∧ max (100 + 16) c.root.swapTick ≤ c.now ∧ (∀ r ∈ upFrom 0 8, c.rOk r = true → r ∉ c.root.swapped → r = 7) ∧ c.rOk 7 = true ∧ c.parked 7 = true ∧
     c.shots = true ∧ (c.rgn 7).shot.inShot = false ∧ (c.rgn 7).shot.posted = false) ∧
    (svc 9 [(Fd.CHP_CFG_STS_SET_STATE, 3)]).get Fd.CHP_CFG_STS_SET_STATE = 3 := by decide +kernel
theorem wit_LeadRailsAndHandshakes : (let c := run 500000 [(Fd.RGN_LEAD_CTL_EN 0, 1)]
      let d := (svc 500000 []).put Fd.CHP_CAPS_REGIONS 1
      c.svc = true ∧ (c.rgn 0).lead.last + leadTicks (c.rgn 0).lead.rate ≤ c.now ∧ c.exists_ 0 = true ∧ d.svc = true ∧ d.exists_ 7 = false ∧ (d.rgn 7).lead.last + leadTicks (d.rgn 7).lead.rate ≤ d.now) ∧
    (let c := (run 500 []).modCell 0 (fun x => { x with freqSet := true, leadMin := some 5 })
     0 ∈ c.loopCells 0 ∧ (c.cell 0).freqSet = true ∧ (c.cell 0).endAt = none) ∧
    ((900 ≤ min (min 1400 1400) 1400) ∧ ((3 : Int) < (8 : Nat)) ∧ ((8 : Nat) : Int) ≤ 64 ∧ ((63 : Nat) : Int) < 64) ∧
    (let s : Core := { svc 60000 [] with thm := { Thm.init with vrReq := [(2, 9000)] } }
     (∃ e ∈ s.thm.vrReq, e.1 = 2 ∧ e.2 + 50000 ≤ s.now) ∧ (∀ e ∈ s.thm.vrReq, e.1 = 1 → s.now < e.2 + 50000)) ∧
    (let c := run 9 [(Fd.CEL_CFG_ROLE 5, 0)]
     let d := { c with books := [(65536, { issued := 1, returned := 0, inflight := 1 })] }
     let e := { c with books := [(65536, { issued := 4096, returned := 0, inflight := 4096 })] }
     let v := { c with books := [(65536, { issued := 1, returned := 0, inflight := 0, void := 1 })] }
     c.svc = true ∧ c.parked (0 / 512) = false ∧ (c.put (Fd.RGN_SUP_STS_PARKED 0) 1).parked (0 / 512) = true ∧ (c.book 65536).inflight < 8 ∧ c.role 0 ≠ 0 ∧ (c.cell 0).held = false ∧
     c.get (Fd.CEL_STS_STATE 0) ≠ 3 ∧ c.role 5 = 0 ∧ (d.book 65536).void = 0 ∧ 0 < (d.book 65536).inflight ∧ (c.book 65536).void = 0 ∧ (c.book 65536).inflight ≤ 0 ∧ 8 ≤ (e.book 65536).inflight ∧
     0 < (v.book 65536).void ∧ (c.lane 0).entries.length = 0 ∧ (c.book (4 * 65536)).inflight < 128) := by
  decide +kernel
/-- The loop, the manual pair and the rail in states that fit: a clocked tone cell below, inside and above its band; a valid and an invalid manual pair; a request above and below the target. -/
theorem wit_LeadRailsAndHandshakes_loop : (let c := (run 500 [(Fd.RGN_LEAD_OVR_MAN_EN 0, 1), (Fd.RGN_LEAD_OVR_MAN_FREQ 0, 1000), (Fd.RGN_LEAD_OVR_MAN_VDD 0, 700)]).modCell 0 (fun x => { x with freqSet := true })
     0 ∈ c.rgnActive 0 ∧ c.parked 0 = false ∧ (c.cell 0).freqSet = true ∧ 900 ≤ c.get (Fd.RGN_LEAD_OVR_MAN_FREQ 0) ∧ c.get (Fd.RGN_LEAD_OVR_MAN_FREQ 0) ≤ 1400 ∧
     620 ≤ c.get (Fd.RGN_LEAD_OVR_MAN_VDD 0) ∧ c.get (Fd.RGN_LEAD_OVR_MAN_VDD 0) ≤ 800 ∧ ¬ 900 ≤ (c.put (Fd.RGN_LEAD_OVR_MAN_FREQ 0) 100).get (Fd.RGN_LEAD_OVR_MAN_FREQ 0) ∧
     (∀ v ∈ [620, 700, 800], let d := c.modRgn 0 (fun x => { x with lead := { x.lead with vReq := v } })
      (d.rgn 0).lead.vReq = v) ∧ 620 < vmin 1100 ∧ vmin 1100 < 800 ∧ vmin 1100 = 710) := by decide +kernel

/-! ### Sequencer, renderer, release -/

/-- A sequencer word with fields (first bit, value). -/
def wd (op : Nat) (l : List (Nat × Nat)) : Nat := op * 2 ^ 58 + l.foldl (fun a f => a + f.2 * 2 ^ f.1) 0
/-- Word 2000 of the program memory of cell `g` is `w`. -/
def pmS (g w : Nat) : Mems := { Mems.empty with pmA := wrBytes zeroByte [] (g * 32768 + 16000) (toLE 8 w) }
/-- A path at word 2000 with two active loop levels. -/
def kctx (zt : Nat) : SeqCtx := { SeqCtx.clear with pc := 2000, stamp := 500, zt := zt, loops := [(1, (5, 1990)), (2, (1, 1991))], left := 20 }
/-- Cell `g` about to execute word `w`: on the taken path (`ct` 0), or on a candidate run (`ct` 1 or 2) under exit number 7. -/
def seqSt (g w zt ct : Nat) (l : List (Fld × Nat)) : State :=
  let c := (run 400 l).modCell g (fun x => if ct = 0 then { x with ctx := kctx zt } else { x with branch := some ⟨7, 600, 0, false, ct - 1, kctx zt, kctx zt⟩ })
  { State.reset with mem := pmS g w, core := c }
theorem wit_ZeroTimeInstructionsChangeTheirPath : ∀ e ∈ ([(0, 0x00, []), (0, 0x08, [(28, 77)]), (0, 0x09, [(28, 77), (56, 1)]), (0, 0x09, [(0, 5), (56, 3)]), (0, 0x0A, [(56, 1)]), (0, 0x0A, [(56, 2)]),
      (0, 0x10, [(0, 2 ^ 48 - 1)]), (0, 0x11, [(0, 65535)]), (0, 0x12, [(0, 65535)]), (0, 0x13, [(0, 65535)]), (1, 0x18, [(0, 3)]), (0, 0x0C, [(0, 2)])] : List (Nat × Nat × List (Nat × Nat))),
      ∀ ct ∈ [0, 1, 2], AtWord e.1 e.2.1 (wd e.2.1 e.2.2) (kctx 15) ct (if ct = 0 then 0 else 7) (seqSt e.1 (wd e.2.1 e.2.2) 15 ct []) ∧ (kctx 15).zt < 16 := by
  unfold AtWord CellOn; decide +kernel
theorem wit_ZeroTimeInstructionsChangeTheirPath_fault : (∀ op ∈ [0x00, 0x08, 0x09, 0x0A, 0x0C, 0x10, 0x11, 0x12, 0x13], AtWord 0 op (wd op []) (kctx 16) 0 0 (seqSt 0 (wd op []) 16 0 [])) ∧
    AtWord 1 0x18 (wd 0x18 []) (kctx 16) 0 0 (seqSt 1 (wd 0x18 []) 16 0 []) ∧ 16 ≤ (kctx 16).zt := by
  unfold AtWord CellOn; decide +kernel
theorem wit_ZeroTimeInstructionsChangeTheirPath_loop : (AtWord 0 0x0A (wd 0x0A []) (kctx 0) 0 0 (seqSt 0 (wd 0x0A []) 0 0 []) ∧ (kctx 0).loops.find? (fun l => l.1 == sqLevel (wd 0x0A [])) = none) ∧
    (∀ pc ∈ [4096, 0], let k := { kctx 0 with pc := pc }
     let s := st ((run 400 []).modCell 0 (fun x => { x with ctx := k }))
     CellOn 0 s ∧ (s.core.cell 0).path = some (k, 0, 0) ∧ k.cur = none ∧ k.cond = none ∧ k.ended = false ∧ k.stop = false ∧ (4096 ≤ k.pc ∨ k.pc < s.core.seqW 0)) ∧
    flawAt (pmS 0 (wd 0x0C [(0, 2)])) 1 (0 * 4096 + (run 400 []).seqW 0 + (40 + 2 * sqSeg (wd 0x0C [(0, 2)])) / 8) = none := by
  unfold AtWord CellOn; decide +kernel
theorem wit_EffectsOfAPathReachTheCell : ∀ late ∈ [15, 0], (∀ op ∈ [0x0B, 0x1C, 0x1D, 0x14, 0x15, 0x3F], ∀ ct ∈ [0, 1, 2],
      AtWord 0 op (wd op [(0, 5)]) (kctx late) ct (if ct = 0 then 0 else 7) (seqSt 0 (wd op [(0, 5)]) late ct [])) ∧
    (∀ op ∈ [0x0B, 0x1C, 0x1D, 0x3F], AtWord 1 op (wd op []) (kctx late) 0 0 (seqSt 1 (wd op []) late 0 [])) ∧ (kctx late).zt < 16 := by
  unfold AtWord CellOn; decide +kernel
/-- END of a path: the cell's samples are all sent, or some wait in the engine's output. -/
theorem wit_EffectsOfAPathReachTheCell_end : ∀ n ∈ [0, 1], let s := seqSt 0 (wd 0x3F []) 0 0 []
    let c := s.core.modCell 0 (fun x => { x with post := List.replicate n ((0, 0), ⟨499, 0, 0, 0, 0, 0, 0⟩) })
    let fin : Mark := { kind := .endm, stamp := (kctx 0).stamp, ct := 0, xn := 0, late := false, from_ := none }
    AtWord 0 0x3F (wd 0x3F []) (kctx 0) 0 0 { s with core := c } ∧ (c.cell 0).holds fin = decide (n = 1) ∧ c.get (Fd.CEL_CFG_PHX_INLINE 0) = 0 := by
  unfold AtWord CellOn; decide +kernel
theorem wit_TimedInstructionsBegin : (svc 9 []).on (Fd.CEL_CFG_PHX_INLINE 0) = false ∧ (run 9 []).role 1 = 2 ∧ (∀ op ∈ [0x01, 0x02, 0x04], ∀ ct ∈ [0, 1, 2],
      AtWord 0 op (wd op [(0, 5)]) (kctx 15) ct (if ct = 0 then 0 else 7) (seqSt 0 (wd op [(0, 5)]) 15 ct [])) ∧
    (∀ op ∈ [0x03, 0x02, 0x04], AtWord 1 op (wd op []) (kctx 0) 0 0 (seqSt 1 (wd op []) 0 0 [])) ∧ (seqSt 0 0 0 1 []).core.get (Fd.CEL_CFG_PHX_INLINE 0) = 0 := by
  unfold AtWord CellOn; decide +kernel
def playT : Timed := Timed.mk .play 2000 500 7 6 5 7 0 0 false false 0 0 none 0 none
theorem wit_RefillReachesTheOutputs : (let e : QEntry := ⟨517, 0, 0, [(1, 2)], 0⟩
     let l : Lane := { Lane.init with src := some 0, act := true, from_ := 400, entries := [e] }
     l.act = true ∧ l.from_ ≤ 500 ∧ l.marks = [] ∧ l.entries.find? (fun e => e.ct == 0 && e.stamp == 500 + 17) = some e ∧ (∀ e ∈ l.entries, e.stamp ≠ 501 + 17) ∧ l.fill = none) ∧
    (let c := run 500 []
     c.now < 600 + 32768 ∧ 600 ≤ c.now + 32768 ∧ c.now + 17 < 600 ∧ 510 ≤ c.now + 17 ∧ c.now < 510 + 32768) := by decide +kernel
/-- The converters' arithmetic: constant histories; outputs with and without a full calibration, with a stage entry of this tick, an occulted one or none; a DAC without locks. -/
theorem wit_RefillReachesTheOutputs_codes : (∀ h ∈ [List.replicate 41 ((8191, -8192) : Cx)], h ≠ [] ∧ (∀ x ∈ h, x = (8191, -8192))) ∧
    (∀ x ∈ List.replicate 9 ((8027, -8027) : Cx), -(98 * 8191) ≤ 100 * x.1 ∧ 100 * x.1 ≤ 98 * 8191) ∧ ((0, 0) : Cx).1 < ((5, 0) : Cx).1 ∧ (0 : Nat) < 2 ^ 28 ∧
    (∀ o ∈ [none, some false, some true], let c := (run 400 []).modDac 7 (fun d => { d with hist := o.toList.map (fun b => ⟨408, [(1, 2), (3, 4), (5, 6)], b, false⟩) })
     let c := c.modBb 1 (fun d => { d with hist := o.toList.map (fun b => ⟨412, [(1, 2), (3, 4), (5, 6)], b, false⟩) })
     (c.dac 7).hist.find? (fun h => h.stamp == c.now + 8) = o.map (fun b => ⟨408, [(1, 2), (3, 4), (5, 6)], b, false⟩) ∧
     (c.bb 1).hist.find? (fun h => h.stamp == c.now + 12) = o.map (fun b => ⟨412, [(1, 2), (3, 4), (5, 6)], b, false⟩) ∧
     c.get (Fd.RGN_DAC_STS_LOCK_STATE 0 7) = 0 ∧ (c.dac 7).breakBy = none ∧ (c.dac 7).freeAt = none ∧ (∀ t ∈ upFrom 0 16, (c.lane (toneKey 0 7 t)).marks = []) ∧
     c.inFull 0x13 (almDac 7) = false ∧ c.inFull 0x14 (almBb 1) = false ∧
     (let d := { c with cal := { c.cal with jobs := [⟨0, 0x13, 4, 7, [almDac 7], false, 4, [], 0, 0, 0, []⟩, ⟨1, 0x14, 6, 1, [almBb 1], false, 4, [], 0, 0, 0, []⟩] } }
      d.inFull 0x13 (almDac 7) = true ∧ d.inFull 0x14 (almBb 1) = true)) := by decide +kernel
/-- Cell 0 in its first PLAY of segment 5, which its block's port is granted to. -/
def refC (next : Nat) : Core :=
  { (run 400 [(Fd.CEL_SEQ_CFG_STAGE_LINES 0, 4)]).modCell 0 (fun x => { x with ctx := { kctx 0 with cur := some playT } }) with arbs := [(arbKey (.block 0 0), { ArbSt.init with owner := some 0, next := next })] }
theorem wit_RefillReachesTheOutputs_line : ∀ home ∈ [1, 2, 3], ∀ next ∈ [0, 801], let m := segM home; let c := refC next; let e := dirEntry m 5; let id := lineKey m 5; let line := if home = 3 then 0 else 0
    CellOn 0 { State.reset with mem := m, core := c } ∧ c.role 0 = 1 ∧ (c.cell 0).held = false ∧ dirValid e = true ∧ dirHome e = home ∧ (id, line) ∈ c.lineWants m 0 ∧ 0 < c.get (Fd.CEL_SEQ_CFG_STAGE_LINES 0) ∧
    (c.cell 0).stage = [] ∧ (c.arb (arbKey (.block 0 0))).owner = some 0 ∧ Tbl.get (fun _ => 0) (c.arb (arbKey (.block 0 0))).parts 0 = 0 ∧
    (min (max 1 (c.get (Fd.BLK_ARB_CFG_BURST 0 0)) - (c.arb (arbKey (.block 0 0))).beats) (2 * (c.now + 1) - max (c.arb (arbKey (.block 0 0))).next (2 * c.now)) = (if next = 0 then 2 else 1)) ∧
    (c.blk 0).cache = [] ∧ (({ c with arbs := [] } : Core).arb (arbKey (.block 0 0))).owner = none ∧
    (let d := c.modBlk 0 (fun k => { k with cache := [⟨id, line, 2, 0⟩] })
     (d.blk 0).cache.find? (fun l => l.segid == id && l.line == line) = some ⟨id, line, 2, 0⟩ ∧ (id, line) ∈ d.lineWants m 0) ∧
    (c.cell 0).branch = none ∧ (c.cell 0).ctx.cur = some playT ∧ playT.kind = .play ∧ playT.segid = 5 ∧ playT.done / 6 < playT.gran ∧ (77, 0) ∉ c.lineWants m 0 := by
  unfold CellOn; decide +kernel
theorem wit_RefillReachesTheOutputs_underrun : ∀ acc ∈ ([none, some 510] : List (Option Nat)), let c := { refC 0 with now := 490 }.modCell 0 (fun x => { x with lastAcc := acc })
    CellOn 0 { State.reset with mem := segM 1, core := c } ∧ (c.cell 0).path = some ({ kctx 0 with cur := some playT }, 0, 0) ∧ playT.done % 6 = 0 ∧ c.role 0 ≠ 2 ∧ playT.silent ≠ some (playT.done / 6) ∧
    dirHome (dirEntry (segM 1) playT.segid) ≠ 0 ∧ (c.cell 0).stage = [] ∧
    (match acc with
     | some a => (a : Int) - 17 - (c.now : Int)
     | none => ((playT.s0 + 2 * (playT.done / 6) : Nat) : Int) - 18 - (c.now : Int)) ≤ ((max 2 (c.get (Fd.CEL_SEQ_CFG_UNDERRUN_LEAD 0)) : Nat) : Int) := by
  unfold CellOn; decide +kernel
theorem wit_RefillReachesTheOutputs_queues : (∀ kind ∈ [TKind.measure, TKind.gap], let t := { playT with kind := kind, done := 0 }
      let c := (run 400 []).modCell 1 (fun x => { x with ctx := { kctx 0 with cur := some t } })
      CellOn 1 (st c) ∧ c.role 1 = 2 ∧ (c.cell 1).path = some ({ kctx 0 with cur := some t }, 0, 0) ∧ t.done + 1 < t.gran ∧ (c.cell 1).ro.buf = [] ∧ (c.cell 1).ro.sched = []) ∧
    (let t := { playT with kind := .gap, done := 0 }
     let c := (run 400 []).modCell 0 (fun x => { x with ctx := { kctx 0 with cur := some t } })
     CellOn 0 (st c) ∧ c.role 0 = 1 ∧ (∀ q ∈ c.cellLanes 0, (c.book (queueBook q)).inflight < 128) ∧
     (let d := (c.cellLanes 0).foldl (fun (c : Core) q => { c with books := Tbl.insert c.books (queueBook q) { issued := 128, returned := 0, inflight := 128 } }) c
      ∃ q ∈ d.cellLanes 0, 128 ≤ (d.book (queueBook q)).inflight) ∧ c.get (Fd.CEL_CFG_PHX_INLINE 0) = 0 ∧ t.done + 6 < 6 * t.gran ∧
     (c.renderTick Mems.empty 0).2.isSome = true ∧ ((run 400 []).renderTick Mems.empty 0).2 = none) ∧
    (let m := segM 1
     let c := (refC 0).modCell 0 (fun x => { x with stage := [⟨5, 0, 2⟩] })
     (c.cell 0).path = some ({ kctx 0 with cur := some playT }, 0, 0) ∧ playT.done + 6 < 6 * playT.gran ∧ playT.done % 6 < 3 ∧ c.linePlace m 0 playT (playT.done / 6) = some (256, 1) ∧
     flawAt m 3 ((256 + 1 * 18) / 16) = none ∧ flawAt m 3 ((256 + 1 * 18 + 8) / 16) = none) ∧
    (let d := run 400 [(Fd.CEL_CFG_PHX_INLINE 0, 1)]
     d.get (Fd.CEL_CFG_PHX_INLINE 0) ≠ 0 ∧
     (∀ n ∈ [0, 3], let x := iter (fun (x : Cell) => if x.post.length < 3 then x.takeOut else x) 2 { d.cell 0 with post := List.replicate n ((0, 0), ⟨500, 0, 0, 0, 0, 0, 0⟩) }
       x.post.length = n)) ∧
    (∀ kind ∈ [MarkKind.endm, .lock, .fill (1, 2) 3 4 5], let k : Mark := ⟨kind, 500, 0, 0, false, if kind = .fill (1, 2) 3 4 5 then some 0 else none⟩
     let c := (run 400 []).modCell 0 (fun x => { x with outMarks := [k] })
     (c.cell 0).outMarks.find? (fun k => !((k.kind == .endm || k.from_.isSome) && (c.cell 0).holds k)) = some k ∧ c.svc = true ∧ c.get (Fd.CEL_STS_STATE 0) = 1 ∧ c.parked (cellR 0) = false ∧
     (c.cell 0).endAt = none) ∧
    (let c := run 400 []
     c.svc = true ∧ c.running = true ∧ c.rOk 0 = true ∧ c.bOk 0 0 = true ∧ (c.dac 7).last = none ∧ (c.bb 1).last = none ∧ (c.vec 7).last = none ∧
     ∀ u ∈ [OutUnit.dac 0 7, OutUnit.bb 0 0 1, OutUnit.vec 0 7], ∀ k ∈ unitLanes u, ∀ g ∈ (c.lane k).src, (c.cell g).branch = none) := by
  unfold CellOn; decide +kernel
/-- A WAIT of cell 0 on slot 0 from stamp 500 with deadline 30. -/
def waitT : Timed := Timed.mk .wait 2000 500 1 0 0 0 0 1 false false 77 30 none 0 none
def winW : Win := ⟨4, 2, 10, 300, 0, 0, 0, 10, 0, 0, false, false, false, 10, some 320, false, none, false, 0⟩
def exitC (now : Nat) (w : WSlot) : Core := (run now []).modCell 0 (fun x => { x with branch := some ⟨7, 517, 0, false, 0, kctx 0, kctx 0⟩, slots := [(0, w)] })
theorem wit_PathsGoOn : (∀ inv ∈ [false, true], ∀ keep ∈ [0, 1], let c := exitC 500 { WSlot.empty with full := true, a := 500, inv := inv }
      let m : Mems := { Mems.empty with pmA := wrBytes zeroByte [] (8 * c.seqW 0 + 8) (toLE 4 (keep * 2 ^ 18)) }
      CellOn 0 { State.reset with mem := m, core := c } ∧ (c.cell 0).branch = some ⟨7, 517, 0, false, 0, kctx 0, kctx 0⟩ ∧ c.role 0 ≠ 2 ∧ 517 - 17 ≤ c.now ∧ ((c.cell 0).slot 0).full = true ∧
      ((c.cell 0).slot 0).a ≤ 517 - 17 ∧ ((c.cell 0).slot 0).inv = inv ∧ wKeep (watchEntry m c 0 0) = decide (keep = 1)) ∧
    (let c := exitC 500 { WSlot.empty with full := true, a := 501 }
     CellOn 0 (st c) ∧ (c.cell 0).slot 0 = { WSlot.empty with full := true, a := 501 } ∧ 517 - 17 < 501 ∧ (exitC 500 WSlot.empty).cell 0 ≠ c.cell 0 ∧ ((exitC 500 WSlot.empty).cell 0).slot 0 = WSlot.empty) ∧
    (kctx 0).cond = none ∧ (kctx 0).ended = false ∧ (kctx 0).cur = none ∧ (exitC 500 WSlot.empty).get (Fd.CEL_CFG_PHX_INLINE 0) = 0 ∧
    (∀ ev ∈ [0, 3], ∀ w ∈ [{ WSlot.empty with full := true, a := 510, cls := 1 }, { WSlot.empty with full := true, a := 530 }, { WSlot.empty with full := true, a := 531 }, WSlot.empty],
      let c := ((run 530 [(Fd.CEL_CFG_EV_EN 0, ev)]).modCell 0 (fun x => { x with ctx := { kctx 0 with cur := some waitT }, slots := [(0, w)] }))
      (c.cell 0).branch = none ∧ (c.cell 0).ctx.cur = some waitT ∧ waitT.kind = .wait ∧ CellOn 0 (st c) ∧ waitT.s0 + waitT.dl ≤ c.now ∧
      (c.cell 0).waitV waitT = (if w.full then some w.a else none) ∧ c.get (Fd.CEL_CFG_EV_EN 0) = ev) ∧
    (let c := (run 530 []).modCell 1 (fun x => { x with ctx := { kctx 0 with cur := some waitT }, slots := [(0, { WSlot.empty with full := true, a := 510 })] })
     (c.cell 1).branch = none ∧ (c.cell 1).ctx.cur = some waitT ∧ CellOn 1 (st c) ∧ (c.cell 1).waitV waitT = some 510 ∧ c.role 1 = 2) ∧
    (let c := (run 500 []).modCell 0 (fun x => { x with sigs := [⟨1, 2, 500⟩] })
     (c.cell 0).sigs.find? (fun h => decide (h.stamp ≤ c.now)) = some ⟨1, 2, 500⟩ ∧ c.svc = true) := by
  unfold CellOn; decide +kernel
/-- A window latches: in time, late, of a cell that stands still; with the engine between; with a slot or without; of a region parked or not. -/
theorem wit_PathsGoOn_latch : ∀ inline ∈ [0, 1], ∀ nslot ∈ [0, 2], ∀ parked ∈ [false, true], ∀ w ∈ [winW, { winW with postedAt := some 400 }, { winW with dead := true, postedAt := none }],
    let c := (run 401 [(Fd.CEL_RO_CFG_NSLOT 1, nslot), (Fd.CEL_CFG_PHX_INLINE 1, inline), (Fd.CEL_RO_CFG_PHX_DELAY 1, 50)]).modCell 1 (fun x => { x with ro := { x.ro with wins := [w] } })
    let c := if parked then c.put (Fd.RGN_SUP_STS_PARKED 0) 1 else c
    let l := w.m0 + 2 * w.dur - 1 + 11 + (if c.get (Fd.CEL_CFG_PHX_INLINE 1) = 0 then 0 else c.get (Fd.CEL_RO_CFG_PHX_DELAY 1))
    (c.cell 1).ro.wins = w :: [] ∧ w.ct = 0 ∧ c.svc = true ∧ c.parked (cellR 1) = parked ∧ c.get (Fd.CEL_RO_CFG_NSLOT 1) = nslot ∧ (c.cell 1).ro.nslot = 0 ∧ mtDmode (mtEntry Mems.empty 1 w.mt) = 0 ∧ mtDmode (mtEntry { Mems.empty with mtA := wrBytes zeroByte [] (256 + 64 + 11) [4] } 1 w.mt) ≠ 0 ∧
    c.get (Fd.CEL_CFG_PHX_INLINE 1) = inline ∧ w.stale = false ∧
    (w.dead = true ∧ l ≤ c.now ∨ w.dead = false ∧ w.posted = w.dur ∧ (∃ p ∈ w.postedAt, p ≤ l ∧ l ≤ c.now ∨ l < p ∧ p + 1 ≤ c.now)) := by
  decide +kernel
theorem wit_PathsGoOn_watch : let i : BusItem := { seq := 1, kind := .trig, src := 2, sub := 0, cls := 1, inv := false, latch := 400, base := 400, rgn := 0 }
     let c := { run 500 [] with bus := [i] }
     let m : Mems := { Mems.empty with pmA := wrBytes zeroByte [] (8 * c.seqW 0 + 8) (toLE 4 (5 + 2 * 16)) }
     let fit := fun (m : Mems) (i : BusItem) => decide (((c.cell 0).slot 0).seen < i.seq) && watchMatch (watchEntry m c 0 0) i && decide (availTick (cellR 0) i ≤ c.now)
     c.svc = true ∧ c.get (Fd.CEL_STS_STATE 0) = 1 ∧ c.parked (cellR 0) = false ∧ (c.cell 0).zeroAt = none ∧ c.bus.find? (fit m) = some i ∧ c.bus.find? (fit Mems.empty) = none ∧ m.flaw = [] ∧
     (c.put (Fd.CEL_STS_STATE 0) 3).get (Fd.CEL_STS_STATE 0) = 3 ∧ (c.put (Fd.CEL_STS_STATE 0) 0).get (Fd.CEL_STS_STATE 0) = 0 := by
  decide +kernel
/-- A QUARANTINED cell's watch slot fills too, and DECISION is recorded there (R86, log 137). -/
theorem test_watch_in_quarantine : out (.watchSlotFill 0 0) { State.reset with
      mem := { Mems.empty with pmA := wrBytes zeroByte [] (8 * (svc 9 []).seqW 0 + 8) (toLE 4 (5 + 2 * 16)) }
      core := { run 500 [(Fd.CEL_STS_STATE 0, 3), (Fd.CEL_CFG_EV_EN 0, 2)] with bus := [{ seq := 1, kind := .trig, src := 2, sub := 0, cls := 1, inv := false, latch := 400, base := 400, rgn := 0 }] } }
    (fun c => ((c.cell 0).slot 0).full && bitAt (c.get (Fd.CEL_STS_EV_PEND 0)) 1) = true := by decide +kernel
theorem wit_FabricReachesPinsAndPorts : (svc 500 []).svc = true ∧
    (∀ fail ∈ [false, true], ∀ parked ∈ [false, true], let d : CRun := ⟨480, 499, false, false, true, fail⟩
     let c := { svc 500 [] with vecs := [(63, { VecSt.init with runs := [d] })] }
     let c := if parked then c.put (Fd.RGN_SUP_STS_PARKED 7) 1 else c
     (c.vec 63).runs = d :: [] ∧ d.closed = true ∧ d.fail = fail ∧ d.se + 1 ≤ c.now ∧ c.parked (63 / 8) = parked ∧ c.svc = true ∧ ¬ (⟨480, 500, fail, false, true, true⟩ : CRun).se + 1 ≤ c.now) ∧
    (∀ code ∈ [4, 5, 6, 7, 8, 9], ∀ valid ∈ [0, 1], let c := { svc 500 [(Fd.VIO_PIN_THR_VTL 7 7, 100), (Fd.VIO_PIN_THR_VTH 7 7, 150), (Fd.VIO_FIRST_VALID 7 7, valid)] with vecs := [(63, { VecSt.init with sig := [(500, code, 2)], runs := [⟨480, 510, false, false, false, false⟩] })] }
     (c.vec 63).sig.find? (fun k => k.1 == c.now) = some (500, code, 2) ∧ c.get (Fd.VIO_FIRST_VALID (63 / 8) (63 % 8)) = valid ∧
     [799, 800, 1200, 1201].map (fun mv => if mv < 8 * c.get (Fd.VIO_PIN_THR_VTL 7 7) then 0 else if 8 * c.get (Fd.VIO_PIN_THR_VTH 7 7) < mv then 2 else 1) = [0, 1, 1, 2] ∧
     (code = 7 ∨ ∃ lv ∈ [0, 1, 2], compareFails code lv = true) ∧ (∃ lv ∈ [0, 1, 2], compareFails code lv = false)) ∧
    (∀ w ∈ [0, 7], ∀ k ∈ [494, 493], let c := { svc 500 [(Fd.CHP_TRIG_IN_CFG_WIDTH 3, w), (Fd.CHP_TRIG_IN_CFG_EDGE 3, 1)] with pins := { Pins.init with trigRaw := [(3, k, true)] } }
     c.svc = true ∧ c.get (Fd.CHP_TRIG_IN_CFG_WIDTH 3) = w ∧ c.pins.trigRaw.find? (fun e => e.1 == 3) = some (3, k, true) ∧ c.trigLvl 3 ≠ true ∧
     ({ c with pins := { c.pins with trigLvl := [(3, true)] } } : Core).trigLvl 3 = true ∧ (k + w ≤ c.now ∨ k = 494 ∧ w = 7) ∧ c.running = true ∧ k ≠ c.now) := by decide +kernel
theorem wit_FabricReachesPinsAndPorts_out : (∀ src ∈ [1, 2, 3, 4, 5, 6], let sel := if src = 2 then 63 else if src = 5 then 9 else if src = 6 then 2 else 17
     let i : BusItem := { seq := 1, kind := .dec, src := 17, sub := 0, cls := 2, inv := false, latch := 506, base := 506, rgn := 0 }
     let c := { svc 512 [(Fd.CHP_TRIG_OUT_CFG_SRC 3, src), (Fd.CHP_TRIG_OUT_CFG_SEL 3, sel), (Fd.CHP_TRIG_OUT_CFG_CLASSMASK 3, 4)] with
       bus := [i], vecs := [(63, { VecSt.init with sig := [(512, 1, 1)] })], acqs := [(17, { Acq.init with trigs := [478] })],
       pins := { Pins.init with trigLvl := [(2, true)], trigOut := [(3, if src = 2 ∨ src = 6 then 0 else 512)] }, ser := { Series.init with shotOn := true, lastTs := 512 } }
     c.get (Fd.CHP_TRIG_OUT_CFG_SRC 3) = src ∧ c.get (Fd.CHP_TRIG_OUT_CFG_SEL 3) = sel ∧ c.get Fd.CHP_FAULT_STS_FAULT = 0 ∧ c.ser.shotOn = true ∧ c.ser.lastTs = c.now ∧ (512, 1, 1) ∈ (c.vec 63).sig ∧
     i ∈ c.bus ∧ bitAt (c.get (Fd.CHP_TRIG_OUT_CFG_CLASSMASK 3)) i.cls = true ∧ i.base + 6 = c.now ∧ 478 ∈ (c.acq 17).trigs ∧ 478 + 34 = c.now ∧ c.running = true ∧ c.now % 2 ^ 9 = 0 ∧
     c.trigSince 2 true = true ∧ c.trigSince 1 false = true ∧ (c.vec 62).sig = [] ∧ c.pins.trigOut.find? (fun k => k.1 == 3) = some (3, if src = 2 ∨ src = 6 then 0 else 512)) ∧
    (∀ want ∈ [[], [(1, 7)]], let i : BusItem := { seq := 1, kind := .dec, src := 17, sub := 0, cls := 2, inv := false, latch := 400, base := 400, rgn := 0 }
     let c := { svc 402 [(Fd.CHP_DEC_EXPORT_EN 3 79, 1), (Fd.CHP_DEC_EXPORT_CELL 3 79, 17), (Fd.SZL_PORT_STS_STATE 3, 2)] with bus := [i], ports := [(3, { Port.init with want := want })] }
     c.bus.find? (fun i => i.kind == .dec && !bitAt i.exp 3 && decide (i.base + 2 ≤ c.now) && !(c.exportOf 3 i.src).isEmpty) = some i ∧ c.get Fd.CHP_FAULT_STS_FAULT = 0 ∧
     c.get (Fd.SZL_PORT_STS_STATE 3) = 2 ∧ (c.book (bookKey 7 0 6)).inflight < 8 ∧ ∀ w ∈ (c.port 3).want, w.1 ≠ 0) ∧
    (let c := { svc 422 [(Fd.CHP_DEC_IMPORT_EN 3 79, 1), (Fd.CHP_DEC_IMPORT_CELL 3 79, 17)] with ports := [(3, { Port.init with hold := [(400, 6 * 2 ^ 253)] })] }
     (c.port 3).hold = (400, 6 * 2 ^ 253) :: [] ∧ 400 + 22 ≤ c.now ∧ c.get (Fd.CHP_DEC_IMPORT_EN 3 79) = 1 ∧ bitsOf (6 * 2 ^ 253) (16 + 3 * 79) 3 = 6) := by decide +kernel
theorem wit_FabricReachesPinsAndPorts_frame : let c := (run 500 [(Fd.CEL_FRAME_X 0, 1)]).modCell 0 (fun x => { x with frameOps := [⟨1, 3, 500⟩, ⟨1, 3, 501⟩], frBase := (true, false) })
    frameRun (c.frameLog 0).2 (c.frameLog 0).1 = (c.on (Fd.CEL_FRAME_X 0), c.on (Fd.CEL_FRAME_Z 0)) ∧ (∀ e ∈ (c.cell 0).frLog, e.tick < c.now) ∧ c.role 0 = 1 ∧ c.role 1 = 2 ∧ c.svc = true := by decide +kernel

/-- An edge that starts the next shot of a triggered series, and one before the last shot has ended. -/
theorem wit_FabricReachesPinsAndPorts_series : ∀ e ∈ [500, 501], let c := { run 500 [] with ser := { Series.init with trig := 3, mode := 3, begun := true, lastEnd := e, lastTs := 400, count := 5, next := 1 } }
    c.svc = true ∧ c.ser.trig = 3 ∧ c.ser.mode = 3 ∧ c.ser.shotOn = false ∧ c.ser.stopping = false ∧ c.ser.ts = none ∧ c.runIs .running = true ∧ (c.ser.lastEnd ≤ c.now ↔ e = 500) := by
  decide +kernel
/-- A pin whose cell ended at 310: an entry of its span and one past it. -/
theorem wit_FabricReachesPinsAndPorts_rest : let c := { (run 320 [(Fd.VIO_PIN_CFG_EN 0 7, 1), (Fd.VIO_PIN_CFG_SRC 0 7, 0)]).modCell 0 (fun x => { x with endAt := some 310 }) with
      vecs := [(7, { VecSt.init with sig := [(327, 1, 1), (328, 1, 1)] })] }
    c.get (Fd.VIO_PIN_CFG_EN 0 7) = 1 ∧ (c.cell (0 * 288 + c.get (Fd.VIO_PIN_CFG_SRC 0 7))).endAt = some 310 ∧ (c.cell 0).zeroAt = none ∧ (327, 1, 1) ∈ (c.vec (8 * 0 + 7)).sig ∧ 327 ≤ 310 + 17 ∧
    (328, 1, 1) ∈ (c.vec 7).sig ∧ c.now ≤ 328 ∧ 310 + 17 < 328 := by decide +kernel
/-- Frame writes of one tick that change the frame bits, and two that cancel. -/
theorem wit_FabricReachesPinsAndPorts_event : ∀ two ∈ [false, true], let w : FrEv := { tick := 500, post := false, xop := 3, zop := 0 }
    let c := (run 500 [(Fd.CEL_CFG_EV_EN 0, 8)]).modCell 0 (fun x => { x with frBase := (false, false), frLog := w :: if two then [w] else [] })
    let was := frameRun (c.cell 0).frBase ((c.cell 0).frLog.filter (fun k => decide (k.tick < c.now)))
    let is := frameRun (c.cell 0).frBase ((c.cell 0).frLog.filter (fun k => decide (k.tick ≤ c.now)))
    (was = is ↔ two = true) ∧ bitAt (c.get (Fd.CEL_CFG_EV_EN 0)) 3 = true := by decide +kernel

/-! ### Syndrome engine, acquisition, monitor, converters -/

/-- Region 0 at tick 900 with a state of its syndrome engine. -/
def synC (l : List (Fld × Nat)) (y : Synd) : Core := (run 900 l).modRgn 0 (fun r => { r with synd := y })
def rnd (no : Nat) : Round := Round.open no 500 300
theorem wit_RoundsOpenAndClose : (let c := synC [(Fd.RGN_SYND_CTL_EN 0, 0)] { Synd.init with opens := [(600, 50, 2)], rounds := [rnd 3] }
      let d := synC [(Fd.RGN_SYND_CTL_EN 0, 1)] { Synd.init with opens := [(500, 50, 2)], rounds := [rnd 3] }
      (c.rgn 0).synd.opens = (600, 50, 2) :: [] ∧ 600 ≤ c.now ∧ c.parked 0 = false ∧ c.get (Fd.RGN_SYND_CTL_EN 0) = 0 ∧ (c.put (Fd.RGN_SYND_CTL_EN 0) 1).get (Fd.RGN_SYND_CTL_EN 0) = 1 ∧
      (c.rgn 0).synd.rounds.getLast? = some (rnd 3) ∧ (rnd 3).p ≠ 600 ∧ (c.rgn 0).shot.d0 = none ∧ ((c.modRgn 0 (fun x => { x with shot := { x.shot with d0 := some 590 } })).rgn 0).shot.d0 ≠ none ∧ d.get (Fd.RGN_SYND_CTL_EN 0) = 1 ∧ (d.rgn 0).synd.rounds.getLast? = some (rnd 3) ∧ (rnd 3).p = 500) ∧
    (∀ pn ∈ [none, some 500, some 700], let e := { rnd 3 with pNext := pn }
     let c := synC [] { Synd.init with rounds := [e] }
     (c.rgn 0).synd.rounds = [] ++ e :: [] ∧ e.close = none ∧ c.parked 0 = false ∧ c.roundClose Mems.empty 0 e ≤ c.now ∧ (pn = some 500 → e.pNext = some (c.roundClose Mems.empty 0 e))) ∧
    (∀ exp ∈ [0, 1], let d := { rnd 3 with close := some 800 }
     let c := synC [(Fd.RGN_SYND_CFG_EXP_EN 0, exp), (Fd.SZL_PORT_STS_STATE 0, 2)] { Synd.init with rounds := [d] }
     (c.rgn 0).synd.rounds = [] ++ d :: [] ∧ d.formed = false ∧ d.close = some 800 ∧ 800 + 4 ≤ c.now ∧ c.get (Fd.RGN_SYND_CFG_EXP_EN 0) = exp ∧ c.get (Fd.RGN_SYND_CFG_NREC 0) = 0 ∧ (c.book (bookKey 7 0 1)).inflight < 8 ∧ (c.port 0).want = [] ∧ d.dead = false ∧
     c.get Fd.CHP_FAULT_STS_FAULT = 0 ∧ c.get (Fd.SZL_PORT_STS_STATE (c.get (Fd.RGN_SYND_CFG_EXP_PORT 0))) = 2) := by decide +kernel
/-- The syndrome memory of region 0 with bytes from an offset on. -/
def synM (o : Nat) (l : List Byte) : Mems := { Mems.empty with syA := wrBytes zeroByte [] o l }
/-- Import entry 0 takes bit 5 of the flit of region 2 from port 1. -/
def impM : Mems := synM 0x600 (toLE 2 (0x8000 + 1 + 2 * 4 + 5 * 32))
def dfl : DefFlit := { port := 1, rgn := 2, no := 3, dfx := 0x20, era := 0, tick := 850 }
/-- Does flit `f` fit round `d`? -/
def fits (f : DefFlit) (d : Round) : Bool := d.no == f.no && !d.got.contains (f.port, f.rgn)
theorem wit_RoundsAreLookedUp_import : ∀ x ∈ [false, true],
    ((synC [] { Synd.init with rounds := [{ rnd 3 with expired := x }], flits := [dfl] }).rgn 0).synd.flits.find? (fun f => f.port == 1 && decide (f.tick ≤ 900) &&
      ((synC [] { Synd.init with rounds := [{ rnd 3 with expired := x }], flits := [dfl] }).rgn 0).synd.rounds.any (fits f)) = some dfl ∧
    (impNeeds Mems.empty 0).contains (dfl.port, dfl.rgn) = false ∧ (impNeeds impM 0).contains (dfl.port, dfl.rgn) = true ∧
    ((synC [] { Synd.init with rounds := [{ rnd 3 with expired := x }], flits := [dfl] }).rgn 0).synd.rounds = [] ++ { rnd 3 with expired := x } :: [] ∧
    fits dfl { rnd 3 with expired := x } = true ∧ (rnd 3).fin = false ∧ ({ rnd 3 with expired := x }).expired = x := by decide +kernel
theorem wit_RoundsAreLookedUp : (let d := { rnd 3 with close := some 800 }
     let c := synC [] { Synd.init with rounds := [d] }
     (c.rgn 0).synd.rounds = [] ++ d :: [] ∧ (!d.fin && d.close.isSome && !impDone impM 0 d && decide (c.impLimit 0 d ≤ c.now)) = true) ∧
    (let m := synM 0x712 [1]
     let d := { rnd 3 with close := some 800, formed := true }
     let e := { d with idx := 1 }
     let c := synC [] { Synd.init with rounds := [d] }
     let f := synC [] { Synd.init with rounds := [e] }
     (c.rgn 0).synd.rounds = [] ++ d :: [] ∧ d.fin = false ∧ d.close ≠ none ∧ d.formed = true ∧ impDone m 0 d = true ∧ c.parked 0 = false ∧ (grpUsed m 0)[d.idx]? = some 0 ∧
     (c.lookupStart 0 d).1 + 5 * (d.idx + 1) ≤ c.now ∧ e.idx = (grpUsed m 0).length ∧ (f.lookupStart 0 e).1 + 5 * (grpUsed m 0).length ≤ f.now ∧ grpErased m 0 d 0 = false ∧ c.get (Fd.RGN_SYND_CFG_ERASE_MODE 0) ≠ 2 ∧
     (∀ mode ∈ [1, 2], let u := { d with bits := 1, era := 1 }
      grpErased m 0 u 0 = true ∧ (synC [(Fd.RGN_SYND_CFG_ERASE_MODE 0, mode)] { Synd.init with rounds := [u] }).get (Fd.RGN_SYND_CFG_ERASE_MODE 0) = mode) ∧
     (∀ x ∈ [0, 2 ^ 31, 2 ^ 31 + 1, 2 ^ 31 + 2 ^ 30], let n := { m with syA := wrBytes zeroByte m.syA (0x10000 + 4 * grpAddr m 0 d 0) (toLE 4 x) }
      lutEntry n 0 (grpAddr n 0 d 0) = x ∧ grpAddr n 0 d 0 = grpAddr m 0 d 0) ∧ (({ f with live := (f.put (Fd.RGN_SYND_CTL_APPLY 0) 1).live } : Core).get (Fd.RGN_SYND_CTL_APPLY 0)) = 1 ∧ ({ e with esc := 1, prev := true, togg := [(0, true)] } : Round).dead = false) := by decide +kernel
def detD : AcqDet := ⟨600, 0, 1, 0xE⟩
def plateP (full : Bool) : Plate :=
  { trig := detD, filled := true, preV := 0, win := [], ext := [], postN := 0, grps := 0, done := 0, grp := none, k0 := 0, steps := [], above := false, missed := 0, trunc := false,
    full := full, shut := !full, data := [] }
def outP : PlateOut := { no := 0, hdr := List.replicate 128 0, last := none, smp := [], raw := true, ev := true, bytes := 0, pad := 0, data := [], off := 0, key := 4000, ring := 2, parts := false }
def armC (i : List Nat) (l : List (Fld × Nat)) : Core :=
  svc 9 ((upFrom 0 10).map (fun k => (Fld.mk (Fd.ACQ_CH_CFG 7 3 + 4 * k) 0 32 .rw, i.getD k 0)) ++ spoolL ++ [(Fd.RGN_ADC_CFG_EN 7 0, 1), (Fd.RGN_UNIT_STS_ADC_OK 7, 15), (Fd.RGN_DAC_CFG_EN 7 0, 1), (Fd.RGN_UNIT_STS_DAC_OK 7, 15)] ++ l)
theorem wit_ChannelsArmAndTrigger_arm : (∀ x ∈ ([(0, 0, 0, 0), (1, 1, 4, 1), (2, 2, 5, 2), (0, 2, 1, 3)] : List (Nat × Nat × Nat × Nat)), let i := armI x.1 x.2.1 x.2.2.1 x.2.2.2
    let c := { armC i [] with srcs := [(srcKey 7 x.1 0 0, [⟨8, 0, 1, 5, 0, false, 0, false⟩])] }
    let b : Acq := { Acq.init with img := c.acqRegs 7 3 }
    c.svc = true ∧ c.rOk 7 = true ∧ c.parked 7 = false ∧ c.acqState 31 = 0 ∧ b.img = i ∧ CaptureNames c 31 i ∧ CaptureFits i ∧
    (∀ e ∈ c.srcHist (srcKey 7 b.src b.unit b.input), e.tick < c.now)) ∧
    (∀ x ∈ ([(5, 0, 8, 0), (0, 1, 8, 0), (0, 0, 0, 0), (0, 0, 8, 1)] : List (Nat × Nat × Nat × Nat)), let i := ((armI x.1 0 0 0).set 3 x.2.2.1).set 2 x.2.2.1
     let c := armC i (if x.2.1 = 1 then [(Fd.ACQ_CH_STS_STATE 7 3, 1)] else if x.2.2.2 = 1 then [(Fd.RGN_SUP_STS_PARKED 7, 1)] else [])
     c.svc = true ∧ c.rOk 7 = true ∧ c.acqRegs 7 3 = i ∧ (CaptureNames c 31 i ↔ x.1 = 0) ∧ (c.acqState 31 ≠ 0 ↔ x.2.1 = 1) ∧ (CaptureFits i ↔ x.2.2.1 = 8) ∧ (c.parked 7 = true ↔ x.2.2.2 = 1)) := by
  unfold CaptureNames CaptureFits; decide +kernel
theorem wit_ChannelsArmAndTrigger : ((svc 9 [(Fd.ACQ_CH_STS_STATE 7 3, 2)]).acqState 31 ≠ 0 ∧ (svc 9 []).acqState 31 = 0) ∧
    (∀ t ∈ [598, 599], let c := (svc 600 [(Fd.ACQ_CH_STS_STATE 7 3, 2)]).modAcq 31 (fun a => { a with plate := some (plateP false), pre := [⟨t, 0, 1, 5, 0, false, 0, false⟩] })
     c.acqState 31 ≠ 0 ∧ (c.acq 31).dets = [] ∧ (c.acq 31).plate = some (plateP false) ∧ (c.acq 31).tails = [] ∧ (t = 598 ↔ ∀ e ∈ (c.acq 31).pre.head?, e.tick * e.spt + e.sub + 1 < c.now * e.spt)) ∧
    (∀ k ∈ [1, 2], let c := (svc 600 [(Fd.ACQ_CH_STS_STATE 7 3, k), (Fd.ACQ_CH_STS_STATE 7 1, 1)]).modAcq 31 (fun a => { a with y := 600, dets := [detD], img := armI 0 0 0 0 })
     let c := c.modAcq 29 (fun a => { a with img := [0, 2, 8, 8, 0, 0, 7 + 3 * 16, 0, 0, 0] })
     firstDet (c.acq 31).dets = some (detD, []) ∧ c.acqState 31 = k ∧ (c.acq 31).y ≤ detD.tick ∧ 29 ∈ rgnChans 7 ∧ (c.acq 29).tsrc = 7 ∧ (c.acq 29).tsel = 3 ∧ c.acqState 29 ≠ 0 ∧
     (c.acq 30).tsrc ≠ 7) ∧
    (∀ now ∈ [650, 649], ∀ f ∈ [false, true], let c := (svc now [(Fd.ACQ_CH_STS_STATE 7 3, 1)]).modAcq 31 (fun a => { a with y := 600, img := armI 0 2 0 0, forced := f })
     c.acqState 31 = 1 ∧ (c.acq 31).mode = 2 ∧ (c.acq 31).forced = f ∧ ((c.acq 31).y + (c.acq 31).f 5 0 24 ≤ c.now ↔ now = 650)) := by decide +kernel
theorem wit_PlatesCloseAndSpool : (∀ mode ∈ [0, 1], ∀ full ∈ [false, true], ∀ trunc ∈ [false, true], let p := { plateP full with trunc := trunc }
      let c := (svc 600 [(Fd.ACQ_CH_STS_STATE 7 3, 2)]).modAcq 31 (fun a => { a with img := armI 0 mode 0 0, plate := some p, dets := [detD] })
      (c.acq 31).plate = some p ∧ c.acqState 31 = 2 ∧ p.full = full ∧ p.shut = !full ∧ p.trunc = trunc ∧
      ((c.acq 31).mode == 1 || ((c.acq 31).f 4 0 32 != 0 && decide ((c.acq 31).f 4 0 32 ≤ (c.acq 31).plateNo + 1))) = decide (mode = 1)) ∧
    (∀ k ∈ [false, true], let c := (svc 600 [(Fd.ACQ_CH_STS_STATE 7 3, 3)]).modAcq 31 (fun a => { a with s1 := 580, qAt := some 590, kReset := k })
     (c.acq 31).qAt = some 590 ∧ c.acqState 31 = 3 ∧ max ((c.acq 31).s1 + 16) 590 ≤ c.now ∧ (c.acq 31).kReset = k) ∧
    (∀ k ∈ [1, 2], let c := (svc 8192 [(Fd.ACQ_CH_STS_STATE 7 3, k), (Fd.HBM_PART_SIZE 1, 2)]).modAcq 31 (fun a => { a with stage := 3 * 2 ^ 20, img := [4 * 2 ^ 15, 2, 8, 8, 0, 50, 0, 0, 0, 0] })
     c.now % 4096 = 0 ∧ (c.acq 31).chkAt ≠ some c.now ∧ c.acqState 31 = k ∧ c.get Fd.CHP_BOOT_STS_NO_HBM = 0 ∧ (c.acq 31).stageHigh * c.stageCap ≤ 16 * (c.acq 31).stage ∧ 0 < c.stageCap ∧ (c.acq 31).kNow < (c.acq 31).kmax) ∧
    (∀ no ∈ [0, 1], ∀ n ∈ [0, 64], ∀ ev ∈ [false, true], let o := { outP with bytes := n, ev := ev, data := if no = 1 then List.replicate n 7 else [] }
     let c := ((devSp.put Fd.CHP_BOOT_STS_NO_HBM no).modAcq 31 (fun a => { a with outs := [o], img := [0, 2], reads := [⟨4096, n, some (List.replicate n 7)⟩] })).modRing 2 (fun r => { r with segs := [(2 ^ 20, 4096)] })
     let x := c.ring 2
     (c.acq 31).outs = o :: [] ∧ o.ring = 2 ∧ (c.acq 31).sent = 0 ∧ (c.acq 31).ahead = [] ∧ o.last = none ∧ o.hdr.length = 128 ∧ c.get Fd.CHP_BOOT_STS_NO_HBM = no ∧
     (o.data.length = o.bytes ∨ no = 0) ∧ c.hbmc.works = [] ∧ c.get Fd.CHP_RESULT_CFG_SPOOL ≠ o.ring ∧
     o.bytes ≤ (if no = 0 then readsIn (c.acq 31).reads else o.data).length ∧ c.devSpool o.ring = true ∧ (devSp.put (Fd.CHP_RING_CFG_EN 2) 0).devSpool 2 = false ∧ x.stopped = false ∧ x.sNew = none ∧ x.p < x.s ∧ x.segs = [(2 ^ 20, x.s)] ∧ x.p + 128 + n ≤ x.s ∧
     128 + o.bytes ≤ x.s - 64 - (if x.c ≤ x.p then x.p - x.c else x.p + x.s - x.c) ∧
     (∀ k ∈ List.range 32, k ≠ 31 → (c.acq k).spoolRing = o.ring → (c.acq k).sent = 0 ∧ (c.acq k).ahead = [])) ∧
    (let l : List AcqSmp := [⟨600, 0, 2, 5, 0, false, 0, false⟩, ⟨600, 1, 2, 8, 0, true, 0, false⟩]
     l.length = 2 ^ 1 ∧ ∀ e ∈ l, (e.tick * e.spt + e.sub) / 2 ^ 1 = 600) := by decide +kernel
theorem wit_MonitorAndConvertersSample : (∀ redo ∈ [false, true], ∀ alm ∈ [0, 1], let c : Core := { svc 600 [(Fd.MON_CTL_EN, 1), (Fd.MON_SEQ_ALM_EN 0, alm), (Fd.MON_SEQ_AVG 0, 1), (Fd.MON_LIM_LO 0, 6), (Fd.MON_LIM_HI 0, 8)] with mon := { State.reset.core.mon with redo := redo } }
      c.svc = true ∧ c.get Fd.MON_CTL_EN = 1 ∧ c.get Fd.MON_STS_CAL = 0 ∧ c.mon.entry < 32 ∧ monInput (c.get (Fd.MON_SEQ_INPUT 0)) = true ∧ ([5#12, 6#12] : List (BitVec 12)).length = 2 ^ c.get (Fd.MON_SEQ_AVG 0) ∧ c.mon.redo = redo ∧
      c.get (Fd.MON_SEQ_ALM_EN 0) = alm ∧ (([5#12, 6#12] : List (BitVec 12)).map BitVec.toNat).sum / 2 < c.get (Fd.MON_LIM_LO 0) ∧ c.get (Fd.MON_RES_BELOW 0) = 0 ∧
      monInput ((c.put (Fd.MON_SEQ_INPUT 0) 0x1C).get (Fd.MON_SEQ_INPUT 0)) = false) ∧ State.reset.core.svc = false ∧
    (let c := svc 1000600 [(Fd.MON_CTL_CAL_PERIOD, 2)]
     c.svc = true ∧ c.get Fd.MON_STS_CAL = 0 ∧ c.get Fd.MON_CTL_CAL_PERIOD ≠ 0 ∧ c.mon.calAt + c.get Fd.MON_CTL_CAL_PERIOD * 500000 ≤ c.now ∧ 600 < (svc 600 [(Fd.MON_CTL_CAL_PERIOD, 2)]).mon.calAt + (svc 600 [(Fd.MON_CTL_CAL_PERIOD, 2)]).get Fd.MON_CTL_CAL_PERIOD * 500000) ∧
    (∀ dry ∈ [false, true], let c := { svc 600 [(Fd.MON_STS_CAL, 1)] with cal := { Cal.init with jobs := [⟨0, 1, 0, 0, [0], dry, 500, [], 0, 0, 0, []⟩] } }
     c.svc = true ∧ (dry = true → ∃ j ∈ c.cal.jobs, j.kind = 1 ∧ 0 ∈ j.units ∧ j.dry = true) ∧ (c.put Fd.MON_CTL_EN 0).get Fd.MON_CTL_EN = 0 ∧ c.get Fd.MON_STS_CAL = 1 ∧ (∀ j ∈ c.cal.jobs, j.ring < 64 ∧ j.dry = dry) ∧ almManual Mems.empty 0 = false ∧ almManual { Mems.empty with alm := wrBytes zeroByte [] 0 (List.replicate 64 255) } 0 = true) ∧
    (∀ en ∈ [0, 1], ∀ mode ∈ [0, 1], let c := run 600 [(Fd.RGN_ADC_CFG_EN 0 3, en), (Fd.RGN_ADC_CFG_MODE 0 3, mode)]
     c.svc = true ∧ c.running = true ∧ c.rOk 0 = true ∧ 11 ≤ c.now ∧ (c.adc (4 * 0 + 3)).last ≠ some c.now ∧ (c.listeners 0 3 0 ++ c.listeners 0 3 1).all (fun g => (c.cell g).branch.isNone) = true ∧
     (c.adc 3).before = none ∧ (c.adcModeAt 0 3 (c.now - 11)).1 = decide (mode = 1) ∧ (c.adcOk 0 3 && (c.adcModeAt 0 3 (c.now - 11)).2 && !c.pins.d3) = decide (en = 1)) := by decide +kernel
/-- Cell 1 with the window `winW` on its pending list, posted up to a tick. -/
def bandC (p : Nat) (l : List (Fld × Nat)) : Core :=
  (shotC (run 600 l) none id).modCell 1 (fun x => { x with ro := { x.ro with wins := [winW], posted := some p, sched := [⟨302, some winW.id, 0, 0⟩] } })
def bandB (t : Nat) : BandSmp := ⟨t, 0, 1000, -500, false, false⟩
/-- The streams of the band filter that the rules bind: constant, and a sine whose image moves. -/
theorem wit_MonitorAndConvertersSample_band : (let k : Int := 2 ^ 26
      let h : List (Int × Int) := List.replicate 8 (10 * k, 0) ++ List.replicate 248 (5 * k, 5 * k)
      let a : Int × Int := (5 * k, 0)
      h.length = 256 ∧ (∀ x ∈ h, x.1 * x.1 + x.2 * x.2 = 2 * (a.1 * x.1 + a.2 * x.2)) ∧ 2 ^ 56 ≤ a.1 * a.1 + a.2 * a.2 ∧ (∃ x ∈ h.zip (h.drop 8), x.1 ≠ x.2) ∧
      (∃ x ∈ h, ∃ z ∈ h, x.1 * z.2 ≠ x.2 * z.1)) := by decide +kernel
/-- Band samples at a window, beside every window, and before the schedule is posted. -/
theorem wit_MonitorAndConvertersSample_integrate :
    (∀ x ∈ ([(340, 302, some winW.id), (340, 335, none), (290, 302, none)] : List (Nat × Nat × Option Nat)), let c := bandC x.1 []
     CellOn 1 (st c) ∧ (c.rgn (cellR 1)).shot.ts ≤ (bandB x.2.1).stamp ∧ (c.cell 1).endAt = none ∧ (c.cell 1).ro.cover = none ∧ (c.cell 1).ro.posted = some x.1 ∧ (c.cell 1).ro.buf = [] ∧
     (x.1 = 340 → (bandB x.2.1).stamp ≤ x.1 ∧ (c.cell 1).ro.winAt (bandB x.2.1).stamp = x.2.2) ∧ (x.1 = 290 → x.1 < (bandB x.2.1).stamp)) ∧
    (let c := bandC 340 []
     (c.cell 1).ro.wins.find? (fun w => w.id == winW.id) = some winW ∧ Mems.empty.flaw = [] ∧ c.get (Fd.CEL_CFG_PHX_INLINE 1) = 0 ∧
     (winAdd { Mems.empty with mtA := wrBytes zeroByte [] (256 + 64 + 6) [0, 0x20] } c 1 winW ⟨302, 0, 32767, 32767, false, false⟩).2 = true) := by
  unfold CellOn; decide +kernel

/-! ### Stack, arbiters, ports -/

/-- In SERVICE with the stack in a state. -/
def stk (now k : Nat) (l : List (Fld × Nat)) (f : HbmCtl → HbmCtl) : Core := { svc now ([(Fd.HBM_STS_STATE, k), (Fd.HBM_PART_SIZE 0, 32), (Fd.HBM_PART_BASE 1, 64), (Fd.HBM_PART_SIZE 1, 2), (Fd.HBM_PART_BASE 2, 100), (Fd.HBM_PART_SIZE 2, 2)] ++ l) with hbmc := f HbmCtl.init }
def req0 (w : Bool) (addr len : Nat) : HReq := { who := hreqId (.acq 31), addr := addr, len := len, write := w, data := if w then List.replicate len 5 else [], seq := 0, at_ := 400 }
/-- The ways of requester 21 - 3 of region 7 and of the chip's requesters 7 to 11 are granted, for pseudo-channel `p`. -/
def wayC (c : Core) (k x p : Nat) : Core := { c with arbs := [(arbKey (.region 7), { ArbSt.init with owner := some k }), (arbKey (.chip 3), { ArbSt.init with owner := some x, bound := some p })] }
/-- Memory with 32 bytes 5 in the stack from `a` on, and segment 5 in LIBRARY. -/
def hbmM (a : Nat) : Mems := { segM 2 with hbm := (upFrom a 128).map (fun i => (i, 5)) }
/-- The first of the works of a unit of the stack, by its next access. -/
theorem work_next {o : Option HWork} {x : Nat × Nat × Option (List Byte)} (h : o.map HWork.next = some (some x)) : ∃ w, o = some w ∧ w.next = some x := by
  cases o <;> simp_all
def workW (id who : Nat) (todo : List (Nat × Nat × Option (List Byte))) : HWork := ⟨id, who, 0, todo, 0, [], false, 0⟩
/-- Every unit of the stack has something to do there: channel 31 moves what it holds, the host writes three bytes. -/
def askC (k : Nat) (f : HbmCtl → HbmCtl) : Core :=
  ((stk 400 k [] (fun h => f { h with works := [workW 1 169 [(64, 32, none)], workW 2 170 [(64, 3, some [1, 2, 3])], workW 3 168 [(100 * 2 ^ 26, 32, none)], workW 4 160 [(4096, 32, some (List.replicate 32 5))]] })).modBlk 112
    (fun b => { b with want := [(5, 1)] })).modAcq 31 (fun a => { a with outs := [{ outP with data := List.replicate 128 5, bytes := 128 }] })
theorem wit_StackServesRequests_carried (k : Nat) (hk : k ∈ [2, 3, 4, 5, 6]) : Carried (.acq 31) 3 (st (wayC (askC k id) 19 7 3)) ∧ Carried .bar4 3 (st (wayC (askC k id) 19 9 3)) := by
  fin_cases hk <;> exact ⟨⟨⟨3, by unfold CanMove; decide +kernel⟩, by decide +kernel, by decide +kernel, fun r k h => by cases h; unfold CanMove; decide +kernel, by decide +kernel⟩,
    ⟨⟨3, by unfold CanMove; decide +kernel⟩, by decide +kernel, by decide +kernel, fun r k h => by simp [hbmPath] at h, by decide +kernel⟩⟩
theorem wit_StackServesRequests_asks : let s := st (askC 2 id)
    HasAsk (.refill 7 0) (s.core.libAddr Mems.empty 5 1) 128 false [] s ∧ HasAsk .root 64 32 false [] s ∧ HasAsk .bar4 64 3 true [1, 2, 3] s ∧
    HasAsk .resultDma (100 * 2 ^ 26) 32 false [] s ∧ HasAsk (.gatherer 0) 4096 32 true (List.replicate 32 5) s ∧ HasAsk (.acq 31) (s.core.stageBase 31) 128 true (List.replicate 128 5) s ∧
    hShape .bar4 64 3 true = true ∧ hShape (.refill 7 0) (s.core.libAddr Mems.empty 5 1) 128 false = true ∧ hShape (.acq 31) (s.core.stageBase 31) 128 true = true :=
  ⟨by dsimp only [HasAsk]; decide +kernel, work_next (by decide +kernel), work_next (by decide +kernel), work_next (by decide +kernel), work_next (by decide +kernel),
    by dsimp only [HasAsk]; decide +kernel, by decide +kernel, by decide +kernel, by decide +kernel⟩
/-- Nothing of that request stands at the controller: a requester below its limit; nothing passes a region's port whose requests the spine does not take; a request that stands before the
spine finds a lane, or none. -/
theorem wit_StackServesRequests_ups : let c := askC 2 id; let q := HbmReq.acq 31
    let r : HReq := { who := hreqId q, addr := c.stageBase 31, len := 128, write := true, data := List.replicate 128 5, seq := 0, at_ := 0 }
    let u := askC 2 (fun h => { h with ups := [r] })
    let half : Core := { c with arbs := [(arbKey (.region 7), { ArbSt.init with owner := some 19 })] }
    c.hOut (hreqId q) < hLimit q ∧ c.hOut 170 < hLimit .bar4 ∧ c.upOf q r.addr 128 true r.data = none ∧ u.upOf q r.addr 128 true r.data = some r ∧ c.hbmIs .active = true ∧
    CanMove (.region 7) 19 (st half) ∧ (∀ l, l < 4 → (half.arb (arbKey (.chip l))).owner ≠ some 7) ∧ CanMove (.chip 3) 7 (st (wayC u 19 7 3)) ∧
    u.hbmHold = false ∧ u.credit (bookKey 3 7 0) = true ∧ u.credit (bookKey 6 0 (c.hPc r.addr)) = true ∧ ¬ (∃ l, l < 4 ∧ CanMove (.chip l) 7 (st u)) ∧ ¬ (∃ l, l < 4 ∧ CanMove (.chip l) 9 (st c)) ∧
    (askC 2 (fun h => { h with holdD0 := some 380 })).hbmHold = true ∧ c.workNext 171 = none := by
  unfold CanMove; decide +kernel
theorem wit_StackServesRequests : (let q : HbmReq := .acq 31
      hShape q (2 ^ 34 - 128) 128 true = true ∧ (List.replicate 128 (7 : Byte)).length = 128 ∧ ∀ k ∈ [2, 3, 4, 5, 6], (stk 400 k [] id).hOut (hreqId q) < hLimit q ∧ (stk 400 k [] id).get Fd.HBM_STS_STATE = k) ∧
    (let c := (stk 400 2 [] id).modAcq 31 (fun a => { a with outs := [{ outP with data := List.replicate 128 5, bytes := 128 }] })
     128 ≤ (c.acq 31).front.length ∧ List.replicate 128 5 = (c.acq 31).front.take 128 ∧ (c.acq 31).stage + 128 ≤ c.stageCap ∧ (c.acq 31).wr + 128 ≤ c.stageCap ∧
     hShape (.acq 31) (c.stageBase 31 + (c.acq 31).wr) 128 true = true ∧ c.hbmIs .active = true) ∧
    (let c := { (stk 400 2 [] id).modRing 2 (fun r => { r with s := 4096 }) with acqs := [(31, { Acq.init with img := [0, 2], stage := 128 })] }
     (c.acq 31).reads = [] ∧ (c.acq 31).ahead = [] ∧ 128 ≤ (c.acq 31).stage ∧ (c.acq 31).rd + 128 ≤ c.stageCap ∧ 128 + 128 ≤ (c.ring (c.acq 31).spoolRing).free ∧
     hShape (.acq 31) (c.stageBase 31 + (c.acq 31).rd) 128 false = true) ∧
    (let c := stk 400 3 [] (fun h => { h with wake := true })
     let d := stk 400 3 [] (fun h => { h with pcs := [(0, { Pc.init with q := [req0 false 0 32] })] })
     c.hbmIs .srEntry = true ∧ c.hbmc.wake = true ∧ d.hbmIs .srEntry = true ∧ d.hbmc.wake = false ∧ d.hbmc.held = [] ∧ (∃ e ∈ d.hbmc.pcs, e.2.q ≠ [])) ∧
    (∀ x ∈ [100, 101], let c := stk 400 2 [] id
     c.hPart (x * 2 ^ 26) = 2 ∧ c.hbmIs .active = true ∧ (stk 400 4 [] id).hbmIs .selfRefresh = true ∧ (stk 400 4 [(Fd.CHP_RUN_STS_STATE, 2)] id).runIs .running = true) := by decide +kernel
theorem wit_StackServesRequests_issue : (∀ w ∈ [false, true], ∀ a ∈ [(0, 32), (8, 3)], let c := stk 400 2 [] (fun h => { h with pcs := [(0, { Pc.init with q := [req0 w a.1 a.2] })] })
     let o := (if w ∧ a.2 = 32 then none else some 1)
     c.hbmIs .active = true ∧ c.paused 0 = false ∧ c.hPick 0 = some (req0 w a.1 a.2) ∧ (req0 w a.1 a.2).write = w ∧ 0 < (req0 w a.1 a.2).len ∧ hPartial a.1 a.2 = decide (a.2 = 3) ∧ hBad Mems.empty a.1 a.2 = none ∧
     hBad { Mems.empty with ue := [1] } a.1 a.2 = some 1 ∧ (o = none ∨ o = some 1) ∧ Inv (st c)) ∧
    (let m := segM 2
     let c := (stk 400 2 [] id).modBlk 112 (fun b => { b with want := [(5, 1)] })
     (c.blk 112).want.find? (fun v => c.libAddr m v.1 v.2 == c.libAddr m 5 1) = some (5, 1) ∧ 112 < 128 ∧ hreqId (.acq 31) < 160) ∧
    (let r : HReq := { who := 170, addr := 0, len := 32, write := false, data := [], seq := 0, at_ := 400, job := 6 }
     let w : HWork := ⟨6, 170, 8, [], 1, [], false, 0⟩
     let c := stk 400 2 [] (fun h => { h with works := [w], pcs := [(0, { Pc.init with q := [r] })] })
     c.hPick 0 = some r ∧ c.hbmc.works.find? (fun w => w.id == r.job) = some w ∧ w.who = 170 ∧ w.todo = [] ∧ w.out = 1 ∧ w.tag ≠ 0 ∧ r.write = false ∧ (c.pc 0).q = [r]) := by
  unfold Inv; decide +kernel
theorem wit_StackServesRequests_refresh : (∀ n ∈ [0, 8192], ∀ d ∈ [0, 1, 7, 8], ∀ shut ∈ [false, true], let c := stk 400 2 [(Fd.HBM_STS_TRAIN_PC, 15)] (fun h => { h with pausing := shut, pcs := [(15, { Pc.init with debt := [(31, d)], due := [(31, n)] })] })
     c.hbmIs .active = true ∧ c.paused 15 = shut ∧ Tbl.get (fun _ => 0) (c.pc 15).debt 31 = d ∧ Tbl.get (fun _ => 0) (c.pc 15).due 31 = n ∧ c.now < (c.pc 15).winAt + 32 * 1000 * 500 ∧
     (n = 0 → (c.pc 15).winAt + n * (32 * 1000 * 500) / 8192 ≤ c.now) ∧ (stk (32 * 1000 * 500) 2 [] id).now = 0 + 32 * 1000 * 500 ∧ (stk 400 3 [] id).hbmIs .srEntry = true) ∧
    (let c := stk 400 2 [(Fd.HBM_CFG_SCRUB_EN, 1)] id
     c.hbmIs .active = true ∧ c.get Fd.HBM_CFG_SCRUB_EN = 1 ∧ c.hbmc.scrubX % 8 = 0 ∧ c.hbmc.scrubX < 2 ^ 34 ∧ c.hbmc.pcs = [] ∧ c.hbmc.held = [] ∧ c.paused 0 = false ∧ c.scrubDue ≤ c.now ∧
     ({ c with hbmc := { c.hbmc with held := [req0 false 0 32] } } : Core).hbmc.held ≠ [] ∧ c.hbmHold = false ∧ c.credit (bookKey 6 0 (c.hPc c.hbmc.scrubX)) = true ∧ c.laneOf 11 = none ∧
     Passes 11 1 (st (granted c [(.chip 0, 11)])) ∧ Passes 11 2 (st (granted c [(.chip 0, 11)]))) := by
  unfold Passes; decide +kernel

theorem wit_StackTrainsAndSleeps_train : (let c := stk 4000 2 [(Fd.HBM_TRAIN_CTL_EN, 1), (Fd.HBM_STS_GATHERING, 1), (Fd.HBM_STS_TRAIN_PC, 15)] id
      let d := stk 4000 2 [(Fd.HBM_TRAIN_CTL_EN, 1)] (fun h => { h with nextPc := 15 })
      c.get Fd.HBM_TRAIN_CTL_EN = 1 ∧ c.hbmIs .active = true ∧ c.hbmc.pausing = false ∧ c.hbmc.rateDue = false ∧ c.hbmc.pauses < 4 ∧ c.hbmc.pauseAt ≤ c.now ∧ c.get Fd.HBM_STS_GATHERING = 1 ∧
      c.get Fd.HBM_STS_TRAIN_PC = 15 ∧ d.get Fd.HBM_STS_GATHERING = 0 ∧ d.hbmc.nextPc = 15 ∧ d.hbmIs .active = true ∧ d.hbmc.pauses < 4) ∧
    (∀ d ∈ [false, true], (stk 4000 2 [] (fun h => { h with pausing := true, rateDue := d })).hbmc.pausing = true ∧ (stk 4000 2 [] (fun h => { h with pausing := true, rateDue := d })).hbmc.rateDue = d) ∧
    (∀ f ∈ [0, 1], let c := stk 4000 2 [(Fd.HBM_STS_GATHERING, 1), (Fd.HBM_TRAIN_CTL_MIN_EYE, 9), (Fd.HBM_TRAIN_CTL_FREEZE, f), (Fd.HBM_TRAIN_CTL_MAX_STEP, 4)] (fun h => { h with pauses := 4 })
     c.get Fd.HBM_STS_GATHERING = 1 ∧ c.hbmc.pausing = false ∧ 4 ≤ c.hbmc.pauses ∧ c.cal.jobs = [] ∧ almManual Mems.empty (almHbm 0) = false ∧ 8 < c.get Fd.HBM_TRAIN_CTL_MIN_EYE ∧ ¬ 9 < c.get Fd.HBM_TRAIN_CTL_MIN_EYE ∧ c.get Fd.HBM_TRAIN_CTL_FREEZE = f ∧
     delaysNear (c.get Fd.HBM_TRAIN_CTL_MAX_STEP) 0x40404 (almV Mems.empty (almHbm 0) 0) = true ∧ delaysNear (c.get Fd.HBM_TRAIN_CTL_MAX_STEP) 5 (almV Mems.empty (almHbm 0) 0) = false ∧
     almManual { Mems.empty with alm := wrBytes zeroByte [] (32 * almHbm 0) (List.replicate 16 255) } (almHbm 0) = true ∧ c.almExists (almHbm 0) = true) := by decide +kernel
theorem wit_StackTrainsAndSleeps_rate : (∀ k ∈ [2, 4], let c := stk 4000 k [] id
      c.get Fd.HBM_CFG_RATE = b2n (c.get Fd.HBM_CFG_RATE == 1) ∧ c.get Fd.HBM_CFG_RATE ≠ b2n (c.get Fd.HBM_CFG_RATE == 0) ∧ c.runIs .idle = true ∧ c.hbmc.rateDue = false ∧ c.hbmc.pausing = false ∧
      c.get Fd.HBM_STS_STATE = k) ∧
    (let c := stk 4000 2 [(Fd.CHP_RUN_STS_STATE, 1)] id
     c.runIs .idle = false ∧ c.runIs .parked = false ∧ (stk 4000 2 [] (fun h => { h with pausing := true })).hbmc.pausing = true ∧ (stk 4000 2 [(Fd.CHP_RUN_STS_STATE, 4)] id).runIs .parked = true) ∧
    ((stk 4000 6 [] id).hbmIs .rateChange = true ∧ (stk 4000 6 [] id).cal.jobs = []) ∧
    ((stk 4000 2 [] id).runIs .idle = true ∧ (∀ ch ∈ upFrom 0 32, (stk 4000 2 [] id).acqState ch = 0) ∧ (stk 4000 2 [] id).host.recs = [] ∧ (stk 4000 2 [(Fd.CHP_RUN_STS_STATE, 1)] id).runIs .idle = false ∧ (2 ^ 28 - 1 : Nat) < 2 ^ 28 ∧
      (2 ^ 15 - 1 ≠ (stk 4000 2 [] id).get (Fd.HBM_BANK_XOR_ROWMASK 4)) ∧
      (let v := fun p => (stk 4000 2 [] id).get (Fd.HBM_PART_BASE p) + 2 ^ 8 * ((stk 4000 2 [] id).get (Fd.HBM_PART_SIZE p) - 1)
       ∀ p ∈ [0, 1, 2], v p < 2 ^ 17 ∧ bitsOf (v p) 8 9 ≠ (stk 4000 2 [] id).get (Fd.HBM_PART_SIZE p) ∧
        (let b := fun q => if q = p then bitsOf (v p) 0 8 else (stk 4000 2 [] id).get (Fd.HBM_PART_BASE q)
         let n := fun q => if q = p then bitsOf (v p) 8 9 else (stk 4000 2 [] id).get (Fd.HBM_PART_SIZE q)
         (∀ q, q < 4 → b q + n q ≤ 256 ∧ (q ≠ 0 → 1 ≤ n q)) ∧ ∀ q ∈ List.range 4, ∀ o ∈ List.range 4, q < o → n q = 0 ∨ n o = 0 ∨ b q + n q ≤ b o ∨ b o + n o ≤ b q)) ∧
      bitsOf (2 ^ Fd.HBM_CFG_PC_MODE.lo) Fd.HBM_CFG_PC_MODE.lo 1 ≠ bitsOf 0 Fd.HBM_CFG_PC_MODE.lo 1 ∧ 2 ^ Fd.HBM_CFG_PC_MODE.lo < 2 ^ 28) := by decide +kernel
theorem wit_StackTrainsAndSleeps_sleep : (let v : Word := BitVec.ofNat 32 (1 + 0x80FF0000)
      let c := stk 4000 2 [] id
      bitsOf v.toNat 12 4 = 0 ∧ bitAt v.toNat 0 = true ∧ c.runIs .idle = true ∧ c.host.recs = [] ∧ c.hbmIs .active = true ∧ c.hbmc.pausing = false ∧ c.get Fd.HBM_PWR_CTL_STANDBY = 0 ∧
      (∀ ch ∈ upFrom 0 32, c.acqState ch = 0) ∧ (stk 4000 4 [] id).hbmIs .active = false) ∧
    (let c := stk 4000 4 [(Fd.HBM_PWR_CTL_STANDBY, 1)] id
     bitAt (0#32).toNat 0 = false ∧ c.get Fd.HBM_PWR_CTL_STANDBY = 1 ∧ c.hbmIs .selfRefresh = true ∧ (stk 4000 3 [(Fd.HBM_PWR_CTL_STANDBY, 1)] id).hbmIs .srEntry = true ∧ (stk 4000 3 [(Fd.HBM_PWR_CTL_STANDBY, 1)] id).get Fd.HBM_PWR_CTL_STANDBY = 1) ∧
    (let c := stk 600000 2 [(Fd.HBM_PWR_CTL_AUTO_SR, 1)] id
     c.get Fd.HBM_PWR_CTL_AUTO_SR = 1 ∧ c.hbmIs .active = true ∧ c.hbmc.pcs = [] ∧ c.hbmc.held = [] ∧ c.hbmc.idleAt + max 1 (c.get Fd.HBM_PWR_CTL_IDLE_TIME) * 500 ≤ c.now ∧ c.hbmc.pausing = false ∧ c.hbmc.rateDue = false) ∧
    (let c := stk 600000 2 [(Fd.HBM_PWR_CTL_STANDBY, 1)] (fun h => { h with retry := true })
     c.hbmc.retry = true ∧ c.get Fd.HBM_PWR_CTL_STANDBY = 1 ∧ c.hbmIs .active = true ∧ c.hbmc.pcs = [] ∧ c.hbmc.held = [] ∧ c.hbmc.idleAt + 500 ≤ c.now ∧ c.hbmc.pausing = false) ∧
    ((stk 4000 3 [] id).hbmIs .srEntry = true ∧ (stk 4000 3 [] id).hbmc.pcs = [] ∧ (stk 4000 3 [] (fun h => { h with wake := true })).hbmc.wake = true ∧ (stk 4000 3 [] id).hbmc.wake = false ∧ (stk 4000 3 [] id).hbmc.held = [] ∧
      ∀ b ∈ [false, true], (stk 4000 5 [] (fun h => { h with standby := b, rateDue := b, keep := 0xFF0F })).hbmIs .srExit = true ∧ (stk 4000 5 [] (fun h => { h with standby := b, rateDue := b, keep := 0xFF0F })).hbmc.standby = b ∧
       bitAt (0xFFFF - 0xFF0F) ((stk 4000 5 [] id).hPc 0) = false ∧ bitAt (0xFFFF - 0xFF0F) ((stk 4000 5 [] id).hPc 512) = true) := by decide +kernel
/-- A cycle of each kind of arbiter in tick 4000; two requesters may ask, one of them waits. -/
theorem wit_ArbitersGrantAndAreWatched : ∀ a ∈ ([(.block 0 0, 0, 18), (.region 7, 21, 16), (.chip 3, 11, 7)] : List (Arb × Nat × Nat)), ∀ owner ∈ [none, some 12, some a.2.1],
    let c := { svc 4000 [(Fd.CEL_CFG_ROLE 0, 1)] with arbs := (if a.1 = Arb.chip 3 then [(136, { ArbSt.init with owner := some 8, waits := [(a.2.2, 7990)] }), (137, { ArbSt.init with owner := some 9 }), (138, { ArbSt.init with owner := some 10 })] else []) ++
      [(arbKey a.1, { ArbSt.init with owner := owner, since := 7000, waits := [(a.2.2, 7990)] })] }
    let n := arbFirst a.1 4000 + 1
    c.arbRuns a.1 = true ∧ arbFirst a.1 c.now ≤ n ∧ n < arbFirst a.1 (c.now + 1) ∧ (∀ e ∈ (c.arb (arbMem a.1)).waits, e.1 < arbN a.1) ∧ (c.arb (arbKey a.1)).owner = owner ∧ (c.arb (arbKey a.1)).bound = none ∧
    c.mayAsk a.1 a.2.1 none = true ∧ c.mayAsk a.1 a.2.2 none = true ∧ (a.1 = Arb.chip 3 → ∀ k ∈ [8, 9, 10], c.mayAsk (.chip 3) k none = true) ∧
    (a.1 = Arb.chip 3 → ∀ k ∈ [0, 1, 2], (c.arb (arbKey (.chip k))).owner = some (8 + k)) ∧ (c.arb (arbMem a.1)).waits.find? (fun e => e.1 == a.2.2) = some (a.2.2, 7990) := by decide +kernel
theorem wit_ArbitersGrantAndAreWatched_watched : ∀ a ∈ ([(.block 0 0, 18), (.region 7, 15), (.chip 3, 7)] : List (Arb × Nat)), ∀ beats ∈ [0, 64], ∀ idle ∈ [100, 7990],
    let c := { (slotC (svc 4000 ([(Fd.RGN_ARB_WDOG_EN 7, 1), (Fd.BLK_ARB_WDOG_EN 0 0, 1), (Fd.CHP_ARB_WDOG_EN, 1)] ++ ringL)) (desc .postSpool [(64, 2)])).modBlk 0 (fun k => { k with inbox := [⟨5, 0, []⟩] }) with
      arbs := [(arbKey a.1, { ArbSt.init with owner := some a.2, beats := beats, idle := idle, parts := [(a.2, 1), (a.2 + 32, 1)] }), (136, { ArbSt.init with parts := [(a.2, 1), (a.2 + 32, 1)], waits := [(a.2, idle)] })] }
    let c := cmdC c (fun k => { k with exec := true })
    let n := arbFirst a.1 4000
    c.arbRuns a.1 = true ∧ (c.arb (arbKey a.1)).owner = some a.2 ∧ (beats = 64 → c.arbBurst a.1 a.2 ≤ beats) ∧ (beats = 0 → (c.arb (arbKey a.1)).beats < c.arbBurst a.1 a.2) ∧ (c.arb (arbKey a.1)).next ≤ n ∧
    c.arbArmed a.1 = true ∧ (idle = 100 → (c.arb (arbKey a.1)).idle + c.arbLimit a.1 ≤ c.arbCount a.1 (n + 1)) ∧ (svc 4000 [(Fd.RGN_ARB_WDOG_EN 7, 0), (Fd.BLK_ARB_WDOG_EN 0 0, 0), (Fd.CHP_ARB_WDOG_EN, 0)]).arbArmed a.1 = false ∧
    (idle = 7990 → c.arbCount a.1 (n + 1) < (c.arb (arbKey a.1)).idle + c.arbLimit a.1) ∧
    (a.1 ≠ .chip 3 → (c.arb (arbMem a.1)).parts = [(a.2, 1), (a.2 + 32, 1)]) ∧ (c.arb (arbMem (.chip 3))).parts = [(a.2, 1), (a.2 + 32, 1)] ∧ a.2 < arbN a.1 ∧ a.2 + 32 < 32 * 65 ∧ a.2 < 32 ∧
    (c.ring 0).cmd.any (fun k => k.exec) = true ∧ (portBook a.1 a.2).isSome = true ∧
    (c.arb (arbMem (.chip 3))).waits.find? (fun e => e.1 == a.2) = some (a.2, idle) ∧ (c.arbStarve (.chip 3) ≤ c.arbCount (.chip 3) 9600 - 100 ∧ c.arbCount (.chip 3) 9600 - 9599 < c.arbStarve (.chip 3)) := by decide +kernel
/-- An owner in the chip-drain hold, and a refill engine that writes a line into the ring. -/
theorem wit_ArbitersGrantAndAreWatched_held :
    (let c := { svc 4000 [] with hbmc := { HbmCtl.init with holdD0 := some 3980 }, arbs := [(arbKey (.chip 0), { ArbSt.init with owner := some 8, bound := some 3 })] }
     c.hbmHold = true ∧ ((c.arb (arbKey (.chip 0))).bound.isSome && c.hbmHold) = true ∧ c.arbRuns (.chip 0) = true ∧ c.mayAsk (.chip 0) 9 none = true ∧ c.mayAsk (.chip 0) 8 (some 3) = true) ∧
    (let c := { ((svc 4000 [(Fd.BLK_SEG_CFG_STAGE_LINES 0 0, 4)]).modBlk 0 (fun k => { k with inbox := [⟨5, 0, [7]⟩] })) with arbs := [(arbKey (.block 0 0), { ArbSt.init with owner := some 18 })] }
     c.arbRuns (.block 0 0) = true ∧ c.mayAsk (.block 0 0) 18 none = true ∧ (c.blk 0).inbox = [⟨5, 0, [7]⟩] ∧ c.arbPart (.block 0 0) 18 0 = 0 ∧ (c.arb 0).beats + 2 ≤ c.arbBurst (.block 0 0) 18 ∧
     max (c.arb 0).next (arbFirst (.block 0 0) c.now) + 2 ≤ arbFirst (.block 0 0) (c.now + 1) ∧ 3 < c.get (Fd.BLK_SEG_CFG_STAGE_LINES 0 0) ∧ (c.blk 0).cache = [] ∧ arbKey (.block 0 0) = 0 ∧ Inv (st c)) ∧
    (let c := { svc 4000 [] with hbmc := { HbmCtl.init with holdD0 := some 3900 } }
     c.hbmc.heldCyc = 0 ∧ c.hbmc.holdD0 = some 3900 ∧ arbFirst (.chip 3) (3900 + 32) ≤ 9600) ∧
    ((svc 4000 []).svc = true ∧ (svc 4000 []).thm.shut = false ∧ (svc 4000 []).pins.d3 = false ∧ (svc 4000 []).bOk 0 0 = true ∧ byteMerge ((svc 4000 []).liveW (Fd.BLK_ARB_PRI1 0 0)) 1 (0x2F#32) < 64) := by
  unfold Inv; decide +kernel
/-- Flits at the ends of their ranges. -/
theorem wit_FlitsReadBackAsMade : (127 < 128 ∧ 63 < 64 ∧ 2 ^ 256 - 1 < 2 ^ 256 ∧ ¬ 2 ≤ FlitType.dec.code) ∧ (2 ^ 80 - 1 - 0xF800 < 2 ^ 80 ∧ bitsOf (2 ^ 80 - 1 - 0xF800) 11 5 = 0) ∧
    2 ^ 100 - 1 < 2 ^ 100 ∧ 2 ^ 14 - 1 < 2 ^ 14 ∧ (2 ≤ FlitType.idle.code ∧ 2 ≤ FlitType.link.code ∧ 2 ≤ FlitType.time.code) := by decide +kernel
/-- A flit of R352 written out: a LINK flit, sent at tick 5, that acknowledges 127 with RXMASK 3F, reads back. -/
theorem test_link_flit : flitOk (mkFlit .link 0 5 (127 + 0x3F * 2 ^ 8)) = true ∧ fType (mkFlit .link 0 5 (127 + 0x3F * 2 ^ 8)) = 3 ∧ fStick (mkFlit .link 0 5 (127 + 0x3F * 2 ^ 8)) = 5 ∧
    bitsOf (fLoad (mkFlit .link 0 5 (127 + 0x3F * 2 ^ 8))) 0 7 = 127 := by decide +kernel
/-- Port 3 UP at tick `now`. -/
def upC (now : Nat) (l : List (Fld × Nat)) (x : Port) : Core := { svc now ((Fd.SZL_PORT_STS_STATE 3, 2) :: l) with ports := [(3, x)] }
def txF : TxFlit := ⟨1, 4, 100, 7⟩
def lineL (debt : Nat) (full : Bool) : TxLine := ⟨1, false, 0, debt, full, 0, 0⟩
/-- The neighbour's transmitter, with a seed on each of its lanes, and port 3 UP with its receive lanes at those seeds; an inverted one with its lanes reversed. -/
def farP : Port := { Port.init with lines := (upFrom 0 6).map (fun i => TxLine.init (i + 1)) }
def rxP (inv : Nat) (now : Nat) (x : Port) : Core :=
  upC now ((upFrom 0 6).flatMap (fun i => [(Fd.SZL_LANE_STS_ACTIVE 3 i, 1), (Fd.SZL_LANE_STS_LOGICAL 3 i, if inv = 1 then 5 - i else i), (Fd.SZL_LANE_STS_POL_INV 3 i, inv)]) ++ [(Fd.SZL_PORT_STS_PEER_PORT 3, 2)])
    { x with rx := (upFrom 0 6).map (fun i => RxLine.init ((if inv = 1 then 5 - i else i) + 1)) }
/-- The line bits of a flit at port 3. -/
def wires (inv : Nat) (f : BitVec 288) : List (List Bool) := (unitLines (upFrom 0 6) farP (flitUnits f)).map (atBalls (inv == 1))
/-- The lanes of both sides run together; a stuff bit that repeats the run; markers with either parity. -/
theorem wit_PortsSendAndAcceptFlits_lanes : (let x := TxLine.init 5; let y := RxLine.init 5
      Twin x y ∧ y.bip = x.bip ∧ y.pos = x.pos ∧ (bitsUp 77 48).length = 48 ∧ x.bip < 2 ^ 8) ∧
    (let y : RxLine := { RxLine.init 5 with run := 31, last := true }
     y.run = 31 ∧ true = y.last) ∧
    (∀ inv ∈ [0, 1], let c := rxP inv 112 Port.init; let tx := upFrom 0 6; let x := c.port 3
     c.rxLanes 3 ≠ [] ∧ tx.length = (c.rxLanes 3).length ∧ tx.Nodup ∧ (∀ l ∈ tx, l < farP.lines.length) ∧ x.rx.length = 6 ∧ farP.unitNo % tx.length = x.rxNo % tx.length ∧
     (∀ k, k < tx.length → Twin (farP.lines.getD (tx.getD k 0) (TxLine.init 0)) (x.rx.getD ((c.rxLanes 3).getD k 0) (RxLine.init 0))) ∧ (∀ l, l < 6 → c.get (Fd.SZL_LANE_STS_POL_INV 3 l) = inv)) ∧
    (∀ bip ∈ [0, 0x5A], let c := rxP 0 112 Port.init
     let z := ((c.port 3).rx.getD 5 (RxLine.init 0)).marker (stuffed (TxLine.init 6) (markerBits 2 5 bip)); let am := z.2.1.getD 0
     c.get (Fd.SZL_LANE_STS_ACTIVE 3 5) = 1 ∧ bitsOf am 0 24 = 0x4B3CD2 ∧ bitsOf am 24 3 = c.get (Fd.SZL_LANE_STS_LOGICAL 3 5) ∧ bitsOf am 27 2 = c.get (Fd.SZL_PORT_STS_PEER_PORT 3) ∧
     bitsOf am 30 8 = bip ∧ ((c.port 3).rx.getD 5 (RxLine.init 0)).bip = 0 ∧ bitsOf ((((c.port 3).rx.getD 5 (RxLine.init 0)).marker []).2.1.getD 0) 0 24 ≠ 0x4B3CD2) := by
  unfold Twin; decide +kernel
theorem is_flit {o : Option (BitVec 288)} {f : BitVec 288} (h : o.map BitVec.toNat = some f.toNat) : o = some f := by
  cases o with
  | none => simp at h
  | some g => simp only [Option.map_some, Option.some.injEq] at h; rw [BitVec.eq_of_toNat_eq h]
/-- Flits written out: a decision in time and one too old, a record, a duplicate, one ahead, LINK without and with NAK, TIME without and with an offset, LINK and IDLE in training. -/
def flits : List (BitVec 288) :=
  [0x541E00000000000000000000000000000000000000000000000000000000000000649000#288,
   0xD54500000000000000000000000000000000000000000000000000000000000000059000#288,
   0xB18A00000000000000000000000000000000000000000000000000000000000000009001#288,
   0x660B000000000000000000000000000000000000000000000000000000000000000593F8#288,
   0x863C00000000000000000000000000000000000000000000000000000000000000059008#288,
   0xEC4F00000000000000000000000000000000000000000000000000000000000000009003#288,
   0x2CA200000000000000000000000000000000000000000000000000000000000000849003#288,
   0x57C500000000000000000000000000000000000000000000000000000000000000009002#288,
   0x179600000000000000000000000000000000000000000000000800000000000000009002#288,
   0xF2530000000000000000000000000000000000000000000000000000000000003F7F1403#288,
   0x98BE00000000000000000000000000000000000000000000000000000000000000001404#288]
theorem wit_PortsSendAndAcceptFlits_made : flits = [mkFlit .dec 0 100 100, mkFlit .dec 0 100 5, mkFlit .def_ 0 100 0, mkFlit .dec 127 100 5, mkFlit .dec 1 100 5, mkFlit .link 0 100 0, mkFlit .link 0 100 (128 + 4), mkFlit .time 0 100 0, mkFlit .time 0 100 (2 ^ 67), mkFlit .link 0 5 (127 + 0x3F * 2 ^ 8), mkFlit .idle 0 5 0] := by decide +kernel
/-- They come in over the lanes, over inverted and reversed ones too; one corrupt unit is no flit, and a flit of zeros is none that is good. -/
theorem wit_PortsSendAndAcceptFlits_units (k : Nat) (hk : k ∈ [0, 1, 2, 3, 4]) : ((rxP 0 112 Port.init).rxFlit 3 (wires 0 (flits.getD k 0))).2 = some (flits.getD k 0) := is_flit (by revert k; decide +kernel)
theorem wit_PortsSendAndAcceptFlits_units2 (k : Nat) (hk : k ∈ [5, 6, 7, 8]) : ((rxP 0 112 Port.init).rxFlit 3 (wires 0 (flits.getD k 0))).2 = some (flits.getD k 0) := is_flit (by revert k; decide +kernel)
theorem wit_PortsSendAndAcceptFlits_inverted : ((rxP 1 112 Port.init).rxFlit 3 (wires 1 (flits.getD 5 0))).2 = some (flits.getD 5 0) := is_flit (by decide +kernel)
theorem wit_PortsSendAndAcceptFlits_bad : ((rxP 0 112 Port.init).rxFlit 3 (wires 0 0)).2 = some 0 ∧ flitOk 0 = false ∧ ((rxP 0 112 Port.init).rxFlit 3 []).2 = none ∧ ((rxP 0 112 Port.init).port 3).nakSeq = none :=
  ⟨is_flit (by decide +kernel), by decide +kernel, by decide +kernel, by decide +kernel⟩
theorem wit_PortsSendAndAcceptFlits_send : (let c := upC 113 [] { Port.init with txq := [txF], want := [(1, 9)] }
      (c.port 3).txq.find? (fun f => f.v == 1) = some txF ∧ txF.tick + 12 < c.now) ∧
    ((upC 112 [] Port.init).portIs 3 .up = true ∧ (upC 112 [] Port.init).svc = true) ∧ (∃ y ∈ ((upC 112 [] { Port.init with lines := [lineL 256 true] }).port 3).lines, y.full = true) ∧
    (∀ l ∈ [[], [lineL 5 false]], ((upC 112 [] { Port.init with nakDue := true, lines := l }).port 3).nakDue = true ∧ (∀ y ∈ ((upC 112 [] { Port.init with nakDue := true, lines := l }).port 3).lines, y.full = false)) ∧
    (((upC 112 [] { Port.init with resend := [txF] }).port 3).nakDue = false ∧ ((upC 112 [] { Port.init with resend := [txF] }).port 3).resend = txF :: []) ∧
    (∀ v ∈ [0, 1], let f := { txF with v := v }
     let c := upC 112 [] { Port.init with txq := [f] }
     (c.port 3).nakDue = false ∧ (c.port 3).resend = [] ∧ (c.port 3).replay.length < 96 ∧ c.get Fd.CHP_FAULT_STS_FAULT = 0 ∧ (c.port 3).txq.find? (fun g => g.v == v) = some f ∧ c.now ≤ f.tick + 12 ∧ (c.port 3).linkFirst = false ∧ (∀ y ∈ (c.port 3).lines, y.full = false) ∧
     (v = 1 → (c.port 3).txq.find? (fun g => g.v == 0) = none)) ∧
    (let c := upC 112 [] { Port.init with sinceLink := 32 }
     let d := upC 112 [] { Port.init with lastLink := 112 }
     let e := upC 112 [] { Port.init with lastLink := 112, timeAt := 113 }
     (c.port 3).txq = [] ∧ 32 ≤ (c.port 3).sinceLink ∧ (d.port 3).sinceLink < 32 ∧ d.now < (d.port 3).lastLink + 16 ∧ (d.port 3).timeAt ≤ d.now ∧ e.now < (e.port 3).timeAt ∧
     (∃ y ∈ ((upC 112 [] { Port.init with lastLink := 112, timeAt := 113, lines := [lineL 5 false] }).port 3).lines, 0 < y.debt) ∧ (e.port 3).lines = []) ∧
    ((upC 112 [] { Port.init with nakIn := true }).port 3).nakIn = true ∧ ((upC 112 [] { Port.init with linkFirst := true }).port 3).linkFirst = true ∧
    (upC 112 [(Fd.CHP_FAULT_STS_FAULT, 1)] { Port.init with resend := [txF] }).get Fd.CHP_FAULT_STS_FAULT = 1 := by decide +kernel
theorem wit_PortsSendAndAcceptFlits_accept : flitOk 0 = false ∧ (∀ x ∈ [5, 100], let f := mkFlit .dec 0 100 x
      flitOk f = true ∧ fType f = 0 ∧ fSeq f = Port.init.expSeq ∧ 112 < rebuildSend 112 (fStick f) + 20 ∧ rebuildSend 112 (fStick f) + 20 ≤ 112 + 20 ∧
      (112 < rebuild 112 (fLoad f % 65536) + 22 ↔ x = 100)) ∧
    (let f := mkFlit .def_ 0 100 0
     flitOk f = true ∧ fType f = 1 ∧ (svc 112 []).rOk 0 = true ∧ rebuildSend 130 (fStick f) + 20 ≤ 130) ∧
    (let f := mkFlit .dec 127 100 5
     flitOk f = true ∧ fSeq f ≠ Port.init.expSeq ∧ fSeq (mkFlit .dec 1 100 5) ≠ Port.init.expSeq ∧ (fSeq (mkFlit .dec 1 100 5) + 128 - Port.init.expSeq) % 128 < 64 ∧ 64 ≤ (fSeq f + 128 - Port.init.expSeq) % 128) := by decide +kernel
theorem wit_PortsSendAndAcceptFlits_link : (let f := mkFlit .link 0 100 0
      flitOk f = true ∧ fType f = 3 ∧ bitAt (fLoad f) 7 = false) ∧
    (let f := mkFlit .link 0 100 (128 + 4)
     flitOk f = true ∧ bitAt (fLoad f) 7 = true ∧ Port.init.nakCnt < 3 ∧ ({ Port.init with nakWhich := 5, nakCnt := 3 } : Port).nakWhich = (bitsOf (fLoad f) 0 7 + 1) % 128) ∧
    (∀ b ∈ [0, 2 ^ 67], flitOk (mkFlit .time 0 100 b) = true ∧ fType (mkFlit .time 0 100 b) = 2 ∧ bitAt (fLoad (mkFlit .time 0 100 b)) 67 = (b != 0)) := by decide +kernel
/-- What port 3 hears from port 1 of node 77, over straight or reversed lanes, upright or inverted: good training sets, a marker on every lane, and the flit `f`. -/
def trn (rev inv heard : Bool) (f : BitVec 288) : PortTrain :=
  let lane := fun (l : Nat) => if rev then 5 - l else l
  let ball := fun (t : BitVec 192) => if inv then ~~~t else t
  let far : Port := { Port.init with lines := (upFrom 0 6).map (fun j => (TxLine.init (j + 1)).marker 1 j) }
  { heard := heard, locked := 0x3F, ts1 := (upFrom 0 6).map (fun l => ball (tsWord 1 (lane l) 1 77 0 0)), ts2 := (upFrom 0 6).map (fun l => ball (tsWord 2 (lane l) 1 77 (lane l + 1) 0x3F)),
    ams := (upFrom 0 6).map (fun l => atBalls inv (stuffed (TxLine.init (lane l + 1)) (markerBits 1 (lane l) 0))), link := (unitLines (upFrom 0 6) far (flitUnits f)).map (atBalls inv) }
/-- Training and retraining: the training sets of every lane, which read as they were sent; nothing heard. -/
theorem wit_PortsTrainAndRecover_train : (∀ k ∈ [1, 3], let c := svc 9 [(Fd.SZL_PORT_STS_STATE 3, k)]
      (if k = 1 then c.portIs 3 .training = true else c.portIs 3 .recovery = true) ∧ c.svc = true ∧ (c.port 3).excl = 0 ∧ c.get (Fd.SZL_PORT_CFG_MIN_LANES 3) ≤ 6) ∧
    (∀ rev ∈ [false, true], ∀ inv ∈ [false, true], let tr := trn rev inv true 0
     let bad := fun (l : Nat) => decide (bitsOf (tr.ts1.getD l 0).toNat 0 24 = 0x1CB54E)
     let ts := fun (k l : Nat) => let w := (if k = 1 then tr.ts1 else tr.ts2).getD l 0
       (if bad l then ~~~w else w).toNat
     let ok := fun (k l : Nat) => decide (bitsOf (ts k l) 0 24 = 0xE34AB1) && decide (bitsOf (ts k l) 24 2 = k) && decide (bitsOf (ts k l) 88 8 = tsCrc (ts k l % 2 ^ 88))
     (∀ l ∈ upFrom 0 6, ok 1 l = true ∧ ok 2 l = true ∧ bad l = inv ∧ bitAt tr.locked.toNat l = true ∧ bitsOf (ts 1 l) 26 3 = (if rev then 5 - l else l) ∧ bitsOf (ts 1 l) 29 2 = 1 ∧
       bitsOf (ts 2 l) 48 31 = (if rev then 5 - l else l) + 1 ∧ bitsOf (ts 2 l) 80 6 = 0x3F) ∧ (trn rev inv false 0).heard = false) := by decide +kernel
/-- A marker on every lane, then a LINK flit or another; or no marker. -/
theorem wit_PortsTrainAndRecover_align : ∀ x ∈ [(false, false), (true, true)], ∀ k ∈ [9, 10], let f := flits.getD k 0; let tr := trn x.1 x.2 true f
    let lane := fun (j : Nat) => if x.1 then 5 - j else j
    let start := fun (j : Nat) => TxLine.init (j + 1)
    let far : Port := { Port.init with lines := (upFrom 0 6).map (fun j => (start j).marker 1 j) }
    (∀ j ∈ upFrom 0 6, tr.ams.getD (lane j) [] = atBalls x.2 (stuffed (start j) (markerBits 1 j 0))) ∧ tr.link = (unitLines (upFrom 0 6) far (flitUnits f)).zipIdx.map (fun e => atBalls x.2 e.1) ∧
    flitOk f = true ∧ fType f = k - 6 ∧ ({ tr with ams := [] } : PortTrain).ams.getD (lane 0) [] = [] := by decide +kernel
theorem wit_PortsTrainAndRecover :
    (let c := upC 9 [(Fd.SZL_LANE_STS_ACTIVE 3 5, 1), (Fd.SZL_EQ_LIM_BIP_MAX 3, 1)] { Port.init with markErr := [(5, 2)], eyeLow := [(5, 3)], bipErr := [(5, 8), (5, 9)] }
     c.portIs 3 .up = true ∧ c.get (Fd.SZL_LANE_STS_ACTIVE 3 5) = 1 ∧ 2 ≤ Tbl.get (fun _ => 0) (c.port 3).markErr 5 ∧ 3 ≤ Tbl.get (fun _ => 0) (c.port 3).eyeLow 5 ∧
     c.get (Fd.SZL_EQ_LIM_BIP_MAX 3) < ((c.port 3).bipErr.filter (fun e => e.1 == 5 && decide (c.now < e.2 + 500000))).length) ∧
    (let c := svc 500000000 [(Fd.SZL_PORT_STS_STATE 3, 0), (Fd.SZL_PORT_CFG_EN 3, 1)]
     c.portIs 3 .down = true ∧ c.get (Fd.SZL_PORT_CFG_EN 3) = 1 ∧ (c.port 3).downReq = false ∧ (c.port 3).downAt + max 1 (c.get (Fd.SZL_PORT_CFG_RETRY 3)) * 500000 ≤ c.now ∧
     (c.put (Fd.SZL_PORT_CFG_EN 3) 0).get (Fd.SZL_PORT_CFG_EN 3) = 0) ∧
    (∀ man ∈ [0, 1], ∀ fr ∈ [0, 1], let c := upC 500000000 [(Fd.SZL_LANE_STS_ACTIVE 3 5, 1), (Fd.SZL_EQ_CTL_EN 3, 1), (Fd.SZL_LANE_EQ_MAN 3 5, man), (Fd.SZL_EQ_CTL_FREEZE 3, fr), (Fd.SZL_EQ_LIM_SEE_MIN 3, 4), (Fd.SZL_EQ_LIM_CTLE_MIN 3, 1), (Fd.SZL_EQ_LIM_CTLE_MAX 3, 9)] Port.init
     Tbl.get (fun _ => 0) (c.port 3).eqAt 5 + 2 ^ c.get (Fd.SZL_EQ_CTL_RATE 3) * 5000 ≤ c.now ∧ c.portIs 3 .up = true ∧ c.get (Fd.SZL_LANE_STS_ACTIVE 3 5) = 1 ∧ [1, 0, 0, 0, 0, 0].length = 6 ∧ c.svc = true ∧ c.get (Fd.SZL_LANE_EQ_CTLE 3 5) = 8 ∧ (∀ f ∈ (eqFields 3 5).drop 1, c.getS f = 0) ∧ c.get (Fd.SZL_EQ_LIM_CTLE_MIN 3) ≤ 7 ∧
     7 ≤ c.get (Fd.SZL_EQ_LIM_CTLE_MAX 3) ∧ (c.put (Fd.SZL_EQ_CTL_EN 3) 0).get (Fd.SZL_EQ_CTL_EN 3) = 0 ∧ (c.put (Fd.SZL_EQ_LIM_CTLE_MIN 3) 8).get (Fd.SZL_EQ_LIM_CTLE_MIN 3) = 8 ∧
     c.get (Fd.SZL_EQ_CTL_EN 3) = 1 ∧ c.get (Fd.SZL_LANE_EQ_MAN 3 5) = man ∧ c.get (Fd.SZL_EQ_CTL_FREEZE 3) = fr ∧ 3 < c.get (Fd.SZL_EQ_LIM_SEE_MIN 3) ∧ ¬ 4 < c.get (Fd.SZL_EQ_LIM_SEE_MIN 3)) := by decide +kernel

/-! ### Time port, calibration, thermal -/

/-- In SERVICE with the time port in a state. -/
def tptC (now : Nat) (l : List (Fld × Nat)) (f : Tpt → Tpt) : Core := { svc now l with tpt := f Tpt.init }
/-- Errors of network time submitted in tick 9, at its end: too large, held, in range; before and after the first SET. -/
def corrSt (hold valid : Nat) (x : Int) (wr : Option Nat) : State := st (tptC 9 [(Fd.TPT_STS_HOLD, hold), (Fd.TPT_STS_NT_VALID, valid)] (fun t => { t with corrs := [x], driftWr := wr, off := 5 * 2 ^ 32 }))
theorem wit_NetworkTimeIsServoed : ((svc 9 []).svc = true ∧ (svc 9 []).running = true ∧ (svc 9 []).tpt.driftAt ≠ some 9 ∧ (tptC 9 [] (fun x => { x with driftAt := some 9 })).tpt.driftAt = some 9 ∧
      (tptC 9 [] (fun x => { x with offLog := [(7, 0)] })).tpt.offLog.all (fun e => decide (e.1 ≤ 9)) = true) ∧
    ((svc 9 []).get Fd.TPT_SERVO_CTL_EN = 1 ∧ (svc 9 [(Fd.TPT_SERVO_CTL_EN, 0)]).get Fd.TPT_SERVO_CTL_EN = 0 ∧ (svc 9 [(Fd.TPT_STS_HOLD, 1)]).get Fd.TPT_STS_HOLD = 1 ∧
      (svc 9 []).get Fd.TPT_STS_HOLD = 0 ∧ (svc 9 []).thm.shut = false ∧ (svc 9 []).pins.d3 = false) ∧
    (∀ hold ∈ [0, 1], ∀ valid ∈ [0, 1], ∀ x ∈ [(1001 : Int), -1000], ∀ wr ∈ [none, some 9], let s := corrSt hold valid x wr
      s.core.svc = true ∧ s.pending = [] ∧ s.core.running = true ∧ s.core.now + 1 < 2 ^ 64 ∧ s.core.tpt.corrs = [x] ∧ s.core.tpt.stamps = [] ∧ s.core.tpt.offLog = [] ∧ x.natAbs < 2 ^ 31 ∧ s.core.cells = [] ∧
      s.core.acqs = [] ∧ s.core.get Fd.TPT_STS_HOLD = hold ∧ s.core.get Fd.TPT_STS_NT_VALID = valid ∧ (s.core.get Fd.TPT_JUMP_LIMIT < x.natAbs ↔ x = 1001) ∧ s.core.tpt.off = sx 96 (twos 96 s.core.tpt.off)) := by decide +kernel
/-- R382's worked case: OFF 0x17953A10 and one half of 2^32 ns, a held error of 1250 ns accepted. -/
theorem test_accept : out .accept (st (tptC 9 [(Fd.TPT_STS_HOLD, 1), (Fd.TPT_STS_NT_VALID, 1), (Fd.TPT_HELD_HELD, 1250)] (fun x => { x with off := 0x17953A1080000000 * 2 ^ 32 }))) (fun c =>
    c.tpt.off == 0x17953A107FFFFB1E * 2 ^ 32 && c.get Fd.TPT_STS_HOLD == 0) = true := by decide +kernel
def txD (len ts vlan : Nat) : Desc := BitVec.ofNat 512 (ts * 2 + vlan * 4 + len * 2 ^ 128)
/-- Time port link up, one frame of `len` bytes to send and `k` stamps waiting. -/
def txC (len k : Nat) (l : List (Fld × Nat)) : Core :=
  { svc 9 ([(Fd.TPT_CFG_EN, 1), (Fd.TPT_STS_LINK_UP, 1)] ++ l) with tpt := { Tpt.init with txq := [(63, 0, txD len 1 0)], txts := List.replicate k ⟨1, 2, 3, 4, true⟩ } }
theorem wit_FramesAndPulsesAreStamped_tx : (∀ len ∈ [60, 1514], ∀ k ∈ [0, 15, 16], let c := txC len k []
      c.tpt.txq = (63, 0, txD len 1 0) :: [] ∧ c.svc = true ∧ c.get Fd.CHP_BOOT_STS_NO_TIME = 0 ∧ c.get Fd.CHP_FAULT_STS_FAULT = 0 ∧ dField (txD len 1 0) 16 0 11 = len ∧
      dField (txD len 1 0) 0 1 1 = 1 ∧ dField (txD len 1 0) 0 2 1 = 0 ∧ c.get Fd.TPT_STS_LINK_UP = 1 ∧ c.tpt.txts.length = k) ∧
    (dField (txD 59 1 0) 16 0 11 = 59 ∧ dField (txD 1518 0 1) 0 2 1 = 1 ∧ dField (txD 1518 0 1) 16 0 11 = 1518 ∧ (List.replicate 60 (0 : Byte)).length = 60 ∧
      ((txC 60 0 []).put Fd.TPT_STS_LINK_UP 0).get Fd.TPT_STS_LINK_UP = 0 ∧ dField (txD 60 0 0) 0 1 1 = 0 ∧ (txC 60 0 [(Fd.TPT_CFG_TXTS_EV, 1)]).get Fd.TPT_CFG_TXTS_EV = 1) := by decide +kernel
/-- The receive rings of the time port: spool 2 with 4 KiB, ring 5 for the entries. -/
def rxC : Core := { svc 9 (spoolL ++ [(Fd.TPT_CFG_EN, 1), (Fd.TPT_STS_LINK_UP, 1), (Fd.TPT_CFG_RX_SPOOL, 2), (Fd.TPT_CFG_RX_RING, 5), (Fd.CHP_RING_CFG_EN 5, 1), (Fd.CHP_RING_CFG_KIND 5, 6),
  (Fd.CHP_RING_CFG_SIZE_EXP 5, 4)]) with host := { HostIf.init with rings := [(2, { Ring.init with s := 4096 }), (5, { Ring.init with host := 15 })] } }
theorem wit_FramesAndPulsesAreStamped_rx : (let f : List Byte := List.replicate 60 0
      rxC.svc = true ∧ rxC.get Fd.TPT_CFG_EN = 1 ∧ rxC.get Fd.TPT_STS_LINK_UP = 1 ∧ 60 ≤ f.length ∧ f.length ≤ (if tagged f then 1518 else 1514) ∧ rxC.rxWanted f = true ∧
      rxC.devSpool (rxC.get Fd.TPT_CFG_RX_SPOOL) = true ∧ (f.length + 63) / 64 * 64 ≤ (rxC.ring (rxC.get Fd.TPT_CFG_RX_SPOOL)).free ∧ rxC.canWrite (rxC.get Fd.TPT_CFG_RX_RING) .tptRx = true ∧
      (rxC.ring (rxC.get Fd.TPT_CFG_RX_SPOOL)).sNew = none ∧ (rxC.ring (rxC.get Fd.TPT_CFG_RX_SPOOL)).stopped = false ∧ rxC.spoolHeld (rxC.get Fd.TPT_CFG_RX_SPOOL) 33 = false ∧ (svc 9 []).canWrite 5 .tptRx = false ∧ rxC.get (Fd.CHP_RING_CFG_SIZE_EXP (rxC.get Fd.TPT_CFG_RX_RING)) ≤ 16) := by decide +kernel
theorem wit_FramesAndPulsesAreStamped_pps : ((svc 9 []).bar0 Fd.TPT_TXTS_LO = true ∧ (txC 60 1 []).tpt.txts = ⟨1, 2, 3, 4, true⟩ :: [] ∧ (svc 9 []).tpt.txts = [] ∧ State.reset.core.bar0 Fd.TPT_TXTS_LO = false) ∧
    (let c := svc 500000000 [(Fd.TPT_PPS_CFG_OUT_EN, 1), (Fd.TPT_PPS_CFG_OUT_SRC, 1)]
     c.svc = true ∧ c.get Fd.TPT_PPS_CFG_OUT_EN = 1 ∧ c.get Fd.CHP_FAULT_STS_FAULT = 0 ∧ c.get Fd.TPT_PPS_CFG_OUT_SRC = 1 ∧ c.running = true ∧ c.now % 500000000 = 0 ∧ ({ c with now := 1 } : Core).now % 500000000 ≠ 0) ∧
    (let c := tptC 500000000 [(Fd.TPT_PPS_CFG_OUT_EN, 1), (Fd.TPT_PPS_CFG_OUT_SRC, 0), (Fd.TPT_STS_NT_VALID, 1)] id
     let nt := 2 * (c.now : Int) * 2 ^ 32 + c.offAt c.now + c.getS Fd.TPT_PPS_DLY_DELAY * 2 ^ 32
     let d := tptC 500000000 [(Fd.TPT_PPS_CFG_OUT_EN, 1), (Fd.TPT_STS_NT_VALID, 1)] (fun x => { x with jumpAt := some 500000000 })
     c.get Fd.TPT_PPS_CFG_OUT_SRC = 0 ∧ c.get Fd.TPT_STS_NT_VALID = 1 ∧ c.tpt.jumpAt ≠ some c.now ∧ nt ≤ 1 * 1000000000 * 2 ^ 32 ∧ 1 * 1000000000 * 2 ^ 32 < nt + 2 * 2 ^ 32 ∧ (1 : Int) ∉ c.tpt.secs ∧
     d.tpt.jumpAt = some d.now ∧ d.tpt.secs = [] ∧ (d.put Fd.TPT_STS_NT_VALID 0).get Fd.TPT_STS_NT_VALID = 0) ∧
    (∀ drift ∈ [0, 2 ^ 31 - 1], let c := tptC 499999998 [(Fd.TPT_PPS_CFG_OUT_EN, 1), (Fd.TPT_STS_NT_VALID, 1), (Fd.TPT_DRIFT_DRIFT, drift)] (fun x => { x with off := 2 * 2 ^ 32 - 5 })
     let next := 2 * (c.now + 1 : Int) * 2 ^ 32 + c.getS Fd.TPT_PPS_DLY_DELAY * 2 ^ 32
     let new := c.tpt.off + c.getS Fd.TPT_DRIFT_DRIFT
     let sec : Int := 1000000000 * 2 ^ 32
     c.running = true ∧ c.tpt.driftAt ≠ some c.now ∧ (1 : Int) ∉ c.tpt.secs ∧ next + new < 2 * sec ∧ next + c.tpt.off ≤ 1 * sec ∧ (drift ≠ 0 → 1 * sec ≤ next + new ∧ c.tpt.off < new) ∧ (drift = 0 → next + new < 1 * sec ∧ 0 < next)) ∧
    (∀ k ∈ [0, 15, 16], ∀ ev ∈ [0, 1], let c := tptC 600 [(Fd.TPT_CFG_TXTS_EV, ev)] (fun x => { x with stamps := [(4807, ⟨0, 2, 3, 4, true⟩)], txts := List.replicate k ⟨1, 2, 3, 4, true⟩ })
     c.running = true ∧ c.tpt.corrs = [] ∧ c.tpt.stamps = [(4807, ⟨0, 2, 3, 4, true⟩)] ∧ 4807 / 8 ≤ c.now ∧ c.cells = [] ∧ c.acqs = [] ∧ c.tpt.txts.length = k ∧ c.get Fd.TPT_CFG_TXTS_EV = ev) ∧
    (let c := tptC 900 [] (fun x => { x with ppsHigh := true, ppsEnd := 900 * 24 + 7 })
     c.tpt.ppsHigh = true ∧ c.tpt.ppsEnd / 24 ≤ c.now ∧ ({ c with now := 899 } : Core).now < c.tpt.ppsEnd / 24) ∧
    ((svc 9 []).get Fd.TPT_STS_LINK_UP ≠ b2n true ∧ (txC 60 0 []).get Fd.TPT_STS_LINK_UP ≠ b2n false ∧ (svc 9 []).get Fd.CHP_BOOT_STS_NO_TIME = 0) := by decide +kernel
/-- Edges stamp PPS_IN with network time (R387). -/
theorem wit_EdgesOnPpsInAreStamped : (svc 9 []).svc = true ∧ (svc 9 [(Fd.TPT_PPS_CFG_IN_EN, 1)]).get Fd.TPT_PPS_CFG_IN_EN = 1 ∧ (svc 9 []).get Fd.TPT_PPS_CFG_IN_EN = 0 := by decide +kernel
theorem test_pps_in : out (.ppsIn 1) (st (tptC 100 [(Fd.TPT_PPS_CFG_IN_EN, 1)] (fun x => { x with off := 5 * 2 ^ 32 }))) (fun c => c.get Fd.TPT_PPS_IN_NS_NS == 206 && c.get Fd.TPT_PPS_IN_CNT_EDGES == 1) = true := by
  decide +kernel
theorem wit_CollimatorsAndSlicesAreTracked_measure : (let c := svc 9000000 [(Fd.RGN_COLL_CTL_EN 0, 1)]
      let d := { c with cal := { c.cal with jobs := [⟨0, 0x10, 5, 0, [almColl 0 51], false, 4, [], 0, 0, 0, []⟩] } }
      c.svc = true ∧ c.rOk 0 = true ∧ (∀ j ∈ c.cal.jobs, j.kind = 0x10 → almColl 0 51 ∉ j.units) ∧ ((51, 9) : Nat × Nat).2 + (c.collRound 0).1 ≤ c.now ∧ c.get (Fd.RGN_COLL_CTL_EN 0) = 1 ∧ c.cal.measAt = [] ∧ (0 - c.getS (Fd.RGN_COLL_STS_TRACK 0 51)).natAbs ≤ max 1 (c.get (Fd.RGN_COLL_CTL_JUMP 0)) ∧
      ¬ (1536 : Int) ≤ 1535 ∧ ¬ (c.get (Fd.RGN_COLL_CTL_FREEZE 0) = 1 ∨ c.get (Fd.RGN_COLL_TRIM_MAN 0 51) = 1 ∨ almManual Mems.empty (almColl 0 51) = true) ∧
      (c.put (Fd.RGN_COLL_CTL_FREEZE 0) 1).get (Fd.RGN_COLL_CTL_FREEZE 0) = 1 ∧ (c.put (Fd.RGN_COLL_CTL_EN 0) 0).get (Fd.RGN_COLL_CTL_EN 0) = 0 ∧ c.almExists (almColl 0 51) = true ∧
      (∃ j ∈ d.cal.jobs, j.kind = 0x10 ∧ almColl 0 51 ∈ j.units)) := by decide +kernel
theorem wit_CollimatorsAndSlicesAreTracked_step : (let c := drainC 400 [] (fun h => { h with d0 := some 311 })
      (c.shots && !c.parked 0) = true ∧ (c.rgn 0).shot.d0 = some 311 ∧ 311 + 40 ≤ c.now ∧ c.svc = true ∧ c.rOk 0 = true ∧ Tbl.get (fun _ => 0) c.cal.oppAt 0 ≤ 351 ∧
     (∀ rate ∈ [0, 1], ((Tbl.get (fun _ => 0) c.cal.opp 0 + 1) % 16 ^ (c.put (Fd.RGN_COLL_CTL_RATE 0) rate).get (Fd.RGN_COLL_CTL_RATE 0) = 0 ↔ rate = 0))) ∧
    (let c := svc 1000 [(Fd.RGN_MIS_CTL_EN 0, 1), (Fd.RGN_MIS_CTL_RATE 0, 0)]
     let d := { c with adcs := [(3, { AdcSt.init with slices := (upFrom 0 16).map (fun k => (k, { Slice.init with n := 2 ^ 24 })) })] }
     (c.shots && !c.parked 0) = false ∧ c.running = true ∧ c.now % 500 = 0 ∧ d.adcOk 0 3 = true ∧ Tbl.get (fun _ => 0) d.cal.oppAt (64 + 3) ≤ 1000 ∧
     (Tbl.get (fun _ => 0) d.cal.opp (64 + 3) + 1) % 16 ^ d.get (Fd.RGN_MIS_CTL_RATE 0) = 0 ∧ d.get (Fd.RGN_MIS_CTL_EN 0) = 1 ∧ d.get (Fd.RGN_MIS_CTL_FREEZE 0) = 0 ∧ d.get (Fd.RGN_ADC_STS_CAL 0 3) = 0 ∧
     (∀ k ∈ upFrom 0 16, almManual Mems.empty (almMis 3 k) = false ∧ 2 ^ 24 ≤ ((d.adc 3).slice k).n)) ∧
    (let c := svc 600000000 [(Fd.CAL_CTL_BACKUP_EN, 1), (Fd.CAL_CTL_BACKUP_PERIOD, 1)]
     let d := { c with cal := { c.cal with dirty := true } }
     let e := { c with cal := { c.cal with backNow := true } }
     c.svc = true ∧ c.get Fd.CHP_BOOT_STS_NO_HBM = 0 ∧ c.get Fd.HBM_PWR_CTL_STANDBY = 0 ∧ e.cal.backNow = true ∧ d.get Fd.CAL_CTL_BACKUP_EN = 1 ∧ d.cal.dirty = true ∧
     d.cal.backAt + max 1 (d.get Fd.CAL_CTL_BACKUP_PERIOD) * 500000000 ≤ d.now ∧ c.hbmIs .rateChange = false ∧ c.hbmc.works = [] ∧ c.workOf 169 128 = none ∧ c.cal.backNow = false ∧ c.cal.dirty = false) ∧
    (∀ x ∈ ([([], 0), ([(64, 64, none)], 0), ([], 1)] : List (List (Nat × Nat × Option (List Byte)) × Nat)), let w : HWork := ⟨1, 169, 128, x.1, x.2, [], false, 0⟩
     let c := { stk 600000000 2 [] (fun h => { h with works := [w] }) with cal := { Cal.init with backing := some (1, 7) } }
     c.svc = true ∧ c.workOf 169 128 = some w ∧ c.cal.backing = some (1, 7) ∧ w.who = 169 ∧ 128 ≤ w.tag) := by decide +kernel
/-- After fuse loading, with sensor 0 reading `a` and every other one 100. -/
def thmC (l : List (Fld × Nat)) (f : Thm → Thm) : Core := { svc 9 l with thm := f Thm.init, pins := { Pins.init with fuseDone := true } }
theorem wit_ZonesAreJudgedAndThrottled_window : ∀ part ∈ [0x1024, 0x0512], let c := thmC [(Fd.CHP_ID_PART, part)] id
    let small := (c.get Fd.CHP_ID_PART == 0x0512)
    let there := fun (x : Nat) => x < 72 && (!small || x < 32 || 64 ≤ x)
    let counts := List.replicate (if part = 0x0512 then 40 else 72) 5
    small = decide (part = 0x0512) ∧ counts.length = (if small then 40 else 72) ∧ (∀ x ∈ upFrom 0 72, there x → c.get (Fd.THM_TEMP_FAILED x) = 0 ∧ c.get (Fd.THM_TEMP_MASKED x) = 0 ∧
      counts.getD (if part = 0x0512 ∧ 64 ≤ x then x - 32 else x) 0 % 2 ^ 16 = 5 ∧ -80 ≤ sensorTemp Mems.empty x 5 ∧ sensorTemp Mems.empty x 5 ≤ 560 ∧
      c.get (Fd.THM_TEMP_VALID x) = 0 ∧ sensorTemp Mems.empty x 5 < c.shutAt (zoneOf x) ∧ sensorTemp Mems.empty x 5 < 340) ∧
    c.thm.shut = false ∧ c.pins.fuseDone = true ∧ (∀ z ∈ upFrom 0 9, there (8 * z) → ∃ x ∈ zoneSensors z, there x) ∧ ({ c with thm := { c.thm with shut := true } } : Core).thm.shut = true ∧
    (part = 0x0512 → ∀ x ∈ upFrom 32 32, c.get (Fd.THM_TEMP_VALID x) = 0 ∧ c.temp x < 320) ∧ (svc 9 []).pins.fuseDone = false ∧ (svc 9 []).get Fd.CHP_ID_PART ≠ 0x0512 ∧
    (∀ x ∈ upFrom 0 72, (svc 9 []).get (Fd.THM_TEMP_VALID x) = 0 ∧ (svc 9 []).temp x < 320) := by decide +kernel
/-- A 16-bit slope of 0x7FFF for sensor 0: count 800 reads 499 (quarter degrees), above every shutdown threshold and in band. -/
def hotM : Mems := { Mems.empty with alm := wrBytes zeroByte [] (32 * 2 + 20) [0xFF, 0x7F] }
theorem wit_ZonesAreJudgedAndThrottled_shutdown : let c := thmC [] id
    c.get (Fd.THM_TEMP_FAILED 0) = 0 ∧ c.get (Fd.THM_TEMP_MASKED 0) = 0 ∧ c.shutAt (zoneOf 0) ≤ sensorTemp hotM 0 800 ∧ sensorTemp hotM 0 800 ≤ 560 ∧ 340 ≤ sensorTemp hotM 0 800 ∧
    (∀ held ∈ [0, 1], let d := thmC [(zHeld 0, held)] id
     d.get (zHeld (zoneOf 0)) = held ∧ (4 * (max 100 (min 115 (d.get Fd.THM_CTL_SHUT)) - if held = 1 then 8 else 0) : Nat) < sensorTemp hotM 0 800) ∧
    (∀ rel ∈ [false, true], (thmC [] (fun t => { t with shut := true, released := rel })).thm.shut = true ∧ (thmC [] (fun t => { t with shut := true, released := rel })).thm.released = rel) := by decide +kernel
/-- Sensor 0 out of band, every other one at a low reading, throttling inactive, or active with sensor 0 the hottest. -/
theorem wit_ZonesAreJudgedAndThrottled_failed : ∀ st ∈ [0, 2, 3], let c := thmC [(zStep 0, st), (zHotS 0, 0)] id
    let low : Int := ((4 * (max 100 (min 115 (c.get Fd.THM_CTL_SHUT)) - 8) : Nat) : Int)
    560 < sensorTemp hotM 0 2000 ∧ c.thm.shut = false ∧ zoneOf 0 = 0 ∧ c.get (zStep 0) = st ∧ c.get (zHotS 0) = 0 ∧ c.get (zRequest 0) = 0 ∧ c.thm.heldBy = [] ∧ c.rOk 0 = true ∧
    (∀ x ∈ upFrom 1 71, c.get (Fd.THM_TEMP_FAILED x) = 0 ∧ c.get (Fd.THM_TEMP_MASKED x) = 0 ∧ c.get (Fd.THM_TEMP_VALID x) = 0 ∧ sensorTemp hotM x 5 ≤ low ∧ -80 ≤ sensorTemp hotM x 5) := by decide +kernel
theorem wit_ZonesAreJudgedAndThrottled_grace : (∀ z ∈ [0, 8], ∀ hot ∈ [false, true], let c := thmC [(zHeld z, 1)] (fun t => { t with grace := [(z, 0)], hot := [(z, hot)] })
      c.thm.shut = false ∧ (z, 0) ∈ c.thm.grace ∧ c.get (zHeld z) = 1 ∧ Tbl.get (fun _ => false) c.thm.hot z = hot ∧ c.hotRegion.isSome = true) ∧
    (∀ z ∈ [0, 8], ∀ d ∈ [0, 2, 3], let c := thmC [(zStep z, d), (Fd.THM_CTL_PARK_EN, 1), (Fd.THM_CTL_THROT_EN, 1)] (fun t => { t with grace := [(z, 0)], hot := [(z, true)] })
      c.get (zHeld z) = 0 ∧ Tbl.get (fun _ => false) c.thm.hot z = true ∧ c.get (zStep z) = d ∧ c.get Fd.THM_CTL_PARK_EN = 1 ∧ c.get Fd.THM_CTL_THROT_EN = 1 ∧ c.hotRegion.isSome = true ∧ (z < 8 → c.rOk z = true)) ∧
    (∀ low ∈ [false, true], ∀ d ∈ [0, 1], let c := thmC [(zStep 8, d)] (fun t => { t with grace := [(8, 0)], low := [(8, low)], hot := [(8, false)] })
      Tbl.get (fun _ => false) c.thm.hot 8 = false ∧ c.get (zHeld 8) = 0 ∧ Tbl.get (fun _ => true) c.thm.low 8 = low ∧ c.get (zStep 8) = d) := by decide +kernel
theorem wit_ZonesAreJudgedAndThrottled_mask : let c := thmC [(zHeld 8, 1)] (fun t => { t with heldBy := [(8, 71)] })
    let w := byteMerge (c.liveW Fd.THM_MASK2_MASK.off) 1 (0x80#32)
    c.svc = true ∧ c.bar0 Fd.THM_MASK2_MASK.off = true ∧ w < 2 ^ 8 ∧ bitAt w 7 = true ∧ bitAt (c.get Fd.THM_MASK2_MASK) 7 = false ∧ zoneOf (32 * 2 + 7) = 8 ∧ c.get (zHeld 8) = 1 ∧ c.thm.heldBy = [(8, 32 * 2 + 7)] := by decide +kernel
theorem wit_JtagSelectsItsRegisters : ({ Pins.init with straps := { Straps.low with jtagEn := true } } : Pins).straps.jtagEn = true ∧ Pins.init.straps.jtagEn = false ∧ (List.replicate bsrLen false).length = bsrLen ∧ (0xAB#8 : BitVec 8) ≠ 0x00 := by decide
/-- IDCODE of R485: 0x010247AF for part 0x1024 at stepping 0. -/
theorem test_idcode : out .jtagIdcode (st { svc 9 [(Fd.CHP_ID_PART, 0x1024), (Fd.CHP_REV_MAJOR, 0)] with pins := { Pins.init with fuseDone := true } }) (fun c =>
    c.pins.jtagData == (upFrom 0 32).map (fun i => (0x010247AF : Nat).testBit i)) = true := by decide +kernel
theorem wit_SmbusAnswersItsCommands : (svc 9 []).svc = true ∧ State.reset.core.svc = false ∧ (71 < 72 ∧ (svc 9 []).working 71 = true) ∧ (svc 9 ((upFrom 0 72).map (fun x => (Fd.THM_TEMP_FAILED x, 1)))).working 71 = false ∧
    (let c := svc 9 [(Fd.THM_TEMP_TEMP 71, 300)]
     ∀ y ∈ upFrom 0 72, c.temp y < c.temp 71 ∨ c.temp y = c.temp 71 ∧ 71 ≤ y) := by decide +kernel
theorem wit_NothingMovesTheMeridianInService : (match exec .accept (st (svc 9 [])) with | .next _ => true | _ => false) = true ∧ resets .accept = false ∧ (svc 9 []).inStage 2 = false ∧
    (match exec (.syncListenEnd true) (st (staged 2 true)) with | .next _ => true | _ => false) = true ∧ resets (.perst Straps.low) = true := by decide +kernel
theorem wit_TheMeridianIsReadByCapture : (svc 9 []).bar0 0 = true ∧ (svc 9 []).svc = true := by decide +kernel
/-- The check value of the CRC-32 of IEEE 802.3. -/
theorem test_crc32 : crc32 [0x31, 0x32, 0x33, 0x34, 0x35, 0x36, 0x37, 0x38, 0x39] = 0xCBF43926 := by decide +kernel

/-! ### The engine -/

/-- A bundle word with fields (first bit, value). -/
def bw (opa opb : Nat) (l : List (Nat × Nat)) : Nat := opa * 2 ^ 57 + opb * 2 ^ 26 + l.foldl (fun a f => a + f.2 * 2 ^ f.1) 0
/-- Cell 0 (DRIVE) or cell 1 (READOUT) with its engine at bundle 0, which is the word `w`. -/
def engSt (g w : Nat) (l : List (Fld × Nat)) (f : Phx → Phx) : State :=
  { State.reset with mem := { Mems.empty with pmA := wrBytes zeroByte [] (g * 32768) (toLE 8 w) }, core := (run 400 l).modCell g (fun x => { x with phx := f { Phx.clear with on := true } }) }
/-- A group in a port. -/
def grp0 : PGroup := ⟨7, 0xF, 1, 0, [⟨4, 0, 0, 0, 0, 0, 0⟩]⟩
theorem wit_ResultsBecomeVisibleAfterTheirLatency : (Phx.clear.pend = [] ∧ Phx.clear.curA = [] ∧ Phx.clear.pc + 2 < 4096 ∧ Phx.clear.loopEnd 1 = false ∧ Phx.clear.loopEnd 2 = false ∧ Phx.clear.dslots = 0 ∧
      Phx.clear.loopEnd Phx.clear.pc = false) ∧
    (∀ n ∈ [1, 2], let p := { Phx.clear with pc := 9, flags := 0x60, lc := [(0, BitVec.ofNat 32 n), (1, BitVec.ofNat 32 n)], le := [(0, 9), (1, 9)] }
      flLa p.flags 1 = true ∧ p.rLe 1 = p.pc ∧ (p.rLc 1).toNat = n ∧ flLa (p.flags &&& 0x20) 1 = false ∧ flLa (p.flags &&& 0x20) 0 = true ∧ p.rLe 0 = p.pc ∧ (p.rLc 0).toNat = n) := by decide +kernel
theorem wit_ResultsBecomeVisibleAfterTheirLatency_fault : (let s := engSt 0 0 [] (fun p => { p with pc := 2000 })
      .phxNop 0 ∈ engineSlots 0 ∧ EngineOn 0 s ∧ s.core.seqW 0 ≤ (s.core.cell 0).phx.pc) ∧
    (let s := engSt 0 (bw 0 0x3F []) [] id
     EngineOn 0 s ∧ (s.core.cell 0).phx.pc < s.core.seqW 0 ∧ flawAt s.mem 1 0 = none ∧ bundleIllegal (s.core.cell 0).phx (bundle (pmWord s.mem 0 0)) = true) := by unfold EngineOn; decide +kernel
theorem wit_VectorOperationsIssue : ∀ op ∈ [0x00, 0x01, 0x02, 0x03, 0x04, 0x05, 0x06, 0x07, 0x10, 0x11, 0x12, 0x13, 0x14], AtBundle 0 (bundle (bw op 0 [])) (engSt 0 (bw op 0 []) [] id) ∧
    ((engSt 0 (bw op 0 []) [] id).core.cell 0).phx.aDone = false ∧ (bundle (bw op 0 [])).opa = op := by
  unfold AtBundle EngineOn; decide +kernel
theorem wit_ScalarOperationsIssue : ∀ op ∈ [0x00, 0x01, 0x02, 0x03, 0x04, 0x05, 0x06, 0x07, 0x08, 0x09, 0x0A, 0x0B, 0x0C, 0x14, 0x15, 0x16, 0x17, 0x18, 0x30, 0x31],
    AtBundle 0 (bundle (bw 0 op [])) (engSt 0 (bw 0 op []) [] id) ∧ (bundle (bw 0 op [])).opa = 0 ∧ (bundle (bw 0 op [])).opb = op := by
  unfold AtBundle EngineOn; decide +kernel
theorem wit_ScalarOperationsIssue_corners : ∀ x ∈ ([(0x16, 13), (0x16, 14), (0x16, 3), (0x30, 11), (0x30, 12), (0x31, 10), (0x31, 3), (0x31, 11)] : List (Nat × Nat)),
    AtBundle 0 (bundle (bw 0 x.1 [(0, x.2)])) (engSt 0 (bw 0 x.1 [(0, x.2)]) [] id) ∧ (bundle (bw 0 x.1 [(0, x.2)])).bimm = x.2 ∧ (Phx.clear.special 11).isSome = true := by
  unfold AtBundle EngineOn; decide +kernel
theorem wit_LoadsAndStoresUseTheirPointer : ∀ op ∈ [0x10, 0x11, 0x12, 0x13], ∀ a ∈ [0x0FF0, 0x1000, 0x1FF0, 0x2000, 0x1001],
    AtBundle 0 (bundle (bw 0 op [])) (engSt 0 (bw 0 op []) [] (fun p => { p with pR := [(0, BitVec.ofNat 16 a)] })) ∧
    ((((engSt 0 (bw 0 op []) [] (fun p => { p with pR := [(0, BitVec.ofNat 16 a)] })).core.cell 0).phx.rP 0).toNat = a) ∧ flawAt Mems.empty 2 (a / 16) = none ∧ Inv (engSt 0 (bw 0 op []) [] id) := by
  unfold AtBundle EngineOn Inv; decide +kernel
theorem wit_EngineReachesItsPorts : ∀ inl ∈ [0, 1], ∀ op ∈ [0x20, 0x21, 0x22], ∀ g ∈ [0, 1],
    AtBundle g (bundle (bw 0 op [])) (engSt g (bw 0 op []) [(Fd.CEL_CFG_PHX_INLINE g, inl)] (fun p => { p with inPort := [grp0], taken := [grp0] })) ∧
    (engSt g (bw 0 op []) [(Fd.CEL_CFG_PHX_INLINE g, inl)] id).core.get (Fd.CEL_CFG_PHX_INLINE g) = inl ∧ (engSt g 0 [] id).core.role g = g + 1 ∧ ((engSt g 0 [] id).core.cell g).phx.taken = [] := by
  unfold AtBundle EngineOn; decide +kernel
/-- The readout cell with window 4, which its engine's oldest group belongs to. -/
theorem wit_EngineReachesItsPorts_window : let c := (engSt 1 (bw 0 0x21 []) [(Fd.CEL_CFG_PHX_INLINE 1, 1)] (fun p => { p with taken := [grp0] })).core.modCell 1 (fun x => { x with ro := { x.ro with wins := [{ winW with m0 := 900 }] } })
    (c.cell 1).phx.taken = grp0 :: [] ∧ (c.cell 1).ro.wins = [] ++ { winW with m0 := 900 } :: [] ∧ (grp0.metas.head?).map (fun q => q.stamp) = some { winW with m0 := 900 }.id ∧
    c.now ≤ c.winLatch 1 { winW with m0 := 900 } := by decide +kernel
theorem wit_EngineControlAndEvents : (∀ x ∈ ([(0x28, []), (0x29, [(22, 8)]), (0x2A, [(0, 5), (22, 1)]), (0x2D, []), (0x2F, [])] : List (Nat × List (Nat × Nat))), ∀ n ∈ [0, 1],
      AtBundle 0 (bundle (bw 0 x.1 x.2)) (engSt 0 (bw 0 x.1 x.2) [(Fd.CEL_STS_IN_HANDLER 0, n)] (fun p => { p with sR := [(0, BitVec.ofNat 32 n)] })) ∧
      (engSt 0 (bw 0 x.1 x.2) [(Fd.CEL_STS_IN_HANDLER 0, n)] id).core.get (Fd.CEL_STS_IN_HANDLER 0) = n) ∧
    AtBundle 0 (bundle (bw 0 0x2C [])) (engSt 0 (bw 0 0x2C []) [(Fd.CEL_STS_EV_PEND 0, 128)] id) := by
  unfold AtBundle EngineOn; decide +kernel
theorem wit_EngineControlAndEvents_events : (let s := engSt 0 (bw 0 0x2C []) [] id
      EngineOn 0 s ∧ (s.core.cell 0).phx.pc < s.core.seqW 0 ∧ bundleIllegal (s.core.cell 0).phx (bundle (pmWord s.mem 0 0)) = false ∧ (bundle (pmWord s.mem 0 0)).opb = 0x2C ∧ s.core.get (Fd.CEL_STS_EV_PEND 0) = 0) ∧
    (let s := engSt 0 (2 ^ 63) [(Fd.CEL_STS_EV_PEND 0, 128)] (fun p => { p with flags := 0x10 })
     EngineOn 0 s ∧ (s.core.cell 0).phx.pc < s.core.seqW 0 ∧ (bundle (pmWord s.mem 0 0)).ie = true ∧ (s.core.cell 0).phx.flags.getLsbD 4 = true ∧ (s.core.cell 0).phx.dslots = 0 ∧ (s.core.cell 0).phx.aDone = false ∧
     bitAt (s.core.get (Fd.CEL_STS_EV_PEND 0)) 7 = true ∧ (∀ i ∈ upFrom 0 7, bitAt (s.core.get (Fd.CEL_STS_EV_PEND 0)) i = false)) := by unfold EngineOn; decide +kernel
/-- ADD of R80: 0x7FFFFFFF + 1 sets V and N, and not C; written out as a bundle word: OPB 01, BD 3, BA 1, BB 2. -/
theorem test_add_overflow : (match exec (.phxAdd 0) (engSt 0 0x0000000004C48000 [] (fun p => { p with sR := [(1, 0x7FFFFFFF), (2, 1)] })) with
    | .next t => (t.core.cell 0).phx.pend
    | _ => []) = [] ∧
    (match exec (.phxAdd 0) (engSt 0 0x0000000004C48000 [] (fun p => { p with sR := [(1, 0x7FFFFFFF), (2, 1)] })) with
    | .next t => ((t.core.cell 0).phx.rS 3, (t.core.cell 0).phx.flags, (t.core.cell 0).phx.pc)
    | _ => (0, 0, 0)) = (0x80000000, 0b1010, 1) := by decide +kernel
/-- A misaligned LD faults the cell: it is quarantined, with FIRST = 5 (ALIGN) and register bit 3 + 5 set (R89). -/
theorem test_ld_misaligned : out (.phxLd 0) (engSt 0 (bw 0 0x10 []) [] (fun p => { p with pR := [(0, 6)] })) (fun c => c.get (Fd.CEL_STS_STATE 0) == 3 && c.get (Fd.CEL_FAULT_FIRST 0) == 5 && bitAt (c.get (Fd.CEL_FAULT_CAUSE 0)) (3 + 5 - 4)) = true := by
  decide +kernel

end Sys2Proof.Tests
end

section
/-!
The registers of the meridian counter as the host reaches them over BAR0 (R34): what a read answers and captures, and that a write changes nothing.
-/
namespace Sys2Proof.Laws

open Sys2Proof Sys2Proof.Machine

/-! ### Host accesses in SERVICE (R440, R444) -/

/-- In SERVICE BAR0 answers at every offset or at none. -/
theorem bar0_of_service {c : Core} (hb : c.bar0 0 = true) (hs : c.svc = true) (off : Nat) : c.bar0 off = true := by
  simp only [Core.bar0, Bool.and_eq_true] at hb ⊢
  exact ⟨hb.1, by rw [hs]; rfl⟩

/-- In SERVICE no offset of BAR0 is mute. -/
theorem barMute_of_service {c : Core} (hs : c.svc = true) (off : Nat) : c.barMute off = false := by
  simp only [Core.svc, Bool.and_eq_true, Bool.not_eq_true'] at hs
  obtain ⟨⟨-, hf⟩, -⟩ := hs
  simp only [Core.barMute, hf, Bool.and_false, Bool.false_and]

/-- The host reads what is there: the answer of a read that BAR0 accepts. -/
theorem hostRead_answers {c : Core} {off len : Nat} (hb : c.bar0 0 = true) (hs : c.svc = true) (ha : accOk off len = true) :
    c.hostRead off len = ((c.readAll off len).2.noteWords off (accWords off len) false).emit (.readAns (c.readAll off len).1 false) := by
  simp [Core.hostRead, barMute_of_service hs, bar0_of_service hb hs, ha]

/-- A chip register is no unoccupied space. -/
theorem noteWords_occupied (c : Core) (off : Nat) {w : Nat} {row : RegRow} (hw : w < 0x1000000) (h4 : w % 4 = 0) (hr : regAt w = some row) (write : Bool) :
    c.noteWords off [w] write = c := by
  have hn : ¬ aliasBase ≤ w := by unfold aliasBase; omega
  have hd : w / 4 * 4 = w := by omega
  have h : c.unoccupied w = false := by simp [Core.unoccupied, hn, hd, hr]
  simp [Core.noteWords, h]

/-- A read of one whole word answers its four bytes, with what reading the word does. -/
theorem readAll_word (c : Core) {n : Nat} (hn : n % 4 = 0) (hw : accWords n 4 = [n]) :
    c.readAll n 4 = (toLE 4 (c.readEffect n (byteMask n 4 n)).1, (c.readEffect n (byteMask n 4 n)).2) := by
  have h0 : n / 4 * 4 = n := by omega
  have h1 : (n + 1) / 4 * 4 = n := by omega
  have h2 : (n + 1 + 1) / 4 * 4 = n := by omega
  have h3 : (n + 1 + 1 + 1) / 4 * 4 = n := by omega
  have k1 : (n + 1) % 4 = 1 := by omega
  have k2 : (n + 1 + 1) % 4 = 2 := by omega
  have k3 : (n + 1 + 1 + 1) % 4 = 3 := by omega
  simp [Core.readAll, hw, upFrom, toLE, h0, h1, h2, h3, hn, k1, k2, k3, Nat.div_div_eq_div_mul]

/-! ### The words of the meridian counter (R34) -/

/-- `n` is one of the two registers of the meridian counter. -/
def MeridianReg (n : Nat) : Prop := n = Fd.CHP_MERIDIAN_LO ∨ n = Fd.CHP_MERIDIAN_HI

/-- Both registers hold one field, which the hardware alone changes and no read clears. -/
theorem regAt_meridian {n : Nat} (h : MeridianReg n) : regAt n = some ⟨n, 1, 0x4, 1, 0x4, [⟨0, 32, .ro, 0⟩]⟩ := by
  rcases h with rfl | rfl <;> rfl

theorem accWords_meridian {n : Nat} (h : MeridianReg n) : accWords n 4 = [n] := by
  rcases h with rfl | rfl <;> rfl

/-- An access to one of the two is not recorded as one to unoccupied space. -/
theorem noteWords_meridian (c : Core) {n : Nat} (h : MeridianReg n) (write : Bool) : c.noteWords n (accWords n 4) write = c := by
  rw [accWords_meridian h]
  exact noteWords_occupied c n (by rcases h with rfl | rfl <;> decide) (by rcases h with rfl | rfl <;> decide) (regAt_meridian h) write

/-- No bit of the two takes a write. -/
theorem liveWrite_meridian (c : Core) {n : Nat} (h : MeridianReg n) (v mask : Nat) : c.liveWrite n v mask = c := by
  simp [Core.liveWrite, regAt_meridian h, maskOf]

/-- Nothing comes before a write of the two. -/
theorem beforeWrite_meridian (c : Core) {n : Nat} (h : MeridianReg n) : c.beforeWrite n = c := by
  have ho : isOccult n = false := by rcases h with rfl | rfl <;> rfl
  have hw : wdogArbs n = [] := by rcases h with rfl | rfl <;> rfl
  have hd : n ≠ Fd.TPT_DRIFT := by rcases h with rfl | rfl <;> decide
  simp [Core.beforeWrite, ho, hw, hd]

/-- Nothing follows from a write of the two. -/
theorem afterWrite_meridian (c : Core) (m : Mems) {n : Nat} (h : MeridianReg n) : c.afterWrite m n = c := by
  rcases h with rfl | rfl <;> rfl

/-- A word written at one of the two changes nothing. -/
theorem writeWord_meridian (c : Core) (m : Mems) {n : Nat} (h : MeridianReg n) (v mask : Nat) : c.writeWord m n v mask = c := by
  have ha : ¬ aliasBase ≤ n := by rcases h with rfl | rfl <;> decide
  have hx : inMsix n = false := by rcases h with rfl | rfl <;> rfl
  have hw : c.window n = true := by rcases h with rfl | rfl <;> rfl
  have hk : ringKept n = none := by rcases h with rfl | rfl <;> rfl
  have he : eqLane n = none := by rcases h with rfl | rfl <;> rfl
  have hc : n ≠ Fd.HBM_CFG := by rcases h with rfl | rfl <;> decide
  have hp : c.plainWrite m n v mask = c := by
    simp [Core.plainWrite, hk, he, hc, beforeWrite_meridian c h, liveWrite_meridian c h, afterWrite_meridian c m h]
  simp [Core.writeWord, ha, hx, hw, regAt_meridian h, RegRow.isSh, hp]

/-- A host write of one of the two changes nothing. -/
theorem registerWrite_meridian {s : State} (hb : s.core.bar0 0 = true) (hs : s.core.svc = true) {n : Nat} (h : MeridianReg n) (be : BitVec 8) (val : BitVec 64) :
    Gives (.registerWrite n 4 be val) s s.core := by
  have ha : accOk n 4 = true := by rcases h with rfl | rfl <;> rfl
  have hw : (accWords n 4).foldl (fun c w => c.writeWord s.mem w (wordPart n val.toNat w) (enabledMask n 4 be.toNat w)) s.core = s.core := by
    rw [accWords_meridian h]; exact writeWord_meridian _ _ h _ _
  simp only [Gives, exec, execRegisterWrite, State.onCore, barMute_of_service hs, bar0_of_service hb hs, ha, hw, noteWords_meridian _ h]
  rfl

/-- A read of the lower register answers the lower half of the counter and captures the upper half. -/
theorem captureRead_meridian {s : State} (hb : s.core.bar0 0 = true) (hs : s.core.svc = true) :
    Gives (.captureRead Fd.CHP_MERIDIAN_LO 4) s
      ((s.core.capture [(Fd.CHP_MERIDIAN_HI, s.core.now / 2 ^ 32)]).emit (.readAns (toLE 4 (s.core.now % 2 ^ 32)) false)) := by
  have hc : (accWords Fd.CHP_MERIDIAN_LO 4).any captures = true := rfl
  have hr : ∀ mask, s.core.readEffect Fd.CHP_MERIDIAN_LO mask = (s.core.now % 2 ^ 32, s.core.capture [(Fd.CHP_MERIDIAN_HI, s.core.now / 2 ^ 32)]) := fun _ => rfl
  simp only [Gives, exec, execCaptureRead, State.onCore, hc, if_true, hostRead_answers hb hs (rfl : accOk Fd.CHP_MERIDIAN_LO 4 = true),
    noteWords_meridian _ (.inl rfl : MeridianReg Fd.CHP_MERIDIAN_LO), readAll_word s.core rfl (accWords_meridian (.inl rfl)), hr]

/-- A read of the upper register answers what has been captured. -/
theorem readClear_meridian {s : State} (hb : s.core.bar0 0 = true) (hs : s.core.svc = true) :
    Gives (.registerReadClear Fd.CHP_MERIDIAN_HI 4) s
      (s.core.emit (.readAns (toLE 4 (Tbl.get (fun _ => 0) s.core.host.capture Fd.CHP_MERIDIAN_HI)) false)) := by
  have hm : MeridianReg Fd.CHP_MERIDIAN_HI := .inr rfl
  have hc : (accWords Fd.CHP_MERIDIAN_HI 4).any captures = false := rfl
  have hk : ∀ mask, s.core.clearRc Fd.CHP_MERIDIAN_HI mask = s.core := by
    intro mask; simp [Core.clearRc, regAt_meridian hm]
  have hr : ∀ mask, s.core.readEffect Fd.CHP_MERIDIAN_HI mask = (Tbl.get (fun _ => 0) s.core.host.capture Fd.CHP_MERIDIAN_HI, s.core) := by
    intro mask
    rw [Core.readEffect, if_neg (by decide), hk]
    rfl
  simp only [Gives, exec, execRegisterReadClear, State.onCore, hc, Bool.false_eq_true, if_false, hostRead_answers hb hs (rfl : accOk Fd.CHP_MERIDIAN_HI 4 = true),
    noteWords_meridian _ hm, readAll_word s.core rfl (accWords_meridian hm), hr]

/-- Settles O58: the lower half is read from the counter, the upper half from the capture of that read, and neither word takes a write (R34). -/
theorem theMeridianIsReadByCapture : Obligations.TheMeridianIsReadByCapture := by
  refine ⟨rfl, fun s hb hs => ⟨⟨_, captureRead_meridian hb hs, rfl, ?_, ?_, rfl⟩, readClear_meridian hb hs, ?_⟩⟩
  · exact get_insert_same _ _ _ _
  · exact fun o ho => (get_insert _ _ _ _ _).trans (if_neg ho)
  · exact fun be val off h => ⟨_, registerWrite_meridian hb hs h be val, rfl, rfl, keepsRegs_refl _ _, rfl, rfl⟩

end Sys2Proof.Laws
end

section
/-!
The frame of the meridian counter: what every function of the machine and every command does to the counter and to whether it counts (R33). One lemma for each function that answers
a state, in the order of the machine's files, each from the lemmas of the functions it calls; then the commands that set or stop the counter; then every command.
-/
namespace Sys2Proof.Laws

open Sys2Proof Sys2Proof.Machine

/-- The meridian counter, and whether it counts (R33). -/
def clock (c : Core) : Nat × Bool := (c.now, c.running)

theorem clock_eq_iff {c d : Core} : clock d = clock c ↔ d.now = c.now ∧ d.running = c.running := Prod.mk_inj

theorem clock_congr {c d : Core} (hn : d.now = c.now) (hr : d.running = c.running) : clock d = clock c := by
  rw [clock, clock, hn, hr]

theorem clock_with (c : Core) (a02 a03 a04 a05 a06 a07 a08 a09 a10 a11 a12 a13 a14 a15 a16 a17 a18 a19 a20 a21 a22 a23 a24 a25 a26 a27 a28 a29 a30 a31) :
    clock ⟨c.now, c.running, a02, a03, a04, a05, a06, a07, a08, a09, a10, a11, a12, a13, a14, a15, a16, a17, a18, a19, a20, a21, a22, a23, a24, a25, a26, a27, a28, a29,
      a30, a31⟩ = clock c := by
  rw [clock, clock]

theorem clock_ite (p : Prop) [Decidable p] (c d : Core) : clock (if p then c else d) = if p then clock c else clock d := apply_ite _ _ _ _

/-- A fold over steps that leave the clock of the core in their state as it is. -/
theorem clock_foldl_proj {α β : Type} (p : β → Core) {f : β → α → β} (h : ∀ y a, clock (p (f y a)) = clock (p y)) (l : List α) (y : β) :
    clock (p (l.foldl f y)) = clock (p y) := by
  induction l generalizing y with
  | nil => rfl
  | cons a l ih => exact (ih _).trans (h y a)

theorem clock_foldl {α : Type} {f : Core → α → Core} (h : ∀ c a, clock (f c a) = clock c) (l : List α) (c : Core) : clock (l.foldl f c) = clock c :=
  clock_foldl_proj id h l c

theorem clock_foldl_fst {α β : Type} {f : Core × β → α → Core × β} (h : ∀ y a, clock (f y a).1 = clock y.1) (l : List α) (y : Core × β) :
    clock (l.foldl f y).1 = clock y.1 := clock_foldl_proj Prod.fst h l y

theorem clock_foldl_snd {α β : Type} {f : β × Core → α → β × Core} (h : ∀ y a, clock (f y a).2 = clock y.2) (l : List α) (y : β × Core) :
    clock (l.foldl f y).2 = clock y.2 := clock_foldl_proj Prod.snd h l y

/-- The core in `y` has the clock of `c`. A definition of its own, so that a step given as a function is compared as a whole and never evaluated. -/
def SameClock (c : Core) (y : Mems × Core) : Prop := clock y.2 = clock c

theorem sameClock_iff {c : Core} {y : Mems × Core} : SameClock c y ↔ clock y.2 = clock c := by rw [SameClock]

/-- A step that may be refused leaves the clock as it is where it completes. -/
def KeepsClock (s : State) (o : Host.Outcome State Fault Refusal) : Prop := ∀ t, o = .next t → clock t.core = clock s.core

theorem keepsClock_onCore {s : State} {f : Mems → Core → Core} : KeepsClock s (s.onCore f) ↔ clock (f s.mem s.core) = clock s.core :=
  ⟨fun h => h _ rfl, fun h t e => by cases e; exact h⟩

theorem keepsClock_onBoth {s : State} {f : Mems → Core → Mems × Core} : KeepsClock s (s.onBoth f) ↔ clock (f s.mem s.core).2 = clock s.core :=
  ⟨fun h => h _ rfl, fun h t e => by cases e; exact h⟩

section
variable (c : Core) (s : State)

/-! ### The named operations over the state -/

theorem put_clock (x v) : clock (c.put x v) = clock c := clock_congr (put_now_eq ..) (put_running_eq ..)
theorem putS_clock (x v) : clock (c.putS x v) = clock c := by simp only [Core.putS, put_clock]
theorem setOn_clock (x b) : clock (c.setOn x b) = clock c := by simp only [Core.setOn, put_clock]
theorem stick_clock (x b) : clock (c.stick x b) = clock c := clock_congr (stick_now_eq ..) (stick_running_eq ..)
theorem inc_clock (x n) : clock (c.inc x n) = clock c := by simp only [Core.inc, put_clock]
theorem setLiveW_clock (off v) : clock (c.setLiveW off v) = clock c := clock_congr (setLiveW_now_eq ..) (setLiveW_running_eq ..)
theorem setShdW_clock (off v) : clock (c.setShdW off v) = clock c := clock_congr (setShdW_now_eq ..) (setShdW_running_eq ..)
theorem free_clock : clock c.free.2 = clock c := clock_congr (free_now_eq ..) (free_running_eq ..)
theorem written_clock (bad v) : clock (c.written bad v).2 = clock c := by simp only [Core.written, clock_ite, ite_self, apply_ite Prod.snd, free_clock]
theorem setCell_clock (k x) : clock (c.setCell k x) = clock c := clock_congr (setCell_now_eq ..) (setCell_running_eq ..)
theorem modCell_clock (k f) : clock (c.modCell k f) = clock c := by simp only [Core.modCell, setCell_clock]
theorem setBlk_clock (k x) : clock (c.setBlk k x) = clock c := clock_congr (setBlk_now_eq ..) (setBlk_running_eq ..)
theorem modBlk_clock (k f) : clock (c.modBlk k f) = clock c := by simp only [Core.modBlk, setBlk_clock]
theorem setRgn_clock (k x) : clock (c.setRgn k x) = clock c := clock_congr (setRgn_now_eq ..) (setRgn_running_eq ..)
theorem modRgn_clock (k f) : clock (c.modRgn k f) = clock c := by simp only [Core.modRgn, setRgn_clock]
theorem setLane_clock (k x) : clock (c.setLane k x) = clock c := clock_congr (setLane_now_eq ..) (setLane_running_eq ..)
theorem modLane_clock (k f) : clock (c.modLane k f) = clock c := by simp only [Core.modLane, setLane_clock]
theorem setDac_clock (k x) : clock (c.setDac k x) = clock c := clock_congr (setDac_now_eq ..) (setDac_running_eq ..)
theorem modDac_clock (k f) : clock (c.modDac k f) = clock c := by simp only [Core.modDac, setDac_clock]
theorem setBb_clock (k x) : clock (c.setBb k x) = clock c := clock_congr (setBb_now_eq ..) (setBb_running_eq ..)
theorem modBb_clock (k f) : clock (c.modBb k f) = clock c := by simp only [Core.modBb, setBb_clock]
theorem setVec_clock (k x) : clock (c.setVec k x) = clock c := clock_congr (setVec_now_eq ..) (setVec_running_eq ..)
theorem modVec_clock (k f) : clock (c.modVec k f) = clock c := by simp only [Core.modVec, setVec_clock]
theorem setAdc_clock (k x) : clock (c.setAdc k x) = clock c := clock_congr (setAdc_now_eq ..) (setAdc_running_eq ..)
theorem modAdc_clock (k f) : clock (c.modAdc k f) = clock c := by simp only [Core.modAdc, setAdc_clock]
theorem setAcq_clock (k x) : clock (c.setAcq k x) = clock c := clock_congr (setAcq_now_eq ..) (setAcq_running_eq ..)
theorem modAcq_clock (k f) : clock (c.modAcq k f) = clock c := by simp only [Core.modAcq, setAcq_clock]
theorem setBook_clock (k x) : clock (c.setBook k x) = clock c := clock_congr (setBook_now_eq ..) (setBook_running_eq ..)
theorem modBook_clock (k f) : clock (c.modBook k f) = clock c := by simp only [Core.modBook, setBook_clock]
theorem setArb_clock (k x) : clock (c.setArb k x) = clock c := clock_congr (setArb_now_eq ..) (setArb_running_eq ..)
theorem modArb_clock (k f) : clock (c.modArb k f) = clock c := by simp only [Core.modArb, setArb_clock]
theorem setPort_clock (k x) : clock (c.setPort k x) = clock c := clock_congr (setPort_now_eq ..) (setPort_running_eq ..)
theorem modPort_clock (k f) : clock (c.modPort k f) = clock c := by simp only [Core.modPort, setPort_clock]
theorem modRing_clock (n f) : clock (c.modRing n f) = clock c := clock_congr (modRing_now_eq ..) (modRing_running_eq ..)
theorem modPc_clock (pc f) : clock (c.modPc pc f) = clock c := clock_congr (modPc_now_eq ..) (modPc_running_eq ..)
theorem raise_clock (code level index arg0 arg1) : clock (c.raise code level index arg0 arg1) = clock c := clock_congr (raise_now_eq ..) (raise_running_eq ..)
theorem raiseIf_clock (b code level index arg0 arg1) : clock (c.raiseIf b code level index arg0 arg1) = clock c := clock_congr (raiseIf_now_eq ..) (raiseIf_running_eq ..)
theorem emit_clock (o) : clock (c.emit o) = clock c := clock_congr (emit_now_eq ..) (emit_running_eq ..)
theorem enter_clock (x) : clock (c.enter x) = clock c := by simp only [Core.enter, put_clock]
theorem hbmGo_clock (x) : clock (c.hbmGo x) = clock c := by simp only [Core.hbmGo, put_clock]

theorem srArrive_clock : clock c.srArrive.1 = clock c := by
  simp only [Core.srArrive, clock_with, clock_ite, ite_self, apply_ite Prod.fst, inc_clock, put_clock, hbmGo_clock, free_clock]

theorem moveBook_clock (k f) : clock (c.moveBook k f) = clock c := by simp only [Core.moveBook, clock_ite, ite_self, modBook_clock]
theorem bookIssue_clock (k) : clock (c.bookIssue k) = clock c := by simp only [Core.bookIssue, moveBook_clock]
theorem bookReturn_clock (k) : clock (c.bookReturn k) = clock c := by simp only [Core.bookReturn, moveBook_clock]
theorem bookReturnN_clock (k n) : clock (c.bookReturnN k n) = clock c := by simp only [Core.bookReturnN, moveBook_clock]
theorem bookReset_clock (k) : clock (c.bookReset k) = clock c := by simp only [Core.bookReset, modBook_clock]
theorem dropWork_clock (who tag) : clock (c.dropWork who tag) = clock c := clock_congr (dropWork_now_eq ..) (dropWork_running_eq ..)
theorem complete_clock (n st res0 res1) : clock (c.complete n st res0 res1) = clock c := clock_congr (complete_now_eq ..) (complete_running_eq ..)
theorem refuse_clock (n st) : clock (c.refuse n st) = clock c := by simp only [Core.refuse, complete_clock]

/-! ### The ports of the arbiters (R331-R341) -/

theorem noteHold_clock : clock c.noteHold = clock c := by
  unfold Core.noteHold
  split <;> simp only [clock_with, clock_ite, ite_self]

theorem bookPass_clock (k n) : clock (c.bookPass k n) = clock c := by simp only [Core.bookPass, moveBook_clock]
theorem moveBeats_clock (a x t n) : clock (c.moveBeats a x t n).1 = clock c := by simp only [Core.moveBeats, clock_ite, ite_self, apply_ite Prod.fst, modArb_clock]

theorem laneBeats_clock (x t n) : clock (c.laneBeats x t n).1 = clock c := by
  unfold Core.laneBeats
  split
  · rfl
  · split <;> simp only [moveBeats_clock, modArb_clock]

theorem laneTake_clock {α : Type} (x) (l : List α) : clock (c.laneTake x l).1 = clock c := by
  unfold Core.laneTake
  split
  · rfl
  · simp only [moveBeats_clock, modArb_clock]

theorem legBooks_clock (l) : clock (c.legBooks l) = clock c := by
  unfold Core.legBooks
  split <;> simp only [clock_ite, ite_self, bookPass_clock]

theorem goLegs_clock (n l) : clock (c.goLegs n l).1 = clock c := by
  induction l generalizing c with
  | nil => rfl
  | cons l rest ih =>
    unfold Core.goLegs
    cases l <;>
      simp only [apply_ite Prod.fst, clock_ite, ite_self, ih, modRing_clock, legBooks_clock, laneBeats_clock, moveBeats_clock]

theorem arbWaited_clock (a x wait) : clock (c.arbWaited a x wait) = clock c := by
  unfold Core.arbWaited
  split <;> simp only [put_clock, inc_clock]

theorem endWaitOf_clock (a n x) : clock (c.endWaitOf a n x) = clock c := by
  unfold Core.endWaitOf
  split <;> simp only [arbWaited_clock, modArb_clock]

theorem dropAsk_clock (g) : clock (c.dropAsk g) = clock c := by simp only [Core.dropAsk, modArb_clock]

/-! ### What a cell sends and how it is judged (R40-R42, R86, R119) -/

theorem evt_clock (g e) : clock (c.evt g e) = clock c := by simp only [Core.evt, clock_ite, ite_self, put_clock]
theorem modShot_clock (r f) : clock (c.modShot r f) = clock c := by simp only [Core.modShot, modRgn_clock]
theorem late_clock (g) : clock (c.late g) = clock c := by simp only [Core.late, modShot_clock, evt_clock, put_clock]
theorem lateDiscard_clock (g n) : clock (c.lateDiscard g n) = clock c := by simp only [Core.lateDiscard, clock_ite, ite_self, late_clock, inc_clock]
theorem firstEntry_clock (g) : clock (c.firstEntry g) = clock c := by simp only [Core.firstEntry, clock_ite, ite_self, putS_clock]

theorem arrive_clock (g k e) : clock (c.arrive g k e) = clock c := by
  simp only [Core.arrive, clock_ite, ite_self, bookIssue_clock, modLane_clock, modCell_clock, firstEntry_clock, bookReturn_clock, lateDiscard_clock]

theorem sendTick_clock (g smp) : clock (c.sendTick g smp) = clock c := by
  unfold Core.sendTick
  split <;> simp only [clock_ite, ite_self, clock_foldl, implies_true, inc_clock, stick_clock, arrive_clock]

theorem sendMark_clock (g k) : clock (c.sendMark g k) = clock c := by simp only [Core.sendMark, modCell_clock]
theorem lockDenied_clock (g) : clock (c.lockDenied g) = clock c := by simp only [Core.lockDenied, put_clock]

theorem markLanes_clock (g k) : clock (c.markLanes g k) = clock c := by
  unfold Core.markLanes
  dsimp only
  (repeat' split) <;> simp only [clock_foldl, implies_true, modLane_clock, late_clock, lockDenied_clock]

theorem laneSelect_clock (g xn sel) : clock (c.laneSelect g xn sel) = clock c := by
  simp only [Core.laneSelect, clock_ite, ite_self, clock_foldl, implies_true, modCell_clock, lateDiscard_clock, late_clock, lockDenied_clock, modLane_clock]

theorem evalLead_clock (g) : clock (c.evalLead g).1 = clock c := by
  unfold Core.evalLead
  split <;> simp only [clock_ite, ite_self, apply_ite Prod.fst, modCell_clock, putS_clock]

theorem slotBits_clock (g) : clock (c.slotBits g) = clock c := by simp only [Core.slotBits, put_clock]
theorem evtDec_clock (g v) : clock (c.evtDec g v) = clock c := by simp only [Core.evtDec, evt_clock, modCell_clock]
theorem frameEv_clock (g e) : clock (c.frameEv g e) = clock c := by simp only [Core.frameEv, clock_ite, ite_self, modCell_clock, setOn_clock, evt_clock]
theorem setFrame_clock (g x z) : clock (c.setFrame g x z) = clock c := by simp only [Core.setFrame, frameEv_clock]

/-! ### Rings and spools (R271-R278, R299, R300) -/

theorem advIdx_clock (n) : clock (c.advIdx n) = clock c := by simp only [Core.advIdx, clock_ite, ite_self, put_clock, modRing_clock]
theorem unsigned_clock (n) : clock (c.unsigned n) = clock c := by simp only [Core.unsigned, modRing_clock]
theorem putEntry_clock (n bytes) : clock (c.putEntry n bytes) = clock c := by simp only [Core.putEntry, advIdx_clock, unsigned_clock, emit_clock]
theorem ringErr_clock (n cause val) : clock (c.ringErr n cause val) = clock c := by simp only [Core.ringErr, clock_ite, ite_self, put_clock, modRing_clock, raise_clock]
theorem writeBack_clock (n) : clock (c.writeBack n) = clock c := by simp only [Core.writeBack, clock_ite, ite_self, emit_clock, unsigned_clock, modRing_clock]

theorem spoolWrite_clock (n data) : clock (c.spoolWrite n data) = clock c := by
  unfold Core.spoolWrite
  dsimp only
  split <;> simp only [clock_ite, ite_self, clock_foldl, implies_true, emit_clock, modRing_clock, writeBack_clock]

theorem spoolAhead_clock (n k data) : clock (c.spoolAhead n k data) = clock c := by simp only [Core.spoolAhead, clock_foldl, implies_true, emit_clock]
theorem spoolPass_clock (n data) : clock (c.spoolPass n data) = clock c := by simp only [Core.spoolPass, clock_ite, ite_self, spoolWrite_clock, modRing_clock]

/-! ### Acquisition channels (R210-R230) -/

theorem acqGoto_clock (ch st) : clock (c.acqGoto ch st) = clock c := by simp only [Core.acqGoto, put_clock]
theorem acqShowK_clock (ch) : clock (c.acqShowK ch) = clock c := by simp only [Core.acqShowK, put_clock]
theorem acqNoteQ_clock (ch) : clock (c.acqNoteQ ch) = clock c := by simp only [Core.acqNoteQ, clock_ite, ite_self, modAcq_clock]

theorem plateSeal_clock (ch a p0 loss aborted) : clock (c.plateSeal ch a p0 loss aborted).1 = clock c := by
  simp only [Core.plateSeal, clock_with, clock_ite, ite_self, modAcq_clock, stick_clock, inc_clock]

theorem acqMiss_clock (ch) : clock (c.acqMiss ch) = clock c := by simp only [Core.acqMiss, modAcq_clock, inc_clock]
theorem missAll_clock (ch) : clock (c.missAll ch) = clock c := by simp only [Core.missAll, clock_foldl, implies_true, acqMiss_clock, modAcq_clock]

theorem plateEnd_clock (ch loss) : clock (c.plateEnd ch loss) = clock c := by
  unfold Core.plateEnd
  dsimp only
  split <;> simp only [clock_ite, ite_self, plateSeal_clock, modAcq_clock, acqNoteQ_clock, missAll_clock, acqGoto_clock]

theorem sealTail_clock (ch t) : clock (c.sealTail ch t) = clock c := by
  simp only [Core.sealTail, clock_with, clock_ite, ite_self, inc_clock, raise_clock, modAcq_clock, plateSeal_clock]

theorem sealTails_clock (ch) : clock (c.sealTails ch) = clock c := by simp only [Core.sealTails, clock_ite, ite_self, clock_foldl, implies_true, sealTail_clock]
theorem acqAtY_clock (ch y) : clock (c.acqAtY ch y) = clock c := by simp only [Core.acqAtY, modAcq_clock, acqShowK_clock, acqGoto_clock]
theorem acqResume_clock (r) : clock (c.acqResume r) = clock c := by simp only [Core.acqResume, clock_ite, ite_self, clock_foldl, implies_true, acqAtY_clock]
theorem detect_clock (ch d) : clock (c.detect ch d) = clock c := by simp only [Core.detect, clock_ite, ite_self, modAcq_clock]

theorem detectAll_clock (src t sel) : clock (c.detectAll src t sel) = clock c := by
  simp only [Core.detectAll, clock_ite, ite_self, clock_foldl, implies_true, detect_clock]

theorem acqShot_clock (r ts) : clock (c.acqShot r ts) = clock c := by simp only [Core.acqShot, detectAll_clock]
theorem acqVector_clock (r w t) : clock (c.acqVector r w t) = clock c := by simp only [Core.acqVector, detectAll_clock]
theorem acqDecision_clock (g cls t inv) : clock (c.acqDecision g cls t inv) = clock c := by simp only [Core.acqDecision, detectAll_clock]
theorem acqTrigIn_clock (x t rising) : clock (c.acqTrigIn x t rising) = clock c := by simp only [Core.acqTrigIn, detectAll_clock]

theorem acqAccept_clock (ch d) : clock (c.acqAccept ch d) = clock c := by
  simp only [Core.acqAccept, clock_with, clock_ite, ite_self, clock_foldl, implies_true, setAcq_clock, acqGoto_clock, detect_clock]

theorem acqJudge_clock (ch) : clock (c.acqJudge ch) = clock c := by
  unfold Core.acqJudge
  split <;> simp only [clock_ite, ite_self, modAcq_clock, acqAccept_clock, acqMiss_clock]

theorem acqStop_clock (ch st) : clock (c.acqStop ch st) = clock c := by
  unfold Core.acqStop
  dsimp only
  split <;> simp only [clock_foldl, implies_true, acqJudge_clock, acqGoto_clock, modAcq_clock, sealTails_clock]

theorem acqPark_clock (r) : clock (c.acqPark r) = clock c := by simp only [Core.acqPark, clock_ite, ite_self, clock_foldl, implies_true, acqStop_clock]
theorem acqSuspend_clock (r) : clock (c.acqSuspend r) = clock c := by simp only [Core.acqSuspend, clock_ite, ite_self, clock_foldl, implies_true, acqStop_clock]
theorem acqSee_clock (ch s) : clock (c.acqSee ch s) = clock c := by simp only [Core.acqSee, clock_ite, ite_self, modAcq_clock, detect_clock]
theorem tailMeet_clock (ch s t) : clock (c.tailMeet ch s t) = clock c := by simp only [Core.tailMeet, clock_with, clock_ite, ite_self, sealTail_clock, modAcq_clock]

theorem acqFeed_clock (ch k s) : clock (c.acqFeed ch k s) = clock c := by
  unfold Core.acqFeed
  dsimp only
  (repeat' split) <;> simp only [clock_with, clock_ite, ite_self, clock_foldl, implies_true, modAcq_clock, tailMeet_clock, acqSee_clock, setAcq_clock]

theorem acqSource_clock (r src unit input ss) : clock (c.acqSource r src unit input ss) = clock c := by
  simp only [Core.acqSource, clock_with, clock_foldl, implies_true, acqFeed_clock]

theorem armAt_clock (ch u img) : clock (c.armAt ch u img) = clock c := by
  simp only [Core.armAt, clock_foldl, implies_true, modAcq_clock, acqShowK_clock, acqGoto_clock, acqSee_clock]

theorem acqAsk_clock {ch addr len write data d} (h : c.acqAsk ch addr len write data = some d) : clock d = clock c := by
  unfold Core.acqAsk at h
  split at h
  · simp only [Option.ite_none_right_eq_some, Option.some.injEq] at h
    obtain ⟨-, rfl⟩ := h
    simp only [acqNoteQ_clock, modAcq_clock]
  · simp only [Option.ite_none_right_eq_some, Option.some.injEq] at h
    obtain ⟨-, rfl⟩ := h
    exact modAcq_clock ..

theorem acqGot_clock (ch addr data) : clock (c.acqGot ch addr data) = clock c := by simp only [Core.acqGot, acqNoteQ_clock, modAcq_clock]
theorem acqTake_clock (ch n) : clock (c.acqTake ch n) = clock c := by simp only [Core.acqTake, clock_ite, ite_self, acqNoteQ_clock, modAcq_clock]
theorem execArm_clock (ch) : KeepsClock s (execArm ch s) := by simp only [execArm, keepsClock_onCore, clock_ite, ite_self, armAt_clock, put_clock]
theorem execDisarm_clock (ch) : KeepsClock s (execDisarm ch s) := by simp only [execDisarm, keepsClock_onCore, clock_ite, ite_self, acqStop_clock]
theorem execSoftTrig_clock (ch) : KeepsClock s (execSoftTrig ch s) := by simp only [execSoftTrig, keepsClock_onCore, clock_ite, ite_self, detect_clock]
theorem execRateReset_clock (ch) : KeepsClock s (execRateReset ch s) := by simp only [execRateReset, keepsClock_onCore, clock_ite, ite_self, modAcq_clock]
theorem execAcqTrigger_clock (ch) : KeepsClock s (execAcqTrigger ch s) := by simp only [execAcqTrigger, keepsClock_onCore, acqJudge_clock]

theorem execAutoTimeout_clock (ch) : KeepsClock s (execAutoTimeout ch s) := by
  simp only [execAutoTimeout, keepsClock_onCore, clock_ite, ite_self, detect_clock, modAcq_clock]

theorem execPlateClose_clock (ch) : KeepsClock s (execPlateClose ch s) := by
  refine keepsClock_onCore.2 ?_
  split <;> simp only [clock_ite, ite_self, plateEnd_clock]

theorem execAcqReady_clock (ch) : KeepsClock s (execAcqReady ch s) := by
  refine keepsClock_onCore.2 ?_
  dsimp only
  split <;> simp only [clock_ite, ite_self, acqAtY_clock]

theorem execRateCheck_clock (ch) : KeepsClock s (execRateCheck ch s) := by
  simp only [execRateCheck, keepsClock_onCore, clock_ite, ite_self, modAcq_clock, put_clock, acqShowK_clock, raise_clock]

theorem execLoss_clock (ch) : KeepsClock s (execLoss ch s) := by
  refine keepsClock_onCore.2 ?_
  dsimp only
  split <;> simp only [clock_ite, ite_self, raise_clock, inc_clock, plateEnd_clock]

theorem execPlateSpooled_clock (ch) : KeepsClock s (execPlateSpooled ch s) := by
  refine keepsClock_onCore.2 ?_
  dsimp only
  (repeat' split) <;> simp only [spoolPass_clock, spoolWrite_clock, acqTake_clock, modAcq_clock, raiseIf_clock, spoolAhead_clock]

/-! ### The almanac (R391, R405-R408) -/

theorem almTouched_clock : clock c.almTouched = clock c := clock_congr rfl rfl

theorem forceVal_clock (e v) : clock (c.forceVal e v) = clock c := by
  unfold Core.forceVal
  split <;> simp only [clock_with, clock_ite, ite_self]

theorem forceWaits_clock (p) : clock (c.forceWaits p) = clock c := by simp only [Core.forceWaits, clock_foldl, implies_true, forceVal_clock]
theorem gapVals_clock (r) : clock (c.gapVals r) = clock c := by simp only [Core.gapVals, forceWaits_clock]
theorem clearSums_clock (a) : clock (c.clearSums a) = clock c := by simp only [Core.clearSums, modAdc_clock]
theorem setCal_clock (k v) : clock (c.setCal k v) = clock c := by simp only [Core.setCal, clock_ite, ite_self, modAdc_clock, put_clock, clearSums_clock]
theorem calBusy_clock : clock c.calBusy = clock c := by simp only [Core.calBusy, setOn_clock]
theorem monCalStart_clock : clock c.monCalStart = clock c := by simp only [Core.monCalStart, clock_foldl, implies_true, calBusy_clock, put_clock]
theorem monCalDone_clock : clock c.monCalDone = clock c := by simp only [Core.monCalDone, clock_foldl, implies_true, calBusy_clock, put_clock]

theorem calStop_clock : clock c.calStop = clock c := by
  simp only [Core.calStop, clock_with, clock_ite, ite_self, clock_foldl, implies_true, setCal_clock, calBusy_clock, monCalDone_clock]

theorem almAccept_clock (m e v) : clock (almAccept m c e v).2 = clock c := by
  simp only [almAccept, clock_ite, ite_self, apply_ite Prod.snd, almTouched_clock, forceVal_clock]

theorem almRefuse_clock (m e) : clock (almRefuse m c e).2 = clock c := by
  unfold almRefuse
  split <;> simp only [clock_ite, ite_self, apply_ite Prod.snd, put_clock, almTouched_clock, raiseIf_clock]

theorem almResult_clock (m e ok v) : clock (almResult m c e ok v).2 = clock c := by
  simp only [almResult, clock_ite, ite_self, apply_ite Prod.snd, almAccept_clock, almRefuse_clock]

/-! ### The syndrome engine (R194-R205) -/

theorem modSynd_clock (r f) : clock (c.modSynd r f) = clock c := by simp only [Core.modSynd, modRgn_clock]
theorem synBusy_clock (r) : clock (c.synBusy r) = clock c := by simp only [Core.synBusy, setOn_clock]
theorem closeRound_clock (m r d t cut) : clock (c.closeRound m r d t cut).1 = clock c := by simp only [Core.closeRound, clock_ite, ite_self, stick_clock, inc_clock]
theorem synLate_clock (m g l) : clock (c.synLate m g l) = clock c := by simp only [Core.synLate, clock_ite, ite_self, clock_foldl, implies_true, inc_clock]

theorem lookupGroup_clock (m r mode d x) : clock (lookupGroup m r mode d x c).1 = clock c := by
  simp only [lookupGroup, clock_ite, ite_self, apply_ite Prod.fst, inc_clock, put_clock]

theorem cutRound_clock (m r) : clock (c.cutRound m r) = clock c := by
  simp only [Core.cutRound, clock_ite, ite_self, apply_ite Prod.fst, clock_foldl_fst, implies_true, closeRound_clock, synBusy_clock, modSynd_clock]

theorem synPark_clock (m r) : clock (c.synPark m r) = clock c := by simp only [Core.synPark, cutRound_clock, synBusy_clock, modSynd_clock]
theorem queueFlit_clock (p v load) : clock (c.queueFlit p v load) = clock c := by simp only [Core.queueFlit, modPort_clock, bookIssue_clock]

theorem sendExpress_clock (p v load) : clock (c.sendExpress p v load) = clock c := by
  simp only [Core.sendExpress, clock_ite, ite_self, queueFlit_clock, modPort_clock, inc_clock, bookReturn_clock, bookIssue_clock]

theorem flitCredit_clock (p v) : clock (c.flitCredit p v) = clock c := by
  unfold Core.flitCredit
  dsimp only
  split <;> simp only [bookReturn_clock, queueFlit_clock, modPort_clock]

theorem execRoundOpen_clock (r) : KeepsClock s (execRoundOpen r s) := by
  refine keepsClock_onCore.2 ?_
  dsimp only
  split <;> simp only [clock_ite, ite_self, modSynd_clock, inc_clock, synBusy_clock, put_clock, cutRound_clock]

theorem execRoundClose_clock (r) : KeepsClock s (execRoundClose r s) := by
  refine keepsClock_onCore.2 ?_
  split <;> simp only [clock_ite, ite_self, closeRound_clock, modSynd_clock]

theorem execDefectForm_clock (r) : KeepsClock s (execDefectForm r s) := by
  refine keepsClock_onCore.2 ?_
  dsimp only
  split
  · rfl
  · split <;> simp only [clock_ite, ite_self, modSynd_clock, stick_clock, sendExpress_clock]

theorem execDefectImport_clock (p r) : KeepsClock s (execDefectImport p r s) := by
  refine keepsClock_onCore.2 ?_
  dsimp only
  (repeat' split) <;> simp only [modSynd_clock, inc_clock]

theorem execImportDeadline_clock (r) : KeepsClock s (execImportDeadline r s) := by simp only [execImportDeadline, keepsClock_onCore, modSynd_clock]

theorem execGroupLookup_clock (r) : KeepsClock s (execGroupLookup r s) := by
  refine keepsClock_onCore.2 ?_
  (repeat' split) <;> simp only [inc_clock, lookupGroup_clock, modSynd_clock, clock_ite, ite_self]

theorem execToggleSend_clock (r) : KeepsClock s (execToggleSend r s) := by
  refine keepsClock_onCore.2 ?_
  split <;> simp only [clock_ite, ite_self, clock_foldl, implies_true, inc_clock, raiseIf_clock, raise_clock, put_clock, modRgn_clock, modShot_clock, synBusy_clock,
    modSynd_clock]

/-! ### The readout chain (R167-R184) -/

theorem modRo_clock (g f) : clock (c.modRo g f) = clock c := by simp only [Core.modRo, modCell_clock]
theorem setThr_clock (g x t) : clock (c.setThr g x t) = clock c := by simp only [Core.setThr, modRo_clock]

theorem postDecision_clock (m g cls l base valid) : clock (c.postDecision m g cls l base valid) = clock c := by
  simp only [Core.postDecision, clock_with, clock_ite, ite_self, inc_clock, acqDecision_clock, synLate_clock]

theorem deliver_clock (m g w lateWin flush) : clock (c.deliver m g w lateWin flush) = clock c := by
  simp only [Core.deliver, clock_with, clock_ite, ite_self, put_clock, modRo_clock, setThr_clock, inc_clock, stick_clock, evt_clock, postDecision_clock]

theorem flushWins_clock (m g) : clock (c.flushWins m g) = clock c := by simp only [Core.flushWins, clock_foldl, implies_true, deliver_clock]

theorem thrUpdate_clock (m g x man) : clock (c.thrUpdate m g x man).1 = clock c := by
  simp only [Core.thrUpdate, clock_with, clock_ite, ite_self, apply_ite Prod.fst, stick_clock, setThr_clock]

theorem thrReload_clock (m g) : clock (c.thrReload m g) = clock c := by
  simp only [Core.thrReload, clock_ite, ite_self, clock_foldl, implies_true, modRo_clock, setThr_clock]

theorem execDiscriminatorLatch_clock (g) : KeepsClock s (execDiscriminatorLatch g s) := by
  refine keepsClock_onCore.2 ?_
  (repeat' split) <;> simp only [deliver_clock]

/-! ### The supervisors (R89-R93, R150, R446-R451) -/

theorem stopSeries_clock : clock c.stopSeries = clock c := clock_congr rfl rfl
theorem parkCell_clock (g) : clock (c.parkCell g) = clock c := by simp only [Core.parkCell, modCell_clock]
theorem parkAgain_clock (r why) : clock (c.parkAgain r why) = clock c := by simp only [Core.parkAgain, clock_with, put_clock]
theorem showCap_clock : clock c.showCap = clock c := by simp only [Core.showCap, setOn_clock]
theorem seriesEnd_clock : clock c.seriesEnd = clock c := by simp only [Core.seriesEnd, clock_with, clock_foldl, implies_true, complete_clock, enter_clock]
theorem noQuarRun_clock (r) : clock (c.noQuarRun r) = clock c := by simp only [Core.noQuarRun, clock_foldl, implies_true, put_clock]

theorem park_clock (m r why) : clock (c.park m r why) = clock c := by
  simp only [Core.park, clock_with, clock_ite, ite_self, clock_foldl, implies_true, parkAgain_clock, put_clock, inc_clock, modRgn_clock, raise_clock, synPark_clock,
    acqPark_clock, showCap_clock, parkCell_clock, enter_clock, stopSeries_clock, seriesEnd_clock]

theorem breakLocks_clock (g) : clock (c.breakLocks g) = clock c := by simp only [Core.breakLocks, clock_ite, ite_self, clock_foldl, implies_true, modDac_clock]

theorem breakDue_clock (r i) : clock (c.breakDue r i) = clock c := by
  unfold Core.breakDue
  split <;> simp only [clock_ite, ite_self, modDac_clock, put_clock, raise_clock]

theorem stopCell_clock (g) : clock (c.stopCell g) = clock c := by simp only [Core.stopCell, put_clock, modCell_clock, dropAsk_clock, breakLocks_clock, modShot_clock]

theorem quarBlock_clock (m r b why) : clock (c.quarBlock m r b why) = clock c := by
  simp only [Core.quarBlock, clock_ite, ite_self, clock_foldl, implies_true, stopCell_clock, modBlk_clock, modBb_clock, put_clock, inc_clock, raise_clock, park_clock]

theorem faultBits_clock (g codes) : clock (c.faultBits g codes) = clock c := by simp only [Core.faultBits, clock_ite, ite_self, put_clock, modCell_clock]
theorem joinFault_clock (g codes) : clock (c.joinFault g codes) = clock c := by simp only [Core.joinFault, clock_with, faultBits_clock]

theorem faultCell_clock (m g codes) : clock (c.faultCell m g codes) = clock c := by
  simp only [Core.faultCell, clock_ite, ite_self, joinFault_clock, stopCell_clock, faultBits_clock, raise_clock, modCell_clock, inc_clock, quarBlock_clock]

theorem seqFault_clock (m g cause) : clock (c.seqFault m g cause) = clock c := by simp only [Core.seqFault, clock_ite, ite_self, faultCell_clock, put_clock]

theorem unitOf_clock_of {f : Core → Core} (h : ∀ d, clock d = clock c → clock (f d) = clock c) (m g) : clock (c.unitOf m g f) = clock c := by
  unfold Core.unitOf
  simp only [clock_ite, ite_self, h, faultCell_clock, put_clock]

theorem unitOf_clock {f : Core → Core} (h : ∀ c, clock (f c) = clock c) (m g) : clock (c.unitOf m g f) = clock c :=
  unitOf_clock_of c (fun d hd => (h d).trans hd) m g

theorem eccRead_clock (m g k x) : clock (c.eccRead m g k x).1 = clock c := by
  unfold Core.eccRead
  split <;> simp only [clock_ite, ite_self, apply_ite Prod.fst, put_clock, inc_clock, faultCell_clock]

theorem eccReads_clock (m g k x n) : clock (c.eccReads m g k x n).1 = clock c := by simp only [Core.eccReads, clock_foldl_fst, implies_true, eccRead_clock]
theorem eccBytes_clock (m g k a n) : clock (c.eccBytes m g k a n).1 = clock c := by simp only [Core.eccBytes, eccReads_clock]
theorem eccImage_clock (m g o) : clock (c.eccImage m g o).1 = clock c := by simp only [Core.eccImage, eccRead_clock]

theorem abortAll_clock : clock (c.abortAll) = clock c := by
  unfold Core.abortAll
  refine (clock_foldl (fun c n => ?_) _ _).trans ?_
  · split <;> simp only [clock_ite, ite_self, refuse_clock]
  · simp only [clock_with, clock_ite, ite_self, put_clock, calStop_clock]

theorem chipFault_clock (m cause) : clock (c.chipFault m cause) = clock c := by
  simp only [Core.chipFault, clock_with, clock_ite, ite_self, clock_foldl, implies_true, put_clock, enter_clock, park_clock, raise_clock, emit_clock, abortAll_clock]

theorem execQuarReq_clock (g) : KeepsClock s (execQuarReq g s) := by
  simp only [execQuarReq, keepsClock_onCore, clock_ite, ite_self, raise_clock, stopCell_clock, modCell_clock]

theorem execHostEv_clock (g) : KeepsClock s (execHostEv g s) := by simp only [execHostEv, keepsClock_onCore, clock_ite, ite_self, evt_clock]
theorem execPark_clock (r) : KeepsClock s (execPark r s) := by simp only [execPark, keepsClock_onCore, clock_ite, ite_self, park_clock]
theorem execRegionFault_clock (r) : KeepsClock s (execRegionFault r s) := by simp only [execRegionFault, keepsClock_onCore, clock_ite, ite_self, park_clock]
theorem execBlockFault_clock (r b) : KeepsClock s (execBlockFault r b s) := by simp only [execBlockFault, keepsClock_onCore, clock_ite, ite_self, quarBlock_clock]
theorem execChipFault_clock (cause) : KeepsClock s (execChipFault cause s) := by simp only [execChipFault, keepsClock_onCore, clock_ite, ite_self, chipFault_clock]
theorem settleAdcs_clock (r) : clock (c.settleAdcs r) = clock c := by simp only [Core.settleAdcs, clock_foldl, implies_true, modAdc_clock]

theorem execUnpark_clock (r) : KeepsClock s (execUnpark r s) := by
  simp only [execUnpark, keepsClock_onCore, clock_ite, ite_self, raise_clock, put_clock, settleAdcs_clock]

theorem clearBoth_clock (f) : clock (c.clearBoth f) = clock c := clock_congr rfl rfl

theorem disable_clock (u) : clock (c.disable u) = clock c := by
  unfold Core.disable
  split
  · rfl
  · split <;> simp only [put_clock, clearBoth_clock]

theorem dropUps_clock (r) : clock (c.dropUps r) = clock c := clock_congr rfl rfl

theorem execReinitDone_clock (r failed) : KeepsClock s (execReinitDone r failed s) := by
  simp only [execReinitDone, keepsClock_onCore, clock_with, clock_ite, ite_self, clock_foldl, implies_true, put_clock, disable_clock, raise_clock, modCell_clock,
    dropUps_clock, noQuarRun_clock, showCap_clock, modRgn_clock]

theorem execChipUnpark_clock : KeepsClock s (execChipUnpark s) := by simp only [execChipUnpark, keepsClock_onCore, clock_with, clock_ite, ite_self, seriesEnd_clock]

/-! ### The demodulator (R44, R165-R168) -/

theorem toEngine_clock (m g w) : clock (c.toEngine m g w) = clock c := by simp only [Core.toEngine, clock_ite, ite_self, modCell_clock, modRo_clock]

theorem eccWeights_clock (m g w bs) : clock (c.eccWeights m g w bs) = clock c := by
  simp only [Core.eccWeights, clock_ite, ite_self, clock_foldl, implies_true, eccBytes_clock, eccImage_clock]

theorem integrate_clock (m g k bs) : clock (c.integrate m g k bs) = clock c := by
  unfold Core.integrate
  split <;> simp only [modRo_clock, stick_clock, eccWeights_clock, modCell_clock, toEngine_clock]

theorem drainBuf_clock (m g) : clock (c.drainBuf m g) = clock c := by
  unfold Core.drainBuf
  refine (clock_foldl (fun c b => ?_) _ _).trans (modRo_clock ..)
  split <;> simp only [integrate_clock, modRo_clock]

theorem schedFree_clock (g t) : clock (c.schedFree g t) = clock c := by simp only [Core.schedFree, modRo_clock]

/-! ### The sequencer and renderer (R95-R123) -/

theorem applyFx_clock (g sel f) : clock (c.applyFx g sel f) = clock c := by
  unfold Core.applyFx
  split <;> simp only [clock_ite, ite_self, modCell_clock, late_clock, evt_clock, modSynd_clock, frameEv_clock]

theorem effect_clock (g ct k f) : clock (c.effect g ct k f).1 = clock c := by simp only [Core.effect, clock_ite, ite_self, apply_ite Prod.fst, applyFx_clock]
theorem ended_clock (g stamp) : clock (c.ended g stamp) = clock c := by simp only [Core.ended, put_clock, evt_clock, modCell_clock]

theorem settle_clock (g) : clock (c.settle g) = clock c := by
  unfold Core.settle
  dsimp only
  split <;> simp only [clock_ite, ite_self, setCell_clock, put_clock]

theorem finish_clock (g k ct t) : clock (c.finish g k ct t) = clock c := by
  unfold Core.finish
  split <;> simp only [clock_ite, ite_self, effect_clock, modCell_clock]

theorem fixExit_clock (m g t) : clock (c.fixExit m g t).1 = clock c := by simp only [Core.fixExit, put_clock]
theorem stageUsed_clock (r b) : clock (c.stageUsed r b) = clock c := by simp only [Core.stageUsed, put_clock]

theorem freeLine_clock (m g ct t j) : clock (c.freeLine m g ct t j) = clock c := by
  simp only [Core.freeLine, clock_ite, ite_self, modCell_clock, stageUsed_clock, modBlk_clock]

theorem renderTick_clock (m g) : clock (c.renderTick m g).1 = clock c := by
  unfold Core.renderTick
  extract_lets +onlyGivenNames x
  split
  · rfl
  · split
    · rfl
    · split
      · rfl
      · extract_lets +onlyGivenNames j h zero smp
        clear_value smp
        cases smp with
        | none => rfl
        | some vs =>
          extract_lets +onlyGivenNames r
          have hr : clock r.1 = clock c := by
            unfold r
            split
            · split
              · exact eccBytes_clock ..
              · rfl
            · rfl
          clear_value r
          simp only [apply_ite Prod.fst, clock_ite, ite_self, settle_clock, finish_clock, modCell_clock, freeLine_clock, fixExit_clock, hr]

theorem pump_clock (m g n) : clock (Core.pump m g n c) = clock c := by
  induction n generalizing c with
  | zero => exact modCell_clock ..
  | succ n ih =>
    have hr := renderTick_clock (c.modCell g Cell.fillPort) m g
    unfold Core.pump
    dsimp only
    split
    · split
      next e => rw [e] at hr; exact hr.trans (modCell_clock ..)
      next e => rw [e] at hr; exact (ih _).trans (hr.trans (modCell_clock ..))
    · exact modCell_clock ..

theorem feed_clock (m g) : clock (c.feed m g) = clock c := by simp only [Core.feed, pump_clock]

theorem seqRun_clock_of {f : Core → SeqCtx → Nat → Nat → Nat → Core} (h : ∀ d k ct xn w, clock d = clock c → clock (f d k ct xn w) = clock c) (m g op) :
    clock (c.seqRun m g op f) = clock c := by
  refine unitOf_clock_of c (fun d hd => ?_) m g
  split
  · exact hd
  · split
    · exact hd
    · have hr : clock (d.eccRead m g 1 (g * 4096 + (‹SeqCtx›).pc)).1 = clock c := (eccRead_clock d m g _ _).trans hd
      simp only [clock_ite, ite_self, seqFault_clock, h _ _ _ _ _ hr, hr, hd]

theorem seqRun_clock {f : Core → SeqCtx → Nat → Nat → Nat → Core} (h : ∀ c k ct xn w, clock (f c k ct xn w) = clock c) (m g op) :
    clock (c.seqRun m g op f) = clock c :=
  seqRun_clock_of c (fun d k ct xn w hd => (h d k ct xn w).trans hd) m g op

theorem zeroTime_clock {f : Core → SeqCtx → Nat → Nat → Nat → Core × SeqCtx} (h : ∀ c k ct xn w, clock (f c k ct xn w).1 = clock c) (m g op) :
    clock (c.zeroTime m g op f) = clock c := by
  refine seqRun_clock _ (fun c k ct xn w => ?_) m g op
  simp only [clock_ite, ite_self, seqFault_clock, feed_clock, settle_clock, modCell_clock, h]

theorem pathOnly_clock (m g op f) : clock (c.pathOnly m g op f) = clock c := by simp only [Core.pathOnly, implies_true, zeroTime_clock]
theorem fxOnly_clock (m g op f) : clock (c.fxOnly m g op f) = clock c := by simp only [Core.fxOnly, implies_true, zeroTime_clock, effect_clock]
theorem beginTimed_clock (m g k t) : clock (c.beginTimed m g k t) = clock c := by simp only [Core.beginTimed, feed_clock, modCell_clock]
theorem execSeqNop_clock (g) : KeepsClock s (execSeqNop g s) := by simp only [execSeqNop, keepsClock_onCore, pathOnly_clock]

theorem execSeqPlay_clock (g) : KeepsClock s (execSeqPlay g s) := by
  simp only [execSeqPlay, keepsClock_onCore, clock_ite, ite_self, implies_true, seqRun_clock, eccImage_clock, beginTimed_clock]

theorem execSeqGap_clock (g) : KeepsClock s (execSeqGap g s) := by simp only [execSeqGap, keepsClock_onCore, implies_true, seqRun_clock, beginTimed_clock]

theorem execSeqMeasure_clock (g) : KeepsClock s (execSeqMeasure g s) := by
  simp only [execSeqMeasure, keepsClock_onCore, implies_true, seqRun_clock, modRo_clock, beginTimed_clock]

theorem enterWait_clock (g w0) : clock (c.enterWait g w0) = clock c := by simp only [Core.enterWait, clock_ite, ite_self, put_clock, modRo_clock]

theorem execSeqWait_clock (g) : KeepsClock s (execSeqWait g s) := by
  simp only [execSeqWait, keepsClock_onCore, clock_ite, ite_self, implies_true, seqRun_clock, modCell_clock, sendMark_clock, feed_clock, settle_clock, enterWait_clock]

theorem execSeqJmp_clock (g) : KeepsClock s (execSeqJmp g s) := by simp only [execSeqJmp, keepsClock_onCore, pathOnly_clock]
theorem execSeqLoop_clock (g) : KeepsClock s (execSeqLoop g s) := by simp only [execSeqLoop, keepsClock_onCore, pathOnly_clock]

theorem execSeqEndl_clock (g) : KeepsClock s (execSeqEndl g s) := by
  refine keepsClock_onCore.2 (seqRun_clock_of _ (fun d k _ _ w hd => ?_) ..)
  split
  · exact (seqFault_clock ..).trans hd
  · split
    · exact (seqFault_clock ..).trans hd
    · exact pathOnly_clock ..

theorem execSeqSignal_clock (g) : KeepsClock s (execSeqSignal g s) := by simp only [execSeqSignal, keepsClock_onCore, fxOnly_clock]

theorem execSeqEnd_clock (g) : KeepsClock s (execSeqEnd g s) := by
  simp only [execSeqEnd, keepsClock_onCore, clock_ite, ite_self, implies_true, zeroTime_clock, modCell_clock, sendMark_clock, ended_clock]

theorem execSeqSetf_clock (g) : KeepsClock s (execSeqSetf g s) := by simp only [execSeqSetf, keepsClock_onCore, pathOnly_clock]
theorem execSeqSetp_clock (g) : KeepsClock s (execSeqSetp g s) := by simp only [execSeqSetp, keepsClock_onCore, pathOnly_clock]
theorem execSeqAddp_clock (g) : KeepsClock s (execSeqAddp g s) := by simp only [execSeqAddp, keepsClock_onCore, pathOnly_clock]
theorem execSeqSeta_clock (g) : KeepsClock s (execSeqSeta g s) := by simp only [execSeqSeta, keepsClock_onCore, pathOnly_clock]
theorem lockMark_clock (m g op kind) : clock (c.lockMark m g op kind) = clock c := by simp only [Core.lockMark, implies_true, zeroTime_clock, sendMark_clock]
theorem execSeqLock_clock (g) : KeepsClock s (execSeqLock g s) := by simp only [execSeqLock, keepsClock_onCore, lockMark_clock]
theorem execSeqUnlock_clock (g) : KeepsClock s (execSeqUnlock g s) := by simp only [execSeqUnlock, keepsClock_onCore, lockMark_clock]
theorem execSeqMtag_clock (g) : KeepsClock s (execSeqMtag g s) := by simp only [execSeqMtag, keepsClock_onCore, pathOnly_clock]
theorem execSeqSround_clock (g) : KeepsClock s (execSeqSround g s) := by simp only [execSeqSround, keepsClock_onCore, fxOnly_clock]
theorem execSeqFrame_clock (g) : KeepsClock s (execSeqFrame g s) := by simp only [execSeqFrame, keepsClock_onCore, fxOnly_clock]

/-! ### What brings data to the renderer and takes a path on (R40-R43, R99-R105, R119) -/

theorem dropPassed_clock (m r b) : clock (c.dropPassed m r b) = clock c := by simp only [Core.dropPassed, stageUsed_clock, modBlk_clock]

theorem stagePlace_clock {m r b y} (h : c.stagePlace m r b = some y) : clock y.2 = clock c := by
  unfold Core.stagePlace at h
  dsimp only at h
  split at h
  · cases h; rfl
  · obtain ⟨l, -, rfl⟩ := Option.map_eq_some_iff.1 h
    exact modBlk_clock ..

theorem stagePut_clock (m r b segid line data) : clock (c.stagePut m r b segid line data).2.1 = clock c := by
  unfold Core.stagePut
  split
  next => rfl
  next e => simp only [stageUsed_clock, bookPass_clock, modBlk_clock, stagePlace_clock c e]

theorem askLine_clock (r b segid line) : clock (c.askLine r b segid line) = clock c := by simp only [Core.askLine, clock_ite, ite_self, modBlk_clock]

theorem refillGot_clock (m r b addr data ok) : clock (c.refillGot m r b addr data ok) = clock c := by
  unfold Core.refillGot
  split <;> simp only [modBlk_clock]

theorem execSeqPrefetch_clock (g) : KeepsClock s (execSeqPrefetch g s) := by
  simp only [execSeqPrefetch, keepsClock_onCore, clock_ite, ite_self, clock_foldl, implies_true, zeroTime_clock, eccImage_clock, askLine_clock]

theorem missLine_clock (m g segid line) : clock (c.missLine m g segid line) = clock c := by
  simp only [Core.missLine, clock_ite, ite_self, inc_clock, modArb_clock, askLine_clock]

theorem takeLine_clock (m g segid line p q) : clock (takeLine m c g segid line p q).2 = clock c := by
  simp only [takeLine, modBlk_clock, bookPass_clock, modCell_clock, feed_clock]

theorem execStageLineArrival_clock (g segid line) : KeepsClock s (execStageLineArrival g segid line s) := by
  refine keepsClock_onBoth.2 ?_
  dsimp only
  (repeat' split) <;> simp only [missLine_clock, moveBeats_clock, takeLine_clock]

theorem execUnderrun_clock (g) : KeepsClock s (execUnderrun g s) := by
  refine keepsClock_onCore.2 ?_
  (repeat' split) <;> simp only [modCell_clock, inc_clock, put_clock, feed_clock, modShot_clock, clock_ite, ite_self]

theorem postGranule_clock (m g) : clock (c.postGranule m g) = clock c := by
  unfold Core.postGranule
  dsimp only
  (repeat' split) <;> simp only [fixExit_clock, modRo_clock, firstEntry_clock, finish_clock, modCell_clock, drainBuf_clock, settle_clock]

theorem execQueueEntryArrival_clock (g) : KeepsClock s (execQueueEntryArrival g s) := by
  have hr := renderTick_clock s.core s.mem g
  refine keepsClock_onCore.2 ?_
  simp only [clock_ite, ite_self, postGranule_clock, schedFree_clock, feed_clock, modCell_clock, sendTick_clock, setCell_clock]
  iterate 3
    split
    · rfl
  split
  · split
    next e => rwa [e] at hr
    next e => rw [e] at hr; exact (sendTick_clock ..).trans hr
  · rfl

theorem execMarkerArrival_clock (g) : KeepsClock s (execMarkerArrival g s) := by
  refine keepsClock_onCore.2 ?_
  dsimp only
  split <;> simp only [clock_ite, ite_self, modCell_clock, ended_clock, markLanes_clock]

theorem runFx_clock (g l) : clock (c.runFx g l) = clock c := by simp only [Core.runFx, clock_foldl, implies_true, applyFx_clock]

theorem takeExit_clock (m g b sel) : clock (c.takeExit m g b sel) = clock c := by
  unfold Core.takeExit
  dsimp only
  (repeat' split) <;> simp only [modCell_clock, laneSelect_clock, runFx_clock, put_clock, ended_clock, enterWait_clock, feed_clock, drainBuf_clock, dropPassed_clock]

theorem execExitSelect_clock (g) : KeepsClock s (execExitSelect g s) := by
  refine keepsClock_onCore.2 ?_
  dsimp only
  split <;> simp only [clock_ite, ite_self, eccImage_clock, slotBits_clock, modCell_clock, takeExit_clock, inc_clock, put_clock]

theorem endWait_clock (m g t b pc) : clock (c.endWait m g t b pc) = clock c := by
  simp only [Core.endWait, clock_ite, ite_self, firstEntry_clock, modRo_clock, modCell_clock, sendMark_clock, feed_clock, evt_clock, put_clock]

theorem execWaitHolds_clock (g) : KeepsClock s (execWaitHolds g s) := by
  refine keepsClock_onCore.2 ?_
  dsimp only
  split
  · rfl
  · split <;> simp only [clock_ite, ite_self, endWait_clock]

theorem execWaitExpiry_clock (g) : KeepsClock s (execWaitExpiry g s) := by
  refine keepsClock_onCore.2 ?_
  dsimp only
  split <;> simp only [clock_ite, ite_self, evtDec_clock, inc_clock, put_clock, endWait_clock]

theorem execSignalPost_clock (g) : KeepsClock s (execSignalPost g s) := by
  refine keepsClock_onCore.2 ?_
  dsimp only
  split <;> simp only [clock_with, clock_ite, ite_self, modCell_clock]

/-! ### The engine's pipeline (R71-R88) -/

theorem setPhx_clock (g p aov) : clock (c.setPhx g p aov) = clock c := by simp only [Core.setPhx, stick_clock, modCell_clock]
theorem refuseBundle_clock (m g b) : clock (c.refuseBundle m g b) = clock c := by simp only [Core.refuseBundle, faultCell_clock, put_clock]

theorem phxFetch_clock {k : Core → Bndl → Core} (h : ∀ c b, clock (k c b) = clock c) (m g) : clock (c.phxFetch m g k) = clock c := by
  refine unitOf_clock _ (fun c => ?_) m g
  simp only [clock_ite, ite_self, apply_ite Prod.fst, faultCell_clock, eccRead_clock, refuseBundle_clock, h]

theorem slotA_clock (m g op lat f) : clock (c.slotA m g op lat f) = clock c := by
  simp only [Core.slotA, clock_ite, ite_self, implies_true, phxFetch_clock, stick_clock, modCell_clock]

theorem slotB_clock {after : Core → Bndl → Core} (h : ∀ c b, clock (after c b) = clock c) (m g op f) : clock (c.slotB m g op f after) = clock c := by
  refine phxFetch_clock _ (fun c b => ?_) m g
  simp only [clock_ite, ite_self, faultCell_clock, put_clock, setPhx_clock, h]

theorem slotBRes_clock (m g op lat f) : clock (c.slotBRes m g op lat f) = clock c := by simp only [Core.slotBRes, implies_true, slotB_clock]
theorem load_clock (m g op n f) : clock (c.load m g op n f) = clock c := by simp only [Core.load, implies_true, slotB_clock, eccRead_clock]
theorem storeOp_clock (m g op n f) : clock (storeOp m c g op n f).2 = clock c := by simp only [storeOp, implies_true, slotB_clock]

theorem pushOut_clock (m g lanes) : clock (c.pushOut m g lanes) = clock c := by
  unfold Core.pushOut
  dsimp only
  split <;> simp only [clock_ite, ite_self, modCell_clock, modRo_clock, feed_clock]

theorem outOp_clock (m g op f) : clock (c.outOp m g op f) = clock c := by simp only [Core.outOp, implies_true, slotB_clock, pushOut_clock, stick_clock]
theorem execEventTake_clock (g) : KeepsClock s (execEventTake g s) := by simp only [execEventTake, keepsClock_onCore, clock_ite, ite_self, put_clock, setPhx_clock]

/-! ### The operations of the engine (R71-R88) -/

theorem execPhxNopa_clock (g) : KeepsClock s (execPhxNopa g s) := by simp only [execPhxNopa, keepsClock_onCore, slotA_clock]
theorem execPhxVmov_clock (g) : KeepsClock s (execPhxVmov g s) := by simp only [execPhxVmov, keepsClock_onCore, slotA_clock]
theorem execPhxVadd_clock (g) : KeepsClock s (execPhxVadd g s) := by simp only [execPhxVadd, keepsClock_onCore, slotA_clock]
theorem execPhxVsub_clock (g) : KeepsClock s (execPhxVsub g s) := by simp only [execPhxVsub, keepsClock_onCore, slotA_clock]
theorem execPhxVcmul_clock (g) : KeepsClock s (execPhxVcmul g s) := by simp only [execPhxVcmul, keepsClock_onCore, slotA_clock]
theorem execPhxVconj_clock (g) : KeepsClock s (execPhxVconj g s) := by simp only [execPhxVconj, keepsClock_onCore, slotA_clock]
theorem execPhxValn_clock (g) : KeepsClock s (execPhxValn g s) := by simp only [execPhxValn, keepsClock_onCore, slotA_clock]
theorem execPhxVbcst_clock (g) : KeepsClock s (execPhxVbcst g s) := by simp only [execPhxVbcst, keepsClock_onCore, slotA_clock]
theorem execPhxMacz_clock (g) : KeepsClock s (execPhxMacz g s) := by simp only [execPhxMacz, keepsClock_onCore, slotA_clock]
theorem execPhxMac_clock (g) : KeepsClock s (execPhxMac g s) := by simp only [execPhxMac, keepsClock_onCore, slotA_clock]
theorem execPhxMacc_clock (g) : KeepsClock s (execPhxMacc g s) := by simp only [execPhxMacc, keepsClock_onCore, slotA_clock]
theorem execPhxMsub_clock (g) : KeepsClock s (execPhxMsub g s) := by simp only [execPhxMsub, keepsClock_onCore, slotA_clock]
theorem execPhxMova_clock (g) : KeepsClock s (execPhxMova g s) := by simp only [execPhxMova, keepsClock_onCore, slotA_clock]
theorem execPhxNop_clock (g) : KeepsClock s (execPhxNop g s) := by simp only [execPhxNop, keepsClock_onCore, slotBRes_clock]
theorem execPhxAdd_clock (g) : KeepsClock s (execPhxAdd g s) := by simp only [execPhxAdd, keepsClock_onCore, slotBRes_clock]
theorem execPhxSub_clock (g) : KeepsClock s (execPhxSub g s) := by simp only [execPhxSub, keepsClock_onCore, slotBRes_clock]
theorem execPhxAnd_clock (g) : KeepsClock s (execPhxAnd g s) := by simp only [execPhxAnd, keepsClock_onCore, slotBRes_clock]
theorem execPhxOr_clock (g) : KeepsClock s (execPhxOr g s) := by simp only [execPhxOr, keepsClock_onCore, slotBRes_clock]
theorem execPhxXor_clock (g) : KeepsClock s (execPhxXor g s) := by simp only [execPhxXor, keepsClock_onCore, slotBRes_clock]
theorem execPhxShl_clock (g) : KeepsClock s (execPhxShl g s) := by simp only [execPhxShl, keepsClock_onCore, slotBRes_clock]
theorem execPhxShr_clock (g) : KeepsClock s (execPhxShr g s) := by simp only [execPhxShr, keepsClock_onCore, slotBRes_clock]
theorem execPhxSar_clock (g) : KeepsClock s (execPhxSar g s) := by simp only [execPhxSar, keepsClock_onCore, slotBRes_clock]
theorem execPhxMul_clock (g) : KeepsClock s (execPhxMul g s) := by simp only [execPhxMul, keepsClock_onCore, slotBRes_clock]
theorem execPhxLi_clock (g) : KeepsClock s (execPhxLi g s) := by simp only [execPhxLi, keepsClock_onCore, slotBRes_clock]
theorem execPhxLui_clock (g) : KeepsClock s (execPhxLui g s) := by simp only [execPhxLui, keepsClock_onCore, slotBRes_clock]
theorem execPhxAddi_clock (g) : KeepsClock s (execPhxAddi g s) := by simp only [execPhxAddi, keepsClock_onCore, slotBRes_clock]
theorem execPhxMovp_clock (g) : KeepsClock s (execPhxMovp g s) := by simp only [execPhxMovp, keepsClock_onCore, slotBRes_clock]
theorem execPhxMovm_clock (g) : KeepsClock s (execPhxMovm g s) := by simp only [execPhxMovm, keepsClock_onCore, slotBRes_clock]
theorem execPhxVget_clock (g) : KeepsClock s (execPhxVget g s) := by simp only [execPhxVget, keepsClock_onCore, slotBRes_clock]
theorem execPhxVput_clock (g) : KeepsClock s (execPhxVput g s) := by simp only [execPhxVput, keepsClock_onCore, slotBRes_clock]
theorem execPhxSetl_clock (g) : KeepsClock s (execPhxSetl g s) := by simp only [execPhxSetl, keepsClock_onCore, implies_true, slotB_clock]
theorem execPhxMovxRead_clock (g) : KeepsClock s (execPhxMovxRead g s) := by simp only [execPhxMovxRead, keepsClock_onCore, implies_true, slotB_clock]
theorem execPhxMovxWrite_clock (g) : KeepsClock s (execPhxMovxWrite g s) := by simp only [execPhxMovxWrite, keepsClock_onCore, implies_true, slotB_clock]
theorem execPhxLd_clock (g) : KeepsClock s (execPhxLd g s) := by simp only [execPhxLd, keepsClock_onCore, load_clock]
theorem execPhxLdv_clock (g) : KeepsClock s (execPhxLdv g s) := by simp only [execPhxLdv, keepsClock_onCore, load_clock]
theorem execPhxSt_clock (g) : KeepsClock s (execPhxSt g s) := by simp only [execPhxSt, keepsClock_onBoth, storeOp_clock]
theorem execPhxStv_clock (g) : KeepsClock s (execPhxStv g s) := by simp only [execPhxStv, keepsClock_onBoth, storeOp_clock]
theorem execPhxIn_clock (g) : KeepsClock s (execPhxIn g s) := by simp only [execPhxIn, keepsClock_onCore, implies_true, slotB_clock, feed_clock, modCell_clock]
theorem execPhxOut_clock (g) : KeepsClock s (execPhxOut g s) := by simp only [execPhxOut, keepsClock_onCore, outOp_clock]
theorem execPhxOuta_clock (g) : KeepsClock s (execPhxOuta g s) := by simp only [execPhxOuta, keepsClock_onCore, outOp_clock]
theorem execPhxJmp_clock (g) : KeepsClock s (execPhxJmp g s) := by simp only [execPhxJmp, keepsClock_onCore, implies_true, slotB_clock]
theorem execPhxBr_clock (g) : KeepsClock s (execPhxBr g s) := by simp only [execPhxBr, keepsClock_onCore, implies_true, slotB_clock]
theorem execPhxLoop_clock (g) : KeepsClock s (execPhxLoop g s) := by simp only [execPhxLoop, keepsClock_onCore, implies_true, slotB_clock]

theorem execPhxWaite_clock (g) : KeepsClock s (execPhxWaite g s) := by
  simp only [execPhxWaite, keepsClock_onCore, clock_ite, ite_self, implies_true, put_clock, slotB_clock]

theorem execPhxRete_clock (g) : KeepsClock s (execPhxRete g s) := by simp only [execPhxRete, keepsClock_onCore, implies_true, slotB_clock, put_clock, setPhx_clock]
theorem execPhxHalt_clock (g) : KeepsClock s (execPhxHalt g s) := by simp only [execPhxHalt, keepsClock_onCore, implies_true, slotB_clock, put_clock]

/-! ### The decision fabric and its pins (R111-R113, R186-R193, R240-R243) -/

theorem execWatchSlotFill_clock (g x) : KeepsClock s (execWatchSlotFill g x s) := by
  refine keepsClock_onCore.2 ?_
  dsimp only
  split
  · rfl
  · split <;> simp only [stick_clock, modCell_clock, evtDec_clock, slotBits_clock, eccImage_clock]

theorem execDecisionFlitSend_clock (p) : KeepsClock s (execDecisionFlitSend p s) := by
  refine keepsClock_onCore.2 ?_
  split
  · rfl
  · dsimp only
    split <;> simp only [clock_with, sendExpress_clock]

theorem execDecisionFlitDeliver_clock (p) : KeepsClock s (execDecisionFlitDeliver p s) := by
  refine keepsClock_onCore.2 ?_
  split <;> simp only [clock_with, clock_ite, ite_self, clock_foldl, implies_true, modPort_clock]

theorem frameAct_clock (g) : clock (c.frameAct g) = clock c := by
  simp only [Core.frameAct, clock_ite, ite_self, clock_foldl, implies_true, modCell_clock, modRgn_clock, frameEv_clock, inc_clock]

theorem execFrameWriteTick_clock (g) : KeepsClock s (execFrameWriteTick g s) := by
  simp only [execFrameWriteTick, keepsClock_onCore, clock_ite, ite_self, frameAct_clock]

theorem vecRest_clock (r w) : clock (c.vecRest r w) = clock c := by simp only [Core.vecRest, modVec_clock]

theorem execCompareRunPost_clock (v) : KeepsClock s (execCompareRunPost v s) := by
  refine keepsClock_onCore.2 ?_
  split <;> simp only [clock_with, clock_ite, ite_self, modVec_clock, inc_clock]

theorem execVectorStrobe_clock (v mv) : KeepsClock s (execVectorStrobe v mv s) := by
  refine keepsClock_onCore.2 ?_
  split <;> simp only [clock_ite, ite_self, modVec_clock, put_clock, inc_clock, acqVector_clock]

theorem trigShot_clock : clock c.trigShot = clock c := clock_congr rfl rfl

theorem trigEdge_clock (x k level) : clock (c.trigEdge x k level) = clock c := by
  simp only [Core.trigEdge, clock_with, clock_ite, ite_self, inc_clock, put_clock, acqTrigIn_clock, trigShot_clock]

theorem execTrigInEdge_clock (x level k) : KeepsClock s (execTrigInEdge x level k s) := by
  simp only [execTrigInEdge, keepsClock_onCore, clock_with, clock_ite, ite_self, put_clock, inc_clock, trigEdge_clock]

theorem execTrigOutStart_clock (x) : KeepsClock s (execTrigOutStart x s) := by simp only [execTrigOutStart, keepsClock_onCore, clock_with, clock_ite, ite_self]

theorem execTrigOutEnd_clock (x) : KeepsClock s (execTrigOutEnd x s) := by
  refine keepsClock_onCore.2 ?_
  split <;> simp only [clock_with, clock_ite, ite_self]

/-! ### Timed release (R134-R150, R236-R246) -/

theorem relLane_clock (k) : clock (c.relLane k).1 = clock c := by
  simp only [Core.relLane, clock_ite, ite_self, bookReturnN_clock, setLane_clock, late_clock, inc_clock, stick_clock]

theorem unlock_clock (r i g implicit) : clock (c.unlock r i g implicit) = clock c := by simp only [Core.unlock, put_clock, stick_clock]

theorem lockReq_clock (r i g) : clock (c.lockReq r i g) = clock c := by
  unfold Core.lockReq
  split <;> simp only [clock_ite, ite_self, modDac_clock, put_clock, lockDenied_clock]

theorem locks_clock (r i ms) : clock (c.locks r i ms) = clock c := by
  simp only [Core.locks, clock_ite, ite_self, clock_foldl, implies_true, unlock_clock, lockReq_clock]

theorem freeBroken_clock (r i) : clock (c.freeBroken r i) = clock c := by
  unfold Core.freeBroken
  split <;> simp only [clock_ite, ite_self, modDac_clock, put_clock]

theorem releaseDac_clock (r i) : clock (c.releaseDac r i) = clock c := by
  unfold Core.releaseDac
  extract_lets +onlyGivenNames d st c1 rel
  have hrel : clock rel.1 = clock c := by
    refine (clock_foldl_fst (fun y t => ?_) _ _).trans ((freeBroken_clock ..).trans (breakDue_clock ..))
    dsimp only
    split
    · rfl
    · exact relLane_clock ..
  clear_value rel
  dsimp only
  split <;> simp only [acqSource_clock, modDac_clock, inc_clock, setOn_clock, locks_clock, hrel]

theorem releaseBb_clock (r b m) : clock (c.releaseBb r b m) = clock c := by simp only [Core.releaseBb, relLane_clock, inc_clock, modBb_clock]
theorem releaseVec_clock (r w) : clock (c.releaseVec r w) = clock c := by simp only [Core.releaseVec, relLane_clock, setOn_clock, stick_clock, modVec_clock]

theorem leadCheck_clock (m g) : clock (c.leadCheck m g) = clock c := by
  simp only [Core.leadCheck, clock_ite, ite_self, implies_true, unitOf_clock, evalLead_clock, faultCell_clock, put_clock]

theorem execLaneRelease_clock (u) : KeepsClock s (execLaneRelease u s) := by
  refine keepsClock_onCore.2 ?_
  split
  · rfl
  · refine (clock_foldl (fun c k => ?_) _ _).trans ?_
    · split
      · exact leadCheck_clock ..
      · rfl
    · split
      · exact releaseDac_clock ..
      · exact releaseBb_clock ..
      · exact releaseVec_clock ..

/-! ### Sampling (R153-R165) -/

theorem bandArrive_clock (m g b) : clock (c.bandArrive m g b) = clock c := by
  unfold Core.bandArrive
  dsimp only
  (repeat' split) <;> simp only [integrate_clock, late_clock, modRo_clock]

theorem bandStream_clock (m r j x dual st h ovr) : clock (c.bandStream m r j x dual st h ovr) = clock c := by
  simp only [Core.bandStream, clock_foldl, implies_true, stick_clock, leadCheck_clock, schedFree_clock, bandArrive_clock, acqSource_clock]

theorem execAdcSample_clock (r j a b) : KeepsClock s (execAdcSample r j a b s) := by
  simp only [execAdcSample, keepsClock_onCore, clock_ite, ite_self, inc_clock, stick_clock, modAdc_clock, bandStream_clock, acqSource_clock]

/-! ### The HBM stack as its requesters reach it (R306-R324) -/

theorem hAccept_clock (r) : clock (c.hAccept r) = clock c := by simp only [Core.hAccept, inc_clock, modPc_clock]
theorem hCredit_clock (p) : clock (c.hCredit p) = clock c := by simp only [Core.hCredit, clock_ite, ite_self, bookReturn_clock, bookIssue_clock]
theorem refWin_clock (p) : clock (c.refWin p) = clock c := by simp only [Core.refWin, clock_ite, ite_self, modPc_clock]
theorem activate_clock (p bank row) : clock (c.activate p bank row) = clock c := by simp only [Core.activate, clock_ite, ite_self, modPc_clock, refWin_clock, inc_clock]
theorem hUe_clock (x off) : clock (c.hUe x off) = clock c := by simp only [Core.hUe, clock_ite, ite_self, inc_clock, put_clock, raise_clock]
theorem hCounts_clock (m addr len off) : clock (c.hCounts m addr len off) = clock c := by simp only [Core.hCounts, clock_foldl, implies_true, inc_clock, hUe_clock]
theorem newWork_clock (who tag off todo) : clock (c.newWork who tag off todo) = clock c := clock_congr rfl rfl
theorem setWork_clock (w) : clock (c.setWork w) = clock c := clock_congr rfl rfl
theorem workEnd_clock (w) : clock (c.workEnd w) = clock c := by simp only [Core.workEnd, clock_with, clock_ite, ite_self, emit_clock, inc_clock]

theorem workGot_clock (r data bad) : clock (c.workGot r data bad) = clock c := by
  unfold Core.workGot
  split <;> simp only [workEnd_clock, setWork_clock]

theorem acqBack_clock (who addr data) : clock (c.acqBack who addr data) = clock c := by simp only [Core.acqBack, clock_ite, ite_self, acqGot_clock]
theorem hServed_clock (p r) : clock (c.hServed p r) = clock c := by simp only [Core.hServed, clock_with, clock_ite, ite_self, modPc_clock]

theorem hIssue_clock (m p r corr ue) : clock (hIssue m c p r corr ue).2 = clock c := by
  simp only [hIssue, clock_with, clock_ite, ite_self, apply_ite Prod.snd, activate_clock, hServed_clock, hCounts_clock, workGot_clock, inc_clock, acqBack_clock,
    refillGot_clock]

/-! ### Shots, drains and the swap (R56, R57, R256-R264) -/

theorem openLanes_clock (g ts) : clock (c.openLanes g ts) = clock c := by simp only [Core.openLanes, clock_foldl, implies_true, setLane_clock]

theorem beginCell_clock (m ts g) : clock (c.beginCell m ts g) = clock c := by
  simp only [Core.beginCell, clock_ite, ite_self, openLanes_clock, setCell_clock, put_clock, modShot_clock, modCell_clock, eccImage_clock, stopCell_clock, raise_clock,
    feed_clock]

theorem beginBlocks_clock (r) : clock (c.beginBlocks r) = clock c := by simp only [Core.beginBlocks, clock_foldl, implies_true, modBlk_clock, put_clock]

theorem beginRgn_clock (m ts r) : clock (c.beginRgn m ts r) = clock c := by
  simp only [Core.beginRgn, clock_with, clock_foldl, implies_true, modRgn_clock, beginCell_clock, beginBlocks_clock]

theorem execShotBegin_clock : KeepsClock s (execShotBegin s) := by
  refine keepsClock_onCore.2 ?_
  dsimp only
  split <;> simp only [clock_with, clock_ite, ite_self, clock_foldl, implies_true, seriesEnd_clock, enter_clock, put_clock, inc_clock, noQuarRun_clock, beginRgn_clock]

theorem execShotFirstStamp_clock (r) : KeepsClock s (execShotFirstStamp r s) := by
  simp only [execShotFirstStamp, keepsClock_onCore, clock_ite, ite_self, clock_foldl, implies_true, put_clock, modRo_clock, slotBits_clock, modCell_clock,
    setFrame_clock, acqShot_clock]

theorem startDrain_clock (m r d0) : clock (c.startDrain m r d0) = clock c := by
  unfold Core.startDrain
  refine (modShot_clock ..).trans ((clock_foldl (fun c k => ?_) _ _).trans ?_)
  · dsimp only
    split <;> simp only [bookReturnN_clock, setLane_clock]
  · simp only [clock_foldl, clock_ite, ite_self, implies_true, vecRest_clock, modDac_clock, put_clock, breakDue_clock, cutRound_clock, bookReturnN_clock,
      modCell_clock, gapVals_clock]

theorem execDrainStart_clock (r) : KeepsClock s (execDrainStart r s) := by
  refine keepsClock_onCore.2 ?_
  split <;> simp only [clock_ite, ite_self, noteHold_clock, startDrain_clock]

theorem execLedgerCheck_clock (r) : KeepsClock s (execLedgerCheck r s) := by
  refine keepsClock_onCore.2 ?_
  dsimp only
  (repeat' split) <;> simp only [clock_with, clock_foldl, implies_true, modShot_clock, put_clock, raise_clock, park_clock, enter_clock]

theorem putSection_clock (r) : clock (c.putSection r) = clock c := by simp only [Core.putSection, clock_ite, ite_self, newWork_clock]
theorem formRecord_clock : clock c.formRecord = clock c := by simp only [Core.formRecord, clock_with, clock_ite, ite_self]

theorem thrDrain_clock (m g x) : clock (thrDrain m c g x).2 = clock c := by
  simp only [thrDrain, clock_ite, ite_self, apply_ite Prod.snd, setThr_clock, thrUpdate_clock, almAccept_clock, almRefuse_clock]

theorem execDrainGather_clock (r) : KeepsClock s (execDrainGather r s) := by
  refine keepsClock_onBoth.2 ?_
  dsimp only
  split <;> simp only [clock_ite, ite_self, apply_ite Prod.snd, clock_foldl, clock_foldl_snd, implies_true, flushWins_clock, modShot_clock, putSection_clock,
    thrDrain_clock, formRecord_clock]

theorem execFrameDrainApply_clock (r) : KeepsClock s (execFrameDrainApply r s) := by
  refine keepsClock_onCore.2 ?_
  dsimp only
  split <;> simp only [clock_ite, ite_self, clock_foldl, implies_true, frameAct_clock, put_clock, modCell_clock, setFrame_clock, modShot_clock]

theorem swapRegs_clock (p) : clock (c.swapRegs p) = clock c := clock_congr rfl rfl
theorem fullOut_clock (a) : clock (c.fullOut a) = clock c := by simp only [Core.fullOut, clock_with, clock_ite, ite_self, setCal_clock]

theorem swapEffects_clock (old r) : clock (Core.swapEffects old c r) = clock c := by
  unfold Core.swapEffects
  simp only [clock_foldl, clock_ite, ite_self, implies_true, modCell_clock, put_clock, vecRest_clock, stageUsed_clock, modBlk_clock]
  split <;> simp only [clock_foldl, clock_ite, clock_with, ite_self, implies_true, fullOut_clock, modAdc_clock, modShot_clock, inc_clock]

theorem swapRgn_clock (a : Mems × Core) (r) : clock (swapRgn a r).2 = clock a.2 := by
  simp only [swapRgn, clock_ite, ite_self, apply_ite Prod.snd, clock_foldl, implies_true, swapEffects_clock, swapRegs_clock, thrReload_clock]

theorem execSwap_clock (r) : KeepsClock s (execSwap r s) := by
  refine keepsClock_onBoth.2 ?_
  (repeat' split) <;> simp only [clock_with, clock_ite, ite_self, apply_ite Prod.snd, clock_foldl_snd, implies_true, swapRgn_clock, swapRegs_clock, put_clock,
    raise_clock]

theorem execCopybackEnd_clock : KeepsClock s (execCopybackEnd s) := by
  simp only [execCopybackEnd, keepsClock_onBoth, clock_with, clock_ite, ite_self, apply_ite Prod.snd, put_clock]

theorem resetCell_clock (g) : clock (c.resetCell g) = clock c := by simp only [Core.resetCell, clock_ite, ite_self, modCell_clock, inc_clock, put_clock]
theorem dropRing_clock (r b) : clock (c.dropRing r b) = clock c := by simp only [Core.dropRing, stageUsed_clock, modBlk_clock]

theorem execDrainPostSwap_clock (r) : KeepsClock s (execDrainPostSwap r s) := by
  refine keepsClock_onBoth.2 ?_
  dsimp only
  split <;> simp only [clock_ite, ite_self, apply_ite Prod.snd, clock_foldl, implies_true, thrReload_clock, resetCell_clock, dropRing_clock, modBlk_clock, modBb_clock,
    put_clock, dropPassed_clock, modShot_clock]

theorem execDrainEnd_clock (r) : KeepsClock s (execDrainEnd r s) := by
  refine keepsClock_onCore.2 ?_
  dsimp only
  split <;> simp only [clock_with, clock_ite, ite_self, inc_clock, modShot_clock, seriesEnd_clock]

/-! ### Lead loops, rails, handshakes and the thermal supervisor (R46-R54, R416-R429) -/

theorem setRailLimit_clock (p mv) : clock (c.setRailLimit p mv) = clock c := clock_congr rfl rfl

theorem leadMeasure_clock (g) : clock (c.leadMeasure g) = clock c := by
  unfold Core.leadMeasure
  split <;> simp only [putS_clock, modCell_clock]

theorem driveRail_clock (p) : clock (c.driveRail p) = clock c := by
  simp only [Core.driveRail, clock_with, clock_ite, ite_self, clock_foldl, implies_true, put_clock, setRailLimit_clock]

theorem setFreq_clock (g f) : clock (c.setFreq g f) = clock c := by simp only [Core.setFreq, clock_ite, ite_self, put_clock]

theorem leadManual_clock (r) : clock (c.leadManual r) = clock c := by
  simp only [Core.leadManual, clock_ite, ite_self, clock_foldl, implies_true, setOn_clock, put_clock, setFreq_clock, modRgn_clock]

theorem leadAuto_clock (r) : clock (c.leadAuto r) = clock c := by simp only [Core.leadAuto, clock_foldl, implies_true, setOn_clock, put_clock, modRgn_clock]

theorem execLeadLoopUpdate_clock (r) : KeepsClock s (execLeadLoopUpdate r s) := by
  simp only [execLeadLoopUpdate, keepsClock_onBoth, clock_ite, ite_self, apply_ite Prod.snd, clock_foldl, implies_true, modRgn_clock, driveRail_clock, leadCheck_clock,
    leadAuto_clock, leadManual_clock, setOn_clock, leadMeasure_clock, put_clock, almAccept_clock]

theorem execVrAck_clock (p) : KeepsClock s (execVrAck p s) := by
  simp only [execVrAck, keepsClock_onCore, clock_with, clock_ite, ite_self, setRailLimit_clock, put_clock]

theorem execVrTimeout_clock (p) : KeepsClock s (execVrTimeout p s) := by
  simp only [execVrTimeout, keepsClock_onCore, clock_with, clock_ite, ite_self, raise_clock, put_clock]

theorem execHandshakeRequest_clock (book unit) : KeepsClock s (execHandshakeRequest book unit s) := by
  simp only [execHandshakeRequest, keepsClock_onCore, clock_ite, ite_self, bookIssue_clock]

theorem execHandshakeAck_clock (book unit) : KeepsClock s (execHandshakeAck book unit s) := by
  simp only [execHandshakeAck, keepsClock_onCore, clock_ite, ite_self, modBook_clock, bookReturn_clock]

theorem startGrace_clock (z) : clock (c.startGrace z) = clock c := clock_congr rfl rfl
theorem stopGrace_clock (z) : clock (c.stopGrace z) = clock c := clock_congr rfl rfl

theorem stepEffects_clock : clock c.stepEffects = clock c := by
  simp only [Core.stepEffects, clock_ite, ite_self, clock_foldl, implies_true, acqSuspend_clock, acqResume_clock]

theorem parkStep_clock (m z) : clock (c.parkStep m z) = clock c := by
  unfold Core.parkStep
  split <;> simp only [park_clock]

theorem setStep_clock (m z d) : clock (c.setStep m z d) = clock c := by
  simp only [Core.setStep, clock_ite, ite_self, stepEffects_clock, showCap_clock, put_clock, parkStep_clock, raiseIf_clock]

theorem sensorRead_clock (m s count) : clock (c.sensorRead m s count).1 = clock c := by
  simp only [Core.sensorRead, clock_with, clock_ite, ite_self, free_clock, putS_clock, put_clock, stick_clock]

theorem hold_clock (z s) : clock (c.hold z s) = clock c := by simp only [Core.hold, clock_with, clock_ite, ite_self, put_clock]
theorem graceWindow_clock (z below) : clock (c.graceWindow z below) = clock c := by simp only [Core.graceWindow, clock_with, clock_ite, ite_self]
theorem setHot_clock (z b) : clock (c.setHot z b) = clock c := clock_congr rfl rfl

theorem judgeZone_clock (z) : clock (c.judgeZone z) = clock c := by
  unfold Core.judgeZone
  split <;> simp only [clock_ite, ite_self, setHot_clock, graceWindow_clock, putS_clock, put_clock, raiseIf_clock, raise_clock, startGrace_clock]

theorem stackHeat_clock : clock c.stackHeat = clock c := by simp only [Core.stackHeat, clock_ite, ite_self, put_clock]

theorem execGraceExpiry_clock (z) : KeepsClock s (execGraceExpiry z s) := by
  simp only [execGraceExpiry, keepsClock_onCore, clock_ite, ite_self, startGrace_clock, parkStep_clock, setStep_clock, stopGrace_clock, put_clock]

theorem execThmMaskWrite_clock (i be val) : KeepsClock s (execThmMaskWrite i be val s) := by
  simp only [execThmMaskWrite, keepsClock_onCore, clock_with, clock_ite, ite_self, clock_foldl, implies_true, written_clock, put_clock, setOn_clock, startGrace_clock]

/-! ### The checks of COMMIT (R253, R254) -/

theorem shadowView_clock (m) : clock (shadowView m c).2 = clock c := clock_congr rfl rfl

/-! ### Reads and writes of registers (R250-R252, R454-R464) -/

theorem setGo_clock (x) : clock (c.setGo x) = clock c := by simp only [Core.setGo, put_clock]

theorem shadowPut_clock (n v mask) : clock (c.shadowPut n v mask) = clock c := by
  unfold Core.shadowPut
  split <;> simp only [clock_ite, ite_self, free_clock, setShdW_clock]

theorem shadowWrite_clock (n v mask) : clock (c.shadowWrite n v mask) = clock c := by
  unfold Core.shadowWrite
  split <;> simp only [clock_ite, ite_self, shadowPut_clock, put_clock]

theorem msixSend_clock (v) : clock (c.msixSend v) = clock c := by simp only [Core.msixSend, clock_with, clock_ite, ite_self, emit_clock]
theorem msixWrite_clock (off v mask) : clock (c.msixWrite off v mask) = clock c := by simp only [Core.msixWrite, clock_with, clock_ite, ite_self, msixSend_clock]

theorem clearRc_clock (off mask) : clock (c.clearRc off mask) = clock c := by
  unfold Core.clearRc
  split
  · rfl
  · split <;> simp only [clock_ite, ite_self, clock_foldl, implies_true, put_clock]

theorem liveWrite_clock (n v mask) : clock (c.liveWrite n v mask) = clock c := by
  unfold Core.liveWrite
  split <;> simp only [clock_ite, ite_self, free_clock, setLiveW_clock]

/-! ### Commands in the slot of a ring (R279-R283, R292) -/

theorem begin_clock (n) : clock (c.begin_ n) = clock c := by simp only [Core.begin_, modRing_clock]
theorem inExec_clock (n) : clock (c.inExec n) = clock c := by simp only [Core.inExec, modRing_clock]

theorem runCmd_clock {f : Mems → Core → Desc → Mems × Core} (h : ∀ m c d, SameClock c (f m c d)) (m n op) : clock (runCmd m c n op f).2 = clock c := by
  unfold runCmd
  split
  · rfl
  · simp only [apply_ite Prod.snd, clock_ite, ite_self, sameClock_iff.1 (h _ _ _), begin_clock, refuse_clock]

theorem execWith_clock (n t data) : clock (c.execWith n t data) = clock c := by simp only [Core.execWith, modRing_clock]

theorem stepCmd_clock {start : Mems → Core → Desc → Mems × Core} {go : Mems → Core → Cmd → Mems × Core} (hs : ∀ m c d, SameClock c (start m c d))
    (hg : ∀ m c k, SameClock c (go m c k)) (m n op) : clock (stepCmd m c n op start go).2 = clock c := by
  unfold stepCmd
  split
  · exact hg ..
  · exact runCmd_clock _ hs ..

theorem carryCmd_clock {go : Mems → Core → Cmd → Mems × Core} (h : ∀ m c k, SameClock c (go m c k)) (m n t data) :
    clock (carryCmd m c n t data go).2 = clock c := by
  unfold carryCmd
  dsimp only
  split
  · exact (h ..).trans (execWith_clock ..)
  · exact execWith_clock ..

/-! ### LOAD_SEGMENT, LOAD_CONFIG and profiles (R95-R103, R266, R267, R284, R285) -/

theorem dropCached_clock (id) : clock (c.dropCached id) = clock c := by
  simp only [Core.dropCached, clock_ite, ite_self, clock_foldl, implies_true, stageUsed_clock, modBlk_clock]

theorem segDone_clock (m n k) : clock (segDone m c n k).2 = clock c := by simp only [segDone, clock_ite, ite_self, complete_clock, dropCached_clock]

theorem segLib_clock (m n k data) : clock (segLib m c n k data).2 = clock c := by
  unfold segLib
  (repeat' split) <;> simp only [refuse_clock, newWork_clock, dropCached_clock, segDone_clock]

theorem segGo_clock (m n x) : clock (segGo m c n x).2 = clock c := by
  simp only [segGo, clock_ite, ite_self, apply_ite Prod.snd, goLegs_clock, segLib_clock, segDone_clock]

theorem execLoadSegment_clock (n data) : KeepsClock s (execLoadSegment n data s) := by
  refine keepsClock_onBoth.2 ?_
  split
  · exact segGo_clock ..
  · split
    · rfl
    · refine runCmd_clock _ (fun m c d => ?_) ..
      split
      · exact refuse_clock ..
      · exact carryCmd_clock _ (fun m c k => segGo_clock ..) ..

theorem shadowRegs_clock (o l) : clock (c.shadowRegs o l) = clock c := by
  fun_induction Core.shadowRegs c o l with
  | case1 c o b0 b1 b2 b3 rest ih => exact ih.trans (shadowPut_clock ..)
  | case2 => rfl

theorem noteLoaded_clock (o n) : clock (c.noteLoaded o n) = clock c := clock_congr rfl rfl

theorem cfgApply_clock (m d data) : clock (cfgApply m c d data).2 = clock c := by
  simp only [cfgApply, clock_ite, ite_self, apply_ite Prod.snd, noteLoaded_clock, shadowRegs_clock]

theorem cfgGo_clock {f : Mems → Core → Desc → List Byte → Mems × Core} (h : ∀ m c d l, SameClock c (f m c d l)) (m n x) :
    clock (cfgGo f m c n x).2 = clock c := by
  unfold cfgGo
  simp only [apply_ite Prod.snd, clock_ite, ite_self, complete_clock, sameClock_iff.1 (h _ _ _ _), goLegs_clock]

theorem cfgRun_clock {f : Mems → Core → Desc → List Byte → Mems × Core} (h : ∀ m c d l, SameClock c (f m c d l)) (prof m n data ref) :
    clock (cfgRun prof m c n data ref f).2 = clock c := by
  unfold cfgRun
  split
  · rfl
  · split
    · exact cfgGo_clock _ h ..
    · split
      · rfl
      · refine runCmd_clock _ (fun m c d => ?_) ..
        split
        · exact refuse_clock ..
        · exact carryCmd_clock _ (fun m c k => cfgGo_clock _ h ..) ..

theorem execLoadConfig_clock (n data) : KeepsClock s (execLoadConfig n data s) := by
  simp only [execLoadConfig, keepsClock_onBoth, implies_true, sameClock_iff, cfgRun_clock, cfgApply_clock]

theorem profReg_clock (n basic expert image) : clock (c.profReg n basic expert image) = clock c := by simp only [Core.profReg, shadowPut_clock]

theorem profApply_clock (m k) : clock (profApply m c k).2 = clock c := by
  unfold profApply
  split
  · rfl
  · refine (clock_foldl (fun c w => shadowPut_clock ..) _ _).trans (clock_foldl_snd (fun y e => ?_) _ _)
    split
    · rfl
    · simp only [apply_ite Prod.snd, clock_ite, ite_self, profReg_clock]

theorem execLoadConfigProfile_clock (n data) : KeepsClock s (execLoadConfigProfile n data s) := by
  simp only [execLoadConfigProfile, keepsClock_onBoth, clock_foldl_snd, implies_true, sameClock_iff, cfgRun_clock, profApply_clock]

/-! ### COMMIT, RUN, STOP, ARM_CAPTURE, POST_SPOOL, FENCE, LOCK_RELEASE (R286-R291) -/

theorem commitStart_clock (n only m) : clock (commitStart n only m c).2 = clock c := by
  unfold commitStart
  split
  · rfl
  · split
    · rfl
    · refine runCmd_clock _ (fun m c d => ?_) ..
      split
      · exact refuse_clock ..
      · simp only [sameClock_iff, inExec_clock, clock_with, setGo_clock]

theorem execCommit_clock (n) : KeepsClock s (execCommit n s) := by simp only [execCommit, keepsClock_onBoth, commitStart_clock]
theorem execCommitCheckOnly_clock (n) : KeepsClock s (execCommitCheckOnly n s) := by simp only [execCommitCheckOnly, keepsClock_onBoth, commitStart_clock]

theorem execCommitComplete_clock : KeepsClock s (execCommitComplete s) := by
  refine keepsClock_onCore.2 ?_
  dsimp only
  (repeat' split) <;> simp only [clock_with, setLiveW_clock, complete_clock, setGo_clock, put_clock]

theorem startSeries_clock (count mode trig period ts) : clock (c.startSeries count mode trig period ts) = clock c := by
  simp only [Core.startSeries, clock_with, clock_ite, ite_self, clock_foldl, implies_true, stageUsed_clock, modBlk_clock, enter_clock]

theorem holdRun_clock (n settle) : clock (c.holdRun n settle) = clock c := by simp only [Core.holdRun, clock_ite, ite_self, modRing_clock]

theorem execRun_clock (n) : KeepsClock s (execRun n s) := by
  refine keepsClock_onBoth.2 ?_
  split
  · exact holdRun_clock ..
  · split
    · exact holdRun_clock ..
    · refine runCmd_clock _ (fun m c d => ?_) ..
      extract_lets +onlyGivenNames base count mode tick exist ref
      clear_value ref
      cases ref with
      | some x => exact refuse_clock ..
      | none => simp only [sameClock_iff, complete_clock, startSeries_clock]

theorem cutCell_clock (g) : clock (c.cutCell g) = clock c := by simp only [Core.cutCell, clock_ite, ite_self, modCell_clock, put_clock]

theorem cutShot_clock : clock c.cutShot = clock c := by
  simp only [Core.cutShot, clock_with, clock_ite, ite_self, clock_foldl, implies_true, modShot_clock, cutCell_clock, put_clock]

theorem stopNow_clock (cut) : clock (c.stopNow cut) = clock c := by
  simp only [Core.stopNow, clock_ite, ite_self, seriesEnd_clock, enter_clock, stopSeries_clock, cutShot_clock]

theorem stopWith_clock (n cut m) : clock (stopWith n cut m c).2 = clock c := by
  unfold stopWith
  split
  · rfl
  · refine runCmd_clock _ (fun m c d => ?_) ..
    split
    · exact refuse_clock ..
    · simp only [sameClock_iff, stopNow_clock, inExec_clock, clock_with]

theorem execStop_clock (n) : KeepsClock s (execStop n s) := by simp only [execStop, keepsClock_onBoth, stopWith_clock]
theorem execStopCut_clock (n) : KeepsClock s (execStopCut n s) := by simp only [execStopCut, keepsClock_onBoth, stopWith_clock]

theorem execArmCapture_clock (n) : KeepsClock s (execArmCapture n s) := by
  refine keepsClock_onBoth.2 (runCmd_clock _ (fun m c d => ?_) ..)
  extract_lets +onlyGivenNames ch keep r h given img resv chk ref
  clear_value ref
  cases ref with
  | some x => exact refuse_clock ..
  | none => simp only [sameClock_iff, inExec_clock, modAcq_clock]

theorem spoolEnd_clock (n d got err) : clock (c.spoolEnd n d got err) = clock c := by
  unfold Core.spoolEnd
  dsimp only
  split <;> simp only [refuse_clock, ringErr_clock, put_clock, modRing_clock, complete_clock]

theorem spoolTake_clock (n d got reads) : clock (c.spoolTake n d got reads) = clock c := by
  unfold Core.spoolTake
  dsimp only
  split <;> simp only [modRing_clock, spoolEnd_clock]

theorem execPostSpool_clock (n reads) : KeepsClock s (execPostSpool n reads s) := by
  refine keepsClock_onBoth.2 ?_
  split
  · rfl
  · extract_lets +onlyGivenNames z
    split
    · simp only [apply_ite Prod.snd, clock_ite, ite_self, spoolTake_clock, laneTake_clock]
    · split
      · rfl
      · refine runCmd_clock _ (fun m c d => ?_) ..
        split
        · exact refuse_clock ..
        · simp only [sameClock_iff, spoolTake_clock, laneTake_clock]

theorem spoolRetry_clock (z k e) : clock (c.spoolRetry z k e) = clock c := by
  unfold Core.spoolRetry
  split
  · rfl
  · split <;> simp only [clock_ite, ite_self, modRing_clock, refuse_clock, spoolTake_clock, spoolEnd_clock]

theorem execFence_clock (n) : KeepsClock s (execFence n s) := by
  refine keepsClock_onBoth.2 ?_
  split
  · rfl
  · simp only [apply_ite Prod.snd, clock_ite, ite_self, complete_clock, refuse_clock, inExec_clock, runCmd_clock, sameClock_iff, implies_true]

theorem execFenceTimeout_clock (n) : KeepsClock s (execFenceTimeout n s) := by
  refine keepsClock_onCore.2 ?_
  split <;> simp only [clock_ite, ite_self, refuse_clock]

theorem execLockRelease_clock (n) : KeepsClock s (execLockRelease n s) := by
  refine keepsClock_onBoth.2 (runCmd_clock _ (fun m c d => ?_) ..)
  extract_lets +onlyGivenNames k r i only c1 st own ref
  have h1 : clock c1 = clock c := breakDue_clock ..
  clear_value ref c1
  cases ref with
  | some x => exact (refuse_clock ..).trans h1
  | none =>
    refine (complete_clock ..).trans ?_
    split
    · split
      · exact (modLane_clock ..).trans h1
      · exact h1
    · exact (modDac_clock ..).trans h1

/-! ### QUERY (R289) -/

theorem qCount_clock (m k) : clock (c.qCount m k) = clock c := by
  unfold Core.qCount
  split <;> simp only [eccReads_clock]

theorem qGo_clock (m n x) : clock (qGo m c n x).2 = clock c := by
  unfold qGo
  dsimp only
  (repeat' split) <;> simp only [refuse_clock, newWork_clock, complete_clock, emit_clock, goLegs_clock]

theorem qSnap_clock (m n t k) : clock (qSnap m c n t k).2 = clock c := by simp only [qSnap, implies_true, sameClock_iff, carryCmd_clock, qCount_clock, qGo_clock]

theorem execQuery_clock (n) : KeepsClock s (execQuery n s) := by
  refine keepsClock_onBoth.2 (stepCmd_clock _ (fun m c d => ?_) (fun m c k => qGo_clock ..) ..)
  split
  · exact refuse_clock ..
  · simp only [sameClock_iff, apply_ite Prod.snd, clock_ite, ite_self, chipFault_clock, inExec_clock, qSnap_clock]

theorem execQueryDrainSnapshot_clock (n) : KeepsClock s (execQueryDrainSnapshot n s) := by
  refine keepsClock_onBoth.2 ?_
  dsimp only
  (repeat' split) <;> simp only [qSnap_clock]

/-! ### CALIBRATE in progress (R404, R411, R412) -/

theorem jobEnd_clock (j) : clock (c.jobEnd j) = clock c := by simp only [Core.jobEnd, clock_ite, ite_self, emit_clock, complete_clock]
theorem jobsEnd_clock : clock c.jobsEnd = clock c := by simp only [Core.jobsEnd, clock_with, clock_foldl, implies_true, calBusy_clock, jobEnd_clock]
theorem unitEnd_clock (m n e out v) : clock (c.unitEnd m n e out v) = clock c := by simp only [Core.unitEnd, clock_with, jobsEnd_clock]
theorem unitEndAll_clock (m kind e out v) : clock (c.unitEndAll m kind e out v) = clock c := by simp only [Core.unitEndAll, clock_foldl, implies_true, unitEnd_clock]

/-! ### The HBM controller (R304-R329) -/

theorem overPort_clock {r k d} (h : c.overPort r k = some d) : clock d = clock c := by
  unfold Core.overPort at h
  split at h
  · cases h
  · cases h
    simp only [clock_ite, ite_self, bookPass_clock, moveBeats_clock]

theorem overSpine_clock {x p d} (h : c.overSpine x p = some d) : clock d = clock c := by
  unfold Core.overSpine at h
  split at h
  · cases h
  · split at h
    · cases h
    · cases h
      simp only [hCredit_clock, clock_ite, ite_self, bookPass_clock, moveBeats_clock, modArb_clock]

theorem workAsk_clock {who addr len write data y} (h : c.workAsk who addr len write data = some y) : clock y.1 = clock c := by
  unfold Core.workAsk at h
  split at h
  · cases h
  · simp only [Option.ite_none_right_eq_some, Option.some.injEq] at h
    obtain ⟨-, rfl⟩ := h
    exact setWork_clock ..

theorem hMakes_clock {m q addr len write data y} (h : c.hMakes m q addr len write data = some y) : clock y.1 = clock c := by
  unfold Core.hMakes at h
  split at h
  · simp only [Option.ite_none_right_eq_some, Option.some.injEq] at h
    obtain ⟨-, rfl⟩ := h
    rfl
  · obtain ⟨d, hd, rfl⟩ := Option.map_eq_some_iff.1 h
    exact acqAsk_clock c hd
  · cases h
  · exact workAsk_clock c h

theorem hArrive_clock {x r y} (h : c.hArrive x r = some y) : clock y.2 = clock c := by
  obtain ⟨d, hd, rfl⟩ := Option.map_eq_some_iff.1 h
  exact (clock_congr (c := d) rfl rfl).trans (overSpine_clock c hd)

theorem hTake_clock (m q addr len write data) : clock (c.hTake m q addr len write data).1 = clock c := by
  unfold Core.hTake
  dsimp only
  split
  · split
    · rfl
    next y e => exact (clock_congr (c := y.2) rfl rfl).trans (hArrive_clock c e)
  · split
    · rfl
    · split
      · rfl
      next d _ _ e =>
        have hd : clock d = clock c := hMakes_clock c e
        split
        · split
          · rfl
          next e => exact (hArrive_clock d e).trans hd
        · split
          · rfl
          next d1 e =>
            have hp : clock d1 = clock c := (overPort_clock d e).trans hd
            split
            next e => exact (hArrive_clock d1 e).trans hp
            · exact (clock_congr (c := d1) rfl rfl).trans hp

theorem execHbmRequest_clock (q addr len write data) : KeepsClock s (execHbmRequest q addr len write data s) := by
  have ht := hTake_clock s.core s.mem q addr len write data
  refine keepsClock_onCore.2 ?_
  split
  · rfl
  · split
    next e => rwa [e] at ht
    next e => rw [e] at ht; exact (hAccept_clock ..).trans ht

theorem execHbmAccessIssue_clock (p corr ue) : KeepsClock s (execHbmAccessIssue p corr ue s) := by
  refine keepsClock_onBoth.2 ?_
  split
  · rfl
  · split <;> simp only [hIssue_clock]

theorem execHbmRefresh_clock (p bank) : KeepsClock s (execHbmRefresh p bank s) := by
  simp only [execHbmRefresh, keepsClock_onCore, clock_ite, ite_self, refWin_clock, modPc_clock]

theorem execScrub_clock (corr ue) : KeepsClock s (execScrub corr ue s) := by
  refine keepsClock_onBoth.2 ?_
  dsimp only
  split
  · rfl
  · split
    · rfl
    next d e =>
      obtain ⟨d1, h1, hd⟩ := Option.bind_eq_some_iff.1 e
      have hd : clock d = clock s.core := by
        split at hd
        · exact (overSpine_clock d1 hd).trans (overSpine_clock s.core h1)
        · cases hd
          exact overSpine_clock s.core h1
      simp only [clock_with, clock_ite, ite_self, hCounts_clock, activate_clock, hd]

theorem dropGather_clock : clock c.dropGather = clock c := by simp only [Core.dropGather, clock_with, clock_ite, ite_self, calBusy_clock, put_clock]

theorem execRetrainPause_clock (p) : KeepsClock s (execRetrainPause p s) := by
  simp only [execRetrainPause, keepsClock_onCore, clock_with, clock_ite, ite_self, forceWaits_clock, calBusy_clock, put_clock]

theorem startRate_clock : clock c.startRate = clock c := by simp only [Core.startRate, clock_with, hbmGo_clock, dropGather_clock]

theorem execRetrainPauseEnd_clock : KeepsClock s (execRetrainPauseEnd s) := by
  simp only [execRetrainPauseEnd, keepsClock_onCore, clock_with, clock_ite, ite_self, modPc_clock, startRate_clock]

theorem gatherDone_clock (p) : clock (c.gatherDone p) = clock c := by simp only [Core.gatherDone, clock_with, calBusy_clock, put_clock]

theorem execRetrainApply_clock (val eye) : KeepsClock s (execRetrainApply val eye s) := by
  simp only [execRetrainApply, keepsClock_onBoth, clock_ite, ite_self, apply_ite Prod.snd, unitEndAll_clock, gatherDone_clock, almRefuse_clock, raise_clock, put_clock,
    almAccept_clock]

theorem showBackup_clock (m there) : clock (c.showBackup m there) = clock c := by simp only [Core.showBackup, clock_ite, ite_self, put_clock]
theorem noBackup_clock : clock c.noBackup = clock c := by simp only [Core.noBackup, put_clock]

theorem execHbmRateChange_clock (rate) : KeepsClock s (execHbmRateChange rate s) := by
  simp only [execHbmRateChange, keepsClock_onCore, clock_with, clock_ite, ite_self, put_clock, setOn_clock, hbmGo_clock, startRate_clock]

theorem noHbm_clock (m) : clock (noHbm m c).2 = clock c := by simp only [noHbm, clock_with, noBackup_clock, put_clock, hbmGo_clock]
theorem storeAll_clock (m lo hi res) : clock (storeAll m c lo hi res).2 = clock c := by simp only [storeAll, clock_foldl_snd, implies_true, almResult_clock]

theorem execRateChangeDone_clock (okNew okOld res) : KeepsClock s (execRateChangeDone okNew okOld res s) := by
  simp only [execRateChangeDone, keepsClock_onBoth, clock_with, clock_ite, ite_self, apply_ite Prod.snd, put_clock, hbmGo_clock, storeAll_clock, raise_clock,
    noHbm_clock]

theorem stackUndefined_clock (m) : clock (stackUndefined m c).2 = clock c := by simp only [stackUndefined, clock_with, noBackup_clock]

theorem execHbmMappingWrite_clock (off be val) : KeepsClock s (execHbmMappingWrite off be val s) := by
  refine keepsClock_onBoth.2 ?_
  dsimp only
  (repeat' split) <;> simp only [written_clock, put_clock, stackUndefined_clock, showBackup_clock]

theorem srEnter_clock (standby keep) : clock (c.srEnter standby keep) = clock c := by simp only [Core.srEnter, clock_with, hbmGo_clock, dropGather_clock]
theorem srForD3_clock : clock c.srForD3 = clock c := by simp only [Core.srForD3, clock_with, clock_ite, ite_self, srEnter_clock]

theorem execStandby_clock (be val) : KeepsClock s (execStandby be val s) := by
  simp only [execStandby, keepsClock_onCore, clock_with, clock_ite, ite_self, written_clock, put_clock, srEnter_clock, hbmGo_clock]

theorem execAutoSrEntry_clock : KeepsClock s (execAutoSrEntry s) := by simp only [execAutoSrEntry, keepsClock_onCore, clock_ite, ite_self, srEnter_clock]

theorem execSrEntryDone_clock : KeepsClock s (execSrEntryDone s) := by
  simp only [execSrEntryDone, keepsClock_onCore, clock_with, clock_ite, ite_self, put_clock, hbmGo_clock]

theorem execSrHeldRequest_clock (q addr len write data) : KeepsClock s (execSrHeldRequest q addr len write data s) := by
  have ht := hTake_clock s.core s.mem q addr len write data
  refine keepsClock_onCore.2 ?_
  split
  · rfl
  · split
    next e => rwa [e] at ht
    next e =>
      rw [e] at ht
      simp only [clock_ite, clock_with, hAccept_clock, srArrive_clock, ht, ite_self]

theorem execStandbyRetry_clock : KeepsClock s (execStandbyRetry s) := by simp only [execStandbyRetry, keepsClock_onCore, clock_ite, ite_self, srEnter_clock]
theorem exitRefresh_clock (lost) : clock (c.exitRefresh lost) = clock c := by simp only [Core.exitRefresh, clock_ite, ite_self, clock_foldl, implies_true, modPc_clock]

theorem execSrExitDone_clock : KeepsClock s (execSrExitDone s) := by
  simp only [execSrExitDone, keepsClock_onBoth, clock_with, clock_ite, ite_self, apply_ite Prod.snd, clock_foldl, implies_true, hbmGo_clock, raise_clock, put_clock,
    showBackup_clock, hAccept_clock, exitRefresh_clock, startRate_clock]

/-! ### The host interface (R270-R303) -/

theorem takeEntry_clock (n d) : clock (c.takeEntry n d) = clock c := by
  simp only [Core.takeEntry, clock_with, clock_ite, ite_self, modRing_clock, advIdx_clock, inc_clock, bookReturn_clock, bookIssue_clock, refuse_clock, begin_clock]

theorem fetched_clock (n k e) : clock (c.fetched n k e) = clock c := by
  unfold Core.fetched
  split <;> simp only [clock_ite, ite_self, ringErr_clock, modRing_clock, takeEntry_clock]

theorem inwards_clock {f : Core → Core} (h : ∀ c, clock (f c) = clock c) : clock (c.inwards f) = clock c := by
  have hl := laneTake_clock c 9 [()]
  unfold Core.inwards
  split
  next e => rwa [e] at hl
  next e => rw [e] at hl; exact (h _).trans hl

theorem execDescriptorFetch_clock (n e) : KeepsClock s (execDescriptorFetch n e s) := by
  simp only [execDescriptorFetch, keepsClock_onCore, clock_with, clock_ite, ite_self, implies_true, inwards_clock, fetched_clock]

theorem execPhaseRetry_clock (n e) : KeepsClock s (execPhaseRetry n e s) := by
  simp only [execPhaseRetry, keepsClock_onCore, clock_ite, ite_self, implies_true, inwards_clock, spoolRetry_clock, fetched_clock]

theorem commitSpool_clock (n v) : clock (c.commitSpool n v) = clock c := by simp only [Core.commitSpool, clock_ite, ite_self, modRing_clock, ringErr_clock]
theorem commitIndex_clock (n v) : clock (c.commitIndex n v) = clock c := by simp only [Core.commitIndex, clock_ite, ite_self, modRing_clock, ringErr_clock]

theorem execDoorbell_clock (n off len val) : KeepsClock s (execDoorbell n off len val s) := by
  refine keepsClock_onCore.2 ?_
  split <;> simp only [clock_ite, ite_self, emit_clock, commitSpool_clock, modRing_clock, commitIndex_clock]

theorem ringOn_clock (n) : clock (c.ringOn n) = clock c := by simp only [Core.ringOn, put_clock, modRing_clock]

theorem execRingEnable_clock (n be val) : KeepsClock s (execRingEnable n be val s) := by
  simp only [execRingEnable, keepsClock_onCore, clock_ite, ite_self, clock_foldl, implies_true, free_clock, put_clock, setOn_clock, stick_clock, ringOn_clock]

theorem execResume_clock (n) : KeepsClock s (execResume n s) := by simp only [execResume, keepsClock_onCore, clock_ite, ite_self, put_clock]

theorem execCompletionWrite_clock (n) : KeepsClock s (execCompletionWrite n s) := by
  refine keepsClock_onCore.2 ?_
  split <;> simp only [clock_ite, ite_self, putEntry_clock, modRing_clock]

theorem execWriteBack_clock (n) : KeepsClock s (execWriteBack n s) := by simp only [execWriteBack, keepsClock_onCore, clock_ite, ite_self, writeBack_clock]

theorem execRingInterrupt_clock (n) : KeepsClock s (execRingInterrupt n s) := by
  simp only [execRingInterrupt, keepsClock_onCore, clock_ite, ite_self, writeBack_clock, modRing_clock, msixSend_clock]

theorem execEventWrite_clock : KeepsClock s (execEventWrite s) := by
  refine keepsClock_onCore.2 ?_
  dsimp only
  (repeat' split) <;> simp only [clock_with, putEntry_clock, inc_clock]

theorem execResultDelivery_clock : KeepsClock s (execResultDelivery s) := by
  refine keepsClock_onCore.2 ?_
  (repeat' split) <;> simp only [clock_with, putEntry_clock, spoolWrite_clock, newWork_clock, dropWork_clock, clock_ite, ite_self]

theorem execStreamRecord_clock (n rec) : KeepsClock s (execStreamRecord n rec s) := by
  have hl := laneTake_clock s.core 9 [()]
  refine keepsClock_onCore.2 ?_
  dsimp only
  split
  · rfl
  · split
    · exact modRing_clock ..
    · split
      · exact (ringErr_clock ..).trans (modRing_clock ..)
      · split
        · exact modRing_clock ..
        · split
          · exact modRing_clock ..
          · split
            · rfl
            · split
              next e => rwa [e] at hl
              next e => rw [e] at hl; exact (modBlk_clock ..).trans ((modRing_clock ..).trans hl)

theorem execBar4Access_clock (addr write data) : KeepsClock s (execBar4Access addr write data s) := by
  simp only [execBar4Access, keepsClock_onCore, clock_ite, ite_self, emit_clock, inc_clock, newWork_clock]

/-! ### The arbiters (R331-R343) -/

theorem arbGive_clock (a n x p) : clock (c.arbGive a n x p) = clock c := by
  unfold Core.arbGive
  split <;> simp only [endWaitOf_clock, modArb_clock, inc_clock]

theorem arbWait_clock (a n xs) : clock (c.arbWait a n xs) = clock c := by simp only [Core.arbWait, clock_ite, ite_self, clock_foldl, implies_true, modArb_clock]
theorem expire_clock (a n) : clock (c.expire a n) = clock c := by simp only [Core.expire, modArb_clock, setArb_clock]

theorem arbSettle_clock (a n xs) : clock (c.arbSettle a n xs) = clock c := by
  simp only [Core.arbSettle, clock_ite, ite_self, clock_foldl, implies_true, endWaitOf_clock, expire_clock, setArb_clock]

theorem postLines_clock (r b n) (y : Mems × Core) : clock (Core.postLines r b n y).2 = clock y.2 := by
  induction n generalizing y with
  | zero => rfl
  | succ n ih =>
    unfold Core.postLines
    split
    · rfl
    · simp only [apply_ite Prod.snd, clock_ite, ite_self, ih, stagePut_clock, modBlk_clock, moveBeats_clock]

theorem refillPost_clock (m a) : clock (c.refillPost m a).2 = clock c := by
  unfold Core.refillPost
  split <;> simp only [postLines_clock]

theorem execArbGrant_clock (a n reqs) : KeepsClock s (execArbGrant a n reqs s) := by
  refine keepsClock_onBoth.2 ?_
  dsimp only
  (repeat' split) <;> simp only [arbSettle_clock, arbGive_clock, refillPost_clock, arbWait_clock]

theorem execBurstExpiry_clock (q) : KeepsClock s (execBurstExpiry q s) := by
  refine keepsClock_onCore.2 ?_
  dsimp only
  split <;> simp only [clock_ite, ite_self, expire_clock]

theorem execStarve_clock (a x n) : KeepsClock s (execStarve a x n s) := by
  refine keepsClock_onCore.2 ?_
  split <;> simp only [clock_ite, ite_self, raiseIf_clock, put_clock]

theorem arbBite_clock (a x) : clock (c.arbBite a x) = clock c := by
  unfold Core.arbBite
  split <;> simp only [put_clock, inc_clock]

theorem abortRing_clock (n) : clock (c.abortRing n) = clock c := by simp only [Core.abortRing, clock_ite, ite_self, refuse_clock]

theorem loseTransfer_clock (a x) : clock (c.loseTransfer a x) = clock c := by
  unfold Core.loseTransfer
  split <;> simp only [clock_ite, ite_self, clock_foldl, implies_true, modArb_clock, abortRing_clock, modBlk_clock]

theorem execArbWatchdog_clock (q) : KeepsClock s (execArbWatchdog q s) := by
  refine keepsClock_onCore.2 ?_
  dsimp only
  (repeat' split) <;> simp only [loseTransfer_clock, modArb_clock, setArb_clock, bookReset_clock, raise_clock, arbBite_clock]

theorem execPriorityWrite_clock (r b reg be val) : KeepsClock s (execPriorityWrite r b reg be val s) := by
  simp only [execPriorityWrite, keepsClock_onCore, clock_ite, ite_self, put_clock, free_clock]

/-! ### The Sorzil link (R345-R373) -/

theorem portGo_clock (p x) : clock (c.portGo p x) = clock c := by simp only [Core.portGo, clock_ite, ite_self, put_clock, raise_clock]
theorem rxUnit_clock (p lanes b) : clock (c.rxUnit p lanes b).1 = clock c := by simp only [Core.rxUnit, inc_clock, modPort_clock]

theorem rxFlit_clock (p units) : clock (c.rxFlit p units).1 = clock c := by
  simp only [Core.rxFlit, clock_ite, ite_self, apply_ite Prod.fst, clock_foldl_fst, implies_true, rxUnit_clock]

theorem wire_clock (p f) : clock (c.wire p f) = clock c := by simp only [Core.wire, modPort_clock]
theorem leaveOut_clock (p) : clock (c.leaveOut p) = clock c := by simp only [Core.leaveOut, modPort_clock]
theorem sendLink_clock (p nak) : clock (c.sendLink p nak) = clock c := by simp only [Core.sendLink, modPort_clock, wire_clock]
theorem startFlit_clock (p f) : clock (c.startFlit p f) = clock c := by simp only [Core.startFlit, modPort_clock, flitCredit_clock, wire_clock]
theorem sendTime_clock (p) : clock (c.sendTime p) = clock c := by simp only [Core.sendTime, free_clock, modPort_clock, wire_clock]

theorem execFlitSend_clock (p) : KeepsClock s (execFlitSend p s) := by
  refine keepsClock_onCore.2 ?_
  dsimp only
  (repeat' split) <;> simp only [leaveOut_clock, sendLink_clock, modPort_clock, wire_clock, startFlit_clock, sendTime_clock]

theorem execSendLate_clock (p v) : KeepsClock s (execSendLate p v s) := by
  refine keepsClock_onCore.2 ?_
  split <;> simp only [clock_ite, ite_self, inc_clock, flitCredit_clock, modPort_clock]

theorem portDrop_clock (p) : clock (c.portDrop p) = clock c := by simp only [Core.portDrop, clock_foldl, implies_true, bookReturn_clock, inc_clock, modPort_clock]

theorem portDown_clock (p) : clock (c.portDown p) = clock c := by
  simp only [Core.portDown, clock_foldl, implies_true, portDrop_clock, put_clock, portGo_clock, modPort_clock]

theorem portRecover_clock (p) : clock (c.portRecover p) = clock c := by simp only [Core.portRecover, portGo_clock, portDrop_clock]
theorem badFlit_clock (p) : clock (c.badFlit p) = clock c := by simp only [Core.badFlit, modPort_clock, inc_clock]
theorem takeDec_clock (p load late) : clock (c.takeDec p load late) = clock c := by simp only [Core.takeDec, clock_ite, ite_self, inc_clock, modPort_clock]

theorem takeDef_clock (m p load ready late) : clock (c.takeDef m p load ready late) = clock c := by
  simp only [Core.takeDef, clock_ite, ite_self, clock_foldl, implies_true, inc_clock, modRgn_clock]

theorem onFlit_clock {f : Core → BitVec 288 → Core} (h : ∀ c x, clock (f c x) = clock c) (p units takes) : clock (c.onFlit p units takes f) = clock c := by
  unfold Core.onFlit
  dsimp only
  split
  · rfl
  · split <;> simp only [clock_ite, ite_self, badFlit_clock, rxFlit_clock, h]

theorem takeFlit_clock (m p flit) : clock (c.takeFlit m p flit) = clock c := by
  simp only [Core.takeFlit, clock_ite, ite_self, badFlit_clock, modPort_clock, takeDec_clock, takeDef_clock]

theorem execFlitAccept_clock (p units) : KeepsClock s (execFlitAccept p units s) := by
  simp only [execFlitAccept, keepsClock_onCore, implies_true, onFlit_clock, takeFlit_clock]

theorem takeLink_clock (p flit) : clock (c.takeLink p flit) = clock c := by simp only [Core.takeLink, clock_ite, ite_self, put_clock, modPort_clock, portRecover_clock]

theorem execLinkFlitRx_clock (p units) : KeepsClock s (execLinkFlitRx p units s) := by
  simp only [execLinkFlitRx, keepsClock_onCore, implies_true, onFlit_clock, takeLink_clock]

theorem execReplay_clock (p) : KeepsClock s (execReplay p s) := by simp only [execReplay, keepsClock_onCore, clock_ite, ite_self, inc_clock, modPort_clock]

theorem takeTime_clock (p arrival flit) : clock (c.takeTime p arrival flit) = clock c := by
  simp only [Core.takeTime, clock_ite, ite_self, modPort_clock, put_clock, putS_clock, stick_clock, raiseIf_clock]

theorem execTimeFlitRx_clock (p units arrival) : KeepsClock s (execTimeFlitRx p units arrival s) := by
  simp only [execTimeFlitRx, keepsClock_onCore, implies_true, onFlit_clock, takeTime_clock]

theorem execAlignmentMarker_clock (p l bits) : KeepsClock s (execAlignmentMarker p l bits s) := by
  simp only [execAlignmentMarker, keepsClock_onCore, clock_ite, ite_self, inc_clock, modPort_clock, badFlit_clock]

theorem frees_clock (n) : clock (c.frees n).2 = clock c := clock_congr rfl rfl

theorem eqAccept_clock (m p l v eyeH eyeW) : clock (eqAccept m c p l v eyeH eyeW).2 = clock c := by
  simp only [eqAccept, clock_foldl, implies_true, putS_clock, almAccept_clock]

theorem laneEq_clock (m p l) : clock (laneEq m c p l).2 = clock c := by
  simp only [laneEq, clock_ite, ite_self, apply_ite Prod.snd, frees_clock, almRefuse_clock, eqAccept_clock]

theorem trained_clock (p tr rev lanes) : clock (c.trained p tr rev lanes) = clock c := by
  simp only [Core.trained, clock_ite, ite_self, clock_foldl, implies_true, put_clock, setOn_clock, raiseIf_clock, stick_clock]

theorem firstFlit_clock (p tr lanes) : clock (c.firstFlit p tr lanes).1 = clock c := by simp only [Core.firstFlit, rxFlit_clock, modPort_clock]

theorem trainPort_clock (m p tr) : clock (trainPort m c p tr).2 = clock c := by
  simp only [trainPort, clock_ite, ite_self, apply_ite Prod.snd, clock_foldl_snd, implies_true, free_clock, portDown_clock, modPort_clock, trained_clock,
    setPort_clock, firstFlit_clock, laneEq_clock, portGo_clock]

theorem execPortTraining_clock (p tr) : KeepsClock s (execPortTraining p tr s) := by
  simp only [execPortTraining, keepsClock_onBoth, clock_ite, ite_self, apply_ite Prod.snd, trainPort_clock]

theorem execLaneFail_clock (p l cause) : KeepsClock s (execLaneFail p l cause s) := by
  simp only [execLaneFail, keepsClock_onCore, clock_ite, ite_self, put_clock, raise_clock, portRecover_clock, modPort_clock]

theorem execRecoveryEnd_clock (p tr) : KeepsClock s (execRecoveryEnd p tr s) := by
  simp only [execRecoveryEnd, keepsClock_onBoth, clock_ite, ite_self, apply_ite Prod.snd, trainPort_clock]

theorem execPortRetry_clock (p) : KeepsClock s (execPortRetry p s) := by simp only [execPortRetry, keepsClock_onCore, clock_ite, ite_self, portGo_clock, modPort_clock]

theorem execRetrain_clock (p) : KeepsClock s (execRetrain p s) := by
  simp only [execRetrain, keepsClock_onCore, clock_ite, ite_self, portGo_clock, modPort_clock, portDrop_clock]

theorem execDown_clock (p) : KeepsClock s (execDown p s) := by simp only [execDown, keepsClock_onCore, clock_ite, ite_self, modPort_clock, portDown_clock]

theorem execEqUpdate_clock (p l est eyeH eyeW) : KeepsClock s (execEqUpdate p l est eyeH eyeW s) := by
  simp only [execEqUpdate, keepsClock_onBoth, clock_ite, ite_self, apply_ite Prod.snd, put_clock, modPort_clock, almRefuse_clock, raise_clock, eqAccept_clock]

/-! ### The time port (R375-R390): its servo moves the offset, never the counter -/

theorem setOff_clock (x) : clock (c.setOff x) = clock c := by simp only [Core.setOff, clock_with, clock_ite, ite_self]
theorem moveOff_clock (x) : clock (c.moveOff x) = clock c := by simp only [Core.moveOff, clock_with, clock_ite, ite_self, setOff_clock]
theorem correct_clock (x) : clock (c.correct x) = clock c := by simp only [Core.correct, moveOff_clock, stick_clock]
theorem driftTick_clock : clock c.driftTick = clock c := by simp only [Core.driftTick, clock_with, clock_ite, ite_self, moveOff_clock]
theorem execDriftTick_clock : KeepsClock s (execDriftTick s) := by simp only [execDriftTick, keepsClock_onCore, clock_ite, ite_self, driftTick_clock]
theorem execTptCorr_clock (be e) : KeepsClock s (execTptCorr be e s) := by simp only [execTptCorr, keepsClock_onCore, clock_with, clock_ite, ite_self]
theorem execAccept_clock : KeepsClock s (execAccept s) := by simp only [execAccept, keepsClock_onCore, clock_ite, ite_self, put_clock, correct_clock]
theorem execSet_clock : KeepsClock s (execSet s) := by simp only [execSet, keepsClock_onCore, clock_ite, ite_self, moveOff_clock, stick_clock, put_clock, setOff_clock]

theorem execTxFrame_clock (frame quarter) : KeepsClock s (execTxFrame frame quarter s) := by
  refine keepsClock_onCore.2 ?_
  dsimp only
  (repeat' split) <;> simp only [clock_with, inc_clock, ringErr_clock]

theorem execRxFrame_clock (frame fcsOk quarter) : KeepsClock s (execRxFrame frame fcsOk quarter s) := by
  simp only [execRxFrame, keepsClock_onCore, clock_ite, ite_self, inc_clock, spoolWrite_clock, putEntry_clock]

theorem popStamp_clock : clock c.popStamp.2 = clock c := by
  unfold Core.popStamp
  split <;> simp only [clock_with, free_clock, put_clock]

theorem execTxtsPop_clock : KeepsClock s (execTxtsPop s) := by simp only [execTxtsPop, keepsClock_onCore, clock_ite, ite_self, emit_clock, popStamp_clock]

theorem execPpsOut_clock : KeepsClock s (execPpsOut s) := by
  refine keepsClock_onCore.2 ?_
  split
  · rfl
  · split <;> simp only [clock_with]

theorem execPpsPulseEnd_clock : KeepsClock s (execPpsPulseEnd s) := by simp only [execPpsPulseEnd, keepsClock_onCore, clock_with, clock_ite, ite_self]
theorem execPpsIn_clock (ns) : KeepsClock s (execPpsIn ns s) := by simp only [execPpsIn, keepsClock_onCore, clock_ite, ite_self, put_clock, inc_clock, raiseIf_clock]

theorem execTimeLinkChange_clock (up) : KeepsClock s (execTimeLinkChange up s) := by
  simp only [execTimeLinkChange, keepsClock_onCore, clock_ite, ite_self, raise_clock, setOn_clock]

/-! ### Calibration (R391-R413) -/

theorem collShow_clock (r k) : clock (c.collShow r k) = clock c := by simp only [Core.collShow, setOn_clock, raiseIf_clock, stick_clock]

theorem execCollMeasure_clock (r k track) : KeepsClock s (execCollMeasure r k track s) := by
  simp only [execCollMeasure, keepsClock_onBoth, clock_with, clock_ite, ite_self, apply_ite Prod.snd, unitEndAll_clock, almRefuse_clock, collShow_clock, putS_clock,
    almAccept_clock]

theorem opportunity_clock (r k rate) : clock (c.opportunity r k rate).1 = clock c := by
  unfold Core.opportunity
  split <;> simp only [clock_with, clock_ite, ite_self, apply_ite Prod.fst]

theorem execCollStep_clock (r) : KeepsClock s (execCollStep r s) := by
  simp only [execCollStep, keepsClock_onCore, clock_ite, ite_self, clock_foldl, implies_true, opportunity_clock, collShow_clock, putS_clock]

theorem almStore_clock (m e v) : clock (almStore m c e v).2 = clock c := by simp only [almStore, clock_ite, ite_self, apply_ite Prod.snd, almTouched_clock]
theorem misManual_clock (m a) : clock (c.misManual m a) = clock c := by simp only [Core.misManual, clock_ite, ite_self, clock_foldl, implies_true, modAdc_clock]

theorem execMisUpdate_clock (r j) : KeepsClock s (execMisUpdate r j s) := by
  simp only [execMisUpdate, keepsClock_onBoth, clock_ite, ite_self, apply_ite Prod.snd, clock_foldl_snd, implies_true, opportunity_clock, misManual_clock,
    modAdc_clock, almStore_clock, almRefuse_clock, almAccept_clock, stick_clock, clearSums_clock, inc_clock]

theorem backupStart_clock (m tag) : clock (c.backupStart m tag) = clock c := by
  unfold Core.backupStart
  dsimp only
  split <;> simp only [clock_with, free_clock, newWork_clock]

theorem backupEnd_clock (tag) : clock (c.backupEnd tag) = clock c := by
  unfold Core.backupEnd
  split <;> simp only [clock_with, dropWork_clock, raise_clock, put_clock]

theorem execAlmanacBackup_clock : KeepsClock s (execAlmanacBackup s) := by
  refine keepsClock_onCore.2 ?_
  split <;> simp only [clock_ite, ite_self, backupEnd_clock, backupStart_clock]

theorem calRun_clock {f : Mems → Core → Desc → CalJob → Mems × Core} (h : ∀ m c d j, SameClock c (f m c d j)) (n kind hold m) :
    clock (calRun n kind hold m c f).2 = clock c := by
  unfold calRun
  split
  · rfl
  · extract_lets +onlyGivenNames all units busy
    split
    · rfl
    · refine runCmd_clock _ (fun m c d => ?_) ..
      split
      · exact refuse_clock ..
      · exact h ..

theorem addJob_clock (j) : clock (c.addJob j) = clock c := by simp only [Core.addJob, clock_with, clock_ite, ite_self, jobEnd_clock, calBusy_clock, inExec_clock]

theorem execCalibrateMon_clock (n) : KeepsClock s (execCalibrateMon n s) := by
  simp only [execCalibrateMon, keepsClock_onBoth, implies_true, sameClock_iff, calRun_clock, monCalStart_clock, addJob_clock]

theorem execCalibrateHbm_clock (n) : KeepsClock s (execCalibrateHbm n s) := by
  simp only [execCalibrateHbm, keepsClock_onBoth, clock_with, clock_ite, ite_self, apply_ite Prod.snd, implies_true, sameClock_iff, calRun_clock, refuse_clock,
    addJob_clock]

theorem execCalibrateColl_clock (n) : KeepsClock s (execCalibrateColl n s) := by
  simp only [execCalibrateColl, keepsClock_onBoth, implies_true, sameClock_iff, calRun_clock, addJob_clock]

theorem execCalibrateMis_clock (n) : KeepsClock s (execCalibrateMis n s) := by
  refine keepsClock_onBoth.2 (calRun_clock _ (fun m c d j => ?_) ..)
  simp only [sameClock_iff, jobEnd_clock, clock_ite, clock_foldl, clearSums_clock, implies_true, ite_self]
  refine clock_foldl_snd (fun y e => ?_) _ _
  split
  · simp only [apply_ite Prod.snd, clock_ite, ite_self, almTouched_clock, modAdc_clock]
  · rfl

theorem execAdcFull_clock (n) : KeepsClock s (execAdcFull n s) := by
  simp only [execAdcFull, keepsClock_onBoth, clock_foldl, implies_true, sameClock_iff, calRun_clock, setCal_clock, addJob_clock]

theorem execDacFull_clock (n) : KeepsClock s (execDacFull n s) := by simp only [execDacFull, keepsClock_onBoth, implies_true, sameClock_iff, calRun_clock, addJob_clock]
theorem execBbFull_clock (n) : KeepsClock s (execBbFull n s) := by simp only [execBbFull, keepsClock_onBoth, implies_true, sameClock_iff, calRun_clock, addJob_clock]
theorem slicesLoad_clock (m e x) : clock (c.slicesLoad m e x) = clock c := by simp only [Core.slicesLoad, clock_ite, ite_self, clock_foldl, implies_true, modAdc_clock]

theorem fullUnit_clock (a : Mems × Core) (j res e) : clock (fullUnit j res a e).2 = clock a.2 := by
  unfold fullUnit
  dsimp only
  (repeat' split) <;> simp only [setCal_clock, unitEnd_clock, almRefuse_clock, almResult_clock, slicesLoad_clock]

theorem execForegroundCalEnd_clock (n res) : KeepsClock s (execForegroundCalEnd n res s) := by
  refine keepsClock_onBoth.2 ?_
  split <;> simp only [clock_ite, ite_self, apply_ite Prod.snd, clock_foldl_snd, implies_true, fullUnit_clock]

theorem forceLater_clock (e v) : clock (c.forceLater e v) = clock c := clock_congr rfl rfl

theorem manualApply_clock (h e v) : clock (c.manualApply h e v) = clock c := by
  unfold Core.manualApply
  split <;> simp only [clock_with, clock_ite, ite_self, setLiveW_clock, put_clock, collShow_clock, forceVal_clock, forceLater_clock]

theorem manualPut_clock (m h e v) : clock (manualPut m c h e v).2 = clock c := by simp only [manualPut, manualApply_clock, almTouched_clock]

theorem almSupplied_clock (m b) : clock (almSupplied m c b).2.1 = clock c := by
  unfold almSupplied
  dsimp only
  (repeat' split) <;> simp only [manualPut_clock, almTouched_clock, put_clock]

theorem almApply_clock (m j l) : clock (almApply m c j l).2 = clock c :=
  (jobEnd_clock ..).trans (clock_foldl_proj (fun y : Mems × Core × List (Nat × Nat) => y.2.1) (fun _ _ => almSupplied_clock ..) _ _)

theorem almGo_clock (m n k) : clock (almGo m c n k).2 = clock c := by simp only [almGo, clock_ite, ite_self, apply_ite Prod.snd, goLegs_clock, almApply_clock]

theorem execAlmWrite_clock (n data) : KeepsClock s (execAlmWrite n data s) := by
  refine keepsClock_onBoth.2 ?_
  split
  · exact almGo_clock ..
  · refine calRun_clock _ (fun m c d j => ?_) ..
    split
    · exact refuse_clock ..
    · exact carryCmd_clock _ (fun m c k => almGo_clock ..) ..

theorem execAlmBackup_clock (n) : KeepsClock s (execAlmBackup n s) := by
  refine keepsClock_onBoth.2 ?_
  split
  · dsimp only
    split <;> simp only [clock_ite, ite_self, refuse_clock, jobEnd_clock, backupEnd_clock]
  · refine calRun_clock _ (fun m c d j => ?_) ..
    simp only [sameClock_iff, apply_ite Prod.snd, clock_ite, ite_self, refuse_clock, inExec_clock, backupStart_clock]

/-! ### The monitor ADC (R231-R234) -/

theorem monNext_clock : clock c.monNext = clock c := clock_congr rfl rfl
theorem monAlarm_clock (e v) : clock (c.monAlarm e v) = clock c := by simp only [Core.monAlarm, clock_ite, ite_self, setOn_clock, raise_clock, put_clock]

theorem execMonEntryConvert_clock (codes) : KeepsClock s (execMonEntryConvert codes s) := by
  simp only [execMonEntryConvert, keepsClock_onCore, clock_ite, ite_self, monNext_clock, put_clock, monAlarm_clock]

theorem execMonSelfCal_clock (offset gain) : KeepsClock s (execMonSelfCal offset gain s) := by
  simp only [execMonSelfCal, keepsClock_onBoth, clock_with, clock_ite, ite_self, apply_ite Prod.snd, monCalStart_clock, monCalDone_clock, unitEndAll_clock,
    almRefuse_clock, almAccept_clock]

theorem monSet_clock (e) : clock (c.monSet e) = clock c := by simp only [Core.monSet, clock_with, clock_ite, ite_self, put_clock]

/-! ### Host accesses to BAR0 (R454-R464) -/

theorem noteUnocc_clock (off write) : clock (c.noteUnocc off write) = clock c := by simp only [Core.noteUnocc, inc_clock, setLiveW_clock]

theorem noteWords_clock (off ws write) : clock (c.noteWords off ws write) = clock c := by
  unfold Core.noteWords
  split <;> simp only [noteUnocc_clock]

theorem keepOcc_clock (n) : clock (c.keepOcc n) = clock c := by simp only [Core.keepOcc, clock_with, clock_ite, ite_self]
theorem wdogStart_clock (a) : clock (c.wdogStart a) = clock c := by simp only [Core.wdogStart, clock_ite, ite_self, modArb_clock]

theorem beforeWrite_clock (n) : clock (c.beforeWrite n) = clock c := by
  simp only [Core.beforeWrite, clock_with, clock_ite, ite_self, clock_foldl, implies_true, keepOcc_clock, wdogStart_clock, driftTick_clock]

theorem afterWrite_clock (m n) : clock (c.afterWrite m n) = clock c := by
  unfold Core.afterWrite
  dsimp only
  (repeat' split) <;> simp only [clock_with, clock_ite, ite_self, clock_foldl, implies_true, raise_clock, stick_clock, collShow_clock, portDown_clock, monSet_clock,
    put_clock, putS_clock]

theorem plainWrite_clock (m n v mask) : clock (c.plainWrite m n v mask) = clock c := by
  unfold Core.plainWrite
  (repeat' split) <;> simp only [put_clock, liveWrite_clock, afterWrite_clock, beforeWrite_clock, clock_ite, ite_self]

theorem writeWord_clock (m off v mask) : clock (c.writeWord m off v mask) = clock c := by
  unfold Core.writeWord
  (repeat' split) <;> simp only [shadowWrite_clock, msixWrite_clock, plainWrite_clock]

theorem execRegisterWrite_clock (off len be val) : KeepsClock s (execRegisterWrite off len be val s) := by
  simp only [execRegisterWrite, keepsClock_onCore, clock_ite, ite_self, clock_foldl, implies_true, emit_clock, writeWord_clock, noteWords_clock]

theorem execCelFrameWrite_clock (g x z) : KeepsClock s (execCelFrameWrite g x z s) := by
  simp only [execCelFrameWrite, keepsClock_onCore, clock_ite, ite_self, put_clock, modCell_clock, setFrame_clock]

theorem capture_clock (l) : clock (c.capture l) = clock c := clock_congr rfl rfl

theorem readCapture_clock (n) : clock (c.readCapture n).2 = clock c := by
  simp only [Core.readCapture, clock_ite, ite_self, apply_ite Prod.snd, capture_clock, popStamp_clock]

theorem readEffect_clock (off mask) : clock (c.readEffect off mask).2 = clock c := by
  simp only [Core.readEffect, clock_ite, ite_self, apply_ite Prod.snd, readCapture_clock, clearRc_clock]

theorem readAll_clock (off len) : clock (c.readAll off len).2 = clock c := by simp only [Core.readAll, clock_foldl_snd, implies_true, readEffect_clock]
theorem hostRead_clock (off len) : clock (c.hostRead off len) = clock c := by simp only [Core.hostRead, clock_ite, ite_self, emit_clock, readAll_clock, noteWords_clock]

theorem execRegisterReadClear_clock (off len) : KeepsClock s (execRegisterReadClear off len s) := by
  simp only [execRegisterReadClear, keepsClock_onCore, clock_ite, ite_self, hostRead_clock]

theorem execCaptureRead_clock (off len) : KeepsClock s (execCaptureRead off len s) := by
  simp only [execCaptureRead, keepsClock_onCore, clock_ite, ite_self, hostRead_clock]

theorem execUnoccupiedAccess_clock (off write) : KeepsClock s (execUnoccupiedAccess off write s) := by
  simp only [execUnoccupiedAccess, keepsClock_onCore, clock_ite, ite_self, noteUnocc_clock, emit_clock]

/-! ### Bring-up and D3hot outside REF_LOCK (R410, R431, R436-R445) -/

theorem cutSeries_clock : clock c.cutSeries = clock c := by simp only [Core.cutSeries, clock_ite, ite_self, stopNow_clock, cutShot_clock]

theorem ringOff_clock (n) : clock (c.ringOff n) = clock c := by
  unfold Core.ringOff
  dsimp only
  split <;> simp only [clock_ite, ite_self, put_clock, modRing_clock]

theorem leaveD3_clock : clock c.leaveD3 = clock c := by simp only [Core.leaveD3, clock_with, clock_ite, ite_self]

theorem execFlr_clock : KeepsClock s (execFlr s) := by
  simp only [execFlr, keepsClock_onCore, clock_with, clock_ite, ite_self, clock_foldl, implies_true, cutSeries_clock, leaveD3_clock, acqStop_clock, ringOff_clock,
    setLiveW_clock, put_clock]

theorem execD3hotEntry_clock : KeepsClock s (execD3hotEntry s) := by
  simp only [execD3hotEntry, keepsClock_onCore, clock_with, clock_ite, ite_self, cutSeries_clock, srForD3_clock]

theorem execD0Return_clock : KeepsClock s (execD0Return s) := by simp only [execD0Return, keepsClock_onCore, leaveD3_clock]
theorem toStage_clock (k) : clock (c.toStage k) = clock c := by simp only [Core.toStage, put_clock]
theorem bootFail_clock (f) : clock (c.bootFail f) = clock c := by simp only [Core.bootFail, emit_clock, put_clock]

theorem execPowerGood_clock (railsOk inTime) : KeepsClock s (execPowerGood railsOk inTime s) := by
  simp only [execPowerGood, keepsClock_onCore, clock_ite, ite_self, bootFail_clock, toStage_clock]

theorem execRefLock_clock (pllOk inTime) : KeepsClock s (execRefLock pllOk inTime s) := by
  simp only [execRefLock, keepsClock_onCore, clock_with, clock_ite, ite_self, bootFail_clock]

theorem execSyncFrameTx_clock : KeepsClock s (execSyncFrameTx s) := by simp only [execSyncFrameTx, keepsClock_onCore, clock_with, clock_ite, ite_self]

theorem factoryApply_clock (e v) : clock (c.factoryApply e v) = clock c := by
  unfold Core.factoryApply
  split
  · rfl
  · split
    · exact modAdc_clock ..
    · exact manualApply_clock ..

theorem execFuseLoad_clock (fuses ok inTime) : KeepsClock s (execFuseLoad fuses ok inTime s) := by
  simp only [execFuseLoad, keepsClock_onBoth, clock_with, clock_ite, ite_self, apply_ite Prod.snd, clock_foldl_snd, implies_true, bootFail_clock, put_clock,
    factoryApply_clock, toStage_clock]

theorem execJtagEnRelease_clock : KeepsClock s (execJtagEnRelease s) := by simp only [execJtagEnRelease, keepsClock_onCore, clock_with]
theorem allUnits_clock : clock c.allUnits = clock c := by simp only [Core.allUnits, clock_foldl, implies_true, put_clock, setLiveW_clock]

theorem execSelfTest_clock (failed inTime) : KeepsClock s (execSelfTest failed inTime s) := by
  refine keepsClock_onCore.2 ?_
  simp only [clock_ite, bootFail_clock, toStage_clock, clock_foldl, parkStep_clock, implies_true, ite_self]
  split
  · rfl
  · split
    · rfl
    · split
      · rfl
      · refine (clock_foldl (fun c u => ?_) _ _).trans ?_
        · split <;> simp only [clock_ite, ite_self, clearBoth_clock]
        · simp only [clock_foldl, implies_true, disable_clock, allUnits_clock]

theorem sensorCal_clock (a : Mems × Core) (s count tref) : clock (sensorCal a s count tref).2 = clock a.2 := by
  simp only [sensorCal, clock_ite, ite_self, apply_ite Prod.snd, almRefuse_clock, free_clock, almAccept_clock]

theorem analogResult_clock (a : Mems × Core) (x) : clock (analogResult a x).2 = clock a.2 := by
  unfold analogResult
  split
  · rfl
  · split <;> simp only [clock_ite, ite_self, apply_ite Prod.snd, almAccept_clock, manualApply_clock, almRefuse_clock, putS_clock, almResult_clock, slicesLoad_clock]

theorem stageLate_clock (inTime) : clock (c.stageLate inTime) = clock c := by simp only [Core.stageLate, clock_ite, ite_self, put_clock]

theorem execAnalogCal_clock (therm res inTime) : KeepsClock s (execAnalogCal therm res inTime s) := by
  simp only [execAnalogCal, keepsClock_onBoth, clock_ite, ite_self, apply_ite Prod.snd, clock_foldl, clock_foldl_snd, implies_true, sensorCal_clock,
    analogResult_clock, collShow_clock, putS_clock, hbmGo_clock, toStage_clock, stageLate_clock]

theorem restoreCopy_clock (m k) : clock (restoreCopy m c k).2 = clock c := by
  refine clock_foldl_snd (fun y e => ?_) _ _
  split
  · rfl
  · simp only [apply_ite Prod.snd, clock_ite, ite_self, manualPut_clock]

theorem restoreFrom_clock (m x) : clock (restoreFrom m c x).2 = clock c := by
  unfold restoreFrom
  split <;> simp only [raise_clock, free_clock, restoreCopy_clock, put_clock]

theorem almRestore_clock (m) : clock (almRestore m c).2 = clock c := by
  simp only [almRestore, clock_foldl, implies_true, raiseIf_clock, hCounts_clock, restoreFrom_clock]

theorem afterHbm_clock : clock c.afterHbm = clock c := by simp only [Core.afterHbm, clock_with, clock_ite, ite_self, toStage_clock, put_clock]

theorem execHbmTrain_clock (ok inTime res) : KeepsClock s (execHbmTrain ok inTime res s) := by
  simp only [execHbmTrain, keepsClock_onBoth, clock_with, clock_ite, ite_self, apply_ite Prod.snd, noHbm_clock, stageLate_clock, afterHbm_clock, put_clock,
    setOn_clock, hbmGo_clock, storeAll_clock, almRestore_clock]

theorem execLaneTrain_clock (ports inTime) : KeepsClock s (execLaneTrain ports inTime s) := by
  simp only [execLaneTrain, keepsClock_onBoth, clock_with, clock_ite, ite_self, apply_ite Prod.snd, clock_foldl_snd, implies_true, trainPort_clock, stageLate_clock,
    setOn_clock]

theorem execService_clock (ms inTime) : KeepsClock s (execService ms inTime s) := by
  simp only [execService, keepsClock_onCore, clock_ite, ite_self, bootFail_clock, toStage_clock, put_clock, raise_clock]

/-! ### JTAG and SMBus (R483-R486) -/

theorem jtag_clock (ir data out hiZ) : clock (c.jtag ir data out hiZ) = clock c := clock_congr rfl rfl
theorem execJtagBypass_clock (code) : KeepsClock s (execJtagBypass code s) := by simp only [execJtagBypass, keepsClock_onCore, clock_ite, ite_self, jtag_clock]
theorem execJtagIdcode_clock : KeepsClock s (execJtagIdcode s) := by simp only [execJtagIdcode, keepsClock_onCore, jtag_clock]

theorem execJtagSamplePreload_clock (pins load) : KeepsClock s (execJtagSamplePreload pins load s) := by
  simp only [execJtagSamplePreload, keepsClock_onCore, clock_with, clock_ite, ite_self, jtag_clock]

theorem execJtagExtest_clock (pins load) : KeepsClock s (execJtagExtest pins load s) := by
  simp only [execJtagExtest, keepsClock_onCore, clock_with, clock_ite, ite_self, jtag_clock]

theorem execJtagClamp_clock : KeepsClock s (execJtagClamp s) := by simp only [execJtagClamp, keepsClock_onCore, jtag_clock]
theorem execJtagHighz_clock : KeepsClock s (execJtagHighz s) := by simp only [execJtagHighz, keepsClock_onCore, jtag_clock]
theorem smbAnswer_clock (cmd data) : clock (c.smbAnswer cmd data) = clock c := clock_congr rfl rfl
theorem execSmbStatus_clock : KeepsClock s (execSmbStatus s) := by simp only [execSmbStatus, keepsClock_onCore, smbAnswer_clock]

theorem execSmbMaxTemp_clock : KeepsClock s (execSmbMaxTemp s) := by
  refine keepsClock_onCore.2 ?_
  split <;> simp only [free_clock, smbAnswer_clock]

theorem execSmbMaxSensor_clock : KeepsClock s (execSmbMaxSensor s) := by
  refine keepsClock_onCore.2 ?_
  split <;> simp only [smbAnswer_clock, free_clock]

theorem execSmbShutdowns_clock : KeepsClock s (execSmbShutdowns s) := by simp only [execSmbShutdowns, keepsClock_onCore, smbAnswer_clock]
theorem execSmbResetCause_clock : KeepsClock s (execSmbResetCause s) := by simp only [execSmbResetCause, keepsClock_onCore, smbAnswer_clock]
theorem execSmbPart_clock : KeepsClock s (execSmbPart s) := by simp only [execSmbPart, keepsClock_onCore, smbAnswer_clock]

theorem execSmbSensorTemp_clock (x) : KeepsClock s (execSmbSensorTemp x s) := by
  simp only [execSmbSensorTemp, keepsClock_onCore, clock_with, clock_ite, ite_self, smbAnswer_clock]

/-! ### What sets or stops the counter: REF_LOCK, the resets, the thermal shutdown (R59, R425, R437, R441) -/

/-- A step keeps the clock, or it ends bring-up stage 2, in which alone the counter is set. -/
def MayStart (s : State) (o : Host.Outcome State Fault Refusal) : Prop :=
  ∀ t, o = .next t → clock t.core = clock s.core ∨ (s.core.inStage 2 = true ∧ t.core.inStage 2 = false)

/-- A step keeps the clock or stops it at 0. -/
def MayStop (s : State) (o : Host.Outcome State Fault Refusal) : Prop :=
  ∀ t, o = .next t → clock t.core = clock s.core ∨ clock t.core = (0, false)

theorem mayStop_onBoth {s : State} {f : Mems → Core → Mems × Core} :
    MayStop s (s.onBoth f) ↔ clock (f s.mem s.core).2 = clock s.core ∨ clock (f s.mem s.core).2 = (0, false) :=
  ⟨fun h => h _ rfl, fun h t e => by cases e; exact h⟩

/-- The start of the counter takes bring-up to its next stage. -/
theorem startCount_inStage (t role) : (c.startCount t role).inStage 2 = false := by
  have h : (c.startCount t role).get Fd.CHP_BOOT_STS_STAGE = 3 := get_put_same _ Fd.CHP_BOOT_STS_STAGE 3 (by decide)
  rw [Core.inStage, h]
  rfl

theorem execSyncListenEnd_mayStart (allLow) : MayStart s (execSyncListenEnd allLow s) := by
  rintro _ ⟨⟩
  dsimp only
  split
  · exact .inl rfl
  next hs =>
    split
    · refine .inr ⟨?_, startCount_inStage ..⟩
      simp only [Bool.or_eq_true, Bool.not_eq_true', not_or, Bool.not_eq_false] at hs
      exact hs.1
    · exact .inl (clock_with ..)

theorem execSyncFrameRx_mayStart (e crc marker) : MayStart s (execSyncFrameRx e crc marker s) := by
  rintro _ ⟨⟩
  dsimp only
  split
  next hs =>
    split
    · exact .inr ⟨(Bool.and_eq_true_iff.1 hs).1, startCount_inStage ..⟩
    · exact .inl rfl
  · refine .inl ?_
    simp only [clock_ite, put_clock, putS_clock, inc_clock, raise_clock, ite_self]

theorem restart_clock (aon cause st) : clock (c.restart aon cause st) = (0, false) := by
  simp only [Core.restart, put_clock, clock_with]
  rfl

theorem resetTo_clock (m aon cause kept st) : clock (resetTo m c aon cause kept st).2 = (0, false) := by
  simp only [resetTo, clock_with, clock_foldl, setOn_clock, implies_true, put_clock, restart_clock]

theorem thermTrip_clock (x) : clock (c.thermTrip x) = (0, false) := by
  simp only [Core.thermTrip, clock_with, inc_clock, clock_foldl, setLiveW_clock, implies_true, restart_clock]

theorem windowJudge_clock (m fs zs) : clock (c.windowJudge m fs zs).2 = clock c ∨ clock (c.windowJudge m fs zs).2 = (0, false) := by
  unfold Core.windowJudge
  extract_lets +onlyGivenNames held blind c1 c2
  have h2 : clock c2 = clock c := by
    simp only [c2, c1, clock_foldl, hold_clock, clock_ite, startGrace_clock, ite_self, implies_true]
  clear_value c2
  cases c2.shutSensor with
  | some x => exact .inr (thermTrip_clock ..)
  | none =>
    refine .inl (Eq.trans ?_ h2)
    simp only [stackHeat_clock, clock_foldl, setStep_clock, judgeZone_clock, raise_clock, implies_true]

theorem execPowerOn_mayStop (st) : MayStop s (execPowerOn st s) := mayStop_onBoth.2 (.inr (resetTo_clock ..))

theorem execPwrOkLow_mayStop (st) : MayStop s (execPwrOkLow st s) := by
  refine mayStop_onBoth.2 ?_
  split
  · split
    · exact .inr (resetTo_clock ..)
    · exact .inl rfl
  · exact .inr (resetTo_clock ..)

theorem execPerst_mayStop (st) : MayStop s (execPerst st s) := by
  refine mayStop_onBoth.2 ?_
  split
  · exact .inl rfl
  · exact .inr (resetTo_clock ..)

theorem execChipReset_mayStop (be val st) : MayStop s (execChipReset be val st s) := by
  refine mayStop_onBoth.2 ?_
  split
  · exact .inl rfl
  · extract_lets +onlyGivenNames w bad v c1
    split
    · exact .inr (resetTo_clock ..)
    · refine .inl ?_
      simp only [c1, clock_ite, free_clock, ite_self]

theorem execThermalRestart_mayStop (rails st) : MayStop s (execThermalRestart rails st s) := by
  refine mayStop_onBoth.2 ?_
  split
  · split
    · exact .inr (resetTo_clock ..)
    · exact .inl (clock_with ..)
  · exact .inl rfl

theorem execSensorWindow_mayStop (counts) : MayStop s (execSensorWindow counts s) := by
  refine mayStop_onBoth.2 ?_
  extract_lets +onlyGivenNames ss
  split
  · exact .inl rfl
  · extract_lets +onlyGivenNames y c1
    have h1 : clock c1 = clock s.core := by
      refine clock_foldl_fst (fun x e => ?_) _ _
      exact sensorRead_clock ..
    clear_value c1
    split
    · split
      · exact .inr (thermTrip_clock ..)
      · refine .inl (Eq.trans ?_ h1)
        simp only [clock_with, clock_foldl, raise_clock, implies_true]
    · rw [← h1]
      exact windowJudge_clock ..

/-! ### Every command -/

/-- The commands that can set or stop the counter: the two that end REF_LOCK, and the resets. -/
def movesClock : Instr → Bool
  | .syncListenEnd _ | .syncFrameRx _ _ _ => true
  | i => resets i

/-- Neither software, the servo of the time port, throttling nor a parked region moves the counter (R33). -/
theorem exec_keepsClock (i : Instr) (h : movesClock i = false) : KeepsClock s (exec i s) := by
  cases i with
  | powerOn => cases h
  | pwrOkLow => cases h
  | perst => cases h
  | chipReset => cases h
  | flr => exact execFlr_clock s
  | powerGood railsOk inTime => exact execPowerGood_clock s railsOk inTime
  | refLock pllOk inTime => exact execRefLock_clock s pllOk inTime
  | syncListenEnd => cases h
  | syncFrameRx => cases h
  | syncFrameTx => exact execSyncFrameTx_clock s
  | fuseLoad fuses ok inTime => exact execFuseLoad_clock s fuses ok inTime
  | selfTest failed inTime => exact execSelfTest_clock s failed inTime
  | jtagEnRelease => exact execJtagEnRelease_clock s
  | analogCal therm res inTime => exact execAnalogCal_clock s therm res inTime
  | hbmTrain ok inTime res => exact execHbmTrain_clock s ok inTime res
  | laneTrain ports inTime => exact execLaneTrain_clock s ports inTime
  | service ms inTime => exact execService_clock s ms inTime
  | d3hotEntry => exact execD3hotEntry_clock s
  | d0Return => exact execD0Return_clock s
  | loadSegment n data => exact execLoadSegment_clock s n data
  | loadConfig n data => exact execLoadConfig_clock s n data
  | loadConfigProfile n data => exact execLoadConfigProfile_clock s n data
  | commit n => exact execCommit_clock s n
  | commitCheckOnly n => exact execCommitCheckOnly_clock s n
  | commitComplete => exact execCommitComplete_clock s
  | run n => exact execRun_clock s n
  | stop n => exact execStop_clock s n
  | stopCut n => exact execStopCut_clock s n
  | armCapture n => exact execArmCapture_clock s n
  | postSpool n entries => exact execPostSpool_clock s n entries
  | calibrateMon n => exact execCalibrateMon_clock s n
  | calibrateHbm n => exact execCalibrateHbm_clock s n
  | calibrateColl n => exact execCalibrateColl_clock s n
  | calibrateMis n => exact execCalibrateMis_clock s n
  | adcFull n => exact execAdcFull_clock s n
  | dacFull n => exact execDacFull_clock s n
  | bbFull n => exact execBbFull_clock s n
  | foregroundCalEnd n res => exact execForegroundCalEnd_clock s n res
  | almWrite n data => exact execAlmWrite_clock s n data
  | almBackup n => exact execAlmBackup_clock s n
  | query n => exact execQuery_clock s n
  | queryDrainSnapshot n => exact execQueryDrainSnapshot_clock s n
  | fence n => exact execFence_clock s n
  | fenceTimeout n => exact execFenceTimeout_clock s n
  | lockRelease n => exact execLockRelease_clock s n
  | descriptorFetch n e => exact execDescriptorFetch_clock s n e
  | phaseRetry n e => exact execPhaseRetry_clock s n e
  | doorbell n off len val => exact execDoorbell_clock s n off len val
  | ringEnable n be val => exact execRingEnable_clock s n be val
  | resume n => exact execResume_clock s n
  | completionWrite n => exact execCompletionWrite_clock s n
  | writeBack n => exact execWriteBack_clock s n
  | ringInterrupt n => exact execRingInterrupt_clock s n
  | eventWrite => exact execEventWrite_clock s
  | resultDelivery => exact execResultDelivery_clock s
  | streamRecord n rec => exact execStreamRecord_clock s n rec
  | bar4Access addr write data => exact execBar4Access_clock s addr write data
  | registerWrite off len be val => exact execRegisterWrite_clock s off len be val
  | registerReadClear off len => exact execRegisterReadClear_clock s off len
  | captureRead off len => exact execCaptureRead_clock s off len
  | unoccupiedAccess off write => exact execUnoccupiedAccess_clock s off write
  | quarReq g => exact execQuarReq_clock s g
  | hostEv g => exact execHostEv_clock s g
  | celFrameWrite g x z => exact execCelFrameWrite_clock s g x z
  | park r => exact execPark_clock s r
  | unpark r => exact execUnpark_clock s r
  | reinitDone r failed => exact execReinitDone_clock s r failed
  | chipUnpark => exact execChipUnpark_clock s
  | chipFault cause => exact execChipFault_clock s cause
  | shotBegin => exact execShotBegin_clock s
  | shotFirstStamp r => exact execShotFirstStamp_clock s r
  | drainStart r => exact execDrainStart_clock s r
  | ledgerCheck r => exact execLedgerCheck_clock s r
  | drainGather r => exact execDrainGather_clock s r
  | frameDrainApply r => exact execFrameDrainApply_clock s r
  | swap r => exact execSwap_clock s r
  | drainPostSwap r => exact execDrainPostSwap_clock s r
  | copybackEnd => exact execCopybackEnd_clock s
  | drainEnd r => exact execDrainEnd_clock s r
  | leadLoopUpdate r => exact execLeadLoopUpdate_clock s r
  | vrAck p => exact execVrAck_clock s p
  | vrTimeout p => exact execVrTimeout_clock s p
  | handshakeRequest book unit => exact execHandshakeRequest_clock s book unit
  | handshakeAck book unit => exact execHandshakeAck_clock s book unit
  | seqNop g => exact execSeqNop_clock s g
  | seqPlay g => exact execSeqPlay_clock s g
  | seqGap g => exact execSeqGap_clock s g
  | seqMeasure g => exact execSeqMeasure_clock s g
  | seqWait g => exact execSeqWait_clock s g
  | seqJmp g => exact execSeqJmp_clock s g
  | seqLoop g => exact execSeqLoop_clock s g
  | seqEndl g => exact execSeqEndl_clock s g
  | seqSignal g => exact execSeqSignal_clock s g
  | seqPrefetch g => exact execSeqPrefetch_clock s g
  | seqEnd g => exact execSeqEnd_clock s g
  | seqSetf g => exact execSeqSetf_clock s g
  | seqSetp g => exact execSeqSetp_clock s g
  | seqAddp g => exact execSeqAddp_clock s g
  | seqSeta g => exact execSeqSeta_clock s g
  | seqLock g => exact execSeqLock_clock s g
  | seqUnlock g => exact execSeqUnlock_clock s g
  | seqMtag g => exact execSeqMtag_clock s g
  | seqSround g => exact execSeqSround_clock s g
  | seqFrame g => exact execSeqFrame_clock s g
  | stageLineArrival g segid line => exact execStageLineArrival_clock s g segid line
  | underrun g => exact execUnderrun_clock s g
  | queueEntryArrival g => exact execQueueEntryArrival_clock s g
  | markerArrival g => exact execMarkerArrival_clock s g
  | laneRelease u => exact execLaneRelease_clock s u
  | exitSelect g => exact execExitSelect_clock s g
  | waitHolds g => exact execWaitHolds_clock s g
  | waitExpiry g => exact execWaitExpiry_clock s g
  | signalPost g => exact execSignalPost_clock s g
  | discriminatorLatch g => exact execDiscriminatorLatch_clock s g
  | watchSlotFill g x => exact execWatchSlotFill_clock s g x
  | compareRunPost v => exact execCompareRunPost_clock s v
  | trigInEdge x level k => exact execTrigInEdge_clock s x level k
  | trigOutStart x => exact execTrigOutStart_clock s x
  | trigOutEnd x => exact execTrigOutEnd_clock s x
  | decisionFlitSend p => exact execDecisionFlitSend_clock s p
  | decisionFlitDeliver p => exact execDecisionFlitDeliver_clock s p
  | frameWriteTick g => exact execFrameWriteTick_clock s g
  | roundOpen r => exact execRoundOpen_clock s r
  | roundClose r => exact execRoundClose_clock s r
  | defectForm r => exact execDefectForm_clock s r
  | defectImport p r => exact execDefectImport_clock s p r
  | importDeadline r => exact execImportDeadline_clock s r
  | groupLookup r => exact execGroupLookup_clock s r
  | toggleSend r => exact execToggleSend_clock s r
  | arm ch => exact execArm_clock s ch
  | disarm ch => exact execDisarm_clock s ch
  | softTrig ch => exact execSoftTrig_clock s ch
  | rateReset ch => exact execRateReset_clock s ch
  | acqTrigger ch => exact execAcqTrigger_clock s ch
  | autoTimeout ch => exact execAutoTimeout_clock s ch
  | plateClose ch => exact execPlateClose_clock s ch
  | acqReady ch => exact execAcqReady_clock s ch
  | rateCheck ch => exact execRateCheck_clock s ch
  | loss ch => exact execLoss_clock s ch
  | plateSpooled ch => exact execPlateSpooled_clock s ch
  | monEntryConvert codes => exact execMonEntryConvert_clock s codes
  | monSelfCal offset gain => exact execMonSelfCal_clock s offset gain
  | hbmRequest q addr len write data => exact execHbmRequest_clock s q addr len write data
  | hbmAccessIssue pc corr ue => exact execHbmAccessIssue_clock s pc corr ue
  | hbmRefresh pc bank => exact execHbmRefresh_clock s pc bank
  | scrub corr ue => exact execScrub_clock s corr ue
  | retrainPause pc => exact execRetrainPause_clock s pc
  | retrainApply val eye => exact execRetrainApply_clock s val eye
  | hbmRateChange rate => exact execHbmRateChange_clock s rate
  | rateChangeDone okNew okOld res => exact execRateChangeDone_clock s okNew okOld res
  | hbmMappingWrite off be val => exact execHbmMappingWrite_clock s off be val
  | standby be val => exact execStandby_clock s be val
  | autoSrEntry => exact execAutoSrEntry_clock s
  | srHeldRequest q addr len write data => exact execSrHeldRequest_clock s q addr len write data
  | srExitDone => exact execSrExitDone_clock s
  | arbGrant a n reqs => exact execArbGrant_clock s a n reqs
  | burstExpiry q => exact execBurstExpiry_clock s q
  | starve a x n => exact execStarve_clock s a x n
  | arbWatchdog q => exact execArbWatchdog_clock s q
  | priorityWrite r b reg be val => exact execPriorityWrite_clock s r b reg be val
  | flitSend p => exact execFlitSend_clock s p
  | sendLate p v => exact execSendLate_clock s p v
  | flitAccept p units => exact execFlitAccept_clock s p units
  | replay p => exact execReplay_clock s p
  | linkFlitRx p units => exact execLinkFlitRx_clock s p units
  | timeFlitRx p units arrival => exact execTimeFlitRx_clock s p units arrival
  | alignmentMarker p l bits => exact execAlignmentMarker_clock s p l bits
  | portTraining p tr => exact execPortTraining_clock s p tr
  | laneFail p l cause => exact execLaneFail_clock s p l cause
  | recoveryEnd p tr => exact execRecoveryEnd_clock s p tr
  | portRetry p => exact execPortRetry_clock s p
  | retrain p => exact execRetrain_clock s p
  | down p => exact execDown_clock s p
  | eqUpdate p l est eyeH eyeW => exact execEqUpdate_clock s p l est eyeH eyeW
  | tptCorr be e => exact execTptCorr_clock s be e
  | accept => exact execAccept_clock s
  | set => exact execSet_clock s
  | driftTick => exact execDriftTick_clock s
  | txFrame frame quarter => exact execTxFrame_clock s frame quarter
  | rxFrame frame fcsOk quarter => exact execRxFrame_clock s frame fcsOk quarter
  | ppsIn ns => exact execPpsIn_clock s ns
  | collMeasure r k track => exact execCollMeasure_clock s r k track
  | collStep r => exact execCollStep_clock s r
  | misUpdate r j => exact execMisUpdate_clock s r j
  | sensorWindow => cases h
  | graceExpiry z => exact execGraceExpiry_clock s z
  | thmMaskWrite k be val => exact execThmMaskWrite_clock s k be val
  | thermalRestart => cases h
  | eventTake g => exact execEventTake_clock s g
  | phxNopa g => exact execPhxNopa_clock s g
  | phxVmov g => exact execPhxVmov_clock s g
  | phxVadd g => exact execPhxVadd_clock s g
  | phxVsub g => exact execPhxVsub_clock s g
  | phxVcmul g => exact execPhxVcmul_clock s g
  | phxVconj g => exact execPhxVconj_clock s g
  | phxValn g => exact execPhxValn_clock s g
  | phxVbcst g => exact execPhxVbcst_clock s g
  | phxMacz g => exact execPhxMacz_clock s g
  | phxMac g => exact execPhxMac_clock s g
  | phxMacc g => exact execPhxMacc_clock s g
  | phxMsub g => exact execPhxMsub_clock s g
  | phxMova g => exact execPhxMova_clock s g
  | phxNop g => exact execPhxNop_clock s g
  | phxAdd g => exact execPhxAdd_clock s g
  | phxSub g => exact execPhxSub_clock s g
  | phxAnd g => exact execPhxAnd_clock s g
  | phxOr g => exact execPhxOr_clock s g
  | phxXor g => exact execPhxXor_clock s g
  | phxShl g => exact execPhxShl_clock s g
  | phxShr g => exact execPhxShr_clock s g
  | phxSar g => exact execPhxSar_clock s g
  | phxMul g => exact execPhxMul_clock s g
  | phxLi g => exact execPhxLi_clock s g
  | phxLui g => exact execPhxLui_clock s g
  | phxAddi g => exact execPhxAddi_clock s g
  | phxLd g => exact execPhxLd_clock s g
  | phxSt g => exact execPhxSt_clock s g
  | phxLdv g => exact execPhxLdv_clock s g
  | phxStv g => exact execPhxStv_clock s g
  | phxMovp g => exact execPhxMovp_clock s g
  | phxMovm g => exact execPhxMovm_clock s g
  | phxSetl g => exact execPhxSetl_clock s g
  | phxVget g => exact execPhxVget_clock s g
  | phxVput g => exact execPhxVput_clock s g
  | phxIn g => exact execPhxIn_clock s g
  | phxOut g => exact execPhxOut_clock s g
  | phxOuta g => exact execPhxOuta_clock s g
  | phxJmp g => exact execPhxJmp_clock s g
  | phxBr g => exact execPhxBr_clock s g
  | phxLoop g => exact execPhxLoop_clock s g
  | phxWaite g => exact execPhxWaite_clock s g
  | phxRete g => exact execPhxRete_clock s g
  | phxHalt g => exact execPhxHalt_clock s g
  | phxMovxRead g => exact execPhxMovxRead_clock s g
  | phxMovxWrite g => exact execPhxMovxWrite_clock s g
  | jtagSamplePreload pins load => exact execJtagSamplePreload_clock s pins load
  | smbSensorTemp x => exact execSmbSensorTemp_clock s x
  | adcSample r j a b => exact execAdcSample_clock s r j a b
  | vectorStrobe v mv => exact execVectorStrobe_clock s v mv
  | timeLinkChange up => exact execTimeLinkChange_clock s up
  | blockFault r b => exact execBlockFault_clock s r b
  | regionFault r => exact execRegionFault_clock s r
  | almanacBackup => exact execAlmanacBackup_clock s
  | txtsPop => exact execTxtsPop_clock s
  | ppsOut => exact execPpsOut_clock s
  | srEntryDone => exact execSrEntryDone_clock s
  | standbyRetry => exact execStandbyRetry_clock s
  | retrainPauseEnd => exact execRetrainPauseEnd_clock s
  | ppsPulseEnd => exact execPpsPulseEnd_clock s
  | jtagBypass code => exact execJtagBypass_clock s code
  | jtagIdcode => exact execJtagIdcode_clock s
  | jtagExtest pins load => exact execJtagExtest_clock s pins load
  | jtagClamp => exact execJtagClamp_clock s
  | jtagHighz => exact execJtagHighz_clock s
  | smbStatus => exact execSmbStatus_clock s
  | smbMaxTemp => exact execSmbMaxTemp_clock s
  | smbMaxSensor => exact execSmbMaxSensor_clock s
  | smbShutdowns => exact execSmbShutdowns_clock s
  | smbResetCause => exact execSmbResetCause_clock s
  | smbPart => exact execSmbPart_clock s

/-- A command that is no reset moves the counter only where it ends stage 2. -/
theorem exec_mayStart (i : Instr) (h : resets i = false) : MayStart s (exec i s) := by
  cases hm : movesClock i with
  | false => exact fun t e => .inl (exec_keepsClock s i hm t e)
  | true =>
    unfold movesClock at hm
    split at hm
    · exact execSyncListenEnd_mayStart s _
    · exact execSyncFrameRx_mayStart s _ _ _
    · rw [h] at hm
      cases hm

/-- A reset or a shutdown keeps the counter or stops it at 0. -/
theorem exec_mayStop (i : Instr) (h : resets i = true) : MayStop s (exec i s) := by
  unfold resets at h
  split at h
  · exact execPowerOn_mayStop s _
  · exact execPwrOkLow_mayStop s _
  · exact execPerst_mayStop s _
  · exact execChipReset_mayStop s _ _ _
  · exact execThermalRestart_mayStop s _ _
  · exact execSensorWindow_mayStop s _
  · cases h

end

/-- Settles O57: by the frame of the clock over every command but the resets and the two that end REF_LOCK (R33). -/
theorem nothingMovesTheMeridianInService : Obligations.NothingMovesTheMeridianInService := by
  intro c s t e
  refine ⟨fun hr h2 => ?_, fun hr _ => ?_, fun hr => ?_⟩
  · rcases exec_mayStart s c hr t e with h | ⟨h, -⟩
    · exact clock_eq_iff.1 h
    · rw [h2] at h
      cases h
  · exact (exec_mayStart s c hr t e).imp clock_eq_iff.1 And.right
  · exact (exec_mayStop s c hr t e).imp clock_eq_iff.1 Prod.mk.inj

end Sys2Proof.Laws
end

section
/-!
Loads and stores of the Phitex engine (R78, R79): the bytes that an access reaches, the pointer that it leaves, and the faults of an address that it may not use.
-/
namespace Sys2Proof.Laws

open Sys2Proof Sys2Proof.Machine

/-! ### Bytes (R10, R63) -/

/-- The numbers from `a + b` are those from `b`, moved by `a`. -/
theorem upFrom_add (a b n : Nat) : upFrom (a + b) n = (upFrom b n).map (a + ·) := by
  induction n generalizing b with
  | zero => rfl
  | succ n ih => rw [upFrom, upFrom, List.map_cons, Nat.add_assoc, ih]

/-- The bytes of a memory from `a`, by their distance from `a`. -/
theorem rdBytes_eq_map (d : Nat → Byte) (m : List (Nat × Byte)) (a n : Nat) : rdBytes d m a n = (upFrom 0 n).map (fun k => Tbl.get d m (a + k)) := by
  rw [rdBytes, ← Nat.add_zero a, upFrom_add, List.map_map]
  rfl

/-- Byte `k` of an access at `a` to the data memory of cell `g`: DM_CONST below 0x1000, DM_WORK above (R63). -/
def dmByte (m : Mems) (g a k : Nat) : Byte :=
  if a < 0x1000 then Tbl.get zeroByte m.dmcA (g * 4096 + (a + k)) else Tbl.get zeroByte m.dmw (g * 4096 + (a + k - 0x1000))

/-- A read of the data memory is the little-endian value of its bytes. -/
theorem dmRead_eq (m : Mems) (g a n : Nat) : dmRead m g a n = fromLE ((upFrom 0 n).map (dmByte m g a)) := by
  unfold dmRead rdN
  split
  · next h =>
    rw [rdBytes_eq_map]
    exact congrArg fromLE (List.map_congr_left fun k _ => by rw [dmByte, if_pos h, Nat.add_assoc])
  · next h =>
    rw [rdBytes_eq_map]
    refine congrArg fromLE (List.map_congr_left fun k _ => ?_)
    rw [dmByte, if_neg h, show g * 4096 + (a - 0x1000) + k = g * 4096 + (a + k - 0x1000) by omega]

/-- A store writes its bytes into DM_WORK. -/
theorem dmWrite_wrote {m : Mems} (g a n v : Nat) (h : m.wf = true) :
    Wrote zeroByte m.dmw (dmWrite m g a n v).dmw (g * 4096 + (a - 0x1000)) (toLE n v) :=
  have ⟨_, _, _, _, _, _, _, _, hw, _⟩ := (mems_wf m).1 h
  fun x => get_wrBytes _ _ x hw

/-! ### Faults and pointers (R78, R79) -/

/-- A load is good at an aligned address below 0x2000. -/
theorem dmFaults_load {a n : Nat} (hm : a % n = 0) (hr : a < 0x2000) : dmFaults a n false = [] := by
  simp [dmFaults, hm, hr]

/-- A store is good at an aligned address of DM_WORK. -/
theorem dmFaults_store {a n : Nat} (hm : a % n = 0) (hr : 0x1000 ≤ a ∧ a < 0x2000) : dmFaults a n true = [] := by
  simp [dmFaults, hm, hr]

/-- The faults of a load: DM_RANGE from 0x2000 on, ALIGN at a misaligned address. -/
theorem dmFaults_load_eq (a n : Nat) : dmFaults a n false = (if 0x2000 ≤ a then [4] else []) ++ (if a % n ≠ 0 then [5] else []) := by
  simp [dmFaults]

/-- The faults of a store: DM_RANGE outside DM_WORK, ALIGN at a misaligned address. -/
theorem dmFaults_store_eq (a n : Nat) :
    dmFaults a n true = (if ¬ (0x1000 ≤ a ∧ a < 0x2000) then [4] else []) ++ (if a % n ≠ 0 then [5] else []) := by
  have e : (0x2000 ≤ a ∨ a < 0x1000) ↔ ¬ (0x1000 ≤ a ∧ a < 0x2000) := by omega
  simp only [dmFaults, true_and, e]

/-- Codes listed each under its condition are none only if neither condition holds. -/
theorem codes_ne_nil {p q : Prop} [Decidable p] [Decidable q] (h : q ∨ p) : (if p then [4] else []) ++ (if q then [5] else []) ≠ ([] : List Nat) := by
  rcases h with h | h <;> simp [h]

/-- A legal load or store names an offset register M0-M7 (R494). -/
theorem bb_lt_of_legal {b : Bndl} (h : slotBLegal b = true) (ho : b.opb ∈ [0x10, 0x11, 0x12, 0x13]) : b.bb < 8 := by
  simp only [List.mem_cons, List.not_mem_nil, or_false] at ho
  rcases ho with ho | ho | ho | ho <;> simp [slotBLegal, ho] at h <;> omega

/-- The pointer that an access through `P[a]` with the offset `M[b]` leaves (R79). -/
def nextPtr (p : Phx) (b : Bndl) : PWrite :=
  .p b.ba (BitVec.ofNat 16 (postModify (p.rP b.ba).toNat (p.rM b.bb).toInt (p.rL b.ba).toNat))

theorem ptrUpdate_eq {s : State} {g : Nat} {b : Bndl} (h : AtBundle g b s) (ho : b.opb ∈ [0x10, 0x11, 0x12, 0x13]) (p : Phx) : ptrUpdate p b = nextPtr p b := by
  rw [ptrUpdate, Nat.mod_eq_of_lt (bb_lt_of_legal (legal_slots h).2 ho), nextPtr]

/-! ### Loads and stores -/

/-- A read of a word without an error leaves no trace (R65). -/
theorem eccRead_clean {c : Core} {m : Mems} {k x : Nat} (h : flawAt m k x = none) (g : Nat) : c.eccRead m g k x = (c, true) := by
  rw [Core.eccRead, h]

/-- What slot B did is seen in the core alone. -/
theorem slotBIssued_withMem {s t : State} {g : Nat} {ws : List PEntry} {nx : PNext} {f : Phx → Phx} {xs : List Fld} (h : SlotBIssued g ws nx f xs s t)
    (m : Mems) : SlotBIssued g ws nx f xs s { t with mem := m } := h

/-- The address that bundle `b` of cell `g` accesses: its pointer as it stands (R79). -/
abbrev accessAt (s : State) (g : Nat) (b : Bndl) : Nat := ((s.core.cell g).phx.rP b.ba).toNat

/-- What slot B makes of an access with the faults `codes`: the results `ws` at the latency of a load, or the fault of the cell (R78, R80). -/
def accessOut (codes : List Nat) (ws : List PWrite) : BOut := if codes.isEmpty then BOut.res 3 ws else BOut.bad codes

theorem accessOut_nil (ws : List PWrite) : accessOut [] ws = { ws := inFlight 3 ws, nx := .on, fault := [] } := rfl

@[simp] theorem accessOut_fault (codes : List Nat) (ws : List PWrite) : (accessOut codes ws).fault = codes := by
  cases codes <;> rfl

section
variable {s : State} {g op n : Nat} {b : Bndl} (h : AtBundle g b s) (ha : (s.core.cell g).phx.aDone = true ∨ b.opa = 0) (ho : b.opb = op)
include h

/-- A load is slot B with the outcome of its address, and then the count of a corrected error in the word that it reads (R65). -/
theorem load_eq (f : Bndl → Nat → PWrite) : s.core.load s.mem g op n f =
    s.core.slotB s.mem g op
      (fun _ b p => accessOut (dmFaults (p.rP b.ba).toNat n false) [ptrUpdate p b, f b (dmRead s.mem g (p.rP b.ba).toNat n)])
      (fun c _ => (c.eccRead s.mem g 2 (g * 512 + accessAt s g b / 16)).1) := by
  obtain ⟨-, -, hb, -⟩ := h
  rw [accessAt, ← hb]
  rfl

include ha ho

/-- A load at an address that it may use issues with its pointer and its value in flight. -/
theorem load_done (hop : op ∈ [0x10, 0x11, 0x12, 0x13]) (f : Bndl → Nat → PWrite) (hm : accessAt s g b % n = 0) (hr : accessAt s g b < 0x2000)
    (he : flawAt s.mem 2 (g * 512 + accessAt s g b / 16) = none) :
    BundleDone g (inFlight 3 [nextPtr (s.core.cell g).phx b, f b (fromLE ((upFrom 0 n).map (dmByte s.mem g (accessAt s g b))))]) s
      { s with core := s.core.load s.mem g op n f } := by
  refine ⟨?_, rfl⟩
  simp only [load_eq h, eccRead_clean he]
  refine slotB_done h ha ho ?_
  rw [← accessAt, dmFaults_load hm hr, accessOut_nil, ptrUpdate_eq h (ho ▸ hop), dmRead_eq]

/-- A load at any other address faults the cell. -/
theorem load_faults (f : Bndl → Nat → PWrite) (hx : accessAt s g b % n ≠ 0 ∨ 0x2000 ≤ accessAt s g b) :
    s.core.load s.mem g op n f = bundleFault s g ((if 0x2000 ≤ accessAt s g b then [4] else []) ++ (if accessAt s g b % n ≠ 0 then [5] else [])) := by
  rw [load_eq h, ← dmFaults_load_eq]
  exact slotB_faults h ha ho (accessOut_fault _ _) (dmFaults_load_eq _ _ ▸ codes_ne_nil hx)

/-- A store is slot B with the outcome of its address; the bytes go into the memory if that is no fault. -/
theorem storeOp_eq (f : Bndl → Phx → Nat) : storeOp s.mem s.core g op n f =
    (if (dmFaults (accessAt s g b) n true).isEmpty then dmWrite s.mem g (accessAt s g b) n (f b (s.core.cell g).phx) else s.mem,
     s.core.slotB s.mem g op (fun _ q p => accessOut (dmFaults (accessAt s g b) n true) [ptrUpdate p q]) (fun c _ => c)) := by
  obtain ⟨hon, hpc, hb, hl, hf, -⟩ := h
  have hs : ((s.core.cell g).phx.aDone || b.opa == 0) = true := by simpa using ha
  have hn : ((none : Option Bool) != some true) = true := rfl
  simp only [storeOp, hb, runs_of_on hon, hpc, hl, hf, ho, hs, hn, decide_true, Bool.not_false, Bool.true_and, beq_self_eq_true, Bool.and_true]
  rfl

/-- A store at an address of DM_WORK that it may use issues with its pointer in flight, its bytes in the memory at once. -/
theorem store_done (hop : op ∈ [0x10, 0x11, 0x12, 0x13]) (f : Bndl → Phx → Nat) (hm : accessAt s g b % n = 0)
    (hr : 0x1000 ≤ accessAt s g b ∧ accessAt s g b < 0x2000) (hw : Inv s) {i : Instr} (e : exec i s = s.onBoth (fun m c => storeOp m c g op n f)) :
    Completes i s (fun t => SlotBIssued g (inFlight 3 [nextPtr (s.core.cell g).phx b]) .on id [] s t ∧
      Wrote zeroByte s.mem.dmw t.mem.dmw (g * 4096 + (accessAt s g b - 0x1000)) (toLE n (f b (s.core.cell g).phx)) ∧ t.mem = { s.mem with dmw := t.mem.dmw }) := by
  refine completes_onBoth e ?_
  rw [storeOp_eq h ha ho, dmFaults_store hm hr]
  refine ⟨slotBIssued_withMem (slotB_done h ha ho ?_) _, dmWrite_wrote _ _ _ _ hw, rfl⟩
  rw [accessOut_nil, ptrUpdate_eq h (ho ▸ hop)]

/-- A store at any other address faults the cell and changes no memory. -/
theorem store_faults (f : Bndl → Phx → Nat) (hx : accessAt s g b % n ≠ 0 ∨ ¬ (0x1000 ≤ accessAt s g b ∧ accessAt s g b < 0x2000)) :
    storeOp s.mem s.core g op n f = (s.mem, bundleFault s g
      ((if ¬ (0x1000 ≤ accessAt s g b ∧ accessAt s g b < 0x2000) then [4] else []) ++ (if accessAt s g b % n ≠ 0 then [5] else []))) := by
  have hc : dmFaults (accessAt s g b) n true ≠ [] := dmFaults_store_eq _ _ ▸ codes_ne_nil hx
  rw [storeOp_eq h ha ho, if_neg (by simpa using hc), slotB_faults h ha ho (accessOut_fault _ _) hc, dmFaults_store_eq]

end

/-! ### The four instructions -/

theorem exec_ld (g : Nat) (s : State) : exec (.phxLd g) s = s.onCore (fun m c => c.load m g 0x10 4 (fun b v => .s b.bd (BitVec.ofNat 32 v))) := rfl
theorem exec_ldv (g : Nat) (s : State) : exec (.phxLdv g) s = s.onCore (fun m c => c.load m g 0x12 16 (fun b v => .v b.bd (BitVec.ofNat 128 v))) := rfl
theorem exec_st (g : Nat) (s : State) : exec (.phxSt g) s = s.onBoth (fun m c => storeOp m c g 0x11 4 (fun b p => (p.rS b.bd).toNat)) := rfl
theorem exec_stv (g : Nat) (s : State) : exec (.phxStv g) s = s.onBoth (fun m c => storeOp m c g 0x13 16 (fun b p => (p.rV b.bd).toNat)) := rfl

/-- Settles O52: each instruction is one `load` or one `storeOp`, and slot B has the outcome that the faults of its address decide (R78-R80, R90). -/
theorem loadsAndStoresUseTheirPointer : Obligations.LoadsAndStoresUseTheirPointer := by
  refine ⟨fun _ _ _ => rfl, fun s g b h ha => ⟨?_, ?_, ?_, ?_, ?_, ?_, ?_, ?_⟩⟩
  · exact fun ho hm hr he => completes_onCore (exec_ld g s) (load_done h ha ho (by decide) _ hm hr he)
  · exact fun ho hm hr he => completes_onCore (exec_ldv g s) (load_done h ha ho (by decide) _ hm hr he)
  · exact fun ho hm hr hw => store_done h ha ho (by decide) (fun b p => (p.rS b.bd).toNat) hm hr hw (exec_st g s)
  · exact fun ho hm hr hw => store_done h ha ho (by decide) (fun b p => (p.rV b.bd).toNat) hm hr hw (exec_stv g s)
  · exact fun ho hx => gives_onCore (exec_ld g s) (load_faults h ha ho _ hx)
  · exact fun ho hx => gives_onCore (exec_ldv g s) (load_faults h ha ho _ hx)
  · exact fun ho hx => gives_onBoth (exec_st g s) (store_faults h ha ho _ hx)
  · exact fun ho hx => gives_onBoth (exec_stv g s) (store_faults h ha ho _ hx)

end Sys2Proof.Laws
end

section
/-!
PPS_IN (R387): the stamp of an instant in a tick (R379), the registers that an edge writes, and the event that it raises.
-/
namespace Sys2Proof.Laws

open Sys2Proof Sys2Proof.Machine

/-- The stamp of nanosecond `ns` of tick `t`: two nanoseconds to the tick, and the whole nanoseconds of OFF (R379). -/
theorem stampAt_ns (c : Core) (t : Nat) {ns : Nat} (h : ns < 2) :
    (c.stampAt (t * 8 + ns * 4) : Int) = ((2 * t + ns : Nat) + c.offAt t / 2 ^ 32) % 2 ^ 32 := by
  have hq : (t * 8 + ns * 4) / 8 = t := by omega
  have hf : floorShr (c.ntAt (t * 8 + ns * 4)) 32 = (2 * t + ns : Nat) + c.offAt t / 2 ^ 32 := by
    rw [floorShr, Core.ntAt, hq]
    omega
  rw [Core.stampAt, hf, twos]
  omega

/-- A one-bit field is set when it reads 1. -/
theorem on_eq_decide (c : Core) {x : Fld} (hx : x.w = 1) : c.on x = decide (c.get x = 1) := by
  have h := get_lt c x
  rw [hx] at h
  rcases (show c.get x = 0 ∨ c.get x = 1 by omega) with e | e <;> simp [e]

/-- An event joins the queue and changes nothing else (R294). -/
theorem raiseIf_eq (c : Core) (q : Bool) (code level index : Nat) {a b : Nat} (ha : a < 2 ^ 64) (hb : b < 2 ^ 64) :
    c.raiseIf q code level index a b = { c with host := { c.host with
      evq := c.host.evq ++ if q then [{ code := code, level := level, index := index, stamp := c.now, arg0 := a, arg1 := b }] else [] } } := by
  cases q with
  | true => simp only [Core.raiseIf, Core.raise, if_true, Nat.mod_eq_of_lt ha, Nat.mod_eq_of_lt hb]
  | false => simp only [Core.raiseIf, Bool.false_eq_true, if_false, List.append_nil]

/-! ### The registers of an edge -/

/-- An edge with the stamp `x` in the registers of R389: TPT_PPS_IN_NS, TPT_PPS_IN_CNT and IN_SEEN. -/
def edgeSeen (c : Core) (x : Nat) : Core :=
  ((c.put Fd.TPT_PPS_IN_NS_NS x).inc Fd.TPT_PPS_IN_CNT_EDGES 1).put Fd.TPT_STS_IN_SEEN 1

/-- The edges counted after one more: the counter saturates (R389). -/
def edgesAfter (c : Core) : Nat := min 0xFFFFFFFF (c.get Fd.TPT_PPS_IN_CNT_EDGES + 1)

section
variable (c : Core) (x : Nat)

theorem edgeSeen_ns (hx : x < 2 ^ 32) : (edgeSeen c x).get Fd.TPT_PPS_IN_NS_NS = x := by
  rw [edgeSeen, inc_eq, get_put_other _ _ _ _ (by decide) (by decide), get_put_other _ _ _ _ (by decide) (by decide), get_put_same _ _ _ (by decide)]
  exact Nat.mod_eq_of_lt hx

theorem edgeSeen_edges : (edgeSeen c x).get Fd.TPT_PPS_IN_CNT_EDGES = edgesAfter c := by
  rw [edgeSeen, inc_eq, get_put_other _ _ _ _ (by decide) (by decide), get_put_same _ _ _ (by decide), get_put_other _ _ _ _ (by decide) (by decide)]
  exact Nat.mod_eq_of_lt (Nat.lt_succ_of_le (Nat.min_le_left _ _))

theorem edgeSeen_seen : (edgeSeen c x).get Fd.TPT_STS_IN_SEEN = 1 := get_put_same _ _ _ (by decide)

theorem edgeSeen_keepsRegs : KeepsRegs [Fd.TPT_PPS_IN_NS_NS, Fd.TPT_PPS_IN_CNT_EDGES, Fd.TPT_STS_IN_SEEN] c (edgeSeen c x) :=
  KeepsRegs.put _ (by decide) (by simp) (KeepsRegs.put _ (by decide) (by simp) (KeepsRegs.put _ (by decide) (by simp) (keepsRegs_refl _ c)))

end

/-! ### The edge -/

/-- The stamp of an edge in nanosecond `ns` of this tick (R387). -/
def edgeStamp (c : Core) (ns : Nat) : Nat := c.stampAt (c.now * 8 + ns % 2 * 4)

theorem edgeStamp_lt (c : Core) (ns : Nat) : edgeStamp c ns < 2 ^ 32 := by
  rw [edgeStamp, Core.stampAt, twos]
  omega

/-- What EV_TIME_PPS adds to the queue of events: the stamp and the count, with PPS_EV = 1 (R387, R390). -/
def edgeEvents (c : Core) (ns : Nat) : List Evt :=
  if c.get Fd.TPT_CFG_PPS_EV = 1 then [{ code := 0x73, level := 0, index := 0, stamp := c.now, arg0 := edgeStamp c ns, arg1 := edgesAfter c }] else []

/-- An edge in service, with IN_EN = 1, is seen and raises its event as the registers then stand. -/
theorem exec_ppsIn (ns : Nat) (s : State) : exec (.ppsIn ns) s = s.onCore (fun _ c =>
    if !c.svc || !c.on Fd.TPT_PPS_CFG_IN_EN then c
    else (edgeSeen c (edgeStamp c ns)).raiseIf ((edgeSeen c (edgeStamp c ns)).on Fd.TPT_CFG_PPS_EV) 0x73 0 0 (edgeStamp c ns)
      ((edgeSeen c (edgeStamp c ns)).get Fd.TPT_PPS_IN_CNT_EDGES)) := rfl

/-- With IN_EN = 0 an edge does nothing. -/
theorem ppsIn_disabled {s : State} (ns : Nat) (h : s.core.get Fd.TPT_PPS_CFG_IN_EN = 0) : Gives (.ppsIn ns) s s.core := by
  refine gives_onCore (exec_ppsIn ns s) (if_pos ?_)
  simp [h]

/-- With IN_EN = 1 an edge is seen in its registers and its event joins the queue. -/
theorem ppsIn_enabled {s : State} (ns : Nat) (hs : s.core.svc = true) (h : s.core.get Fd.TPT_PPS_CFG_IN_EN = 1) :
    Gives (.ppsIn ns) s { edgeSeen s.core (edgeStamp s.core ns) with
      host := { s.core.host with evq := s.core.host.evq ++ edgeEvents s.core ns } } := by
  have he : (edgeSeen s.core (edgeStamp s.core ns)).get Fd.TPT_CFG_PPS_EV = s.core.get Fd.TPT_CFG_PPS_EV :=
    (edgeSeen_keepsRegs _ _ _ (by decide)).1
  have hn : edgesAfter s.core < 2 ^ 64 := lt_of_le_of_lt (Nat.min_le_left _ _) (by decide)
  refine gives_onCore (exec_ppsIn ns s) ((if_neg (by simp [hs, h])).trans ?_)
  rw [edgeSeen_edges, on_eq_decide _ rfl, he, raiseIf_eq _ _ _ _ _ ((edgeStamp_lt _ _).trans (by decide)) hn]
  simp only [decide_eq_true_eq]
  rfl

/-- Settles O59: the edge writes its three registers and the queue of events, with the stamp of its nanosecond (R379, R387). -/
theorem edgesOnPpsInAreStamped : Obligations.EdgesOnPpsInAreStamped := by
  intro s ns hs hns
  refine ⟨fun h => ⟨_, ppsIn_enabled ns hs h, ?_⟩, ppsIn_disabled ns⟩
  have hx : (edgeStamp s.core ns : Int) = ((2 * s.core.now + ns : Nat) + s.core.offAt s.core.now / 2 ^ 32) % 2 ^ 32 := by
    rw [edgeStamp, Nat.mod_eq_of_lt hns, stampAt_ns _ _ hns]
  simp only [← hx, Int.toNat_natCast]
  refine ⟨congrArg _ (edgeSeen_ns _ _ (edgeStamp_lt _ _)), edgeSeen_edges _ _, edgeSeen_seen _ _, rfl, KeepsRegs.of_regs (edgeSeen_keepsRegs _ _) rfl rfl rfl, rfl⟩

end Sys2Proof.Laws
end
